-- ==== Sys2Proof/Word.lean ====
section
/-! DEFINITION. The word types of the Barnen 7260 (00_scope.md R4, 03_control.md R70). -/

namespace Sys2Proof

/-- One byte of memory. -/
abbrev Byte := BitVec 8
/-- One 32-bit word: a lane register, a uniform register, an instruction word. -/
abbrev Word := BitVec 32
/-- One 64-bit value: an address, a register pair (low word in the even register, R4). -/
abbrev DWord := BitVec 64

end Sys2Proof
end

