-- ==== Sys2Proof/Config.lean ====
section
/-! DEFINITION. What an implementation fixes and the values the manual leaves open. Each opaque constant has no
body: nothing can evaluate it, so a statement that holds of the model holds for every value of it. -/

namespace Sys2Proof.Config

/-- The n-th undefined value of 00_scope.md R8 (log entry 2). State.fresh counts the uses. -/
opaque freeWord : Nat → Word

/-- The energy in nJ that the n-th core cycle's events of a resident block are calibrated to (14_scheduling.md R333 gives
no figure; log entry 9). -/
opaque charge : Nat → Nat → Nat

/-- The overhead in nJ of die n mod 4 in core cycle n div 4, drawn from the reservoir (14 R333; log entry 9). -/
opaque overhead : Nat → Nat

/-- The compressed length, in 64-byte units, of a page demoted with the given serial number (19_outside.md R451; log entry
16). -/
opaque compressedUnits : Nat → Nat

/-- The session key a device derives for a Silaz session from the secure session and the session number (19 R439;
log entry 22). -/
opaque sessionKey : Nat → Nat → Nat

/-- Bytes of a placed stack that the manual calls undefined values (03 R87 entries at or above DEPTH), by serial
number. -/
opaque freeByte : Nat → Byte

/-- Number of CXL capacity pages of 4 KiB installed (01_machine.md R20: "above the capacity actually installed"); at most
8 TiB. -/
opaque capacityPages : Nat

/-- The size in bytes of the capacity-tier address space that is installed is fixed per module. -/
def capacityBytes : Nat := (capacityPages % 2147483649) * 4096

/-- What the in-field test of the n-th undefined value's start-up finds of a core: none where it fails, else its failing channels
(19_outside.md R446; 00_scope.md R1; log entry 4). -/
opaque inField : Nat → Nat → Option (BitVec 10)

/-- The step 1 to 6 that such a start-up fails in, modulo 7; 0: none (19 R446; log entry 4). -/
opaque startUp : Nat → Nat

/-- The SHA-384 measurements of the firmware images in load order, as one number (19 R446 step 2): the images are not the manual's (log entry 39). -/
opaque imageMeasurements : Nat

/-- Highest representable device index plus one (19 R441). -/
def domainSize : Nat := 1024

end Sys2Proof.Config
end

