-- ==== Sys2Proof/Machine/Cells.lean ====
section
/-! DEFINITION. Lists of key and value in strictly ascending key order: the one form of every sparse map of State,
device memory among them. A map with a default stores no entry equal to it, so equal maps are equal lists. -/

namespace Sys2Proof.Machine.Cells

variable {α : Type}

/-- The value at a key, if any is stored. -/
def get? (k : Nat) : List (Nat × α) → Option α
  | [] => none
  | (j, a) :: m => if j = k then some a else get? k m

/-- The value at a key, or the default. -/
def getD (k : Nat) (d : α) (m : List (Nat × α)) : α := (get? k m).getD d

/-- Store a value at a key, keeping the order. -/
def set (k : Nat) (a : α) : List (Nat × α) → List (Nat × α)
  | [] => [(k, a)]
  | (j, b) :: m => if k < j then (k, a) :: (j, b) :: m else if k = j then (k, a) :: m else (j, b) :: set k a m

/-- Remove a key. -/
def erase (k : Nat) (m : List (Nat × α)) : List (Nat × α) := m.filter fun e => e.1 != k

/-- Store a value in a map with a default: the default itself is not stored. -/
def put [DecidableEq α] (d : α) (k : Nat) (a : α) (m : List (Nat × α)) : List (Nat × α) :=
  if a = d then erase k m else set k a m

/-- Keys rise strictly. -/
def sorted : List (Nat × α) → Bool
  | [] => true
  | [_] => true
  | (j, _) :: (k, b) :: m => decide (j < k) && sorted ((k, b) :: m)

/-- The canonical form of a map with a default: keys rise strictly and no entry holds the default. -/
def wf [DecidableEq α] (d : α) (m : List (Nat × α)) : Bool := sorted m && m.all fun e => decide (e.2 ≠ d)

/-- Insert a number into an ascending list without repeats. -/
def insert (k : Nat) : List Nat → List Nat
  | [] => [k]
  | j :: m => if k < j then k :: j :: m else if k = j then j :: m else j :: insert k m

/-- Remove a number. -/
def remove (k : Nat) (m : List Nat) : List Nat := m.filter (· != k)

/-- Drop the entries of a key range [lo, hi). -/
def dropRange (lo hi : Nat) (m : List (Nat × α)) : List (Nat × α) := m.filter fun e => !(lo ≤ e.1 && e.1 < hi)

/-- The entries of a key range [lo, hi). -/
def range (lo hi : Nat) (m : List (Nat × α)) : List (Nat × α) := m.filter fun e => lo ≤ e.1 && e.1 < hi

end Sys2Proof.Machine.Cells
end

