-- ==== Sys2Proof/Machine/Crypto.lean ====
section
/-! DEFINITION. CRC-32C (13_engines.md R305) and AES-256 in XTS mode (17_system.md R403, 19_outside.md R448). -/

namespace Sys2Proof.Machine

/-! CRC-32C: polynomial 0x1EDC6F41 processed bit-reflected, initial register and final XOR all ones. -/

/-- One reflected bit step of the CRC register. -/
def crcBit (r : Nat) : Nat := if r % 2 = 1 then (r / 2) ^^^ 0x82F63B78 else r / 2

/-- Fold one byte into the CRC register. -/
def crcByte (r b : Nat) : Nat :=
  crcBit (crcBit (crcBit (crcBit (crcBit (crcBit (crcBit (crcBit (r ^^^ b))))))))

/-- Continue a finished CRC value over more bytes (R305: each record continues from the previous value). -/
def crc32cFrom (value : Nat) (bs : List Byte) : Nat :=
  (bs.foldl (fun r b => crcByte r b.toNat) (value ^^^ 0xFFFFFFFF)) ^^^ 0xFFFFFFFF

/-- CRC-32C of a list of bytes. -/
def crc32c (bs : List Byte) : Nat := crc32cFrom 0 bs

/-! AES (FIPS 197) on lists of bytes as numbers, column by column. -/

/-- Multiply by x in GF(2^8). -/
def xtime (a : Nat) : Nat := if a ≥ 128 then ((a * 2) ^^^ 0x11B) % 256 else a * 2

/-- Multiplication in GF(2^8), bit by bit of the second factor. -/
def gfMul (a b : Nat) : Nat :=
  let go (acc : Nat × Nat) (i : Nat) : Nat × Nat :=
    (if b / 2 ^ i % 2 = 1 then acc.1 ^^^ acc.2 else acc.1, xtime acc.2)
  ([0, 1, 2, 3, 4, 5, 6, 7].foldl go (0, a)).1

/-- The inverse in GF(2^8): the 254th power, 0 for 0. -/
def gfInv (a : Nat) : Nat :=
  let a2 := gfMul a a
  let a4 := gfMul a2 a2
  let a8 := gfMul a4 a4
  let a16 := gfMul a8 a8
  let a32 := gfMul a16 a16
  let a64 := gfMul a32 a32
  let a128 := gfMul a64 a64
  gfMul a2 (gfMul a4 (gfMul a8 (gfMul a16 (gfMul a32 (gfMul a64 a128)))))

/-- Rotate a byte left. -/
def rotl8 (a n : Nat) : Nat := (a * 2 ^ n) % 256 + a / 2 ^ (8 - n)

/-- The S-box. -/
def aesSub (a : Nat) : Nat :=
  let b := gfInv a
  b ^^^ rotl8 b 1 ^^^ rotl8 b 2 ^^^ rotl8 b 3 ^^^ rotl8 b 4 ^^^ 0x63

/-- The inverse S-box. -/
def aesInvSub (a : Nat) : Nat := gfInv (rotl8 a 1 ^^^ rotl8 a 3 ^^^ rotl8 a 6 ^^^ 5)

/-- Byte i of a list of numbers. -/
def nth (l : List Nat) (i : Nat) : Nat := l.getD i 0

/-- XOR of two lists of bytes. -/
def xorL (a b : List Nat) : List Nat := List.zipWith (· ^^^ ·) a b

/-- The 60 words of the AES-256 key schedule, newest first while being built. -/
def aesExpand : Nat → List (List Nat) → List (List Nat)
  | 0, ws => ws
  | n + 1, ws =>
    let i := 60 - (n + 1)
    let prev := ws.headD []
    let old := ws.getD 7 []
    let t :=
      if i % 8 = 0 then
        xorL [aesSub (nth prev 1), aesSub (nth prev 2), aesSub (nth prev 3), aesSub (nth prev 0)]
          [2 ^ (i / 8 - 1) % 256, 0, 0, 0]
      else if i % 8 = 4 then prev.map aesSub
      else prev
    aesExpand n (xorL old t :: ws)

/-- Split a list into words of four bytes. -/
def words4 : List Nat → List (List Nat)
  | a :: b :: c :: d :: r => [a, b, c, d] :: words4 r
  | _ => []

/-- The round keys of AES-256, 15 of 16 bytes, in order. -/
def aesKeys (key : List Nat) : List (List Nat) :=
  let ws := (aesExpand 52 (words4 key).reverse).reverse
  (List.range 15).map fun r =>
    ws.getD (4 * r) [] ++ ws.getD (4 * r + 1) [] ++ ws.getD (4 * r + 2) [] ++ ws.getD (4 * r + 3) []

/-- ShiftRows, and its inverse with the other direction. -/
def aesShift (st : List Nat) (dir : Nat) : List Nat :=
  (List.range 16).map fun i => nth st ((4 * ((i / 4 + dir * (i % 4)) % 4)) + i % 4)

/-- MixColumns with the four coefficients of its row. -/
def aesMix (st : List Nat) (c0 c1 c2 c3 : Nat) : List Nat :=
  (List.range 16).map fun i =>
    let col := 4 * (i / 4)
    let r := i % 4
    gfMul (nth st (col + r)) c0 ^^^ gfMul (nth st (col + (r + 1) % 4)) c1 ^^^
      gfMul (nth st (col + (r + 2) % 4)) c2 ^^^ gfMul (nth st (col + (r + 3) % 4)) c3

/-- AES-256 encryption of one block of 16 bytes. -/
def aesEncrypt (key blk : List Nat) : List Nat :=
  let ks := aesKeys key
  let st0 := xorL blk (ks.headD [])
  let st := ((ks.drop 1).take 13).foldl (fun st k => xorL (aesMix (aesShift (st.map aesSub) 1) 2 3 1 1) k) st0
  xorL (aesShift (st.map aesSub) 1) (ks.getD 14 [])

/-- AES-256 decryption of one block of 16 bytes. -/
def aesDecrypt (key blk : List Nat) : List Nat :=
  let ks := (aesKeys key).reverse
  let st0 := (aesShift (xorL blk (ks.headD [])) 3).map aesInvSub
  let st := ((ks.drop 1).take 13).foldl
    (fun st k => (aesShift (aesMix (xorL st k) 14 11 13 9) 3).map aesInvSub) st0
  xorL st (ks.getD 14 [])

/-- The bytes of a number, least significant first. -/
def natBytes : Nat → Nat → List Nat
  | 0, _ => []
  | n + 1, v => v % 256 :: natBytes n (v / 256)

/-- The XTS tweak block of the 16-byte unit at a physical address: AES of the address under the tweak key. -/
def xtsTweak (tweakKey pa : Nat) : List Nat := aesEncrypt (natBytes 32 tweakKey) (natBytes 16 (pa / 16 * 16))

/-- Encrypt one 16-byte unit (R403). -/
def xtsEncrypt (dataKey tweakKey pa : Nat) (unit : List Nat) : List Nat :=
  let t := xtsTweak tweakKey pa
  xorL (aesEncrypt (natBytes 32 dataKey) (xorL unit t)) t

/-- Decrypt one 16-byte unit (R403). -/
def xtsDecrypt (dataKey tweakKey pa : Nat) (unit : List Nat) : List Nat :=
  let t := xtsTweak tweakKey pa
  xorL (aesDecrypt (natBytes 32 dataKey) (xorL unit t)) t

end Sys2Proof.Machine
end

