-- ==== Sys2Proof/Syntax.lean ====
section
/-! DEFINITION. The syntax of the 7260: operands, coded fields, and the one inductive Instr whose
constructors are the rows of the opcode table. A word row carries the fields of its word (02_encoding.md
R34 to R39); an event row (it has no word) carries what names its occurrence. -/

namespace Sys2Proof

/-- A lane operand code, every one of the 256 codes (02 R38). -/
inductive LReg where
  | v (n : Fin 224)
  | q (n : Fin 8)
  | o (n : Fin 8)
  | x
  | zero
  | tid
  | resv (n : Fin 5)
  | s (n : Fin 8)
deriving DecidableEq, Repr

/-- A uniform operand code, every one of the 128 codes (02 R36). -/
inductive UReg where
  | s (n : Fin 64)
  | zero
  | resv (n : Fin 63)
deriving DecidableEq, Repr

/-- Scopes of 07 R176. -/
inductive Scope where | core | die | pkg | dom | sys
deriving DecidableEq, Repr

/-- Cache hints h of 02 R35. -/
inductive Hint where | normal | once | keep | nol1
deriving DecidableEq, Repr

/-- Access sizes of LO and ATOM words (02 R35, 07 R185). -/
inductive Width where | w32 | w64
deriving DecidableEq, Repr

/-- Rounding modes (05 R132). -/
inductive Rnd where | rn | rz | rd | ru
deriving DecidableEq, Repr

/-- SETP conditions (02 R56). -/
inductive Cond where
  | eq | ne | ltI | leI | gtI | geI
  | ltW | leW | gtW | geW
  | eqP | neP | ltP | leP | gtP | geP
  | ltPW | lePW | gtPW | gePW
  | eqF | neF | ltF | leF | gtF | geF | nanF
deriving DecidableEq, Repr

/-- SCMP conditions (04 R124). -/
inductive SCond where
  | eq | ne | ltI | leI | ltW | leW | eq64 | ne64 | ltI64 | leI64 | ltW64 | leW64
deriving DecidableEq, Repr

/-- UM sizes (04 R125). -/
inductive USize where | w8 | w16 | w32 | w64 | i8 | i16
deriving DecidableEq, Repr

/-- FCVT kinds (05 R143). -/
inductive CvtKind where
  | f32f16 | f32bf16 | f32e4m3 | f32e5m2 | f16f32 | bf16f32 | h2f32 | b2f32
  | e4m3f32 | e5m2f32 | e4m3e5m2
deriving DecidableEq, Repr

/-- FCVTI integer types (05 R145). -/
inductive IntType where | i32 | w32 | i16 | w16 | i8 | w8 | i64 | w64
deriving DecidableEq, Repr

/-- ICVTF source types (05 R146). -/
inductive SrcInt where | i32 | w32 | i64 | w64
deriving DecidableEq, Repr

/-- TRED and TSCAN operations (08 R227). -/
inductive RedOp where
  | add | addSat | minI | maxI | minW | maxW | and | or | xor | addF | minF | maxF
deriving DecidableEq, Repr

/-- VOTE modes (08 R228). -/
inductive VoteMode where | all | any | uni | maj | odd
deriving DecidableEq, Repr

/-- ATOM operations (07 R185). -/
inductive AtomOp where
  | add | sub | and | or | xor | minI | maxI | minW | maxW | xchg | inc | dec
deriving DecidableEq, Repr

/-- Order of an atomic (07 R185). -/
inductive AtomOrder where | relaxed | acq | rel | acqrel
deriving DecidableEq, Repr

/-- Use of a relaxed atomic (07 R185, R188). -/
inductive AtomUse where | unp | com | nord | qnt | spec
deriving DecidableEq, Repr

/-- A launch queue as a SUBMIT message of a session names it (14 R325, 19 R439). -/
structure SessionQueue where
  session : Nat
  queue : Nat
deriving DecidableEq, Repr

/-- The literal control word of ATOM and CAS (07 R185); CAS has op 0 only (checked by WellFormed). -/
structure AtomCtl where
  f : Bool
  size : Width
  scope : Scope
  order : AtomOrder
  use : AtomUse
  op : AtomOp
deriving DecidableEq, Repr

/-- Verdict of a replay (17 R409). -/
inductive Verdict where | retry | deliver
deriving DecidableEq, Repr

/-- What a SOFT_ERROR strikes (11 R274, 10 R248; 18 R422 for a twin's signature; 13 R305 for an engine's bytes). -/
inductive SoftTarget where
  | residue (tile ch row col : Nat)
  | bsram (ch row col : Nat)
  | twin (blk tid : Nat)
  | staging (chain byteIndex : Nat)
deriving DecidableEq, Repr

/-- The core SRAM structures of 18 R421, R419. -/
inductive SramKind where | registerCache | scratchpad | l1 | instructionPath | uniformRegisters
deriving DecidableEq, Repr

/-- How a pattern test of Roofwalk ends (18 R426, R427). -/
inductive WalkResult where
  | pass
  | channelFails (core ch : Nat)
  | clusterFails
deriving DecidableEq, Repr

/-- What a peer's access to this device asks (16 R374, 19 R441): a read, a write or an atomic on
memory of a context, or on the scratchpad of a gang member. -/
inductive PeerAccess where
  | read (n : Nat)
  | write (data : List Byte)
  /-- a COPY's bytes with the CRC-32C that the bytes before them gave; the answer holds the CRC after them (13 R305) -/
  | copy (crc : Nat) (data : List Byte)
  | atomic (op : AtomOp) (size : Width) (opnd : Nat)
  | cas (size : Width) (expected opnd : Nat)
deriving DecidableEq, Repr

/-- Where a peer's access lands (16 R372, 13 R296). -/
inductive PeerTarget where
  | ford (gang : Nat) (off : Nat)
  | generic (ctx : Nat) (ea : DWord)
deriving DecidableEq, Repr

/-- One constructor per row of the opcode table, in the table's order. Word rows come first, then events. -/
inductive Instr where
  | clauseHeader (count : BitVec 4) (wait : BitVec 12) (seta : BitVec 4) (setb : BitVec 4) (point : Bool)
  | clauseStart (blk : Nat) (tid : Nat)
  | bra (off : BitVec 24)
  | brp (p : Fin 8) (off : BitVec 21)
  | brn (p : Fin 8) (off : BitVec 21)
  | brx (a : LReg)
  | call (off : BitVec 24)
  | callx (a : LReg)
  | ret
  | exit
  | reconv (n : Fin 8)
  | waitf (mask : BitVec 12)
  | nop
  | bkpt (imm : BitVec 16)
  | mov (d : LReg) (a : LReg)
  | neg (d : LReg) (a : LReg)
  | negSatI32 (d : LReg) (a : LReg)
  | abs (d : LReg) (a : LReg)
  | absSatI32 (d : LReg) (a : LReg)
  | not (d : LReg) (a : LReg)
  | popc (d : LReg) (a : LReg)
  | clz (d : LReg) (a : LReg)
  | ctz (d : LReg) (a : LReg)
  | brev (d : LReg) (a : LReg)
  | cvtiI8 (d : LReg) (a : LReg)
  | cvtiW8 (d : LReg) (a : LReg)
  | cvtiI16 (d : LReg) (a : LReg)
  | cvtiW16 (d : LReg) (a : LReg)
  | cvtiI64 (d : LReg) (a : LReg)
  | cvtiW64 (d : LReg) (a : LReg)
  | cvtiSatI8 (d : LReg) (a : LReg)
  | cvtiSatW8 (d : LReg) (a : LReg)
  | cvtiSatI16 (d : LReg) (a : LReg)
  | cvtiSatW16 (d : LReg) (a : LReg)
  | cvtiSatW32 (d : LReg) (a : LReg)
  | cvtiSatI32 (d : LReg) (a : LReg)
  | setv (d : LReg) (p : Fin 8)
  | add (d : LReg) (a : LReg) (b : LReg)
  | addc (d : LReg) (a : LReg) (b : LReg)
  | sub (d : LReg) (a : LReg) (b : LReg)
  | subb (d : LReg) (a : LReg) (b : LReg)
  | mullo (d : LReg) (a : LReg) (b : LReg)
  | mulhiI32 (d : LReg) (a : LReg) (b : LReg)
  | mulhiW32 (d : LReg) (a : LReg) (b : LReg)
  | mad (d : LReg) (a : LReg) (b : LReg)
  | minI32 (d : LReg) (a : LReg) (b : LReg)
  | minW32 (d : LReg) (a : LReg) (b : LReg)
  | maxI32 (d : LReg) (a : LReg) (b : LReg)
  | maxW32 (d : LReg) (a : LReg) (b : LReg)
  | and (d : LReg) (a : LReg) (b : LReg)
  | or (d : LReg) (a : LReg) (b : LReg)
  | xor (d : LReg) (a : LReg) (b : LReg)
  | andn (d : LReg) (a : LReg) (b : LReg)
  | shl (d : LReg) (a : LReg) (b : LReg)
  | shr (d : LReg) (a : LReg) (b : LReg)
  | sar (d : LReg) (a : LReg) (b : LReg)
  | fshl (d : LReg) (a : LReg) (b : LReg)
  | fshr (d : LReg) (a : LReg) (b : LReg)
  | rotl (d : LReg) (a : LReg) (b : LReg)
  | bfx (d : LReg) (a : LReg) (b : LReg)
  | bfi (d : LReg) (a : LReg) (b : LReg)
  | prmt (d : LReg) (a : LReg) (b : LReg)
  | sel (d : LReg) (a : LReg) (b : LReg)
  | setp (p : Fin 8) (cond : Cond) (a : LReg) (b : LReg)
  | movi (d : LReg) (imm : BitVec 16)
  | lit (d : LReg) (lit : Word)
  | lea (d : LReg) (a : LReg) (b : LReg)
  | sad (d : LReg) (a : LReg) (b : LReg)
  | addI16x2 (d : LReg) (a : LReg) (b : LReg)
  | subI16x2 (d : LReg) (a : LReg) (b : LReg)
  | addSatI16x2 (d : LReg) (a : LReg) (b : LReg)
  | subSatI16x2 (d : LReg) (a : LReg) (b : LReg)
  | minI16x2 (d : LReg) (a : LReg) (b : LReg)
  | maxI16x2 (d : LReg) (a : LReg) (b : LReg)
  | minW16x2 (d : LReg) (a : LReg) (b : LReg)
  | maxW16x2 (d : LReg) (a : LReg) (b : LReg)
  | madI16x2 (d : LReg) (a : LReg) (b : LReg)
  | faddF32 (d : LReg) (a : LReg) (b : LReg)
  | fsubF32 (d : LReg) (a : LReg) (b : LReg)
  | fmulF32 (d : LReg) (a : LReg) (b : LReg)
  | ffmaF32 (d : LReg) (a : LReg) (b : LReg)
  | frcp (d : LReg) (a : LReg)
  | frsq (d : LReg) (a : LReg)
  | fsqrt (d : LReg) (a : LReg)
  | fexp2 (d : LReg) (a : LReg)
  | flog2 (d : LReg) (a : LReg)
  | fsin (d : LReg) (a : LReg)
  | fcos (d : LReg) (a : LReg)
  | frnd (d : LReg) (a : LReg) (rnd : Rnd)
  | fcvt (d : LReg) (a : LReg) (n : Fin 4) (sat : Bool) (kind : CvtKind)
  | fcvti (d : LReg) (a : LReg) (rnd : Rnd) (ty : IntType)
  | icvtf (d : LReg) (a : LReg) (rnd : Rnd) (ty : SrcInt)
  | faddH2 (d : LReg) (a : LReg) (b : LReg)
  | fmulH2 (d : LReg) (a : LReg) (b : LReg)
  | ffmaH2 (d : LReg) (a : LReg) (b : LReg)
  | faddB2 (d : LReg) (a : LReg) (b : LReg)
  | fmulB2 (d : LReg) (a : LReg) (b : LReg)
  | ffmaB2 (d : LReg) (a : LReg) (b : LReg)
  | fsubH2 (d : LReg) (a : LReg)
  | fsubB2 (d : LReg) (a : LReg)
  | fminF32 (d : LReg) (a : LReg)
  | fmaxF32 (d : LReg) (a : LReg)
  | fminH2 (d : LReg) (a : LReg)
  | fmaxH2 (d : LReg) (a : LReg)
  | fminB2 (d : LReg) (a : LReg)
  | fmaxB2 (d : LReg) (a : LReg)
  | dot2H2 (d : LReg) (a : LReg) (b : LReg)
  | dot2B2 (d : LReg) (a : LReg) (b : LReg)
  | dot4E4m3 (d : LReg) (a : LReg) (b : LReg)
  | dot4E5m2 (d : LReg) (a : LReg) (b : LReg)
  | bpx (d : LReg) (a : LReg) (b : LReg)
  | rencI32 (d : LReg) (a : LReg)
  | rencI64 (d : LReg) (a : LReg)
  | radd (d : LReg) (a : LReg) (b : LReg)
  | rmul (d : LReg) (a : LReg) (b : LReg)
  | rdec (d : LReg) (a : LReg) (b : LReg)
  | rchk (d : LReg) (a : LReg) (b : LReg)
  | ldW8 (d : LReg) (a : LReg) (off : BitVec 5) (f : Bool) (h : Hint)
  | ldI8 (d : LReg) (a : LReg) (off : BitVec 5) (f : Bool) (h : Hint)
  | ldW16 (d : LReg) (a : LReg) (off : BitVec 5) (f : Bool) (h : Hint)
  | ldI16 (d : LReg) (a : LReg) (off : BitVec 5) (f : Bool) (h : Hint)
  | ldW32 (d : LReg) (a : LReg) (off : BitVec 5) (f : Bool) (h : Hint)
  | ldW64 (d : LReg) (a : LReg) (off : BitVec 5) (f : Bool) (h : Hint)
  | ldW128 (d : LReg) (a : LReg) (off : BitVec 5) (f : Bool) (h : Hint)
  | stW8 (d : LReg) (a : LReg) (off : BitVec 5) (f : Bool) (h : Hint)
  | stW16 (d : LReg) (a : LReg) (off : BitVec 5) (f : Bool) (h : Hint)
  | stW32 (d : LReg) (a : LReg) (off : BitVec 5) (f : Bool) (h : Hint)
  | stW64 (d : LReg) (a : LReg) (off : BitVec 5) (f : Bool) (h : Hint)
  | stW128 (d : LReg) (a : LReg) (off : BitVec 5) (f : Bool) (h : Hint)
  | ldxW32 (d : LReg) (a : LReg) (off : BitVec 5) (f : Bool)
  | ldxW64 (d : LReg) (a : LReg) (off : BitVec 5) (f : Bool)
  | stm (d : LReg) (a : LReg) (m : LReg)
  | ldFeTake (d : LReg) (a : LReg) (off : BitVec 5) (f : Bool)
  | ldFePeek (d : LReg) (a : LReg) (off : BitVec 5) (f : Bool)
  | stFill (d : LReg) (a : LReg) (off : BitVec 5) (f : Bool) (h : Hint)
  | pref (a : LReg) (off : BitVec 5) (h : Hint)
  | smap (d : LReg) (a : LReg) (b : LReg)
  | sunmap (b : LReg)
  | swb (d : LReg) (b : LReg)
  | sinv (d : LReg) (a : LReg)
  | acquire
  | atom (d : LReg) (a : LReg) (b : LReg) (ctl : AtomCtl)
  | cas (d : LReg) (a : LReg) (b : LReg) (ctl : AtomCtl)
  | ldAcq (d : LReg) (a : LReg) (scope : Scope) (size : Width) (f : Bool)
  | stRel (d : LReg) (a : LReg) (scope : Scope) (size : Width) (f : Bool)
  | fence (scope : Scope)
  | fenceDur
  | tjoin (a : LReg) (n : Fin 8) (m : Fin 8)
  | tleave (n : Fin 8)
  | tbar (n : Fin 8) (scope : Scope)
  | tarrive (n : Fin 8) (scope : Scope)
  | twait (n : Fin 8) (scope : Scope)
  | elect (d : LReg) (n : Fin 8) (k : Fin 8)
  | shfl (d : LReg) (a : LReg) (b : LReg)
  | tred (d : LReg) (a : LReg) (n : Fin 8) (op : RedOp)
  | tscan (d : LReg) (a : LReg) (n : Fin 8) (excl : Bool) (op : RedOp)
  | ballot (d : LReg) (k : Fin 8) (n : Fin 8)
  | vote (j : Fin 8) (k : Fin 8) (n : Fin 8) (mode : VoteMode)
  | matchT (d : LReg) (a : LReg) (n : Fin 8)
  | sadd (d : UReg) (a : UReg) (b : UReg) (w : Bool)
  | ssub (d : UReg) (a : UReg) (b : UReg) (w : Bool)
  | smul (d : UReg) (a : UReg) (b : UReg) (w : Bool)
  | sand (d : UReg) (a : UReg) (b : UReg) (w : Bool)
  | sor (d : UReg) (a : UReg) (b : UReg) (w : Bool)
  | sxor (d : UReg) (a : UReg) (b : UReg) (w : Bool)
  | sshl (d : UReg) (a : UReg) (b : UReg) (w : Bool)
  | sshr (d : UReg) (a : UReg) (b : UReg) (w : Bool)
  | ssar (d : UReg) (a : UReg) (b : UReg) (w : Bool)
  | smov (d : UReg) (a : UReg) (w : Bool)
  | smovi (d : UReg) (imm : BitVec 14) (w : Bool)
  | slit (d : UReg) (w : Bool) (lit : Word)
  | scmp (d : UReg) (a : UReg) (b : UReg) (cond : SCond)
  | ssel (d : UReg) (a : UReg) (b : UReg) (w : Bool)
  | sld (d : UReg) (a : UReg) (off : BitVec 7) (f : Bool) (size : USize)
  | sst (d : UReg) (a : UReg) (off : BitVec 7) (f : Bool) (size : USize)
  | mma (d : UReg) (a : UReg) (b : UReg) (f : Bool)
  | mmaQ (d : UReg) (b : UReg) (f : Bool)
  | mmaz (d : UReg) (a : UReg) (b : UReg) (f : Bool)
  | mmazQ (d : UReg) (b : UReg) (f : Bool)
  | bld (d : UReg) (a : UReg) (f : Bool)
  | bldReed (d : UReg) (a : UReg) (f : Bool)
  | bldConv (d : UReg) (a : UReg) (f : Bool)
  | bldClr (d : UReg)
  | oprdy
  | accld (d : UReg) (a : UReg) (f : Bool)
  | accz (d : UReg) (f : Bool)
  | acczRows (d : UReg) (a : UReg) (f : Bool)
  | acczFree (d : UReg) (f : Bool)
  | accq (d : UReg) (a : UReg) (f : Bool)
  | setrstAddr (a : UReg)
  | setrst
  | setrstClr
  | copy (a : UReg) (f : Bool) (rel : Bool)
  | conv (a : UReg) (f : Bool) (rel : Bool)
  | gauge (a : UReg) (f : Bool) (rel : Bool)
  | reed (a : UReg) (f : Bool) (rel : Bool)
  | alist (a : UReg) (f : Bool) (rel : Bool)
  | coll (a : UReg) (f : Bool) (rel : Bool)
  | ecancel (d : UReg) (a : UReg)
  | ecancelAll (d : UReg)
  | fspawn (d : UReg) (a : UReg) (b : UReg) (f : Bool) (n : Fin 8)
  | fref (d : UReg) (a : UReg) (f : Bool)
  | fdrop (a : UReg) (f : Bool)
  | fget (d : UReg) (a : UReg) (b : UReg) (f : Bool)
  | fgetD (d : UReg) (a : UReg) (b : UReg) (f : Bool)
  | fput (a : UReg) (f : Bool)
  | fpoll (d : UReg) (a : UReg) (f : Bool)
  | fself (d : UReg)
  | fordatt (d : UReg) (f : Bool)
  | forddet (f : Bool)
  | fordq (d : UReg)
  | fordqState (d : UReg) (a : UReg)
  | fordqCount (d : UReg)
  | gsync (d : UReg) (f : Bool)
  | hstream (d : UReg) (j : Fin 8)
  | hloop (d : UReg) (lvl : Fin 8)
  | hpush (a : UReg) (i : Fin 8)
  | hend (f : Bool)
  | hsyncDrain (a : UReg)
  | hsyncKind (a : UReg)
  | yield
  | budgetCyc (d : UReg)
  | budgetNrg (d : UReg)
  | budgetCtx (d : UReg)
  | budgetTime (d : UReg)
  | launch (d : UReg) (a : UReg) (f : Bool)
  | trap (imm : BitVec 14)
  | eret
  | csrr (d : UReg) (csr : BitVec 12)
  | csrrThread (d : Fin 128) (csr : BitVec 12)
  | csrw (d : UReg) (csr : BitVec 12)
  | csrwThread (d : Fin 128) (csr : BitVec 12)
  | tlbfill (d : UReg) (a : UReg) (b : UReg)
  | tlbinv (d : UReg) (a : UReg)
  | walkdone (d : UReg) (a : UReg)
  | errpop (d : UReg) (a : UReg)
  | hzwait (d : UReg) (a : UReg) (f : Bool)
  | registerCacheFill (blk : Nat) (row : Nat) (reg : Nat)
  | acquireGrant (blk : Nat)
  | loadCompletion (id : Nat) (reply : List Byte)
  | writePerformed (id : Nat) (reply : List Byte)
  | uniformAccessCompletion (id : Nat) (reply : List Byte)
  | ldFeWake (blk : Nat) (tid : Nat)
  | fenceDone (blk : Nat) (tid : Nat)
  | comMergeFlush (id : Nat)
  | specResolve (id : Nat)
  | pinLimitBreak (core : Nat) (line : Nat)
  | barrierRelease (blk : Nat) (team : Nat)
  | reconvRelease (blk : Nat) (team : Nat)
  | exchangeRelease (blk : Nat) (team : Nat)
  | teamdead (blk : Nat) (team : Nat)
  | sequencerStart (core : Nat)
  | sequencerDone (core : Nat)
  | bLoaderStart (core : Nat)
  | bLoaderDone (core : Nat)
  | reconstructionStart (core : Nat)
  | reconstructionDone (core : Nat)
  | hwStreamAccess (blk : Nat)
  | hwDelivery (blk : Nat)
  | hwNestDone (blk : Nat)
  | queuePopWake (blk : Nat) (tid : Nat)
  | queuePushWake (blk : Nat)
  | engineChainStart (id : Nat) (peer : List Byte)
  | engineChainFinish (id : Nat)
  | collAckTimeout (id : Nat)
  | collStepRx (sender : Nat) (ctx : Nat) (step : Nat) (op : Nat) (ea : DWord) (data : List Byte)
  | ualinkAccessRx (peer : Nat) (target : PeerTarget) (access : PeerAccess)
  | submit (q : SessionQueue) (tail : Nat)
  | admissionCheck (q : Nat)
  | dispatchOpportunity (core : Nat) (lanebase : Nat)
  | preemptionRequest (blk : Nat) (cls : Nat)
  | graceExpiry (blk : Nat)
  | blockSave (blk : Nat)
  | writeBackDone (blk : Nat)
  | exitRelease (blk : Nat)
  | budgetExhausted (blk : Nat)
  | budgetAllowanceExpiry (blk : Nat)
  | launchStatus (id : Nat)
  | futureOpComplete (id : Nat)
  | fgetResolve (id : Nat)
  | markDelivery (blk : Nat)
  | markGraceExpiry (blk : Nat)
  | reclaim (blk : Nat)
  | gangJoin (gang : Nat) (gindex : Nat) (gmembers : Nat) (device : Nat) (ctx : Nat)
  | gangReady (gang : Nat) (gindex : Nat) (core : Nat)
  | gangPropose (gang : Nat)
  | prepare (gang : Nat) (tt : Nat)
  | accept (gang : Nat) (gindex : Nat) (tt : Nat)
  | refuse (gang : Nat) (gindex : Nat) (tt : Nat)
  | acceptDeadline (gang : Nat)
  | commit (gang : Nat) (tt : Nat) (devices : List Nat)
  | abort (gang : Nat) (tt : Nat)
  | gangStartTime (gang : Nat) (tt : Nat)
  | started (gang : Nat) (gindex : Nat) (tt : Nat)
  | startedTimeout (gang : Nat)
  | gangWaitLimit (blk : Nat)
  | attach (gang : Nat) (gindex : Nat) (len : Nat)
  | detach (gang : Nat) (gindex : Nat)
  | depart (gang : Nat) (gindex : Nat)
  | gsyncArrival (gang : Nat) (gindex : Nat) (phase : Nat)
  | gangStopRequest (gang : Nat) (cls : Nat)
  | fordattComplete (blk : Nat)
  | walkRequest (cluster : Nat)
  | replay (ctx : Nat) (page : DWord) (size : Nat) (verdict : Verdict) (cause : Nat)
  | hzwaitComplete (id : Nat)
  | roofwalkWalk (cluster : Nat)
  | walkDrainTimeout (cluster : Nat)
  | patternTestDone (cluster : Nat) (result : WalkResult)
  | taintNotice (ctx : Nat) (device : Nat) (start : Nat) (stop : Nat) (cluster : Nat) (cause : Nat) (image : Nat)
  | oxbowCompare (run : Nat)
  | oxbowThirdRun (run : Nat)
  | sramUe (core : Nat) (kind : SramKind) (slot : Nat) (bank : Nat) (syndrome : Nat)
  | l2Ue (pa : Nat)
  | hbmUnitUe (pa : Nat)
  | parityUpdate (stripe : Nat)
  | stackLoss (stack : Nat)
  | parityRewriteDone (stripe : Nat)
  | thatchRebuildDone
  | coreGateEntry (core : Nat)
  | gateCommit (core : Nat) (wake : Bool)
  | coreWake (core : Nat)
  | powerUpComplete (core : Nat)
  | timeMessageSend
  | timeMessageRx (peer : Nat) (time : Nat)
  | peerSilenceTimeout (peer : Nat)
  | silazResendTimeout (session : Nat) (seq : Nat)
  | silazAck (session : Nat) (seq : Nat)
  | memwr (session : Nat) (addr : Nat) (data : List Byte)
  | memrd (session : Nat) (addr : Nat) (len : Nat)
  | hostErrpop (session : Nat) (ctx : Nat)
  | hostReplay (session : Nat) (ctx : Nat) (page : DWord) (size : Nat) (verdict : Verdict) (cause : Nat)
  /-- a MGMT message: a write of a value, or with none a read -/
  | mgmtWrite (num : Nat) (value : Option DWord)
  | rwctlWrite (value : Word)
  | pcapWrite (value : Word)
  | futureConfigWrite (num : Nat) (value : DWord)
  | openSession (p : Nat)
  | closeSession (p : Nat)
  | migDemote (p : Nat)
  | migPromote (p : Nat)
  | tlbInval (p : Nat)
  | mgmtReplay (p : Nat)
  | ctxKill (p : Nat)
  | keyLoad (p : Nat)
  | coreReset (p : Nat)
  | clusterReadmit (p : Nat)
  | peerLost (p : Nat)
  | thatchRebuild
  | mrRegister (p : Nat)
  | qpRing (p : Nat)
  | mgmtCmdComplete
  | rdmaWrite (qp : Nat) (region : Nat) (key : Word) (addr : Nat) (data : List Byte)
  | rdmaRead (qp : Nat) (region : Nat) (key : Word) (addr : Nat) (len : Nat)
  | send (qp : Nat) (data : List Byte)
  | roceUnsupportedOp (qp : Nat)
  | ethFrameDrop
  | getVersion
  | getCapabilities
  | negotiateAlgorithms
  | getDigests
  | getCertificate
  | challenge (nonce : Nat)
  | getMeasurements
  | keyExchange (nonce : Nat)
  | finish (mac : Nat)
  | packageReset
  | instructionFetch (blk : Nat) (tid : Nat)
  | viewCopyDrop (core : Nat) (pa : Nat)
  | spatialPrefetch (core : Nat) (ctx : Nat) (ea : DWord)
  | softError (core : Nat) (target : SoftTarget)
  | forddetComplete (blk : Nat)
  | tlbinvComplete (blk : Nat) (tid : Nat)
  | gangConflict (gang : Nat) (gindex : Nat)
  | gangBroken (gang : Nat)
  | stackHealthy
deriving DecidableEq, Repr

end Sys2Proof
end

