-- ==== Sys2Proof/Machine/State.lean ====
section
/-! DEFINITION. The state of one Barnen 7260 package as plain data, and the state after package reset. Every piece of
state the manual names has a field; INVENTORY.md lists them with their rules. Maps are lists of key and value in
strictly ascending key order; where the doc says a default, entries equal to it are not stored. -/

namespace Sys2Proof.Machine

/-- Reasons a step can fault. No step of this model raises one: the manual leaves no outcome unpredictable
(00_scope.md R8), so every outcome is a next state. -/
inductive Fault where
  /-- Raised by nothing; safe. -/
  | none
deriving DecidableEq, Repr

/-- Reasons a step can be refused. -/
inductive Refusal where
  /-- An instruction without a meaning in this model; raised only by Dispatch.exec; safe. -/
  | notModelled (mnemonic : String)
deriving DecidableEq, Repr

/-- Causes of traps and faults (17_system.md R398). -/
inductive Cause where
  | illegal | badTarget | allotment | stackOvf | stackUnf | brk | user | priv | eretSeq | budget | pairMis
  | noTeam | teamMix | teamDead | barSeq
  | noMatrix | mmaArg | hwClass | hwArg | qKind | hwDead | smapArg | engArg
  | futHandle | futCount | futNoRef | futSet | notTask | putTwice | noGang | fordSeq | walkArg
  | nonCanon | align | spRange | attr | noFe | physHole | windowRo | windowEmpty | windowCtx | windowRange
  | fordClosed | fordRange | fordDeparted
  | xlateNp | xlateProt | xlateBad
deriving DecidableEq, Repr

/-- Kind of an access for translation and TINFO (17 R393, R406). -/
inductive AccKind where | read | write | fetch | atomic
deriving DecidableEq, Repr

/-- Where one byte of an access lies (06_memory.md R148, R149; 01_machine.md R24). -/
inductive Tgt where
  /-- device memory byte at a physical address, under a key slot when the context has ENC set (17 R403) -/
  | dev (pa : Nat) (key : Option Nat)
  /-- scratchpad byte of a core (a core number from 512 up is the walk slot's pad of cluster core − 512) -/
  | sp (core off : Nat)
  /-- byte of a register line of a block: lane row, line, byte of the line -/
  | win (blk row line byte : Nat)
  /-- accumulator residue of a core (01 R28) -/
  | acc (core ch tile row col : Nat)
  /-- accumulator bound byte of a core (01 R28) -/
  | bnd (core tile row col : Nat)
  /-- byte of a gang member's scratchpad on a peer device (16_gangs.md R372) -/
  | ford (gang member off : Nat)
  /-- a byte that reads as zero: an accumulator tile the context does not hold (01 R28) -/
  | zeros
  /-- a byte that reads as an undefined value: a tile under an MMA, or a retired channel (01 R28) -/
  | undef
deriving DecidableEq, Repr

/-- Where a value read goes at completion. -/
inductive Dest where
  | none
  /-- lane registers from a code on, so many words -/
  | lane (reg : LReg) (words : Nat)
  /-- uniform registers from a code on, so many words -/
  | uni (reg : UReg) (words : Nat)
  /-- the thread's own read of a gang member's scratchpad that its instruction waits for (12 R288; 16 R374) -/
  | fetched
deriving DecidableEq, Repr

/-- What a memory operation does (06 R160 to R165, 07_ordering.md R186). -/
inductive OpKind where
  /-- a load of so many bytes, sign-extended or not -/
  | load (signed : Bool)
  | store
  /-- ST.FILL: the store sets its granule full -/
  | fill
  /-- LD.FE: the data were taken at issue -/
  | fe
  | atom (op : AtomOp) (use : AtomUse)
  | cas (expected : Nat) (use : AtomUse)
  /-- a .spec atomic on NORMAL memory: the value taken from the view, and whether the home is to take the data -/
  | spec (old : Nat) (update : Bool)
deriving DecidableEq, Repr

/-- One memory operation issued and not yet complete (02_encoding.md R48; 07 R173 to R193). -/
structure MemOp where
  id : Nat
  blk : Nat
  /-- the issuing threads: one for a lane operation, the block's threads of the bundle for SLD and SST -/
  tids : List Nat
  uniform : Bool
  core : Nat
  kind : OpKind
  /-- flag to decrement at completion; none: untracked -/
  flag : Option Nat
  dst : Dest
  /-- target of each accessed byte, in order -/
  tgts : List Tgt
  /-- bytes written, or the operand of an atomic -/
  data : List Byte
  /-- generic address of the access -/
  ea : DWord
  nol1 : Bool
  scope : Scope
  acq : Bool
  rel : Bool
  /-- visible to loads of its core since this serial number (07 R177 column .core) -/
  inView : Option Nat
  /-- the destination was overwritten before completion: it gets an undefined value (06 R160) -/
  clob : Bool
  /-- ids of writes this access's release waits for besides its thread's earlier ones (07 R178) -/
  after : List Nat
deriving DecidableEq, Repr

/-- The wait a thread is in (03_control.md R87 STATE 1). -/
inductive Wait where
  /-- WAIT of a header, or WAITF (02 R50) -/
  | flags (mask : BitVec 12)
  /-- a flag count at 7 (02 R48) -/
  | flagFull (f : Nat)
  /-- a register line not in the register cache (03 R82) -/
  | line (row reg : Nat)
  /-- instruction words not in the core's instruction path (03 R106) -/
  | fetch (pa : Nat) (key : Option Nat)
  /-- a translation miss: context, failing address and kind of the access (17 R406) -/
  | xlate (ctx : Nat) (addr : DWord) (kind : AccKind)
  /-- the home of a physical address is not reachable: a pin of another core (07 R182) or a stripe under its parity
  rewrite (18 R435) -/
  | retry (pa : Nat)
  | acquire
  /-- conditions of a release at a scope (07 R178, R181); dur: FENCE.DUR -/
  | release (scope : Scope) (dur : Bool)
  /-- acquire part: a write read and not yet performed at its scope (07 R179) -/
  | acquirePart
  /-- an operation that must be performed before an access of the thread, by id (07 R161, R175) -/
  | order (id : Nat)
  /-- a read of a gang member's scratchpad that the instruction makes itself (12_headwater.md R288; 16 R374) -/
  | peer (ea : DWord) (tgts : List Tgt)
  /-- SINV of a page whose translation is asked for (06 R170) -/
  | sinv (ctx page : Nat)
  /-- TBAR of a team -/
  | barrier (team : Nat) (scope : Scope)
  /-- TWAIT of a team -/
  | twait (team : Nat) (scope : Scope)
  /-- RECONV of a team -/
  | reconv (team : Nat)
  /-- an exchange of a team: its form, contribution, control word and predicate at arrival, and the instruction -/
  | exchange (team : Nat) (form : Nat) (value : Word) (ctl : Word) (pred : Bool) (instr : Instr)
  /-- LD.FE waiting on a granule -/
  | granule (t : Tgt)
  /-- a pop of an empty queue -/
  | popQueue (q : Nat)
  /-- a push into a full queue, or HEND, HSYNC of a slice -/
  | pushQueue (q : Nat)
  | nestRunning
  | hsync (mask : Nat)
  | fget (handle : Word)
  | tlbinv
  /-- a core with 16 unfinished chains (13_engines.md R293) -/
  | chainLimit
  /-- EXIT of a headwater slice waiting for its nest (12_headwater.md R281) -/
  | sliceExit
deriving DecidableEq, Repr

/-- Run state of a thread (03 R87 STATE). -/
inductive RunState where
  | ready
  | stalled (w : Wait)
  /-- parked on a fault: the failing address, whose page is the park key, and the access kind (17 R409) -/
  | parked (addr : DWord) (kind : AccKind)
  | exited
  /-- stopped for pre-emption or reclamation, keeping the state to resume in (03 R90, 15_futures.md R351) -/
  | stopped (parkedOn : Option (DWord × AccKind)) (inWait : Bool)
deriving DecidableEq, Repr

/-- A thread (03 R70, R87; 08_teams.md R215; 12 R283; 17 R393). -/
structure Thread where
  pc : DWord
  /-- return addresses, newest first; at most 64 (03 R101) -/
  stack : List DWord
  pred : BitVec 8
  /-- counts of f0 to f11, default 0 -/
  flags : List (Nat × Nat)
  fpstat : Word
  teams : BitVec 8
  run : RunState
  clauseIdx : Nat
  /-- the header and the body words of the clause fetched -/
  clause : List Word
  /-- v0 to v223, default 0 -/
  v : List (Nat × Word)
  /-- the x latch; none: an undefined value -/
  x : Option Word
  /-- o0 to o7, absent ones are undefined values -/
  o : List (Nat × Word)
  split : BitVec 16
  tpc : DWord
  taddr : DWord
  tcause : Word
  tinfo : Word
  /-- the interrupted bank (17 R395) -/
  bankX : Option Word
  bankO : List (Nat × Word)
  /-- heads of the eight queues, default 0 -/
  qhead : List (Nat × Nat)
  /-- thread-queue slots 3i + s, default 0 -/
  qslot : List (Nat × Word)
  /-- flags that counted a command since the last wait on them, with the widest scope (07 R198) -/
  cmds : List (Nat × Scope)
  /-- scope and outcome of the resolved .spec atomics since the last validation (07 R192) -/
  spec : List (Scope × Bool)
  /-- ids of writes an earlier read of the thread returned (07 R178) -/
  observed : List Nat
  /-- queue entries popped at an exchange arrival that was withdrawn, with the address of its word: the instruction, executed
  again there, takes them (08 R213, R220) -/
  taken : Option (DWord × List Word)
  /-- what a read of a gang member's scratchpad by the instruction at hand returned, with its address (12 R288; 16 R374) -/
  fetched : Option (DWord × List Word)
  /-- pages the SINV at hand skips: their translation failed, or it has dropped their copies (06 R170) -/
  skipped : List Nat
  /-- registers a completed operation has written, v[n] as n and s[n] as 256 + n, each with the flag the operation counted: they read as
  undefined values until that flag clears (04 R120, 06 R160, 11 R270) -/
  late : List (Nat × Nat) := []
  /-- a BUDGET trap is due (14_scheduling.md R334) -/
  budgetDue : Bool
  /-- the twin's state was struck (18_errors.md R422) -/
  twinBad : Bool
  /-- when it last became ready -/
  since : Nat
deriving DecidableEq, Repr

/-- A team record (08 R216). -/
structure Team where
  members : Nat
  arrived : Nat
  phase : Word
deriving DecidableEq, Repr

/-- A shadow region (06 R153): granule-free offsets in bytes, and its units by index. -/
structure Region where
  off : Nat
  len : Nat
  global : DWord
  present : List Nat
  dirty : List Nat
deriving DecidableEq, Repr

/-- An accumulator tile as its block sees it (11_matrix.md R258). -/
structure TileState where
  live : Bool
  mode : Nat
deriving DecidableEq, Repr

/-- Queue state of a headwater block (12 R283). -/
structure QueueState where
  tail : Nat
  bhead : Nat
  block : Bool
  /-- marked slots -/
  mark : List Nat
  /-- block-queue values of slots 0 to 2, default 0 -/
  bval : List (Nat × Word)
deriving DecidableEq, Repr

/-- A mark record (12 R283): what a failed stream access would have read. -/
structure MarkRec where
  addr : DWord
  granule : Bool
  gran : Nat
  queue : Nat
  slot : Nat
  tstride : Word
  /-- bytes of the access (12 R284 SIZE) -/
  size : Nat
deriving DecidableEq, Repr

/-- A captured stream descriptor (12 R284). -/
structure Stream where
  base : DWord
  ctl : Word
  third : Word
  strides : List Word
deriving DecidableEq, Repr

/-- A running nest (12 R285): captured counts and descriptors, and where it stands. It runs until it has issued its last access. -/
structure Nest where
  counts : List Word
  idx : List Word
  streams : List (Nat × Stream)
  /-- next stream of the current iteration -/
  next : Nat
  /-- granules delivered by each stream -/
  delivered : List (Nat × Nat)
  flag : Option Nat
  /-- pages of the next access whose translation was asked for by a SPEC request (17 R406), and whether that failed -/
  walk : List (Nat × Bool)
deriving DecidableEq, Repr

/-- What a slice has in flight (12 R285, R286). -/
inductive FlightKind where
  /-- an entry of a queue, at a count of its tail -/
  | entry (queue pos : Nat)
  /-- a granule of the compute block's allocation -/
  | granule (gran : Nat)
  /-- the end of a nest, with the flag of its HEND -/
  | nestEnd (flag : Option Nat)
deriving DecidableEq, Repr

/-- A stream access, an HPUSH or the end of a nest, issued and not delivered (12 R285, R286): the words of its threads, or of its granule. -/
structure Flight where
  kind : FlightKind
  words : List (Nat × Word)
deriving DecidableEq, Repr

/-- The headwater part of a slice (12 R278 to R291). -/
structure Slice where
  /-- queues it owns and uses, by number -/
  queues : List (Nat × QueueState)
  marks : List (Nat × MarkRec)
  counts : List Word
  streams : List (Nat × Stream)
  nest : Option Nest
  /-- what is issued and not delivered, oldest first -/
  flight : List Flight
  /-- stopped by HW_TRAP or exited (12 R290) -/
  ended : Bool
deriving DecidableEq, Repr

/-- Gang state of a member block (16 R368, R372 to R386). -/
structure GangMember where
  gang : Nat
  members : Nat
  index : Nat
  /-- its join is recorded here, or on its way to another device (16 R365) -/
  joined : Bool
  /-- 0 QUEUED, 1 READY, 2 PREPARED, 3 COMMITTED, 4 placed (16 R368), 5 stopped by its gang or about to be (16 R380) -/
  phaseSt : Nat
  /-- the proposed start time of PREPARED and COMMITTED, and the members that have said STARTED for it -/
  tt : Nat
  started : List Nat
  attached : Bool
  detached : Bool
  windowOpen : Bool
  /-- LEN of each attached member -/
  lens : List (Nat × Nat)
  detachedSet : List Nat
  departed : List Nat
  /-- GSYNC executions of each member -/
  gsync : List (Nat × Nat)
  /-- device of each member, once COMMIT has come -/
  devices : List Nat
  queuedSince : Nat
deriving DecidableEq, Repr

/-- Life state of a block (03 R98). -/
inductive Life where | queued | resident | stopping | saving | exiting | done
deriving DecidableEq, Repr

/-- What a block is (03 R73, 12 R278, 17 R407). -/
inductive BlockKind where | lane | headwater | walker
deriving DecidableEq, Repr

/-- A block (03 R71, R83, R88, R98). -/
structure Block where
  launch : Nat
  index : Nat
  ixval : Word
  ctx : Nat
  kind : BlockKind
  role : Nat
  life : Life
  /-- was placed at least once -/
  placed : Bool
  core : Nat
  slot : Nat
  lanebase : Nat
  spBase : Nat
  spLen : Nat
  image : Nat
  save : Nat
  tvec : DWord
  /-- s0 to s63, default 0 -/
  s : List (Nat × Word)
  allot : Nat
  full : Nat
  pro : Nat
  acqpend : Bool
  restart : DWord
  teams : List Team
  regions : List Region
  /-- full granules of the scratchpad allocation and of the register windows ((256k + v) * 4 + q) -/
  spFull : List Nat
  winFull : List Nat
  /-- words of its rows' register lines that no thread of the block has: 256 * place + line, default 0 (01 R25, 03 R86) -/
  spare : List (Nat × Word)
  /-- register lines in the register cache, 256 * row + line (03 R82) -/
  cached : List Nat
  held : List (Word × Nat)
  /-- set entries reserved by FSPAWN and FREF in flight (15 R356, R357) -/
  reserved : Nat
  own : Word
  put : Bool
  /-- device cycle at which a reclamation mark was delivered (15 R351) -/
  mark : Option Nat
  /-- end of the grace period of a pending stop (03 R90) -/
  stopBy : Option Nat
  /-- class of a pre-emption put off while accumulators are live (03 R94), or that is stopping the block -/
  deferred : Option Nat
  /-- a move at YIELD to this core follows the save (03 R95) -/
  moveTo : Option Nat
  sliceStart : Nat
  charged : Nat
  debit : Nat
  /-- end of the allowance after a BUDGET trap, and whether energy ran out (14 R334) -/
  allowance : Option (Nat × Bool)
  tiles : List TileState
  slots : List (Option (Nat × Nat))
  /-- compute block of a slice, and slices of a compute block in rank order (12 R279) -/
  pairOf : Option Nat
  partners : List Nat
  slice : Option Slice
  gang : Option GangMember
  /-- Oxbow run this block belongs to, as original (0), copy (1) or third (2) (18 R429) -/
  oxbow : Option (Nat × Nat)
  /-- global stores of each thread so far, as CRC-32C register (18 R430) -/
  sig : List (Nat × Word)
  sigShadow : Word
  sigAbandon : Bool
  threads : List Thread
  enteredQueue : Nat
  placedAt : Nat
  firstPlaced : Nat
deriving DecidableEq, Repr

/-- A role entry (14 R319). -/
structure Role where
  pro : Nat
  full : Nat
  share : Nat
  prio : Nat
  hw : Bool
  pair : Nat
  off : Nat
deriving DecidableEq, Repr

/-- A launch record (14 R318). -/
structure LaunchRec where
  entry : DWord
  args : DWord
  list : DWord
  image : Nat
  save : Nat
  deadline : Nat
  done : DWord
  cycbud : Nat
  nrgbud : Nat
  blocks : Nat
  threads : Nat
  ctx : Nat
  cls : Nat
  span : Nat
  argn : Nat
  coop : Bool
  oxbow : Bool
  contain : Nat
  notify : Bool
  gang : Nat
  gmembers : Nat
  gindex : Nat
  roles : List Role
deriving DecidableEq, Repr

/-- A launch accepted and not complete (14 R326). -/
structure Launch where
  id : Nat
  record : LaunchRec
  /-- address of the record, as LAUNCH_REJECT names it (18_errors.md R419) -/
  recAddr : Nat
  argWords : List Word
  /-- number of lane blocks -/
  count : Nat
  /-- the queue it came from; none: LAUNCH or FSPAWN -/
  queue : Option Nat
  arrival : Nat
  deadline : Nat
  /-- a spawned task's future entry -/
  future : Option Nat
  blocks : List Nat
  undone : Nat
  killed : Bool
  /-- code of R322 that rejected it; 0: accepted -/
  code : Nat
  energy : Nat
  /-- its completion is over; an Oxbow run may still need its record (18 R431) -/
  ended : Bool
deriving DecidableEq, Repr

/-- A LAUNCH in flight (14 R338): read and checked by the scheduler at LAUNCH_STATUS. -/
structure LaunchOp where
  id : Nat
  blk : Nat
  tids : List Nat
  ea : DWord
  bytes : List Byte
  recPa : Nat
  arrival : Nat
  dst : UReg
  flag : Option Nat
  /-- ids of writes its release waits for besides those its threads knew at issue (07 R178, R200) -/
  after : List Nat := []
deriving DecidableEq, Repr

/-- Operation at the future unit (15 R346, R356 to R358). -/
inductive FutKind where
  | spawn (tmpl : DWord) (group : List Word) (sub : Nat)
  /-- an FREF, and whether it reserved a set entry -/
  | fref (reserved : Bool)
  | fdrop | fpoll | fput (value : DWord)
  | fget (drop : Bool) (dst2 : UReg)
deriving DecidableEq, Repr

/-- A future operation issued and not complete. -/
structure FutOp where
  id : Nat
  blk : Nat
  tids : List Nat
  kind : FutKind
  handle : Word
  dst : UReg
  flag : Option Nat
  issued : Nat
  cls : Nat
  deadline : Nat
  /-- ids of writes its release waits for besides those its threads knew at issue (07 R178, R200) -/
  after : List Nat := []
  /-- status and result of an FGET's future, kept when its block gave up the last reference (15 R358) -/
  seen : Option (Nat × DWord) := none
deriving DecidableEq, Repr

/-- Future states (15 R347). -/
inductive FutState where | free | live | put | done | marked
deriving DecidableEq, Repr

/-- A future table entry (15 R343); the default entry is FREE and zero. -/
structure Future where
  st : FutState
  gen : Nat
  ctx : Nat
  count : Nat
  result : DWord
  status : Nat
deriving DecidableEq, Repr

/-- A gang command in flight: FORDATT, FORDDET or GSYNC phase (16 R383 to R386). -/
structure GangOp where
  id : Nat
  blk : Nat
  tids : List Nat
  /-- 0 FORDATT, 1 FORDDET, 2 GSYNC, 3 the FORDDET that the last EXIT performs (16 R377) -/
  kind : Nat
  phase : Nat
  dst : UReg
  flag : Option Nat
  /-- its release part is over and its message sent -/
  sent : Bool
  /-- ids of writes its release waits for besides those its threads knew at issue (07 R178) -/
  after : List Nat := []
deriving DecidableEq, Repr

/-- An HZWAIT in flight (17 R416). -/
structure HzOp where
  id : Nat
  blk : Nat
  tids : List Nat
  time : Nat
  dst : UReg
  flag : Option Nat
  /-- Roofwalk was off when it was issued, or has been turned off since -/
  off : Bool := false
deriving DecidableEq, Repr

/-- A matrix command of a unit (11 R261). -/
structure MCmd where
  id : Nat
  blk : Nat
  tids : List Nat
  instr : Instr
  /-- control words read at issue: s[d], then s[a] or s[b] -/
  ctl : Nat
  arg : Nat
  /-- scratchpad offset or source address of the operand tile -/
  addr : DWord
  /-- bytes of the scratchpad operand; 0: none -/
  len : Nat
  row0 : Nat
  flag : Option Nat
  started : Bool
  /-- the result is an undefined value (11 R274) -/
  poison : Bool
  /-- ids of writes an OPRDY before it waits for (11 R269) -/
  after : List Nat
  /-- an operand byte may be an older value: a write of the block before it was neither waited for nor performed -/
  stale : Bool
  /-- targets of such writes at issue, for a source outside the scratchpad -/
  early : List Tgt
  /-- registers of a drain, by thread and number, that were written while it was outstanding (11 R270) -/
  clob : List (Nat × Nat)
deriving DecidableEq, Repr

/-- Bytes of SRAM whose unlisted cells are zero (none) or undefined values of one seed. -/
structure Store where
  seed : Option Nat
  cells : List (Nat × Byte)
deriving DecidableEq, Repr

/-- Gating state of a core (19_outside.md R445). -/
inductive Gate where
  | on (idle : Nat)
  | entering (since : Nat)
  | gated
  | waking
deriving DecidableEq, Repr

/-- Does a core run: ON, or still ENTERING? -/
def Gate.isOn : Gate → Bool
  | .on _ | .entering _ => true
  | _ => false

/-- A core: its CSRs (10_residue.md R250, 07 R184, 06 R166), matrix memories (11 R258), units (R261) and power. -/
structure CoreState where
  chstat : Word
  chcnt : List Word
  chlast : Word
  pinlim : Word
  specdrop : Word
  /-- withdrawn by in-field test (00 R1) -/
  withdrawn : Bool
  halted : Bool
  gate : Gate
  tiles : List Store
  bounds : List Store
  bsram : Store
  matrixCtx : Option Nat
  sequencer : List MCmd
  loader : List MCmd
  recon : List MCmd
  /-- writes an OPRDY of the block made its later commands wait for (11 R269) -/
  oprdy : List Nat
deriving DecidableEq, Repr

/-- A translation entry (17 R405, R408). -/
structure TlbEntry where
  ctx : Nat
  /-- address aligned to the size -/
  va : Nat
  size : Nat
  frame : Nat
  w : Bool
  x : Bool
  d : Bool
  onchip : Bool
deriving DecidableEq, Repr

/-- A walk request of a cluster (17 R406). -/
structure WalkReq where
  ctx : Nat
  page : Nat
  kind : AccKind
  spec : Bool
  engine : Bool
  /-- PREFs and predictor prefetches that wait for it: core, address, and whether L1 is to take the span (06 R166) -/
  prefs : List (Nat × DWord × Bool)
  /-- granule it was delivered into -/
  granule : Option Nat
deriving DecidableEq, Repr

/-- A Roofwalk walk of a cluster (18 R426). -/
inductive WalkPhase where
  | none
  | draining (since : Nat)
  /-- device time b at which the walk began (18 R426), and the core cycle -/
  | testing (begin since : Nat)
deriving DecidableEq, Repr

/-- A cluster: translation cache, requests, Roofwalk standing. -/
structure ClusterState where
  tlb : List TlbEntry
  reqs : List WalkReq
  reqCount : Nat
  quarantined : Bool
  /-- device time at which the latest passing walk began (17 R401) -/
  lastPass : Nat
  phase : WalkPhase
  /-- contexts that had a block resident or a chain run since the last pass (18 R427) -/
  ctxs : List Nat
  /-- core whose chain each kind of unit started last: copy engines 0, Gauge 1, Reed 2 (13 R293) -/
  served : List (Nat × Nat)
deriving DecidableEq, Repr

/-- A record of an engine chain (13 R294). -/
structure EngRec where
  kind : Nat
  flags : Nat
  scope : Nat
  retry : Nat
  len : Nat
  src : DWord
  dst : DWord
  srcdev : Nat
  dstdev : Nat
  next : Nat
  doneaddr : DWord
  expect : Word
  tag : Nat
  param : List Byte
deriving DecidableEq, Repr

/-- How far a chain that has started has come (13 R298 to R306). -/
structure EngRun where
  /-- retries of the whole chain made so far -/
  tries : Nat
  /-- bytes of a COPY record carried out -/
  done : Nat
  /-- outputs of the record at hand that are computed and not yet written -/
  outs : Option (List (DWord × Byte))
  /-- source bytes of a COPY record that are read and not yet delivered -/
  got : Option (List Byte)
  crc : Nat
  result : Nat
  /-- bytes delivered in this attempt -/
  count : Nat
  /-- the first ALIST record of this attempt that overflowed (13 R310) -/
  overflow : Option Nat
  /-- completion granule bytes held back until the chain finishes (13 R300) -/
  held : List (DWord × Byte)
  /-- granules written that a later byte of the chain writes too: they turn full at the end (13 R302) -/
  late : List Tgt
deriving DecidableEq, Repr

/-- An engine chain (13 R293, R298). -/
structure Chain where
  id : Nat
  blk : Nat
  ctx : Nat
  tids : List Nat
  core : Nat
  kind : Nat
  off : Nat
  rel : Bool
  scope : Nat
  tag : Nat
  flag : Option Nat
  started : Bool
  /-- the chain's outcome once it has run: status, retries, crc, result, index, failing address -/
  outcome : Option (Nat × Nat × Nat × Nat × Nat × DWord)
  recs : List EngRec
  /-- page its translation waits for (13 R302), and whether that failed -/
  waiting : Option (Nat × Bool)
  run : EngRun
  /-- records carried out; COLL: tries of the current one; when the request to a peer in flight was sent (13 R296, R312) -/
  pos : Nat
  collTries : Nat
  sentAt : Option Nat
  /-- bytes of the staging buffer that soft errors strike, one for each coming attempt: byte index (13 R305) -/
  struck : List Nat
  /-- ids of writes a .rel command waits for besides those its threads knew at issue (07 R178, R197) -/
  after : List Nat := []
deriving DecidableEq, Repr

/-- A pinned line (07 R182): its core, holding block, physical line, key, bytes, and cycle of the first outside retry. -/
structure Pin where
  core : Nat
  blk : Nat
  line : Nat
  key : Option Nat
  bytes : List Byte
  firstRetry : Option Nat
  /-- serial number under which releases wait for the writes it holds (07 R178, R183) -/
  id : Nat := 0
  /-- bytes of the line written in the copy, by place -/
  wrote : List Nat := []
  /-- cycle in which it was made -/
  since : Nat := 0
  /-- stored bytes of outside writes, by address, that follow the line home at its end, in order (07 R182) -/
  later : List (Nat × Byte) := []
deriving DecidableEq, Repr

/-- A bundle of the active set (03 R75): members as block id and tid. -/
structure Bundle where
  core : Nat
  members : List (Nat × Nat)
  lastIssue : Nat
deriving DecidableEq, Repr

/-- A gang record of the coordinator (16 R365, R367). -/
structure Gang where
  gang : Nat
  gmembers : Nat
  ctx : Nat
  /-- device of each joined member -/
  joined : List (Nat × Nat)
  ready : List Nat
  accepted : List Nat
  started : List Nat
  tt : Option Nat
  committed : Bool
  /-- the gang started at least once -/
  everStarted : Bool
  running : Bool
  next : Nat
  misses : Nat
  /-- members departed and members detached, as the coordinator has heard -/
  gone : List Nat
  detached : List Nat
deriving DecidableEq, Repr

/-- A message to a host or a peer (16, 18 R428, 19 R439, R441). -/
inductive Msg where
  /-- a Silaz reply: session, status, bytes -/
  | reply (session status : Nat) (data : List Byte)
  | notice (done : DWord)
  | spdm (request : Nat) (value : Nat)
  | join (coord gang gindex gmembers device ctx : Nat)
  | joinRefused (device gang gindex : Nat)
  | ready (coord gang gindex : Nat)
  | prepare (device gang tt : Nat)
  | accept (coord gang gindex tt : Nat)
  | refuse (coord gang gindex tt : Nat)
  | commit (device gang tt : Nat) (devices : List Nat)
  | abort (device gang tt : Nat)
  | started (coord gang gindex tt : Nat)
  /-- tell a member's device of a missed start, for its GANG_MISS record -/
  | miss (device gang tt count : Nat) (indices : List Nat)
  | broken (device gang : Nat)
  /-- ATTACH, DETACH, DEPART and GSYNC go to every device of the gang, a stop request from the coordinator too -/
  | attach (gang gindex len : Nat)
  | detach (gang gindex : Nat)
  | depart (gang gindex : Nat)
  | gsync (gang gindex phase : Nat)
  | gangStop (gang cls : Nat)
  | taint (device ctx start stop cluster cause image : Nat)
  | time (t : Nat)
  | peerReply (device : Nat) (ok : Bool) (data : List Byte)
  | collAck (device : Nat) (ok : Bool)
  | rdmaReply (qp : Nat) (ok : Bool) (data : List Byte)
  | nak (qp : Nat)
  /-- an access to a gang member's scratchpad on a device, or a collective step (16 R374, 13 R312) -/
  | remote (device : Nat) (target : PeerTarget) (access : PeerAccess)
  | collStep (device ctx step op : Nat) (ea : DWord) (data : List Byte)
deriving DecidableEq, Repr

/-- An Oxbow run (18 R429 to R432): original, copy and third block ids, their clusters, and what is kept for the
outcome. -/
structure OxRun where
  id : Nat
  slot : Nat
  launch : Nat
  index : Nat
  ctx : Nat
  orig : Nat
  copy : Nat
  third : Option Nat
  thirdSlot : Option Nat
  clusters : List Nat
  start : Nat
  finish : Nat
  /-- signatures of original, copy, third once exited -/
  sigs : List (Nat × Nat)
  abandoned : Bool
  /-- the original and its slices as their first images give them, which copy and third run start from (R429) -/
  first : List Block := []
  /-- further slots of the run, for the images of its copies' slices (log entry 115) -/
  more : List Nat := []
deriving DecidableEq, Repr

/-- Stripe states of Thatch (18 R435). -/
inductive Stripe where | clean | pending | lost | degraded
deriving DecidableEq, Repr

/-- A parity update owed (18 R434): the write's id, its first byte and length, all in one unit. -/
structure Owed where
  id : Nat
  pa : Nat
  len : Nat
deriving DecidableEq, Repr

/-- Thatch (18 R433 to R436). Stripes not listed are clean before a loss, degraded after one. -/
structure Thatch where
  stripes : List (Nat × Stripe)
  /-- parity updates owed, oldest first -/
  owed : List Owed
  lostStack : Option Nat
  failed : Bool
  /-- the lost stack's controller reports it healthy (19 R449) -/
  healthy : Bool
  rebuilding : Bool
  /-- stripes below this number are rebuilt (19 R449) -/
  rebuilt : Nat
deriving DecidableEq, Repr

/-- A RoCEv2 memory region (19 R451). -/
structure MemRegion where
  base : Nat
  len : Nat
  rd : Bool
  wr : Bool
  key : Word
deriving DecidableEq, Repr

/-- Receive ring of a queue pair (19 R451). -/
structure QpRing where
  base : Nat
  log2n : Nat
  entry : Nat
  count : Nat
deriving DecidableEq, Repr

/-- A Silaz message sent and not acknowledged (19 R439). -/
structure Unacked where
  session : Nat
  seq : Nat
  tries : Nat
  sentAt : Nat
  msg : Msg
deriving DecidableEq, Repr

/-- Links (19 R438 to R442, R446 to R448). -/
structure Links where
  /-- open sessions 1 to 63: host address and port -/
  sessions : List (Nat × Nat × Nat)
  /-- SPDM exchange in progress and established (19 R439) -/
  keyExchange : Option Nat
  secure : Bool
  /-- unacknowledged messages in the order sent, and the next sequence number of each session -/
  unacked : List Unacked
  sent : List (Nat × Nat)
  /-- messages of each open session taken, which are acknowledged in order (19 R439; log entry 22) -/
  taken : List (Nat × Nat) := []
  dropped : Nat
  regions : List (Nat × MemRegion)
  rings : List (Nat × QpRing)
  /-- key slots: two halves of 256 bits, default 0 -/
  keys : List (Nat × Nat × Nat)
  /-- device cycle of the last message of each peer -/
  heard : List (Nat × Nat)
  lostPeers : List Nat
  /-- steps applied lately: sender, context, step ids newest first (13 R312) -/
  steps : List (Nat × Nat × List Nat)
  /-- what start-up has appended to the measurement log for a step that failed, 0: nothing (19 R446) -/
  measured : Nat
  /-- serial number of time messages -/
  timeSent : Nat
deriving DecidableEq, Repr

/-- The management registers (19 R450). -/
structure Mgmt where
  devindex : Word
  devstate : Word
  qtbase : DWord
  ctxbase : DWord
  fbufbase : List DWord
  walkentry : DWord
  futbase : DWord
  fimgbase : DWord
  fsavebase : DWord
  futcap : Word
  oxbase : DWord
  schedclass : List Word
  schedres : Word
  pcap : Word
  gangtime : Word
  gangwait : Word
  rwctl : Word
  oxbow : Word
  nrgctxsel : Word
  cmd : Word
  cmdarg : List DWord
  cmdstat : DWord
  /-- RESULT and DATA of the running command, once it has them -/
  outcome : Option (Nat × Nat)
  /-- contexts killed and acknowledged, with no launch accepted since (17 R413, 19 R448) -/
  killed : List Nat
deriving DecidableEq, Repr

/-- Roofwalk (18 R425 to R428). -/
structure Roofwalk where
  /-- next cluster of the rotation, the core cycle its walk is due, and clusters moved to the front -/
  next : Nat
  nextAt : Nat
  front : List Nat
  /-- abandoned walks: a cluster, plus 64 until the next cluster's turn has come -/
  retry : List Nat
  horizon : Nat
  /-- received taints: context, start, end -/
  taints : List (Nat × Nat × Nat)
  /-- peers of each context, with the device time of the last exchange (18 R428) -/
  peers : List (Nat × List (Nat × Nat))
deriving DecidableEq, Repr

/-- Scheduler state (14 R327 to R333). -/
structure Sched where
  /-- submits recorded while the pending set is full are held in the queue table (14 R326) -/
  opportunities : Nat
  /-- due blocks and their marked cores, in the order they became due (14 R328) -/
  due : List (Nat × Nat)
  /-- cores chosen for gang members: core and block (16 R371) -/
  gangCores : List (Nat × Nat)
  /-- submits accepted: queue, tail and the device time it came (14 R327) -/
  arrivals : List (Nat × Nat × Nat)
  /-- starts in a row that gangs of members here have missed, by their coordinators' ABORTs (16 R367) -/
  gangAborts : List (Nat × Nat) := []
  /-- records read whose check waits for a page (14 R321): queue, record address, arrival, bytes -/
  holding : List (Nat × Nat × Nat × List Byte)
  /-- pages such reads wait for: context, with the cluster of the walk times 2^16 added, page, and whether the scheduler reads them, which a
  missing entry ends at once (14 R321; 17 R408) -/
  xlHeld : List (Nat × Nat × Bool)
  /-- pages whose translation failed for such reads: context and cluster, page, cause, and whether the scheduler read them -/
  xlFailed : List (Nat × Nat × Nat × Bool)
  /-- reservoir level in 1/18 nJ -/
  reservoir : Int
  nrgPkg : DWord
  nrgDie : List DWord
  nrgCtx : List (Nat × DWord)
deriving DecidableEq, Repr

/-- A message of a host or a peer that has come and cannot be performed yet (19 R439 to R441; 07 R201). -/
inductive Incoming where
  | memwr (session addr : Nat) (data : List Byte)
  | memrd (session addr len : Nat)
  | submit (session q tail : Nat)
  | rdmaWrite (qp region : Nat) (key : Word) (addr : Nat) (data : List Byte)
  | rdmaRead (qp region : Nat) (key : Word) (addr len : Nat)
  | send (qp : Nat) (data : List Byte)
  | access (peer : Nat) (target : PeerTarget) (access : PeerAccess)
  | coll (sender ctx step op : Nat) (ea : DWord) (data : List Byte)
deriving DecidableEq, Repr

/-- The state of the package. -/
structure State where
  /-- core cycles since package reset (00 R5); DEVTIME counts 10 ticks in 36 cycles (17 R401) -/
  now : Nat
  /-- correction of DEVTIME from time messages (19 R441), in ticks -/
  devAdj : Int
  /-- instructions and events to happen next (the model's own; log entry 1) -/
  agenda : List Instr
  /-- counter of undefined values (the model's own; log entry 2) -/
  fresh : Nat
  /-- counter of operations and objects in issue order -/
  seq : Nat
  /-- the bundle that issues now -/
  cur : List (Nat × Nat)
  bundles : List Bundle
  /-- the issuing agent whose turn was last, 2c for the lane pipe of core c and 2c + 1 for its AAE: they take turns (the
  model's own; log entry 1) -/
  turn : Nat
  outbox : List Msg
  /-- messages this device sent to itself, not yet taken (the model's own; log entry 1) -/
  loop : List Msg
  /-- messages of hosts and peers that have come and cannot be performed yet, oldest first: those of one session, queue pair or peer are
  performed in the order sent (01_machine.md R32; 07_ordering.md R201) -/
  inbox : List Incoming
  /-- device memory, default zero (19 R446 step 4) -/
  mem : List Host.Cell
  /-- capacity tier: page number, size code, bytes -/
  capacity : List (Nat × Nat × List Host.Cell)
  /-- scratchpads: core * 2^18 + offset, default 0 -/
  pads : List Host.Cell
  /-- L1 copies (07 R174), by core, key slot and physical address -/
  views : List Host.Cell
  /-- instruction-path copies (02 R52), keyed as views -/
  ipath : List Host.Cell
  ops : List MemOp
  /-- granules set full by a command's completion write, with the command's scope (07 R198): scratchpad granules as
  core * 2^14 + granule, window granules as 2^40 + block * 2^20 + index -/
  doneGrans : List (Nat × Scope)
  pins : List Pin
  cores : List (Nat × CoreState)
  clusters : List (Nat × ClusterState)
  blocks : List (Nat × Block)
  launches : List Launch
  launchOps : List LaunchOp
  chains : List Chain
  futures : List (Nat × Future)
  futOps : List FutOp
  gangOps : List GangOp
  hzOps : List HzOp
  gangs : List Gang
  sched : Sched
  roofwalk : Roofwalk
  oxCount : Nat
  oxRuns : List OxRun
  /-- 16-byte units of device memory that were lost with a stack and read as zero bytes under any key (18 R435) -/
  zeroed : List Nat
  thatch : Thatch
  links : Links
  mgmt : Mgmt
deriving DecidableEq, Repr

/-- A store of zeros. -/
def Store.zero : Store := { seed := none, cells := [] }

/-- A store of undefined values of one seed. -/
def Store.free (n : Nat) : Store := { seed := some n, cells := [] }

/-- A run that has done nothing yet. -/
def EngRun.init : EngRun :=
  { tries := 0, done := 0, outs := none, got := none, crc := 0, result := 0, count := 0, overflow := none, held := [], late := [] }

/-- A core after reset: the CSRs' reset values, everything in service (00 R1, 10 R250, 07 R184, 06 R166). -/
def CoreState.init : CoreState :=
  { chstat := 0, chcnt := List.replicate 5 0, chlast := 0, pinlim := 0x00010000, specdrop := 0
    withdrawn := false, halted := false, gate := .on 0
    tiles := List.replicate 8 (Store.free 0), bounds := List.replicate 8 (Store.free 0), bsram := Store.free 0
    matrixCtx := none, sequencer := [], loader := [], recon := [], oprdy := [] }

/-- A cluster after reset: empty translation cache, first passing walk begun at device time 0 (19 R446). -/
def ClusterState.init : ClusterState :=
  { tlb := [], reqs := [], reqCount := 0, quarantined := false, lastPass := 0, phase := .none, ctxs := [], served := [] }

/-- A free future entry (15 R343). -/
def Future.init : Future := { st := .free, gen := 0, ctx := 0, count := 0, result := 0, status := 0 }

/-- Management registers after reset (19 R450 and the rules it names). -/
def Mgmt.init : Mgmt :=
  { devindex := 0, devstate := 6, qtbase := 0, ctxbase := 0, fbufbase := List.replicate 4 0, walkentry := 0
    futbase := 0, fimgbase := 0, fsavebase := 0, futcap := 0, oxbase := 0
    schedclass := [0x0E10, 0x8CA0, 0x57E40, 0x57E40], schedres := 0, pcap := 0xA28
    gangtime := 0x1432000A, gangwait := 0x7D0, rwctl := 0x00C803E8, oxbow := 0, nrgctxsel := 0
    cmd := 0, cmdarg := List.replicate 4 0, cmdstat := 0, outcome := none, killed := [] }

/-- The machine after package reset, start-up complete (19 R446; log entry 4). -/
def State.reset : State :=
  { now := 0, devAdj := 0, agenda := [], fresh := 1, seq := 0, cur := [], bundles := [], turn := 1023, outbox := [], loop := [], inbox := []
    mem := [], capacity := [], pads := [], views := [], ipath := [], ops := [], doneGrans := [], pins := []
    cores := [], clusters := [], blocks := [], launches := [], launchOps := [], chains := []
    futures := [], futOps := [], gangOps := [], hzOps := [], gangs := []
    sched := { opportunities := 0, due := [], gangCores := [], arrivals := [], holding := [], xlHeld := [], xlFailed := [], reservoir := 468000000000
               nrgPkg := 0, nrgDie := List.replicate 4 0, nrgCtx := [] }
    roofwalk := { next := 0, nextAt := 11250000, front := [], retry := [], horizon := 0, taints := [], peers := [] }
    oxCount := 0, oxRuns := [], zeroed := []
    thatch := { stripes := [], owed := [], lostStack := none, failed := false, healthy := false
                rebuilding := false, rebuilt := 0 }
    links := { sessions := [], keyExchange := none, secure := false, unacked := [], sent := [], dropped := 0, regions := []
               rings := [], keys := [], heard := [], lostPeers := [], steps := [], measured := 0, timeSent := 0 }
    mgmt := Mgmt.init }

end Sys2Proof.Machine
end

