-- ==== Sys2Proof/Decode.lean ====
section
/-! DEFINITION. The decoder and the encoder of instruction words (02_encoding.md R33 to R44, R54 to R58). The
decoder is total on any bytes and rejects by name; what it accepts may still be ill formed by R53 checks 1
and 2 (WellFormed.lean), so every word of an opcode row decodes to that row. -/

namespace Sys2Proof

/-- Why a sequence of bytes is no instruction (all of these are check 1 or 2 of R53 for a whole word). -/
inductive Reject where
  /-- fewer than four bytes -/
  | truncated
  /-- opcode, fn or sub that no row assigns (R54, R57, R58) -/
  | unassigned
  /-- a coded field with an unassigned value, a reserved bit or an unfilled operand (R35 to R37) -/
  | reservedField
  /-- a literal instruction without its literal word (R43) -/
  | literalOutside
deriving DecidableEq, Repr

/-- Bit k of a natural number. -/
def bit (n k : Nat) : Bool := n / 2 ^ k % 2 == 1

/-! Codes of the coded fields (02 R34 to R39, R56; the fn, sub and control-word fields of the class chapters). -/

/-- The 8-bit code of a lane operand (R38). -/
def LReg.code : LReg → Nat
  | .v n => n.val
  | .q n => 224 + n.val
  | .o n => 232 + n.val
  | .x => 240
  | .zero => 241
  | .tid => 242
  | .resv n => 243 + n.val
  | .s n => 248 + n.val

/-- The lane operand an 8-bit code names (R38). -/
def LReg.ofCode (c : Nat) : LReg :=
  if c < 224 then .v (Fin.ofNat 224 c)
  else if c < 232 then .q (Fin.ofNat 8 (c - 224))
  else if c < 240 then .o (Fin.ofNat 8 (c - 232))
  else if c = 240 then .x
  else if c = 241 then .zero
  else if c = 242 then .tid
  else if c < 248 then .resv (Fin.ofNat 5 (c - 243))
  else .s (Fin.ofNat 8 (c - 248))

/-- The 7-bit code of a uniform operand (R36). -/
def UReg.code : UReg → Nat
  | .s n => n.val
  | .zero => 64
  | .resv n => 65 + n.val

/-- The uniform operand a 7-bit code names (R36). -/
def UReg.ofCode (c : Nat) : UReg :=
  if c < 64 then .s (Fin.ofNat 64 c)
  else if c = 64 then .zero
  else .resv (Fin.ofNat 63 (c - 65))

/-- Code of Scope (R35). -/
def Scope.code : Scope → Nat
  | .core => 0
  | .die => 1
  | .pkg => 2
  | .dom => 3
  | .sys => 4

/-- Scope of its code (R35); none where the code is unassigned. -/
def Scope.ofCode : Nat → Option Scope
  | 0 => some .core
  | 1 => some .die
  | 2 => some .pkg
  | 3 => some .dom
  | 4 => some .sys
  | _ => none

/-- Code of Hint (R35). -/
def Hint.code : Hint → Nat
  | .normal => 0
  | .once => 1
  | .keep => 2
  | .nol1 => 3

/-- Hint of its code (R35). -/
def Hint.ofCode : Nat → Hint
  | 0 => .normal
  | 1 => .once
  | 2 => .keep
  | _ => .nol1

/-- Code of Width (R35). -/
def Width.code : Width → Nat
  | .w32 => 0
  | .w64 => 1

/-- Width of its code (R35); none where the code is unassigned. -/
def Width.ofCode : Nat → Option Width
  | 0 => some .w32
  | 1 => some .w64
  | _ => none

/-- Code of Rnd (05 R138). -/
def Rnd.code : Rnd → Nat
  | .rn => 0
  | .rz => 1
  | .rd => 2
  | .ru => 3

/-- Rnd of its code (05 R138). -/
def Rnd.ofCode : Nat → Rnd
  | 0 => .rn
  | 1 => .rz
  | 2 => .rd
  | _ => .ru

/-- Code of Cond (R56). -/
def Cond.code : Cond → Nat
  | .eq => 0
  | .ne => 1
  | .ltI => 2
  | .leI => 3
  | .gtI => 4
  | .geI => 5
  | .ltW => 6
  | .leW => 7
  | .gtW => 8
  | .geW => 9
  | .eqP => 10
  | .neP => 11
  | .ltP => 12
  | .leP => 13
  | .gtP => 14
  | .geP => 15
  | .ltPW => 16
  | .lePW => 17
  | .gtPW => 18
  | .gePW => 19
  | .eqF => 20
  | .neF => 21
  | .ltF => 22
  | .leF => 23
  | .gtF => 24
  | .geF => 25
  | .nanF => 26

/-- Cond of its code (R56); none where the code is unassigned. -/
def Cond.ofCode : Nat → Option Cond
  | 0 => some .eq
  | 1 => some .ne
  | 2 => some .ltI
  | 3 => some .leI
  | 4 => some .gtI
  | 5 => some .geI
  | 6 => some .ltW
  | 7 => some .leW
  | 8 => some .gtW
  | 9 => some .geW
  | 10 => some .eqP
  | 11 => some .neP
  | 12 => some .ltP
  | 13 => some .leP
  | 14 => some .gtP
  | 15 => some .geP
  | 16 => some .ltPW
  | 17 => some .lePW
  | 18 => some .gtPW
  | 19 => some .gePW
  | 20 => some .eqF
  | 21 => some .neF
  | 22 => some .ltF
  | 23 => some .leF
  | 24 => some .gtF
  | 25 => some .geF
  | 26 => some .nanF
  | _ => none

/-- Code of SCond (04 R124). -/
def SCond.code : SCond → Nat
  | .eq => 0
  | .ne => 1
  | .ltI => 2
  | .leI => 3
  | .ltW => 4
  | .leW => 5
  | .eq64 => 6
  | .ne64 => 7
  | .ltI64 => 8
  | .leI64 => 9
  | .ltW64 => 10
  | .leW64 => 11

/-- SCond of its code (04 R124); none where the code is unassigned. -/
def SCond.ofCode : Nat → Option SCond
  | 0 => some .eq
  | 1 => some .ne
  | 2 => some .ltI
  | 3 => some .leI
  | 4 => some .ltW
  | 5 => some .leW
  | 6 => some .eq64
  | 7 => some .ne64
  | 8 => some .ltI64
  | 9 => some .leI64
  | 10 => some .ltW64
  | 11 => some .leW64
  | _ => none

/-- Code of USize (04 R125). -/
def USize.code : USize → Nat
  | .w8 => 0
  | .w16 => 1
  | .w32 => 2
  | .w64 => 3
  | .i8 => 4
  | .i16 => 5

/-- USize of its code (04 R125); none where the code is unassigned. -/
def USize.ofCode : Nat → Option USize
  | 0 => some .w8
  | 1 => some .w16
  | 2 => some .w32
  | 3 => some .w64
  | 4 => some .i8
  | 5 => some .i16
  | _ => none

/-- Code of CvtKind (05 R143). -/
def CvtKind.code : CvtKind → Nat
  | .f32f16 => 0
  | .f32bf16 => 1
  | .f32e4m3 => 2
  | .f32e5m2 => 3
  | .f16f32 => 4
  | .bf16f32 => 5
  | .h2f32 => 6
  | .b2f32 => 7
  | .e4m3f32 => 8
  | .e5m2f32 => 9
  | .e4m3e5m2 => 10

/-- CvtKind of its code (05 R143); none where the code is unassigned. -/
def CvtKind.ofCode : Nat → Option CvtKind
  | 0 => some .f32f16
  | 1 => some .f32bf16
  | 2 => some .f32e4m3
  | 3 => some .f32e5m2
  | 4 => some .f16f32
  | 5 => some .bf16f32
  | 6 => some .h2f32
  | 7 => some .b2f32
  | 8 => some .e4m3f32
  | 9 => some .e5m2f32
  | 10 => some .e4m3e5m2
  | _ => none

/-- Code of IntType (05 R145). -/
def IntType.code : IntType → Nat
  | .i32 => 0
  | .w32 => 1
  | .i16 => 2
  | .w16 => 3
  | .i8 => 4
  | .w8 => 5
  | .i64 => 6
  | .w64 => 7

/-- IntType of its code (05 R145). -/
def IntType.ofCode : Nat → IntType
  | 0 => .i32
  | 1 => .w32
  | 2 => .i16
  | 3 => .w16
  | 4 => .i8
  | 5 => .w8
  | 6 => .i64
  | _ => .w64

/-- Code of SrcInt (05 R146). -/
def SrcInt.code : SrcInt → Nat
  | .i32 => 0
  | .w32 => 1
  | .i64 => 2
  | .w64 => 3

/-- SrcInt of its code (05 R146). -/
def SrcInt.ofCode : Nat → SrcInt
  | 0 => .i32
  | 1 => .w32
  | 2 => .i64
  | _ => .w64

/-- Code of RedOp (08 R227). -/
def RedOp.code : RedOp → Nat
  | .add => 0
  | .addSat => 1
  | .minI => 2
  | .maxI => 3
  | .minW => 4
  | .maxW => 5
  | .and => 6
  | .or => 7
  | .xor => 8
  | .addF => 9
  | .minF => 10
  | .maxF => 11

/-- RedOp of its code (08 R227); none where the code is unassigned. -/
def RedOp.ofCode : Nat → Option RedOp
  | 0 => some .add
  | 1 => some .addSat
  | 2 => some .minI
  | 3 => some .maxI
  | 4 => some .minW
  | 5 => some .maxW
  | 6 => some .and
  | 7 => some .or
  | 8 => some .xor
  | 9 => some .addF
  | 10 => some .minF
  | 11 => some .maxF
  | _ => none

/-- Code of VoteMode (08 R228). -/
def VoteMode.code : VoteMode → Nat
  | .all => 0
  | .any => 1
  | .uni => 2
  | .maj => 3
  | .odd => 4

/-- VoteMode of its code (08 R228); none where the code is unassigned. -/
def VoteMode.ofCode : Nat → Option VoteMode
  | 0 => some .all
  | 1 => some .any
  | 2 => some .uni
  | 3 => some .maj
  | 4 => some .odd
  | _ => none

/-- Code of AtomOp (07 R185). -/
def AtomOp.code : AtomOp → Nat
  | .add => 0
  | .sub => 1
  | .and => 2
  | .or => 3
  | .xor => 4
  | .minI => 5
  | .maxI => 6
  | .minW => 7
  | .maxW => 8
  | .xchg => 9
  | .inc => 10
  | .dec => 11

/-- AtomOp of its code (07 R185); none where the code is unassigned. -/
def AtomOp.ofCode : Nat → Option AtomOp
  | 0 => some .add
  | 1 => some .sub
  | 2 => some .and
  | 3 => some .or
  | 4 => some .xor
  | 5 => some .minI
  | 6 => some .maxI
  | 7 => some .minW
  | 8 => some .maxW
  | 9 => some .xchg
  | 10 => some .inc
  | 11 => some .dec
  | _ => none

/-- Code of AtomOrder (07 R185). -/
def AtomOrder.code : AtomOrder → Nat
  | .relaxed => 0
  | .acq => 1
  | .rel => 2
  | .acqrel => 3

/-- AtomOrder of its code (07 R185). -/
def AtomOrder.ofCode : Nat → AtomOrder
  | 0 => .relaxed
  | 1 => .acq
  | 2 => .rel
  | _ => .acqrel

/-- Code of AtomUse (07 R185). -/
def AtomUse.code : AtomUse → Nat
  | .unp => 0
  | .com => 1
  | .nord => 2
  | .qnt => 3
  | .spec => 4

/-- AtomUse of its code (07 R185); none where the code is unassigned. -/
def AtomUse.ofCode : Nat → Option AtomUse
  | 0 => some .unp
  | 1 => some .com
  | 2 => some .nord
  | 3 => some .qnt
  | 4 => some .spec
  | _ => none

/-- The literal control word of ATOM and CAS (07 R185). -/
def AtomCtl.code (c : AtomCtl) : Nat :=
  c.f.toNat * 32768 + c.size.code * 16384 + c.scope.code * 2048 + c.order.code * 512 + c.use.code * 64 + c.op.code

/-- The control word's fields; none where a reserved bit is set or a code is unassigned (07 R185). -/
def AtomCtl.ofCode (n : Nat) : Option AtomCtl :=
  if n < 65536 ∧ n / 16 % 4 = 0 then
    match Width.ofCode (n / 16384 % 2), Scope.ofCode (n / 2048 % 8), AtomUse.ofCode (n / 64 % 8), AtomOp.ofCode (n % 16) with
    | some size, some scope, some use, some op =>
      some { f := bit n 15, size := size, scope := scope, order := AtomOrder.ofCode (n / 512 % 4), use := use, op := op }
    | _, _, _, _ => none
  else none

/-! The decoder. -/

/-- Decode a lane word from its opcode and its three bytes (R34, R54, R55). -/
def decodeLane (op d a b : Nat) (lit : Option Nat) : Except Reject Instr :=
  match op with
  | 1 => .ok (.bra (BitVec.ofNat 24 (d * 65536 + a * 256 + b)))
  | 2 => .ok (.brp (Fin.ofNat 8 (d / 32)) (BitVec.ofNat 21 (d % 32 * 65536 + a * 256 + b)))
  | 3 => .ok (.brn (Fin.ofNat 8 (d / 32)) (BitVec.ofNat 21 (d % 32 * 65536 + a * 256 + b)))
  | 4 => if b = 241 then (if d = 241 then .ok (.brx (LReg.ofCode a)) else .error .reservedField) else .error .reservedField
  | 5 => .ok (.call (BitVec.ofNat 24 (d * 65536 + a * 256 + b)))
  | 6 => if b = 241 then (if d = 241 then .ok (.callx (LReg.ofCode a)) else .error .reservedField) else .error .reservedField
  | 7 => if b = 0 then (if d = 0 ∧ a = 0 then .ok (.ret) else .error .reservedField) else .error .reservedField
  | 8 => if b = 0 then (if d = 0 ∧ a = 0 then .ok (.exit) else .error .reservedField) else .error .reservedField
  | 9 => if d = 241 ∧ a = 241 ∧ b % 32 = 0 then .ok (.reconv (Fin.ofNat 8 (b / 32))) else .error .reservedField
  | 10 => if d = 241 ∧ a < 16 then .ok (.waitf (BitVec.ofNat 12 (a * 256 + b))) else .error .reservedField
  | 11 => if b = 0 then (if d = 0 ∧ a = 0 then .ok (.nop) else .error .reservedField) else .error .reservedField
  | 12 => if d = 241 then .ok (.bkpt (BitVec.ofNat 16 (a * 256 + b))) else .error .reservedField
  | 16 => if b = 0 then (.ok (.mov (LReg.ofCode d) (LReg.ofCode a)))
    else if b = 1 then (.ok (.neg (LReg.ofCode d) (LReg.ofCode a)))
    else if b = 2 then (.ok (.negSatI32 (LReg.ofCode d) (LReg.ofCode a)))
    else if b = 3 then (.ok (.abs (LReg.ofCode d) (LReg.ofCode a)))
    else if b = 4 then (.ok (.absSatI32 (LReg.ofCode d) (LReg.ofCode a)))
    else if b = 5 then (.ok (.not (LReg.ofCode d) (LReg.ofCode a)))
    else if b = 6 then (.ok (.popc (LReg.ofCode d) (LReg.ofCode a)))
    else if b = 7 then (.ok (.clz (LReg.ofCode d) (LReg.ofCode a)))
    else if b = 8 then (.ok (.ctz (LReg.ofCode d) (LReg.ofCode a)))
    else if b = 9 then (.ok (.brev (LReg.ofCode d) (LReg.ofCode a)))
    else if b = 10 then (.ok (.cvtiI8 (LReg.ofCode d) (LReg.ofCode a)))
    else if b = 11 then (.ok (.cvtiW8 (LReg.ofCode d) (LReg.ofCode a)))
    else if b = 12 then (.ok (.cvtiI16 (LReg.ofCode d) (LReg.ofCode a)))
    else if b = 13 then (.ok (.cvtiW16 (LReg.ofCode d) (LReg.ofCode a)))
    else if b = 14 then (.ok (.cvtiI64 (LReg.ofCode d) (LReg.ofCode a)))
    else if b = 15 then (.ok (.cvtiW64 (LReg.ofCode d) (LReg.ofCode a)))
    else if b = 16 then (.ok (.cvtiSatI8 (LReg.ofCode d) (LReg.ofCode a)))
    else if b = 17 then (.ok (.cvtiSatW8 (LReg.ofCode d) (LReg.ofCode a)))
    else if b = 18 then (.ok (.cvtiSatI16 (LReg.ofCode d) (LReg.ofCode a)))
    else if b = 19 then (.ok (.cvtiSatW16 (LReg.ofCode d) (LReg.ofCode a)))
    else if b = 20 then (.ok (.cvtiSatW32 (LReg.ofCode d) (LReg.ofCode a)))
    else if b = 21 then (.ok (.cvtiSatI32 (LReg.ofCode d) (LReg.ofCode a)))
    else if b = 22 then (if a < 8 then .ok (.setv (LReg.ofCode d) (Fin.ofNat 8 a)) else .error .reservedField)
    else .error .unassigned
  | 17 => .ok (.add (LReg.ofCode d) (LReg.ofCode a) (LReg.ofCode b))
  | 18 => .ok (.addc (LReg.ofCode d) (LReg.ofCode a) (LReg.ofCode b))
  | 19 => .ok (.sub (LReg.ofCode d) (LReg.ofCode a) (LReg.ofCode b))
  | 20 => .ok (.subb (LReg.ofCode d) (LReg.ofCode a) (LReg.ofCode b))
  | 21 => .ok (.mullo (LReg.ofCode d) (LReg.ofCode a) (LReg.ofCode b))
  | 22 => .ok (.mulhiI32 (LReg.ofCode d) (LReg.ofCode a) (LReg.ofCode b))
  | 23 => .ok (.mulhiW32 (LReg.ofCode d) (LReg.ofCode a) (LReg.ofCode b))
  | 24 => .ok (.mad (LReg.ofCode d) (LReg.ofCode a) (LReg.ofCode b))
  | 25 => .ok (.minI32 (LReg.ofCode d) (LReg.ofCode a) (LReg.ofCode b))
  | 26 => .ok (.minW32 (LReg.ofCode d) (LReg.ofCode a) (LReg.ofCode b))
  | 27 => .ok (.maxI32 (LReg.ofCode d) (LReg.ofCode a) (LReg.ofCode b))
  | 28 => .ok (.maxW32 (LReg.ofCode d) (LReg.ofCode a) (LReg.ofCode b))
  | 29 => .ok (.and (LReg.ofCode d) (LReg.ofCode a) (LReg.ofCode b))
  | 30 => .ok (.or (LReg.ofCode d) (LReg.ofCode a) (LReg.ofCode b))
  | 31 => .ok (.xor (LReg.ofCode d) (LReg.ofCode a) (LReg.ofCode b))
  | 32 => .ok (.andn (LReg.ofCode d) (LReg.ofCode a) (LReg.ofCode b))
  | 33 => .ok (.shl (LReg.ofCode d) (LReg.ofCode a) (LReg.ofCode b))
  | 34 => .ok (.shr (LReg.ofCode d) (LReg.ofCode a) (LReg.ofCode b))
  | 35 => .ok (.sar (LReg.ofCode d) (LReg.ofCode a) (LReg.ofCode b))
  | 36 => .ok (.fshl (LReg.ofCode d) (LReg.ofCode a) (LReg.ofCode b))
  | 37 => .ok (.fshr (LReg.ofCode d) (LReg.ofCode a) (LReg.ofCode b))
  | 38 => .ok (.rotl (LReg.ofCode d) (LReg.ofCode a) (LReg.ofCode b))
  | 39 => .ok (.bfx (LReg.ofCode d) (LReg.ofCode a) (LReg.ofCode b))
  | 40 => .ok (.bfi (LReg.ofCode d) (LReg.ofCode a) (LReg.ofCode b))
  | 41 => .ok (.prmt (LReg.ofCode d) (LReg.ofCode a) (LReg.ofCode b))
  | 42 => .ok (.sel (LReg.ofCode d) (LReg.ofCode a) (LReg.ofCode b))
  | 43 => (match Cond.ofCode (d % 32) with | some cond => .ok (.setp (Fin.ofNat 8 (d / 32)) cond (LReg.ofCode a) (LReg.ofCode b)) | none => .error .reservedField)
  | 44 => .ok (.movi (LReg.ofCode d) (BitVec.ofNat 16 (a * 256 + b)))
  | 45 => if b = 0 then (if a = 0 then (match lit with | some n => let lit : Word := BitVec.ofNat 32 n; .ok (.lit (LReg.ofCode d) lit) | none => .error .literalOutside) else .error .reservedField) else .error .reservedField
  | 46 => .ok (.lea (LReg.ofCode d) (LReg.ofCode a) (LReg.ofCode b))
  | 47 => .ok (.sad (LReg.ofCode d) (LReg.ofCode a) (LReg.ofCode b))
  | 48 => .ok (.addI16x2 (LReg.ofCode d) (LReg.ofCode a) (LReg.ofCode b))
  | 49 => .ok (.subI16x2 (LReg.ofCode d) (LReg.ofCode a) (LReg.ofCode b))
  | 50 => .ok (.addSatI16x2 (LReg.ofCode d) (LReg.ofCode a) (LReg.ofCode b))
  | 51 => .ok (.subSatI16x2 (LReg.ofCode d) (LReg.ofCode a) (LReg.ofCode b))
  | 52 => .ok (.minI16x2 (LReg.ofCode d) (LReg.ofCode a) (LReg.ofCode b))
  | 53 => .ok (.maxI16x2 (LReg.ofCode d) (LReg.ofCode a) (LReg.ofCode b))
  | 54 => .ok (.minW16x2 (LReg.ofCode d) (LReg.ofCode a) (LReg.ofCode b))
  | 55 => .ok (.maxW16x2 (LReg.ofCode d) (LReg.ofCode a) (LReg.ofCode b))
  | 56 => .ok (.faddF32 (LReg.ofCode d) (LReg.ofCode a) (LReg.ofCode b))
  | 57 => .ok (.fsubF32 (LReg.ofCode d) (LReg.ofCode a) (LReg.ofCode b))
  | 58 => .ok (.fmulF32 (LReg.ofCode d) (LReg.ofCode a) (LReg.ofCode b))
  | 59 => .ok (.ffmaF32 (LReg.ofCode d) (LReg.ofCode a) (LReg.ofCode b))
  | 60 => if b = 0 then (.ok (.frcp (LReg.ofCode d) (LReg.ofCode a)))
    else if b = 1 then (.ok (.frsq (LReg.ofCode d) (LReg.ofCode a)))
    else if b = 2 then (.ok (.fsqrt (LReg.ofCode d) (LReg.ofCode a)))
    else if b = 3 then (.ok (.fexp2 (LReg.ofCode d) (LReg.ofCode a)))
    else if b = 4 then (.ok (.flog2 (LReg.ofCode d) (LReg.ofCode a)))
    else if b = 5 then (.ok (.fsin (LReg.ofCode d) (LReg.ofCode a)))
    else if b = 6 then (.ok (.fcos (LReg.ofCode d) (LReg.ofCode a)))
    else if b / 4 = 2 then (.ok (.frnd (LReg.ofCode d) (LReg.ofCode a) (Rnd.ofCode (b % 4))))
    else .error .unassigned
  | 61 => (match CvtKind.ofCode (b % 32) with | some kind => .ok (.fcvt (LReg.ofCode d) (LReg.ofCode a) (Fin.ofNat 4 (b / 64)) (bit b 5) kind) | none => .error .reservedField)
  | 62 => if b / 8 % 8 = 0 then .ok (.fcvti (LReg.ofCode d) (LReg.ofCode a) (Rnd.ofCode (b / 64)) (IntType.ofCode (b % 8))) else .error .reservedField
  | 63 => if b / 4 % 16 = 0 then .ok (.icvtf (LReg.ofCode d) (LReg.ofCode a) (Rnd.ofCode (b / 64)) (SrcInt.ofCode (b % 4))) else .error .reservedField
  | 64 => .ok (.faddH2 (LReg.ofCode d) (LReg.ofCode a) (LReg.ofCode b))
  | 65 => .ok (.fmulH2 (LReg.ofCode d) (LReg.ofCode a) (LReg.ofCode b))
  | 66 => .ok (.ffmaH2 (LReg.ofCode d) (LReg.ofCode a) (LReg.ofCode b))
  | 67 => .ok (.faddB2 (LReg.ofCode d) (LReg.ofCode a) (LReg.ofCode b))
  | 68 => .ok (.fmulB2 (LReg.ofCode d) (LReg.ofCode a) (LReg.ofCode b))
  | 69 => .ok (.ffmaB2 (LReg.ofCode d) (LReg.ofCode a) (LReg.ofCode b))
  | 70 => if b = 0 then (.ok (.fsubH2 (LReg.ofCode d) (LReg.ofCode a)))
    else if b = 1 then (.ok (.fsubB2 (LReg.ofCode d) (LReg.ofCode a)))
    else if b = 2 then (.ok (.fminF32 (LReg.ofCode d) (LReg.ofCode a)))
    else if b = 3 then (.ok (.fmaxF32 (LReg.ofCode d) (LReg.ofCode a)))
    else if b = 4 then (.ok (.fminH2 (LReg.ofCode d) (LReg.ofCode a)))
    else if b = 5 then (.ok (.fmaxH2 (LReg.ofCode d) (LReg.ofCode a)))
    else if b = 6 then (.ok (.fminB2 (LReg.ofCode d) (LReg.ofCode a)))
    else if b = 7 then (.ok (.fmaxB2 (LReg.ofCode d) (LReg.ofCode a)))
    else .error .unassigned
  | 71 => .ok (.dot2H2 (LReg.ofCode d) (LReg.ofCode a) (LReg.ofCode b))
  | 72 => .ok (.dot2B2 (LReg.ofCode d) (LReg.ofCode a) (LReg.ofCode b))
  | 73 => .ok (.dot4E4m3 (LReg.ofCode d) (LReg.ofCode a) (LReg.ofCode b))
  | 74 => .ok (.dot4E5m2 (LReg.ofCode d) (LReg.ofCode a) (LReg.ofCode b))
  | 75 => .ok (.bpx (LReg.ofCode d) (LReg.ofCode a) (LReg.ofCode b))
  | 76 => if b = 241 then (.ok (.rencI32 (LReg.ofCode d) (LReg.ofCode a))) else .error .reservedField
  | 77 => if b = 241 then (.ok (.rencI64 (LReg.ofCode d) (LReg.ofCode a))) else .error .reservedField
  | 78 => .ok (.radd (LReg.ofCode d) (LReg.ofCode a) (LReg.ofCode b))
  | 79 => .ok (.rmul (LReg.ofCode d) (LReg.ofCode a) (LReg.ofCode b))
  | 80 => .ok (.rdec (LReg.ofCode d) (LReg.ofCode a) (LReg.ofCode b))
  | 81 => .ok (.rchk (LReg.ofCode d) (LReg.ofCode a) (LReg.ofCode b))
  | 82 => .ok (.madI16x2 (LReg.ofCode d) (LReg.ofCode a) (LReg.ofCode b))
  | 84 => .ok (.ldW8 (LReg.ofCode d) (LReg.ofCode a) (BitVec.ofNat 5 (b / 8)) (bit b 2) (Hint.ofCode (b % 4)))
  | 85 => .ok (.ldI8 (LReg.ofCode d) (LReg.ofCode a) (BitVec.ofNat 5 (b / 8)) (bit b 2) (Hint.ofCode (b % 4)))
  | 86 => .ok (.ldW16 (LReg.ofCode d) (LReg.ofCode a) (BitVec.ofNat 5 (b / 8)) (bit b 2) (Hint.ofCode (b % 4)))
  | 87 => .ok (.ldI16 (LReg.ofCode d) (LReg.ofCode a) (BitVec.ofNat 5 (b / 8)) (bit b 2) (Hint.ofCode (b % 4)))
  | 88 => .ok (.ldW32 (LReg.ofCode d) (LReg.ofCode a) (BitVec.ofNat 5 (b / 8)) (bit b 2) (Hint.ofCode (b % 4)))
  | 89 => .ok (.ldW64 (LReg.ofCode d) (LReg.ofCode a) (BitVec.ofNat 5 (b / 8)) (bit b 2) (Hint.ofCode (b % 4)))
  | 90 => .ok (.ldW128 (LReg.ofCode d) (LReg.ofCode a) (BitVec.ofNat 5 (b / 8)) (bit b 2) (Hint.ofCode (b % 4)))
  | 91 => .ok (.stW8 (LReg.ofCode d) (LReg.ofCode a) (BitVec.ofNat 5 (b / 8)) (bit b 2) (Hint.ofCode (b % 4)))
  | 92 => .ok (.stW16 (LReg.ofCode d) (LReg.ofCode a) (BitVec.ofNat 5 (b / 8)) (bit b 2) (Hint.ofCode (b % 4)))
  | 93 => .ok (.stW32 (LReg.ofCode d) (LReg.ofCode a) (BitVec.ofNat 5 (b / 8)) (bit b 2) (Hint.ofCode (b % 4)))
  | 94 => .ok (.stW64 (LReg.ofCode d) (LReg.ofCode a) (BitVec.ofNat 5 (b / 8)) (bit b 2) (Hint.ofCode (b % 4)))
  | 95 => .ok (.stW128 (LReg.ofCode d) (LReg.ofCode a) (BitVec.ofNat 5 (b / 8)) (bit b 2) (Hint.ofCode (b % 4)))
  | 96 => if b % 4 = 0 then (.ok (.ldxW32 (LReg.ofCode d) (LReg.ofCode a) (BitVec.ofNat 5 (b / 8)) (bit b 2)))
    else if b % 4 = 1 then (.ok (.ldxW64 (LReg.ofCode d) (LReg.ofCode a) (BitVec.ofNat 5 (b / 8)) (bit b 2)))
    else .error .unassigned
  | 97 => .ok (.stm (LReg.ofCode d) (LReg.ofCode a) (LReg.ofCode b))
  | 98 => if b % 4 = 0 then (.ok (.ldFeTake (LReg.ofCode d) (LReg.ofCode a) (BitVec.ofNat 5 (b / 8)) (bit b 2)))
    else if b % 4 = 1 then (.ok (.ldFePeek (LReg.ofCode d) (LReg.ofCode a) (BitVec.ofNat 5 (b / 8)) (bit b 2)))
    else .error .unassigned
  | 99 => .ok (.stFill (LReg.ofCode d) (LReg.ofCode a) (BitVec.ofNat 5 (b / 8)) (bit b 2) (Hint.ofCode (b % 4)))
  | 100 => if d = 241 ∧ b / 4 % 2 = 0 then .ok (.pref (LReg.ofCode a) (BitVec.ofNat 5 (b / 8)) (Hint.ofCode (b % 4))) else .error .reservedField
  | 101 => .ok (.smap (LReg.ofCode d) (LReg.ofCode a) (LReg.ofCode b))
  | 102 => if d = 241 ∧ a = 241 then .ok (.sunmap (LReg.ofCode b)) else .error .reservedField
  | 103 => if a = 241 then .ok (.swb (LReg.ofCode d) (LReg.ofCode b)) else .error .reservedField
  | 104 => if b = 241 then (.ok (.sinv (LReg.ofCode d) (LReg.ofCode a))) else .error .reservedField
  | 105 => if b = 0 then (if d = 0 ∧ a = 0 then .ok (.acquire) else .error .reservedField) else .error .reservedField
  | 106 => (match lit with | some n => (match AtomCtl.ofCode n with | some ctl => .ok (.atom (LReg.ofCode d) (LReg.ofCode a) (LReg.ofCode b) ctl) | none => .error .reservedField) | none => .error .literalOutside)
  | 107 => (match lit with | some n => (match AtomCtl.ofCode n with | some ctl => .ok (.cas (LReg.ofCode d) (LReg.ofCode a) (LReg.ofCode b) ctl) | none => .error .reservedField) | none => .error .literalOutside)
  | 108 => if b % 4 = 0 then (match Scope.ofCode (b / 32) with | some scope => (match Width.ofCode (b / 8 % 4) with | some size => .ok (.ldAcq (LReg.ofCode d) (LReg.ofCode a) scope size (bit b 2)) | none => .error .reservedField) | none => .error .reservedField) else .error .reservedField
  | 109 => if b % 4 = 0 then (match Scope.ofCode (b / 32) with | some scope => (match Width.ofCode (b / 8 % 4) with | some size => .ok (.stRel (LReg.ofCode d) (LReg.ofCode a) scope size (bit b 2)) | none => .error .reservedField) | none => .error .reservedField) else .error .reservedField
  | 110 => if d = 241 ∧ a = 0 then (match Scope.ofCode b with | some scope => .ok (.fence scope) | none => .error .reservedField) else .error .reservedField
  | 111 => if b = 0 then (if d = 0 ∧ a = 0 then .ok (.fenceDur) else .error .reservedField) else .error .reservedField
  | 112 => if d = 241 ∧ b / 8 % 4 = 0 then .ok (.tjoin (LReg.ofCode a) (Fin.ofNat 8 (b / 32)) (Fin.ofNat 8 (b % 8))) else .error .reservedField
  | 113 => if d = 241 ∧ a = 241 ∧ b % 32 = 0 then .ok (.tleave (Fin.ofNat 8 (b / 32))) else .error .reservedField
  | 114 => if d = 241 ∧ a = 241 then (match Scope.ofCode (b % 32) with | some scope => .ok (.tbar (Fin.ofNat 8 (b / 32)) scope) | none => .error .reservedField) else .error .reservedField
  | 115 => if d = 241 ∧ a = 241 then (match Scope.ofCode (b % 32) with | some scope => .ok (.tarrive (Fin.ofNat 8 (b / 32)) scope) | none => .error .reservedField) else .error .reservedField
  | 116 => if d = 241 ∧ a = 241 then (match Scope.ofCode (b % 32) with | some scope => .ok (.twait (Fin.ofNat 8 (b / 32)) scope) | none => .error .reservedField) else .error .reservedField
  | 117 => if a = 241 ∧ b / 8 % 4 = 0 then .ok (.elect (LReg.ofCode d) (Fin.ofNat 8 (b / 32)) (Fin.ofNat 8 (b % 8))) else .error .reservedField
  | 118 => .ok (.shfl (LReg.ofCode d) (LReg.ofCode a) (LReg.ofCode b))
  | 119 => (match RedOp.ofCode (b % 32) with | some op => .ok (.tred (LReg.ofCode d) (LReg.ofCode a) (Fin.ofNat 8 (b / 32)) op) | none => .error .reservedField)
  | 120 => (match RedOp.ofCode (b % 16) with | some op => .ok (.tscan (LReg.ofCode d) (LReg.ofCode a) (Fin.ofNat 8 (b / 32)) (bit b 4) op) | none => .error .reservedField)
  | 121 => if a < 8 ∧ b % 32 = 0 then .ok (.ballot (LReg.ofCode d) (Fin.ofNat 8 a) (Fin.ofNat 8 (b / 32))) else .error .reservedField
  | 122 => if d < 8 ∧ a < 8 then (match VoteMode.ofCode (b % 32) with | some mode => .ok (.vote (Fin.ofNat 8 d) (Fin.ofNat 8 a) (Fin.ofNat 8 (b / 32)) mode) | none => .error .reservedField) else .error .reservedField
  | 123 => if b % 32 = 0 then .ok (.matchT (LReg.ofCode d) (LReg.ofCode a) (Fin.ofNat 8 (b / 32))) else .error .reservedField
  | _ => .error .unassigned

/-- Decode a uniform word from its opcode, its three 7-bit fields and its low four bits (R36, R57). -/
def decodeUniform (op d a b l : Nat) (lit : Option Nat) : Except Reject Instr :=
  match op with
  | 0 => if l < 2 then .ok (.sadd (UReg.ofCode d) (UReg.ofCode a) (UReg.ofCode b) (bit l 0)) else .error .reservedField
  | 1 => if l < 2 then .ok (.ssub (UReg.ofCode d) (UReg.ofCode a) (UReg.ofCode b) (bit l 0)) else .error .reservedField
  | 2 => if l < 2 then .ok (.smul (UReg.ofCode d) (UReg.ofCode a) (UReg.ofCode b) (bit l 0)) else .error .reservedField
  | 3 => if l < 2 then .ok (.sand (UReg.ofCode d) (UReg.ofCode a) (UReg.ofCode b) (bit l 0)) else .error .reservedField
  | 4 => if l < 2 then .ok (.sor (UReg.ofCode d) (UReg.ofCode a) (UReg.ofCode b) (bit l 0)) else .error .reservedField
  | 5 => if l < 2 then .ok (.sxor (UReg.ofCode d) (UReg.ofCode a) (UReg.ofCode b) (bit l 0)) else .error .reservedField
  | 6 => if l < 2 then .ok (.sshl (UReg.ofCode d) (UReg.ofCode a) (UReg.ofCode b) (bit l 0)) else .error .reservedField
  | 7 => if l < 2 then .ok (.sshr (UReg.ofCode d) (UReg.ofCode a) (UReg.ofCode b) (bit l 0)) else .error .reservedField
  | 8 => if l < 2 then .ok (.ssar (UReg.ofCode d) (UReg.ofCode a) (UReg.ofCode b) (bit l 0)) else .error .reservedField
  | 9 => if b = 64 ∧ l < 2 then .ok (.smov (UReg.ofCode d) (UReg.ofCode a) (bit l 0)) else .error .reservedField
  | 10 => if l < 2 then .ok (.smovi (UReg.ofCode d) (BitVec.ofNat 14 (a * 128 + b)) (bit l 0)) else .error .reservedField
  | 11 => if a = 0 ∧ b = 0 ∧ l < 2 then (match lit with | some n => let lit : Word := BitVec.ofNat 32 n; .ok (.slit (UReg.ofCode d) (bit l 0) lit) | none => .error .literalOutside) else .error .reservedField
  | 12 => (match SCond.ofCode l with | some cond => .ok (.scmp (UReg.ofCode d) (UReg.ofCode a) (UReg.ofCode b) cond) | none => .error .reservedField)
  | 13 => if l < 2 then .ok (.ssel (UReg.ofCode d) (UReg.ofCode a) (UReg.ofCode b) (bit l 0)) else .error .reservedField
  | 14 => (match USize.ofCode (l % 8) with | some size => .ok (.sld (UReg.ofCode d) (UReg.ofCode a) (BitVec.ofNat 7 b) (bit l 3) size) | none => .error .reservedField)
  | 15 => (match USize.ofCode (l % 8) with | some size => .ok (.sst (UReg.ofCode d) (UReg.ofCode a) (BitVec.ofNat 7 b) (bit l 3) size) | none => .error .reservedField)
  | 16 => if l % 8 = 0 then (.ok (.mma (UReg.ofCode d) (UReg.ofCode a) (UReg.ofCode b) (bit l 3)))
    else if l % 8 = 1 then (if a = 64 then .ok (.mmaQ (UReg.ofCode d) (UReg.ofCode b) (bit l 3)) else .error .reservedField)
    else .error .unassigned
  | 17 => if l % 8 = 0 then (.ok (.mmaz (UReg.ofCode d) (UReg.ofCode a) (UReg.ofCode b) (bit l 3)))
    else if l % 8 = 1 then (if a = 64 then .ok (.mmazQ (UReg.ofCode d) (UReg.ofCode b) (bit l 3)) else .error .reservedField)
    else .error .unassigned
  | 18 => if l % 8 = 0 then (if b = 64 then .ok (.bld (UReg.ofCode d) (UReg.ofCode a) (bit l 3)) else .error .reservedField)
    else if l % 8 = 1 then (if b = 64 then .ok (.bldReed (UReg.ofCode d) (UReg.ofCode a) (bit l 3)) else .error .reservedField)
    else if l % 8 = 2 then (if b = 64 then .ok (.bldConv (UReg.ofCode d) (UReg.ofCode a) (bit l 3)) else .error .reservedField)
    else if l = 3 then (if a = 64 ∧ b = 64 then .ok (.bldClr (UReg.ofCode d)) else .error .reservedField)
    else .error .unassigned
  | 19 => if l = 0 then (if d = 64 ∧ a = 64 ∧ b = 64 then .ok (.oprdy) else .error .reservedField) else .error .reservedField
  | 20 => if l % 8 = 0 then (if b = 64 then .ok (.accld (UReg.ofCode d) (UReg.ofCode a) (bit l 3)) else .error .reservedField) else .error .reservedField
  | 21 => if l % 8 = 0 then (if a = 64 ∧ b = 64 then .ok (.accz (UReg.ofCode d) (bit l 3)) else .error .reservedField)
    else if l % 8 = 1 then (if b = 64 then .ok (.acczRows (UReg.ofCode d) (UReg.ofCode a) (bit l 3)) else .error .reservedField)
    else if l % 8 = 2 then (if a = 64 ∧ b = 64 then .ok (.acczFree (UReg.ofCode d) (bit l 3)) else .error .reservedField)
    else .error .unassigned
  | 22 => if l % 8 = 0 then (if b = 64 then .ok (.accq (UReg.ofCode d) (UReg.ofCode a) (bit l 3)) else .error .reservedField) else .error .reservedField
  | 23 => if l = 0 then (if d = 64 ∧ b = 64 then .ok (.setrstAddr (UReg.ofCode a)) else .error .reservedField)
    else if l = 1 then (if d = 64 ∧ a = 64 ∧ b = 64 then .ok (.setrst) else .error .reservedField)
    else if l = 2 then (if d = 64 ∧ a = 64 ∧ b = 64 then .ok (.setrstClr) else .error .reservedField)
    else .error .unassigned
  | 24 => if d = 64 ∧ b = 64 ∧ l % 8 < 2 then .ok (.copy (UReg.ofCode a) (bit l 3) (bit l 0)) else .error .reservedField
  | 25 => if d = 64 ∧ b = 64 ∧ l % 8 < 2 then .ok (.conv (UReg.ofCode a) (bit l 3) (bit l 0)) else .error .reservedField
  | 26 => if d = 64 ∧ b = 64 ∧ l % 8 < 2 then .ok (.gauge (UReg.ofCode a) (bit l 3) (bit l 0)) else .error .reservedField
  | 27 => if d = 64 ∧ b = 64 ∧ l % 8 < 2 then .ok (.reed (UReg.ofCode a) (bit l 3) (bit l 0)) else .error .reservedField
  | 28 => if d = 64 ∧ b = 64 ∧ l % 8 < 2 then .ok (.alist (UReg.ofCode a) (bit l 3) (bit l 0)) else .error .reservedField
  | 29 => if d = 64 ∧ b = 64 ∧ l % 8 < 2 then .ok (.coll (UReg.ofCode a) (bit l 3) (bit l 0)) else .error .reservedField
  | 30 => if l = 0 then (if b = 64 then .ok (.ecancel (UReg.ofCode d) (UReg.ofCode a)) else .error .reservedField)
    else if l = 1 then (if a = 64 ∧ b = 64 then .ok (.ecancelAll (UReg.ofCode d)) else .error .reservedField)
    else .error .unassigned
  | 32 => .ok (.fspawn (UReg.ofCode d) (UReg.ofCode a) (UReg.ofCode b) (bit l 3) (Fin.ofNat 8 (l % 8)))
  | 33 => if l % 8 = 0 then (if b = 64 then .ok (.fref (UReg.ofCode d) (UReg.ofCode a) (bit l 3)) else .error .reservedField) else .error .reservedField
  | 34 => if l % 8 = 0 then (if d = 64 ∧ b = 64 then .ok (.fdrop (UReg.ofCode a) (bit l 3)) else .error .reservedField) else .error .reservedField
  | 35 => if l % 8 = 0 then (.ok (.fget (UReg.ofCode d) (UReg.ofCode a) (UReg.ofCode b) (bit l 3)))
    else if l % 8 = 1 then (.ok (.fgetD (UReg.ofCode d) (UReg.ofCode a) (UReg.ofCode b) (bit l 3)))
    else .error .unassigned
  | 36 => if l % 8 = 0 then (if d = 64 ∧ b = 64 then .ok (.fput (UReg.ofCode a) (bit l 3)) else .error .reservedField) else .error .reservedField
  | 37 => if l % 8 = 0 then (if b = 64 then .ok (.fpoll (UReg.ofCode d) (UReg.ofCode a) (bit l 3)) else .error .reservedField) else .error .reservedField
  | 38 => if l = 0 then (if a = 64 ∧ b = 64 then .ok (.fself (UReg.ofCode d)) else .error .reservedField) else .error .reservedField
  | 40 => if l % 8 = 0 then (if a = 64 ∧ b = 64 then .ok (.fordatt (UReg.ofCode d) (bit l 3)) else .error .reservedField) else .error .reservedField
  | 41 => if l % 8 = 0 then (if d = 64 ∧ a = 64 ∧ b = 64 then .ok (.forddet (bit l 3)) else .error .reservedField) else .error .reservedField
  | 42 => if l = 0 then (if a = 64 ∧ b = 64 then .ok (.fordq (UReg.ofCode d)) else .error .reservedField)
    else if l = 1 then (if b = 64 then .ok (.fordqState (UReg.ofCode d) (UReg.ofCode a)) else .error .reservedField)
    else if l = 2 then (if a = 64 ∧ b = 64 then .ok (.fordqCount (UReg.ofCode d)) else .error .reservedField)
    else .error .unassigned
  | 43 => if l % 8 = 0 then (if a = 64 ∧ b = 64 then .ok (.gsync (UReg.ofCode d) (bit l 3)) else .error .reservedField) else .error .reservedField
  | 44 => if a = 64 ∧ b = 64 ∧ l < 8 then .ok (.hstream (UReg.ofCode d) (Fin.ofNat 8 l)) else .error .reservedField
  | 45 => if a = 64 ∧ b = 64 ∧ l < 8 then .ok (.hloop (UReg.ofCode d) (Fin.ofNat 8 l)) else .error .reservedField
  | 46 => if d = 64 ∧ b = 64 ∧ l < 8 then .ok (.hpush (UReg.ofCode a) (Fin.ofNat 8 l)) else .error .reservedField
  | 47 => if l % 8 = 0 then (if d = 64 ∧ a = 64 ∧ b = 64 then .ok (.hend (bit l 3)) else .error .reservedField) else .error .reservedField
  | 48 => if l = 0 then (if d = 64 ∧ b = 64 then .ok (.hsyncDrain (UReg.ofCode a)) else .error .reservedField)
    else if l = 1 then (if d = 64 ∧ b = 64 then .ok (.hsyncKind (UReg.ofCode a)) else .error .reservedField)
    else .error .unassigned
  | 50 => if l = 0 then (if d = 64 ∧ a = 64 ∧ b = 64 then .ok (.yield) else .error .reservedField) else .error .reservedField
  | 51 => if l = 0 then (if a = 64 ∧ b = 64 then .ok (.budgetCyc (UReg.ofCode d)) else .error .reservedField)
    else if l = 1 then (if a = 64 ∧ b = 64 then .ok (.budgetNrg (UReg.ofCode d)) else .error .reservedField)
    else if l = 2 then (if a = 64 ∧ b = 64 then .ok (.budgetCtx (UReg.ofCode d)) else .error .reservedField)
    else if l = 3 then (if a = 64 ∧ b = 64 then .ok (.budgetTime (UReg.ofCode d)) else .error .reservedField)
    else .error .unassigned
  | 52 => if l % 8 = 0 then (if b = 64 then .ok (.launch (UReg.ofCode d) (UReg.ofCode a) (bit l 3)) else .error .reservedField) else .error .reservedField
  | 56 => if l = 0 then (if d = 64 then .ok (.trap (BitVec.ofNat 14 (a * 128 + b))) else .error .reservedField) else .error .reservedField
  | 57 => if l = 0 then (if d = 64 ∧ a = 64 ∧ b = 64 then .ok (.eret) else .error .reservedField) else .error .reservedField
  | 58 => if l = 0 then (if b % 4 = 0 then .ok (.csrr (UReg.ofCode d) (BitVec.ofNat 12 (a * 32 + b / 4))) else .error .reservedField)
    else if l = 1 then (if b % 4 = 0 then .ok (.csrrThread (Fin.ofNat 128 d) (BitVec.ofNat 12 (a * 32 + b / 4))) else .error .reservedField)
    else .error .unassigned
  | 59 => if l = 0 then (if b % 4 = 0 then .ok (.csrw (UReg.ofCode d) (BitVec.ofNat 12 (a * 32 + b / 4))) else .error .reservedField)
    else if l = 1 then (if b % 4 = 0 then .ok (.csrwThread (Fin.ofNat 128 d) (BitVec.ofNat 12 (a * 32 + b / 4))) else .error .reservedField)
    else .error .unassigned
  | 60 => if l = 0 then (.ok (.tlbfill (UReg.ofCode d) (UReg.ofCode a) (UReg.ofCode b)))
    else if l = 1 then (if b = 64 then .ok (.tlbinv (UReg.ofCode d) (UReg.ofCode a)) else .error .reservedField)
    else if l = 2 then (if b = 64 then .ok (.walkdone (UReg.ofCode d) (UReg.ofCode a)) else .error .reservedField)
    else .error .unassigned
  | 61 => if l = 0 then (if b = 64 then .ok (.errpop (UReg.ofCode d) (UReg.ofCode a)) else .error .reservedField) else .error .reservedField
  | 62 => if l % 8 = 0 then (if b = 64 then .ok (.hzwait (UReg.ofCode d) (UReg.ofCode a) (bit l 3)) else .error .reservedField) else .error .reservedField
  | _ => .error .unassigned

/-- Decode one word and the literal that follows it, if any (R33). -/
def decodeWord (w : Nat) (lit : Option Nat) : Except Reject Instr :=
  if w / 33554432 = 127 then
    .ok (.clauseHeader (BitVec.ofNat 4 (w / 2097152)) (BitVec.ofNat 12 (w / 512)) (BitVec.ofNat 4 (w / 32))
      (BitVec.ofNat 4 (w / 2)) (bit w 0))
  else if w / 2147483648 = 1 then
    decodeUniform (w / 33554432 % 64) (w / 262144 % 128) (w / 2048 % 128) (w / 16 % 128) (w % 16) lit
  else decodeLane (w / 16777216) (w / 65536 % 256) (w / 256 % 256) (w % 256) lit

/-- Does the instruction take a literal word (R43)? -/
def Instr.takesLiteral : Instr → Bool
  | .lit _ _ | .slit _ _ _ | .atom _ _ _ _ | .cas _ _ _ _ => true
  | _ => false

/-- The little-endian word of four bytes (R4). -/
def wordOfBytes (b0 b1 b2 b3 : Byte) : Nat :=
  b0.toNat + b1.toNat * 256 + b2.toNat * 65536 + b3.toNat * 16777216

/-- The four bytes of a word, least significant first (R4). -/
def bytesOfWord (w : Nat) : List Byte :=
  [BitVec.ofNat 8 w, BitVec.ofNat 8 (w / 256), BitVec.ofNat 8 (w / 65536), BitVec.ofNat 8 (w / 16777216)]

/-- The decoder on bytes: an instruction and the bytes after it, or a rejection by name. -/
def decode : List Byte → Except Reject (Instr × List Byte)
  | b0 :: b1 :: b2 :: b3 :: rest =>
    match rest with
    | c0 :: c1 :: c2 :: c3 :: rest' =>
      match decodeWord (wordOfBytes b0 b1 b2 b3) (some (wordOfBytes c0 c1 c2 c3)) with
      | .ok i => .ok (i, if i.takesLiteral then rest' else rest)
      | .error r => .error r
    | _ =>
      match decodeWord (wordOfBytes b0 b1 b2 b3) none with
      | .ok i => .ok (i, rest)
      | .error r => .error r
  | _ => .error .truncated

/-- The instruction the decoder reads from the bits w, numbered as the opcode table numbers them: the first
word, then (bits 32 up) its literal word, zero above nbits. -/
def decodeTableWord (nbits w : Nat) : Option Instr :=
  let v := w % 2 ^ nbits
  match decode (bytesOfWord (v % 4294967296) ++ bytesOfWord (v / 4294967296)) with
  | .ok (i, _) => some i
  | .error _ => none

/-! The encoder, from the same tables of the spec. An event has no word. -/

/-- A lane word of format LR and its kin (R34). -/
def laneWord (op d a b : Nat) : Nat := op * 16777216 + d * 65536 + a * 256 + b

/-- A uniform word (R36). -/
def uniWord (op d a b l : Nat) : Nat := 2147483648 + op * 33554432 + d * 262144 + a * 2048 + b * 16 + l

/-- A clause header (R44). -/
def headerWord (count wait seta setb point : Nat) : Nat :=
  4261412864 + count * 2097152 + wait * 512 + seta * 32 + setb * 2 + point

/-- The words of an instruction: its word, then its literal word where it takes one; none for an event. -/
def encode : Instr → List Nat
  | .clauseHeader count wait seta setb point =>
    [headerWord count.toNat wait.toNat seta.toNat setb.toNat point.toNat]
  | .clauseStart _ _ => []
  | .bra off => [laneWord 1 (off.toNat / 65536) (off.toNat / 256 % 256) (off.toNat % 256)]
  | .brp p off => [laneWord 2 (p.val * 32 + off.toNat / 65536) (off.toNat / 256 % 256) (off.toNat % 256)]
  | .brn p off => [laneWord 3 (p.val * 32 + off.toNat / 65536) (off.toNat / 256 % 256) (off.toNat % 256)]
  | .brx a => [laneWord 4 (241) (a.code) (241)]
  | .call off => [laneWord 5 (off.toNat / 65536) (off.toNat / 256 % 256) (off.toNat % 256)]
  | .callx a => [laneWord 6 (241) (a.code) (241)]
  | .ret => [laneWord 7 (0) (0) (0)]
  | .exit => [laneWord 8 (0) (0) (0)]
  | .reconv n => [laneWord 9 (241) (241) (n.val * 32)]
  | .waitf mask => [laneWord 10 (241) (mask.toNat / 256) (mask.toNat % 256)]
  | .nop => [laneWord 11 (0) (0) (0)]
  | .bkpt imm => [laneWord 12 (241) (imm.toNat / 256) (imm.toNat % 256)]
  | .mov d a => [laneWord 16 (d.code) (a.code) (0)]
  | .neg d a => [laneWord 16 (d.code) (a.code) (1)]
  | .negSatI32 d a => [laneWord 16 (d.code) (a.code) (2)]
  | .abs d a => [laneWord 16 (d.code) (a.code) (3)]
  | .absSatI32 d a => [laneWord 16 (d.code) (a.code) (4)]
  | .not d a => [laneWord 16 (d.code) (a.code) (5)]
  | .popc d a => [laneWord 16 (d.code) (a.code) (6)]
  | .clz d a => [laneWord 16 (d.code) (a.code) (7)]
  | .ctz d a => [laneWord 16 (d.code) (a.code) (8)]
  | .brev d a => [laneWord 16 (d.code) (a.code) (9)]
  | .cvtiI8 d a => [laneWord 16 (d.code) (a.code) (10)]
  | .cvtiW8 d a => [laneWord 16 (d.code) (a.code) (11)]
  | .cvtiI16 d a => [laneWord 16 (d.code) (a.code) (12)]
  | .cvtiW16 d a => [laneWord 16 (d.code) (a.code) (13)]
  | .cvtiI64 d a => [laneWord 16 (d.code) (a.code) (14)]
  | .cvtiW64 d a => [laneWord 16 (d.code) (a.code) (15)]
  | .cvtiSatI8 d a => [laneWord 16 (d.code) (a.code) (16)]
  | .cvtiSatW8 d a => [laneWord 16 (d.code) (a.code) (17)]
  | .cvtiSatI16 d a => [laneWord 16 (d.code) (a.code) (18)]
  | .cvtiSatW16 d a => [laneWord 16 (d.code) (a.code) (19)]
  | .cvtiSatW32 d a => [laneWord 16 (d.code) (a.code) (20)]
  | .cvtiSatI32 d a => [laneWord 16 (d.code) (a.code) (21)]
  | .setv d p => [laneWord 16 (d.code) (p.val) (22)]
  | .add d a b => [laneWord 17 (d.code) (a.code) (b.code)]
  | .addc d a b => [laneWord 18 (d.code) (a.code) (b.code)]
  | .sub d a b => [laneWord 19 (d.code) (a.code) (b.code)]
  | .subb d a b => [laneWord 20 (d.code) (a.code) (b.code)]
  | .mullo d a b => [laneWord 21 (d.code) (a.code) (b.code)]
  | .mulhiI32 d a b => [laneWord 22 (d.code) (a.code) (b.code)]
  | .mulhiW32 d a b => [laneWord 23 (d.code) (a.code) (b.code)]
  | .mad d a b => [laneWord 24 (d.code) (a.code) (b.code)]
  | .minI32 d a b => [laneWord 25 (d.code) (a.code) (b.code)]
  | .minW32 d a b => [laneWord 26 (d.code) (a.code) (b.code)]
  | .maxI32 d a b => [laneWord 27 (d.code) (a.code) (b.code)]
  | .maxW32 d a b => [laneWord 28 (d.code) (a.code) (b.code)]
  | .and d a b => [laneWord 29 (d.code) (a.code) (b.code)]
  | .or d a b => [laneWord 30 (d.code) (a.code) (b.code)]
  | .xor d a b => [laneWord 31 (d.code) (a.code) (b.code)]
  | .andn d a b => [laneWord 32 (d.code) (a.code) (b.code)]
  | .shl d a b => [laneWord 33 (d.code) (a.code) (b.code)]
  | .shr d a b => [laneWord 34 (d.code) (a.code) (b.code)]
  | .sar d a b => [laneWord 35 (d.code) (a.code) (b.code)]
  | .fshl d a b => [laneWord 36 (d.code) (a.code) (b.code)]
  | .fshr d a b => [laneWord 37 (d.code) (a.code) (b.code)]
  | .rotl d a b => [laneWord 38 (d.code) (a.code) (b.code)]
  | .bfx d a b => [laneWord 39 (d.code) (a.code) (b.code)]
  | .bfi d a b => [laneWord 40 (d.code) (a.code) (b.code)]
  | .prmt d a b => [laneWord 41 (d.code) (a.code) (b.code)]
  | .sel d a b => [laneWord 42 (d.code) (a.code) (b.code)]
  | .setp p cond a b => [laneWord 43 (p.val * 32 + cond.code) (a.code) (b.code)]
  | .movi d imm => [laneWord 44 (d.code) (imm.toNat / 256) (imm.toNat % 256)]
  | .lit d lit => [laneWord 45 (d.code) (0) (0), lit.toNat]
  | .lea d a b => [laneWord 46 (d.code) (a.code) (b.code)]
  | .sad d a b => [laneWord 47 (d.code) (a.code) (b.code)]
  | .addI16x2 d a b => [laneWord 48 (d.code) (a.code) (b.code)]
  | .subI16x2 d a b => [laneWord 49 (d.code) (a.code) (b.code)]
  | .addSatI16x2 d a b => [laneWord 50 (d.code) (a.code) (b.code)]
  | .subSatI16x2 d a b => [laneWord 51 (d.code) (a.code) (b.code)]
  | .minI16x2 d a b => [laneWord 52 (d.code) (a.code) (b.code)]
  | .maxI16x2 d a b => [laneWord 53 (d.code) (a.code) (b.code)]
  | .minW16x2 d a b => [laneWord 54 (d.code) (a.code) (b.code)]
  | .maxW16x2 d a b => [laneWord 55 (d.code) (a.code) (b.code)]
  | .madI16x2 d a b => [laneWord 82 (d.code) (a.code) (b.code)]
  | .faddF32 d a b => [laneWord 56 (d.code) (a.code) (b.code)]
  | .fsubF32 d a b => [laneWord 57 (d.code) (a.code) (b.code)]
  | .fmulF32 d a b => [laneWord 58 (d.code) (a.code) (b.code)]
  | .ffmaF32 d a b => [laneWord 59 (d.code) (a.code) (b.code)]
  | .frcp d a => [laneWord 60 (d.code) (a.code) (0)]
  | .frsq d a => [laneWord 60 (d.code) (a.code) (1)]
  | .fsqrt d a => [laneWord 60 (d.code) (a.code) (2)]
  | .fexp2 d a => [laneWord 60 (d.code) (a.code) (3)]
  | .flog2 d a => [laneWord 60 (d.code) (a.code) (4)]
  | .fsin d a => [laneWord 60 (d.code) (a.code) (5)]
  | .fcos d a => [laneWord 60 (d.code) (a.code) (6)]
  | .frnd d a rnd => [laneWord 60 (d.code) (a.code) (8 + rnd.code)]
  | .fcvt d a n sat kind => [laneWord 61 (d.code) (a.code) (n.val * 64 + sat.toNat * 32 + kind.code)]
  | .fcvti d a rnd ty => [laneWord 62 (d.code) (a.code) (rnd.code * 64 + ty.code)]
  | .icvtf d a rnd ty => [laneWord 63 (d.code) (a.code) (rnd.code * 64 + ty.code)]
  | .faddH2 d a b => [laneWord 64 (d.code) (a.code) (b.code)]
  | .fmulH2 d a b => [laneWord 65 (d.code) (a.code) (b.code)]
  | .ffmaH2 d a b => [laneWord 66 (d.code) (a.code) (b.code)]
  | .faddB2 d a b => [laneWord 67 (d.code) (a.code) (b.code)]
  | .fmulB2 d a b => [laneWord 68 (d.code) (a.code) (b.code)]
  | .ffmaB2 d a b => [laneWord 69 (d.code) (a.code) (b.code)]
  | .fsubH2 d a => [laneWord 70 (d.code) (a.code) (0)]
  | .fsubB2 d a => [laneWord 70 (d.code) (a.code) (1)]
  | .fminF32 d a => [laneWord 70 (d.code) (a.code) (2)]
  | .fmaxF32 d a => [laneWord 70 (d.code) (a.code) (3)]
  | .fminH2 d a => [laneWord 70 (d.code) (a.code) (4)]
  | .fmaxH2 d a => [laneWord 70 (d.code) (a.code) (5)]
  | .fminB2 d a => [laneWord 70 (d.code) (a.code) (6)]
  | .fmaxB2 d a => [laneWord 70 (d.code) (a.code) (7)]
  | .dot2H2 d a b => [laneWord 71 (d.code) (a.code) (b.code)]
  | .dot2B2 d a b => [laneWord 72 (d.code) (a.code) (b.code)]
  | .dot4E4m3 d a b => [laneWord 73 (d.code) (a.code) (b.code)]
  | .dot4E5m2 d a b => [laneWord 74 (d.code) (a.code) (b.code)]
  | .bpx d a b => [laneWord 75 (d.code) (a.code) (b.code)]
  | .rencI32 d a => [laneWord 76 (d.code) (a.code) (241)]
  | .rencI64 d a => [laneWord 77 (d.code) (a.code) (241)]
  | .radd d a b => [laneWord 78 (d.code) (a.code) (b.code)]
  | .rmul d a b => [laneWord 79 (d.code) (a.code) (b.code)]
  | .rdec d a b => [laneWord 80 (d.code) (a.code) (b.code)]
  | .rchk d a b => [laneWord 81 (d.code) (a.code) (b.code)]
  | .ldW8 d a off f h => [laneWord 84 (d.code) (a.code) (off.toNat * 8 + f.toNat * 4 + h.code)]
  | .ldI8 d a off f h => [laneWord 85 (d.code) (a.code) (off.toNat * 8 + f.toNat * 4 + h.code)]
  | .ldW16 d a off f h => [laneWord 86 (d.code) (a.code) (off.toNat * 8 + f.toNat * 4 + h.code)]
  | .ldI16 d a off f h => [laneWord 87 (d.code) (a.code) (off.toNat * 8 + f.toNat * 4 + h.code)]
  | .ldW32 d a off f h => [laneWord 88 (d.code) (a.code) (off.toNat * 8 + f.toNat * 4 + h.code)]
  | .ldW64 d a off f h => [laneWord 89 (d.code) (a.code) (off.toNat * 8 + f.toNat * 4 + h.code)]
  | .ldW128 d a off f h => [laneWord 90 (d.code) (a.code) (off.toNat * 8 + f.toNat * 4 + h.code)]
  | .stW8 d a off f h => [laneWord 91 (d.code) (a.code) (off.toNat * 8 + f.toNat * 4 + h.code)]
  | .stW16 d a off f h => [laneWord 92 (d.code) (a.code) (off.toNat * 8 + f.toNat * 4 + h.code)]
  | .stW32 d a off f h => [laneWord 93 (d.code) (a.code) (off.toNat * 8 + f.toNat * 4 + h.code)]
  | .stW64 d a off f h => [laneWord 94 (d.code) (a.code) (off.toNat * 8 + f.toNat * 4 + h.code)]
  | .stW128 d a off f h => [laneWord 95 (d.code) (a.code) (off.toNat * 8 + f.toNat * 4 + h.code)]
  | .ldxW32 d a off f => [laneWord 96 (d.code) (a.code) (off.toNat * 8 + f.toNat * 4 + 0)]
  | .ldxW64 d a off f => [laneWord 96 (d.code) (a.code) (off.toNat * 8 + f.toNat * 4 + 1)]
  | .stm d a m => [laneWord 97 (d.code) (a.code) (m.code)]
  | .ldFeTake d a off f => [laneWord 98 (d.code) (a.code) (off.toNat * 8 + f.toNat * 4 + 0)]
  | .ldFePeek d a off f => [laneWord 98 (d.code) (a.code) (off.toNat * 8 + f.toNat * 4 + 1)]
  | .stFill d a off f h => [laneWord 99 (d.code) (a.code) (off.toNat * 8 + f.toNat * 4 + h.code)]
  | .pref a off h => [laneWord 100 (241) (a.code) (off.toNat * 8 + h.code)]
  | .smap d a b => [laneWord 101 (d.code) (a.code) (b.code)]
  | .sunmap b => [laneWord 102 (241) (241) (b.code)]
  | .swb d b => [laneWord 103 (d.code) (241) (b.code)]
  | .sinv d a => [laneWord 104 (d.code) (a.code) (241)]
  | .acquire => [laneWord 105 (0) (0) (0)]
  | .atom d a b ctl => [laneWord 106 (d.code) (a.code) (b.code), ctl.code]
  | .cas d a b ctl => [laneWord 107 (d.code) (a.code) (b.code), ctl.code]
  | .ldAcq d a scope size f => [laneWord 108 (d.code) (a.code) (scope.code * 32 + size.code * 8 + f.toNat * 4)]
  | .stRel d a scope size f => [laneWord 109 (d.code) (a.code) (scope.code * 32 + size.code * 8 + f.toNat * 4)]
  | .fence scope => [laneWord 110 (241) (0) (scope.code)]
  | .fenceDur => [laneWord 111 (0) (0) (0)]
  | .tjoin a n m => [laneWord 112 (241) (a.code) (n.val * 32 + m.val)]
  | .tleave n => [laneWord 113 (241) (241) (n.val * 32)]
  | .tbar n scope => [laneWord 114 (241) (241) (n.val * 32 + scope.code)]
  | .tarrive n scope => [laneWord 115 (241) (241) (n.val * 32 + scope.code)]
  | .twait n scope => [laneWord 116 (241) (241) (n.val * 32 + scope.code)]
  | .elect d n k => [laneWord 117 (d.code) (241) (n.val * 32 + k.val)]
  | .shfl d a b => [laneWord 118 (d.code) (a.code) (b.code)]
  | .tred d a n op => [laneWord 119 (d.code) (a.code) (n.val * 32 + op.code)]
  | .tscan d a n excl op => [laneWord 120 (d.code) (a.code) (n.val * 32 + excl.toNat * 16 + op.code)]
  | .ballot d k n => [laneWord 121 (d.code) (k.val) (n.val * 32)]
  | .vote j k n mode => [laneWord 122 (j.val) (k.val) (n.val * 32 + mode.code)]
  | .matchT d a n => [laneWord 123 (d.code) (a.code) (n.val * 32)]
  | .sadd d a b w => [uniWord 0 (d.code) (a.code) (b.code) (w.toNat)]
  | .ssub d a b w => [uniWord 1 (d.code) (a.code) (b.code) (w.toNat)]
  | .smul d a b w => [uniWord 2 (d.code) (a.code) (b.code) (w.toNat)]
  | .sand d a b w => [uniWord 3 (d.code) (a.code) (b.code) (w.toNat)]
  | .sor d a b w => [uniWord 4 (d.code) (a.code) (b.code) (w.toNat)]
  | .sxor d a b w => [uniWord 5 (d.code) (a.code) (b.code) (w.toNat)]
  | .sshl d a b w => [uniWord 6 (d.code) (a.code) (b.code) (w.toNat)]
  | .sshr d a b w => [uniWord 7 (d.code) (a.code) (b.code) (w.toNat)]
  | .ssar d a b w => [uniWord 8 (d.code) (a.code) (b.code) (w.toNat)]
  | .smov d a w => [uniWord 9 (d.code) (a.code) (64) (w.toNat)]
  | .smovi d imm w => [uniWord 10 (d.code) (imm.toNat / 128) (imm.toNat % 128) (w.toNat)]
  | .slit d w lit => [uniWord 11 (d.code) (0) (0) (w.toNat), lit.toNat]
  | .scmp d a b cond => [uniWord 12 (d.code) (a.code) (b.code) (cond.code)]
  | .ssel d a b w => [uniWord 13 (d.code) (a.code) (b.code) (w.toNat)]
  | .sld d a off f size => [uniWord 14 (d.code) (a.code) (off.toNat) (f.toNat * 8 + size.code)]
  | .sst d a off f size => [uniWord 15 (d.code) (a.code) (off.toNat) (f.toNat * 8 + size.code)]
  | .mma d a b f => [uniWord 16 (d.code) (a.code) (b.code) (f.toNat * 8 + 0)]
  | .mmaQ d b f => [uniWord 16 (d.code) (64) (b.code) (f.toNat * 8 + 1)]
  | .mmaz d a b f => [uniWord 17 (d.code) (a.code) (b.code) (f.toNat * 8 + 0)]
  | .mmazQ d b f => [uniWord 17 (d.code) (64) (b.code) (f.toNat * 8 + 1)]
  | .bld d a f => [uniWord 18 (d.code) (a.code) (64) (f.toNat * 8 + 0)]
  | .bldReed d a f => [uniWord 18 (d.code) (a.code) (64) (f.toNat * 8 + 1)]
  | .bldConv d a f => [uniWord 18 (d.code) (a.code) (64) (f.toNat * 8 + 2)]
  | .bldClr d => [uniWord 18 (d.code) (64) (64) (3)]
  | .oprdy => [uniWord 19 (64) (64) (64) (0)]
  | .accld d a f => [uniWord 20 (d.code) (a.code) (64) (f.toNat * 8 + 0)]
  | .accz d f => [uniWord 21 (d.code) (64) (64) (f.toNat * 8 + 0)]
  | .acczRows d a f => [uniWord 21 (d.code) (a.code) (64) (f.toNat * 8 + 1)]
  | .acczFree d f => [uniWord 21 (d.code) (64) (64) (f.toNat * 8 + 2)]
  | .accq d a f => [uniWord 22 (d.code) (a.code) (64) (f.toNat * 8 + 0)]
  | .setrstAddr a => [uniWord 23 (64) (a.code) (64) (0)]
  | .setrst => [uniWord 23 (64) (64) (64) (1)]
  | .setrstClr => [uniWord 23 (64) (64) (64) (2)]
  | .copy a f rel => [uniWord 24 (64) (a.code) (64) (f.toNat * 8 + rel.toNat)]
  | .conv a f rel => [uniWord 25 (64) (a.code) (64) (f.toNat * 8 + rel.toNat)]
  | .gauge a f rel => [uniWord 26 (64) (a.code) (64) (f.toNat * 8 + rel.toNat)]
  | .reed a f rel => [uniWord 27 (64) (a.code) (64) (f.toNat * 8 + rel.toNat)]
  | .alist a f rel => [uniWord 28 (64) (a.code) (64) (f.toNat * 8 + rel.toNat)]
  | .coll a f rel => [uniWord 29 (64) (a.code) (64) (f.toNat * 8 + rel.toNat)]
  | .ecancel d a => [uniWord 30 (d.code) (a.code) (64) (0)]
  | .ecancelAll d => [uniWord 30 (d.code) (64) (64) (1)]
  | .fspawn d a b f n => [uniWord 32 (d.code) (a.code) (b.code) (f.toNat * 8 + n.val)]
  | .fref d a f => [uniWord 33 (d.code) (a.code) (64) (f.toNat * 8 + 0)]
  | .fdrop a f => [uniWord 34 (64) (a.code) (64) (f.toNat * 8 + 0)]
  | .fget d a b f => [uniWord 35 (d.code) (a.code) (b.code) (f.toNat * 8 + 0)]
  | .fgetD d a b f => [uniWord 35 (d.code) (a.code) (b.code) (f.toNat * 8 + 1)]
  | .fput a f => [uniWord 36 (64) (a.code) (64) (f.toNat * 8 + 0)]
  | .fpoll d a f => [uniWord 37 (d.code) (a.code) (64) (f.toNat * 8 + 0)]
  | .fself d => [uniWord 38 (d.code) (64) (64) (0)]
  | .fordatt d f => [uniWord 40 (d.code) (64) (64) (f.toNat * 8 + 0)]
  | .forddet f => [uniWord 41 (64) (64) (64) (f.toNat * 8 + 0)]
  | .fordq d => [uniWord 42 (d.code) (64) (64) (0)]
  | .fordqState d a => [uniWord 42 (d.code) (a.code) (64) (1)]
  | .fordqCount d => [uniWord 42 (d.code) (64) (64) (2)]
  | .gsync d f => [uniWord 43 (d.code) (64) (64) (f.toNat * 8 + 0)]
  | .hstream d j => [uniWord 44 (d.code) (64) (64) (j.val)]
  | .hloop d lvl => [uniWord 45 (d.code) (64) (64) (lvl.val)]
  | .hpush a i => [uniWord 46 (64) (a.code) (64) (i.val)]
  | .hend f => [uniWord 47 (64) (64) (64) (f.toNat * 8 + 0)]
  | .hsyncDrain a => [uniWord 48 (64) (a.code) (64) (0)]
  | .hsyncKind a => [uniWord 48 (64) (a.code) (64) (1)]
  | .yield => [uniWord 50 (64) (64) (64) (0)]
  | .budgetCyc d => [uniWord 51 (d.code) (64) (64) (0)]
  | .budgetNrg d => [uniWord 51 (d.code) (64) (64) (1)]
  | .budgetCtx d => [uniWord 51 (d.code) (64) (64) (2)]
  | .budgetTime d => [uniWord 51 (d.code) (64) (64) (3)]
  | .launch d a f => [uniWord 52 (d.code) (a.code) (64) (f.toNat * 8 + 0)]
  | .trap imm => [uniWord 56 (64) (imm.toNat / 128) (imm.toNat % 128) (0)]
  | .eret => [uniWord 57 (64) (64) (64) (0)]
  | .csrr d csr => [uniWord 58 (d.code) (csr.toNat / 32) (csr.toNat % 32 * 4) (0)]
  | .csrrThread d csr => [uniWord 58 (d.val) (csr.toNat / 32) (csr.toNat % 32 * 4) (1)]
  | .csrw d csr => [uniWord 59 (d.code) (csr.toNat / 32) (csr.toNat % 32 * 4) (0)]
  | .csrwThread d csr => [uniWord 59 (d.val) (csr.toNat / 32) (csr.toNat % 32 * 4) (1)]
  | .tlbfill d a b => [uniWord 60 (d.code) (a.code) (b.code) (0)]
  | .tlbinv d a => [uniWord 60 (d.code) (a.code) (64) (1)]
  | .walkdone d a => [uniWord 60 (d.code) (a.code) (64) (2)]
  | .errpop d a => [uniWord 61 (d.code) (a.code) (64) (0)]
  | .hzwait d a f => [uniWord 62 (d.code) (a.code) (64) (f.toNat * 8 + 0)]
  | .registerCacheFill _ _ _ => []
  | .acquireGrant _ => []
  | .loadCompletion _ _ => []
  | .writePerformed _ _ => []
  | .uniformAccessCompletion _ _ => []
  | .ldFeWake _ _ => []
  | .fenceDone _ _ => []
  | .comMergeFlush _ => []
  | .specResolve _ => []
  | .pinLimitBreak _ _ => []
  | .barrierRelease _ _ => []
  | .reconvRelease _ _ => []
  | .exchangeRelease _ _ => []
  | .teamdead _ _ => []
  | .sequencerStart _ => []
  | .sequencerDone _ => []
  | .bLoaderStart _ => []
  | .bLoaderDone _ => []
  | .reconstructionStart _ => []
  | .reconstructionDone _ => []
  | .hwStreamAccess _ => []
  | .hwDelivery _ => []
  | .hwNestDone _ => []
  | .queuePopWake _ _ => []
  | .queuePushWake _ => []
  | .engineChainStart _ _ => []
  | .engineChainFinish _ => []
  | .collAckTimeout _ => []
  | .collStepRx _ _ _ _ _ _ => []
  | .ualinkAccessRx _ _ _ => []
  | .submit _ _ => []
  | .admissionCheck _ => []
  | .dispatchOpportunity _ _ => []
  | .preemptionRequest _ _ => []
  | .graceExpiry _ => []
  | .blockSave _ => []
  | .writeBackDone _ => []
  | .exitRelease _ => []
  | .budgetExhausted _ => []
  | .budgetAllowanceExpiry _ => []
  | .launchStatus _ => []
  | .futureOpComplete _ => []
  | .fgetResolve _ => []
  | .markDelivery _ => []
  | .markGraceExpiry _ => []
  | .reclaim _ => []
  | .gangJoin _ _ _ _ _ => []
  | .gangReady _ _ _ => []
  | .gangPropose _ => []
  | .prepare _ _ => []
  | .accept _ _ _ => []
  | .refuse _ _ _ => []
  | .acceptDeadline _ => []
  | .commit _ _ _ => []
  | .abort _ _ => []
  | .gangStartTime _ _ => []
  | .started _ _ _ => []
  | .startedTimeout _ => []
  | .gangWaitLimit _ => []
  | .attach _ _ _ => []
  | .detach _ _ => []
  | .depart _ _ => []
  | .gsyncArrival _ _ _ => []
  | .gangStopRequest _ _ => []
  | .fordattComplete _ => []
  | .walkRequest _ => []
  | .replay _ _ _ _ _ => []
  | .hzwaitComplete _ => []
  | .roofwalkWalk _ => []
  | .walkDrainTimeout _ => []
  | .patternTestDone _ _ => []
  | .taintNotice _ _ _ _ _ _ _ => []
  | .oxbowCompare _ => []
  | .oxbowThirdRun _ => []
  | .sramUe _ _ _ _ _ => []
  | .l2Ue _ => []
  | .hbmUnitUe _ => []
  | .parityUpdate _ => []
  | .stackLoss _ => []
  | .parityRewriteDone _ => []
  | .thatchRebuildDone => []
  | .coreGateEntry _ => []
  | .gateCommit _ _ => []
  | .coreWake _ => []
  | .powerUpComplete _ => []
  | .timeMessageSend => []
  | .timeMessageRx _ _ => []
  | .peerSilenceTimeout _ => []
  | .silazResendTimeout _ _ => []
  | .silazAck _ _ => []
  | .memwr _ _ _ => []
  | .memrd _ _ _ => []
  | .hostErrpop _ _ => []
  | .hostReplay _ _ _ _ _ _ => []
  | .mgmtWrite _ _ => []
  | .rwctlWrite _ => []
  | .pcapWrite _ => []
  | .futureConfigWrite _ _ => []
  | .openSession _ => []
  | .closeSession _ => []
  | .migDemote _ => []
  | .migPromote _ => []
  | .tlbInval _ => []
  | .mgmtReplay _ => []
  | .ctxKill _ => []
  | .keyLoad _ => []
  | .coreReset _ => []
  | .clusterReadmit _ => []
  | .peerLost _ => []
  | .thatchRebuild => []
  | .mrRegister _ => []
  | .qpRing _ => []
  | .mgmtCmdComplete => []
  | .rdmaWrite _ _ _ _ _ => []
  | .rdmaRead _ _ _ _ _ => []
  | .send _ _ => []
  | .roceUnsupportedOp _ => []
  | .ethFrameDrop => []
  | .getVersion => []
  | .getCapabilities => []
  | .negotiateAlgorithms => []
  | .getDigests => []
  | .getCertificate => []
  | .challenge _ => []
  | .getMeasurements => []
  | .keyExchange _ => []
  | .finish _ => []
  | .packageReset => []
  | .instructionFetch _ _ => []
  | .viewCopyDrop _ _ => []
  | .spatialPrefetch _ _ _ => []
  | .softError _ _ => []
  | .forddetComplete _ => []
  | .tlbinvComplete _ _ => []
  | .gangConflict _ _ => []
  | .gangBroken _ => []
  | .stackHealthy => []

/-- Is the instruction one that has a word (all others are events, which no word encodes)? -/
def Instr.isWord (i : Instr) : Bool := !(encode i).isEmpty

/-- The k-th register of a group that starts at r (02 R39): zero stands for a whole group. -/
def LReg.plus (r : LReg) (k : Nat) : LReg :=
  match r with
  | .v n => .v (Fin.ofNat 224 (n.val + k))
  | .o n => .o (Fin.ofNat 8 (n.val + k))
  | .s n => .s (Fin.ofNat 8 (n.val + k))
  | r => r

/-- The k-th uniform register of a group (02 R36). -/
def UReg.plus (r : UReg) (k : Nat) : UReg :=
  match r with
  | .s n => .s (Fin.ofNat 64 (n.val + k))
  | r => r

/-- The wider of two scopes (07 R176). -/
def Scope.wider (a b : Scope) : Scope := if a.code ≥ b.code then a else b

end Sys2Proof
end

