-- ==== Sys2Proof/WellFormed.lean ====
section
/-! DEFINITION. Well-formed instructions: what R53 checks 1 and 2 (02_encoding.md) decide from the words alone,
and the tables about an instruction that those checks and the later ones read: its operands and their
positions (R38, R39), the flag it names (R48), its class (12_headwater.md R280), its CSR (17_system.md R400). -/

namespace Sys2Proof

/-- How an operand is used (R38): read, written, read and written, or the mask of STM (06 R158). -/
inductive OpUse where | src | dst | rw | mask
deriving DecidableEq, Repr

/-- How many registers an operand names (R39; oct is the group of eight of BPX, 05 R147). -/
inductive OpGrp where | one | pair | triple | quad | oct
deriving DecidableEq, Repr

/-- One lane operand of an instruction. -/
structure LOpnd where
  reg : LReg
  use : OpUse
  grp : OpGrp
deriving DecidableEq, Repr

/-- How many uniform registers an operand names (R36; eight: HSTREAM and FSPAWN). -/
inductive UGrp where | one | pair | eight
deriving DecidableEq, Repr

/-- One uniform operand of an instruction. -/
structure UOpnd where
  reg : UReg
  grp : UGrp
deriving DecidableEq, Repr

/-- Number of registers of a group. -/
def OpGrp.size : OpGrp → Nat
  | .one => 1
  | .pair => 2
  | .triple => 3
  | .quad => 4
  | .oct => 8

/-- May a code stand in its position (R38, R39; 05 R147; 06 R158)? -/
def LOpnd.legal (o : LOpnd) : Bool :=
  match o.grp with
  | .one =>
    match o.use, o.reg with
    | .src, .resv _ => false
    | .src, _ => true
    | .dst, .v _ | .dst, .o _ | .dst, .x | .dst, .zero => true
    | .rw, .v _ | .rw, .o _ | .rw, .x | .rw, .zero => true
    | .mask, .v _ | .mask, .o _ | .mask, .x | .mask, .zero | .mask, .s _ => true
    | _, _ => false
  | .pair =>
    match o.reg with
    | .v n => n.val % 2 == 0
    | .o n => n.val % 2 == 0
    | .s n => n.val % 2 == 0 && o.use == .src
    | .zero => true
    | _ => false
  | .triple | .quad =>
    match o.reg with
    | .v n => n.val % 4 == 0
    | .o n => n.val % 4 == 0
    | .zero => true
    | _ => false
  | .oct =>
    match o.reg with
    | .v n => n.val % 4 == 0 && n.val + 7 ≤ 223
    | .o n => n.val == 0
    | .zero => true
    | _ => false

/-- May a uniform code stand in its position (R36; 12 R291; 15 R353)? -/
def UOpnd.legal (o : UOpnd) : Bool :=
  match o.reg, o.grp with
  | .zero, _ => true
  | .s _, .one => true
  | .s n, .pair => n.val % 2 == 0
  | .s n, .eight => n.val % 8 == 0
  | .resv _, _ => false

/-- Scope and width of a CSR of 17 R400. -/
structure CsrInfo where
  thread : Bool
  wide : Bool
  /-- every field RO: a CSRW is ILLEGAL (R400) -/
  readOnly : Bool
  /-- reading it from lane code traps as PRIV -/
  privRead : Bool
  /-- writing it from lane code traps as PRIV -/
  privWrite : Bool
deriving DecidableEq, Repr

/-- The CSRs by number (17 R400). CTXBASE and FBUFBASE are PRIV to lane code in both directions; to walker code
they are RO. -/
def csrInfo (n : Nat) : Option CsrInfo :=
  match n with
  | 0x001 => some ⟨true, false, false, false, false⟩
  | 0x010 => some ⟨true, true, false, false, false⟩
  | 0x012 => some ⟨true, true, false, false, false⟩
  | 0x014 => some ⟨true, false, false, false, false⟩
  | 0x015 => some ⟨true, false, false, false, false⟩
  | 0x100 => some ⟨false, false, true, false, false⟩
  | 0x101 => some ⟨false, false, true, false, false⟩
  | 0x102 => some ⟨false, false, true, false, false⟩
  | 0x104 => some ⟨false, true, false, false, false⟩
  | 0x200 => some ⟨false, false, true, false, false⟩
  | 0x201 => some ⟨false, false, false, false, true⟩
  | 0x210 => some ⟨false, false, false, false, true⟩
  | 0x211 => some ⟨false, false, false, false, true⟩
  | 0x212 => some ⟨false, false, false, false, true⟩
  | 0x213 => some ⟨false, false, false, false, true⟩
  | 0x214 => some ⟨false, false, false, false, true⟩
  | 0x215 => some ⟨false, false, false, false, true⟩
  | 0x216 => some ⟨false, false, false, false, true⟩
  | 0x300 => some ⟨false, true, true, false, false⟩
  | 0x302 => some ⟨false, true, true, false, false⟩
  | 0x310 => some ⟨false, true, false, true, true⟩
  | 0x312 => some ⟨false, true, false, true, true⟩
  | _ => none

/-- Is the CSR 64 bits wide (17 R400)? -/
def csrWide (csr : BitVec 12) : Bool := (csrInfo csr.toNat).any (·.wide)

/-- A lane operand in each kind of position. -/
abbrev LOpnd.s1 (r : LReg) : LOpnd := ⟨r, .src, .one⟩
abbrev LOpnd.d1 (r : LReg) : LOpnd := ⟨r, .dst, .one⟩
abbrev LOpnd.x1 (r : LReg) : LOpnd := ⟨r, .rw, .one⟩
abbrev LOpnd.s2 (r : LReg) : LOpnd := ⟨r, .src, .pair⟩
abbrev LOpnd.d2 (r : LReg) : LOpnd := ⟨r, .dst, .pair⟩
abbrev LOpnd.s3 (r : LReg) : LOpnd := ⟨r, .src, .triple⟩
abbrev LOpnd.d3 (r : LReg) : LOpnd := ⟨r, .dst, .triple⟩
abbrev LOpnd.s4 (r : LReg) : LOpnd := ⟨r, .src, .quad⟩
abbrev LOpnd.d4 (r : LReg) : LOpnd := ⟨r, .dst, .quad⟩
abbrev UOpnd.u1 (r : UReg) : UOpnd := ⟨r, .one⟩
abbrev UOpnd.u2 (r : UReg) : UOpnd := ⟨r, .pair⟩
abbrev UOpnd.u8 (r : UReg) : UOpnd := ⟨r, .eight⟩

/-- A group that is a pair in the 64-bit form and single otherwise. -/
def Width.grp : Width → OpGrp
  | .w32 => .one
  | .w64 => .pair

/-- The source group of an FCVT kind (05 R143). -/
def CvtKind.srcGrp : CvtKind → OpGrp
  | .h2f32 | .b2f32 => .pair
  | .e4m3f32 | .e5m2f32 => .quad
  | _ => .one

/-- Is an FCVT kind a widening one, and how many indices has it (05 R143)? -/
def CvtKind.indices : CvtKind → Option Nat
  | .f32f16 | .f32bf16 => some 2
  | .f32e4m3 | .f32e5m2 => some 4
  | _ => none

/-- Destination group of FCVTI (05 R145). -/
def IntType.grp : IntType → OpGrp
  | .i64 | .w64 => .pair
  | _ => .one

/-- Source group of ICVTF (05 R146). -/
def SrcInt.grp : SrcInt → OpGrp
  | .i64 | .w64 => .pair
  | _ => .one

/-- Is a SETP condition packed (R56)? -/
def Cond.packed : Cond → Bool
  | .eqP | .neP | .ltP | .leP | .gtP | .geP | .ltPW | .lePW | .gtPW | .gePW => true
  | _ => false

/-- Does an SCMP condition compare pairs (04 R124)? -/
def SCond.wide : SCond → Bool
  | .eq64 | .ne64 | .ltI64 | .leI64 | .ltW64 | .leW64 => true
  | _ => false

/-- The uniform group of a 64-bit form (04 R122). -/
def uniGrp (w : Bool) : UGrp := if w then .pair else .one

/-- The lane operands of an instruction, in the order a, b, d in which they are read (R40). -/
def Instr.laneOps : Instr → List LOpnd
  | .brx a | .callx a => [.s2 a]
  | .mov d a | .neg d a | .negSatI32 d a | .abs d a | .absSatI32 d a | .not d a | .popc d a | .clz d a
  | .ctz d a | .brev d a | .cvtiI8 d a | .cvtiW8 d a | .cvtiI16 d a | .cvtiW16 d a | .cvtiSatI8 d a
  | .cvtiSatW8 d a | .cvtiSatI16 d a | .cvtiSatW16 d a | .cvtiSatW32 d a
  | .frcp d a | .frsq d a | .fsqrt d a | .fexp2 d a | .flog2 d a | .fsin d a | .fcos d a | .frnd d a _ =>
    [.s1 a, .d1 d]
  | .cvtiI64 d a | .cvtiW64 d a => [.s1 a, .d2 d]
  | .cvtiSatI32 d a => [.s2 a, .d1 d]
  | .setv d _ | .movi d _ | .lit d _ => [.d1 d]
  | .add d a b | .addc d a b | .sub d a b | .subb d a b | .mullo d a b | .mulhiI32 d a b | .mulhiW32 d a b
  | .minI32 d a b | .minW32 d a b | .maxI32 d a b | .maxW32 d a b | .and d a b | .or d a b | .xor d a b
  | .andn d a b | .shl d a b | .shr d a b | .sar d a b | .rotl d a b | .bfx d a b
  | .addI16x2 d a b | .subI16x2 d a b | .addSatI16x2 d a b | .subSatI16x2 d a b | .minI16x2 d a b
  | .maxI16x2 d a b | .minW16x2 d a b | .maxW16x2 d a b
  | .faddF32 d a b | .fsubF32 d a b | .fmulF32 d a b | .faddH2 d a b | .fmulH2 d a b | .faddB2 d a b
  | .fmulB2 d a b | .shfl d a b => [.s1 a, .s1 b, .d1 d]
  | .mad d a b | .fshl d a b | .fshr d a b | .bfi d a b | .prmt d a b | .sel d a b | .sad d a b
  | .madI16x2 d a b | .ffmaF32 d a b | .ffmaH2 d a b | .ffmaB2 d a b | .dot2H2 d a b | .dot2B2 d a b
  | .dot4E4m3 d a b | .dot4E5m2 d a b => [.s1 a, .s1 b, .x1 d]
  | .fsubH2 d a | .fsubB2 d a | .fminF32 d a | .fmaxF32 d a | .fminH2 d a | .fmaxH2 d a | .fminB2 d a
  | .fmaxB2 d a => [.s1 a, .x1 d]
  | .setp _ _ a b => [.s1 a, .s1 b]
  | .lea d a b => [.s2 a, .s1 b, .d2 d]
  | .fcvt d a _ _ kind => [⟨a, .src, kind.srcGrp⟩, .d1 d]
  | .fcvti d a _ ty => [.s1 a, ⟨d, .dst, ty.grp⟩]
  | .icvtf d a _ ty => [⟨a, .src, ty.grp⟩, .d1 d]
  | .bpx d a b => [⟨a, .src, .oct⟩, .s1 b, .d1 d]
  | .rencI32 d a => [.s1 a, .d3 d]
  | .rencI64 d a => [.s2 a, .d3 d]
  | .radd d a b | .rmul d a b => [.s3 a, .s3 b, .d3 d]
  | .rdec d a b => [.s3 a, .s1 b, .d2 d]
  | .rchk d a b => [.s3 a, .s1 b, .d1 d]
  | .ldW8 d a _ _ _ | .ldI8 d a _ _ _ | .ldW16 d a _ _ _ | .ldI16 d a _ _ _ | .ldW32 d a _ _ _
  | .ldxW32 d a _ _ => [.s2 a, .d1 d]
  | .ldW64 d a _ _ _ | .ldxW64 d a _ _ => [.s2 a, .d2 d]
  | .ldW128 d a _ _ _ | .ldFeTake d a _ _ | .ldFePeek d a _ _ => [.s2 a, .d4 d]
  | .stW8 d a _ _ _ | .stW16 d a _ _ _ | .stW32 d a _ _ _ => [.s2 a, .s1 d]
  | .stW64 d a _ _ _ => [.s2 a, .s2 d]
  | .stW128 d a _ _ _ | .stFill d a _ _ _ => [.s2 a, .s4 d]
  | .stm d a m => [.s2 a, ⟨m, .mask, .one⟩, .s4 d]
  | .pref a _ _ => [.s2 a]
  | .smap d a b => [.s2 a, .s1 b, .s1 d]
  | .sunmap b => [.s1 b]
  | .swb d b => [.s1 b, .s1 d]
  | .sinv d a => [.s2 a, .s1 d]
  | .atom d a b ctl => [.s2 a, ⟨b, .src, ctl.size.grp⟩, ⟨d, .dst, ctl.size.grp⟩]
  | .cas d a b ctl => [.s2 a, ⟨b, .src, ctl.size.grp⟩, ⟨d, .rw, ctl.size.grp⟩]
  | .ldAcq d a _ size _ => [.s2 a, ⟨d, .dst, size.grp⟩]
  | .stRel d a _ size _ => [.s2 a, ⟨d, .src, size.grp⟩]
  | .tjoin a _ _ => [.s1 a]
  | .elect d _ _ | .ballot d _ _ => [.d1 d]
  | .tred d a _ _ | .tscan d a _ _ _ | .matchT d a _ => [.s1 a, .d1 d]
  | .csrrThread d csr =>
    [⟨.v ⟨d.val, by omega⟩, .dst, if csrWide csr then .pair else .one⟩]
  | .csrwThread d csr =>
    [⟨.v ⟨d.val, by omega⟩, .src, if csrWide csr then .pair else .one⟩]
  | _ => []

/-- The uniform operands of an instruction. -/
def Instr.uniOps : Instr → List UOpnd
  | .sadd d a b w | .ssub d a b w | .smul d a b w | .sand d a b w | .sor d a b w | .sxor d a b w
  | .ssel d a b w => [⟨a, uniGrp w⟩, ⟨b, uniGrp w⟩, ⟨d, uniGrp w⟩]
  | .sshl d a b w | .sshr d a b w | .ssar d a b w => [⟨a, uniGrp w⟩, .u1 b, ⟨d, uniGrp w⟩]
  | .smov d a w => [⟨a, uniGrp w⟩, ⟨d, uniGrp w⟩]
  | .smovi d _ w | .slit d w _ => [⟨d, uniGrp w⟩]
  | .scmp d a b cond => [⟨a, uniGrp cond.wide⟩, ⟨b, uniGrp cond.wide⟩, .u1 d]
  | .sld d a _ _ size | .sst d a _ _ size => [.u2 a, ⟨d, uniGrp (size == .w64)⟩]
  | .mma d a b _ | .mmaz d a b _ => [.u1 d, .u2 a, .u1 b]
  | .mmaQ d b _ | .mmazQ d b _ => [.u1 d, .u1 b]
  | .bld d a _ | .bldReed d a _ | .bldConv d a _ => [.u1 d, .u2 a]
  | .bldClr d => [.u1 d]
  | .accld d a _ | .accq d a _ | .acczRows d a _ => [.u1 d, .u1 a]
  | .accz d _ | .acczFree d _ => [.u1 d]
  | .setrstAddr a => [.u2 a]
  | .copy a _ _ | .conv a _ _ | .gauge a _ _ | .reed a _ _ | .alist a _ _ | .coll a _ _ => [.u1 a]
  | .ecancel d a => [.u1 d, .u1 a]
  | .ecancelAll d => [.u1 d]
  | .fspawn d a b _ _ => [.u2 d, .u2 a, .u8 b]
  | .fref d a _ | .fpoll d a _ => [.u1 d, .u1 a]
  | .fdrop a _ => [.u1 a]
  | .fget d a b _ | .fgetD d a b _ => [.u1 d, .u1 a, .u2 b]
  | .fput a _ => [.u2 a]
  | .fself d | .fordatt d _ | .fordq d | .fordqCount d | .gsync d _ | .budgetNrg d => [.u1 d]
  | .fordqState d a => [.u1 d, .u1 a]
  | .hstream d _ => [.u8 d]
  | .hloop d _ => [.u1 d]
  | .hpush a _ => [.u1 a]
  | .hsyncDrain a | .hsyncKind a => [.u1 a]
  | .budgetCyc d | .budgetCtx d | .budgetTime d => [.u2 d]
  | .launch d a _ => [.u1 d, .u2 a]
  | .csrr d csr | .csrw d csr => [⟨d, uniGrp (csrWide csr)⟩]
  | .tlbfill d a b => [.u1 d, .u2 a, .u2 b]
  | .tlbinv d a => [.u1 d, .u2 a]
  | .walkdone d a | .errpop d a => [.u1 d, .u1 a]
  | .hzwait d a _ => [.u1 d, .u2 a]
  | _ => []

/-- The constraints among the fields of one word (R53 check 1 and 2; the class chapters' ILLEGAL lists). -/
def Instr.fieldsOk : Instr → Bool
  | .clauseHeader _ _ seta setb _ =>
    !(12 ≤ seta.toNat && seta.toNat ≤ 14) && !(12 ≤ setb.toNat && setb.toNat ≤ 14)
  | .setp p cond _ _ => !(cond.packed && p.val % 2 == 1)
  | .fcvt _ _ n sat kind =>
    match kind.indices with
    | some k => n.val < k && !sat
    | none => true
  | .atom d _ _ ctl =>
    (ctl.order == .relaxed || ctl.use == .unp) &&
    (ctl.use != .com || (d == .zero && ctl.op != .xchg && ctl.op != .inc && ctl.op != .dec))
  | .cas _ _ _ ctl =>
    (ctl.order == .relaxed || ctl.use == .unp) && ctl.op == .add && ctl.use != .com && ctl.use != .qnt
  | .tjoin _ n m => n != m
  | .sst _ _ _ _ size => size != .i8 && size != .i16
  | .hloop _ lvl => lvl.val < 4
  | .fspawn _ _ b _ n => n.val ≤ 4 && (b != .zero || n.val == 0)
  | .csrr _ csr => (csrInfo csr.toNat).any (fun c => !c.thread)
  | .csrrThread _ csr => (csrInfo csr.toNat).any (·.thread)
  | .csrw _ csr => (csrInfo csr.toNat).any (fun c => !c.thread && !c.readOnly)
  | .csrwThread _ csr => (csrInfo csr.toNat).any (·.thread)
  | _ => true

/-- An instruction whose words pass what R53 checks 1 and 2 decide from the words alone. -/
def Instr.wellFormed (i : Instr) : Bool :=
  i.laneOps.all LOpnd.legal && i.uniOps.all UOpnd.legal && i.fieldsOk

/-- The flag an instruction counts: its select bit F, and whether a header that names none makes the
instruction ILLEGAL (R48; 04 R125, 07 R185, R193, 11 R265, 13 R297, 14 R335, 15 R353, 16 R381, 17 R416). -/
def Instr.flagUse : Instr → Option (Bool × Bool)
  | .ldW8 _ _ _ f _ | .ldI8 _ _ _ f _ | .ldW16 _ _ _ f _ | .ldI16 _ _ _ f _ | .ldW32 _ _ _ f _
  | .ldW64 _ _ _ f _ | .ldW128 _ _ _ f _ | .ldxW32 _ _ _ f | .ldxW64 _ _ _ f | .ldFeTake _ _ _ f
  | .ldFePeek _ _ _ f | .ldAcq _ _ _ _ f => some (f, true)
  | .stW8 _ _ _ f _ | .stW16 _ _ _ f _ | .stW32 _ _ _ f _ | .stW64 _ _ _ f _ | .stW128 _ _ _ f _
  | .stFill _ _ _ f _ | .stRel _ _ _ _ f => some (f, false)
  | .stm _ _ _ => some (false, false)
  | .atom d _ _ ctl => some (ctl.f, d != .zero)
  | .cas _ _ _ ctl => some (ctl.f, true)
  | .sld _ _ _ f _ => some (f, true)
  | .sst _ _ _ f _ => some (f, false)
  | .mma _ _ _ f | .mmaQ _ _ f | .mmaz _ _ _ f | .mmazQ _ _ f | .bld _ _ f | .bldReed _ _ f
  | .bldConv _ _ f | .accz _ f | .acczRows _ _ f | .acczFree _ f => some (f, false)
  | .accld _ _ f | .accq _ _ f => some (f, true)
  | .copy _ f _ | .conv _ f _ | .gauge _ f _ | .reed _ f _ | .alist _ f _ | .coll _ f _ => some (f, false)
  | .fspawn _ _ _ f _ | .fref _ _ f | .fget _ _ _ f | .fgetD _ _ _ f | .fpoll _ _ f => some (f, true)
  | .fdrop _ f | .fput _ f | .forddet f | .hend f => some (f, false)
  | .fordatt _ f | .gsync _ f | .launch _ _ f | .hzwait _ _ f => some (f, true)
  | _ => none

/-- The instructions that must be the last counted word of their clause (R46). -/
def Instr.endsClause : Instr → Bool
  | .call _ | .callx _ => true
  | _ => false

/-- The headwater instructions, which a lane block may not hold (12 R280, R291). -/
def Instr.isHeadwater : Instr → Bool
  | .hstream _ _ | .hloop _ _ | .hpush _ _ | .hend _ | .hsyncDrain _ | .hsyncKind _ => true
  | _ => false

/-- The words a headwater slice may hold besides headers (12 R280). -/
def Instr.sliceAllowed (i : Instr) : Bool :=
  i.isHeadwater ||
  match i with
  | .clauseHeader _ _ _ _ _ => true
  | .sadd _ _ _ _ | .ssub _ _ _ _ | .smul _ _ _ _ | .sand _ _ _ _ | .sor _ _ _ _ | .sxor _ _ _ _
  | .sshl _ _ _ _ | .sshr _ _ _ _ | .ssar _ _ _ _ | .smov _ _ _ | .smovi _ _ _ | .slit _ _ _
  | .scmp _ _ _ _ | .ssel _ _ _ _ | .sld _ _ _ _ _ | .sst _ _ _ _ _ => true
  | .csrr _ _ => true
  | .bra _ | .exit | .nop | .waitf _ => true
  | .brx a => match a with | .s _ => true | _ => false
  | _ => false

end Sys2Proof
end

