-- ==== Sys2Proof/Machine/Ops.lean ====
section
/-! DEFINITION. The named operations over State: accessors, memory at its home points, error records, translation and
the targets of accesses, flags, taking an exception (17_system.md R395), kills (03_control.md R98). -/

namespace Sys2Proof.Machine

/-! Numbers and bytes. -/

/-- The field of n that starts at bit lo and has len bits. -/
def field (n lo len : Nat) : Nat := n / 2 ^ lo % 2 ^ len

/-- The n low bytes of a number, least significant first (00 R4). -/
def leBytes (n v : Nat) : List Byte := (natBytes n v).map (BitVec.ofNat 8)

/-- The number whose little-endian bytes these are. -/
def leNat : List Byte → Nat
  | [] => 0
  | b :: bs => b.toNat + 256 * leNat bs

/-- Signed value of the low n bits of v. -/
def sextNat (n v : Nat) : Int :=
  let u := v % 2 ^ n
  if 2 * u ≥ 2 ^ n then (u : Int) - (2 ^ n : Nat) else (u : Int)

/-- The word of a number. -/
abbrev w32 (n : Nat) : Word := BitVec.ofNat 32 n
/-- The 64-bit value of a number. -/
abbrev w64 (n : Nat) : DWord := BitVec.ofNat 64 n

/-- The pair of a low and a high word (00 R4). -/
def pairOf (lo hi : Word) : DWord := hi ++ lo
/-- Low word of a pair. -/
def loWord (d : DWord) : Word := d.truncate 32
/-- High word of a pair. -/
def hiWord (d : DWord) : Word := (d >>> 32).truncate 32

/-- Update of one element of a list; nothing outside it. -/
def listSet {α : Type} (l : List α) (i : Nat) (a : α) : List α := l.set i a

/-! Accessors of State. -/

/-- Why an instruction does not retire. -/
inductive Stop where
  /-- a trap or fault at the instruction: cause, address it names, information -/
  | trap (c : Cause) (addr : DWord) (info : Word)
  /-- a wait: the instruction executes again when the wait is over -/
  | stall (w : Wait)
deriving DecidableEq, Repr

/-- An instruction's effect: it updates State or stops, and then no update of it remains (precise, 00 R8). -/
abbrev M (α : Type) := StateT State (Except Stop) α

/-- Where a thread goes after its instruction. -/
inductive Flow where
  /-- to the next word of the clause -/
  | fall
  /-- to a clause header -/
  | goto (pc : DWord)
  /-- nowhere: the instruction set the thread itself -/
  | placed
  /-- the instruction retires and the thread then traps, resuming at the next word (17 R395) -/
  | trapNext (c : Cause) (info : Word)
  /-- it stops, and what it has done so far stays (06_memory.md R169) -/
  | stops (st : Stop)
deriving DecidableEq, Repr

def stop {α : Type} (x : Stop) : M α := fun _ => .error x
def trap {α : Type} (c : Cause) (addr : DWord := 0) (info : Word := 0) : M α := stop (.trap c addr info)
def stall {α : Type} (w : Wait) : M α := stop (.stall w)

/-- An undefined value (00 R8; log entry 2). -/
def freeValue : M Word := fun s => .ok (Config.freeWord s.fresh, { s with fresh := s.fresh + 1 })

/-- A new serial number. -/
def newId : M Nat := fun s => .ok (s.seq, { s with seq := s.seq + 1 })

def State.getBlock (s : State) (b : Nat) : Option Block := Cells.get? b s.blocks
def State.setBlock (s : State) (b : Nat) (x : Block) : State := { s with blocks := Cells.set b x s.blocks }

/-- Apply a change to a block that exists. -/
def State.modBlock (s : State) (b : Nat) (f : Block → Block) : State :=
  match s.getBlock b with
  | some x => s.setBlock b (f x)
  | none => s

def Block.getThread (x : Block) (t : Nat) : Option Thread := x.threads[t]?
def Block.setThread (x : Block) (t : Nat) (th : Thread) : Block := { x with threads := x.threads.set t th }

def State.getThread (s : State) (b t : Nat) : Option Thread := (s.getBlock b).bind (·.getThread t)

/-- Apply a change to a thread that exists. -/
def State.modThread (s : State) (b t : Nat) (f : Thread → Thread) : State :=
  s.modBlock b fun x =>
    match x.getThread t with
    | some th => x.setThread t (f th)
    | none => x

def State.getCore (s : State) (c : Nat) : CoreState := Cells.getD c CoreState.init s.cores
def State.modCore (s : State) (c : Nat) (f : CoreState → CoreState) : State :=
  { s with cores := Cells.put CoreState.init c (f (s.getCore c)) s.cores }

def State.getCluster (s : State) (k : Nat) : ClusterState := Cells.getD k ClusterState.init s.clusters
def State.modCluster (s : State) (k : Nat) (f : ClusterState → ClusterState) : State :=
  { s with clusters := Cells.put ClusterState.init k (f (s.getCluster k)) s.clusters }

/-- A thread as it is at first placement (03 R72, R87): zero everywhere, in team 0. -/
def Thread.init (pc : DWord) (now : Nat) : Thread :=
  { pc, stack := [], pred := 0, flags := [], fpstat := 0, teams := 1, run := .ready, clauseIdx := 0, clause := []
    v := [], x := none, o := [], split := 0, tpc := 0, taddr := 0, tcause := 0, tinfo := 0, bankX := none, bankO := []
    qhead := [], qslot := [], cmds := [], spec := [], observed := [], taken := none, fetched := none, skipped := [], budgetDue := false, twinBad := false
    since := now }

/-- The thread a lookup failed for; no step reaches it through a live bundle. -/
def Thread.dead : Thread := { Thread.init 0 0 with run := .exited, teams := 0 }

def State.thread (s : State) (b t : Nat) : Thread := (s.getThread b t).getD Thread.dead

/-- The block for a lookup that fails: no context's block, nothing in it. -/
def Block.absent : Block :=
  { launch := 0, index := 0, ixval := 0, ctx := 0, kind := .lane, role := 0, life := .done, placed := false, core := 0
    slot := 0, lanebase := 0, spBase := 0, spLen := 0, image := 0, save := 0, tvec := 0, s := [], allot := 16, full := 16
    pro := 16, acqpend := false, restart := 0, teams := List.replicate 8 ⟨0, 0, 0⟩, regions := [], spFull := []
    winFull := [], spare := [], cached := [], held := [], reserved := 0, own := 0, put := false, mark := none, stopBy := none
    deferred := none, moveTo := none, sliceStart := 0, charged := 0, debit := 0, allowance := none
    tiles := List.replicate 8 ⟨false, 0⟩, slots := List.replicate 16 none, pairOf := none, partners := []
    slice := none, gang := none, oxbow := none, sig := [], sigShadow := 0, sigAbandon := false, threads := []
    enteredQueue := 0, placedAt := 0, firstPlaced := 0 }

def State.block (s : State) (b : Nat) : Block := (s.getBlock b).getD Block.absent

/-- Is the block in a core's slot (03 R98: resident, stopping, saving or exiting)? -/
def Block.inSlot (x : Block) : Bool :=
  x.life == .resident || x.life == .stopping || x.life == .saving || x.life == .exiting

def Block.live (x : Block) (t : Nat) : Bool := (x.getThread t).any (fun th => th.run != .exited)

/-- Tids of the live threads of a block, ascending. -/
def Block.liveTids (x : Block) : List Nat := (List.range x.threads.length).filter x.live

def Thread.inTrap (th : Thread) : Bool := th.tcause.getLsbD 31

/-- Block ids in ascending order of core slot. -/
def State.blockIds (s : State) : List Nat := s.blocks.map (·.1)

/-- Blocks in a slot of a core. -/
def State.onCore (s : State) (c : Nat) : List Nat :=
  s.blockIds.filter fun b => let x := s.block b; x.core == c && x.inSlot

/-- Device time in ticks of the 1 GHz time base (00 R5, 17 R401). -/
def State.devTime (s : State) : Nat := ((s.now * 10 / 36 : Int) + s.devAdj).toNat

/-- Core cycles of a number of microseconds (00 R2: 3.6 GHz). -/
def usCycles (us : Nat) : Nat := us * 3600

def State.launchOf (s : State) (x : Block) : Option Launch := s.launches.find? (·.id == x.launch)

/-- The launch record of a block's launch. -/
def State.recOf (s : State) (x : Block) : Option LaunchRec := (s.launchOf x).map (·.record)

/-- Role entry of a block. -/
def State.roleOf (s : State) (x : Block) : Option Role := (s.recOf x).bind (·.roles[x.role]?)

/-- Is the block a copy or a third run of an Oxbow run (18 R429)? -/
def Block.isCopy (x : Block) : Bool := x.oxbow.any (·.2 != 0)

/-- Has the block's role a headwater pair (02 R40, 12 R278)? -/
def Block.hasPair (x : Block) : Bool := x.kind == .lane && !x.partners.isEmpty

/-- Does the block belong to a gang launch (16 R364, R372)? -/
def Block.isGang (x : Block) : Bool := x.gang.isSome

/-! Memory at home. -/

/-- Size of device memory: 704 GiB (01 R20). -/
def devSize : Nat := 704 * 2 ^ 30

/-- One byte of device memory as stored. -/
def State.rd8 (s : State) (pa : Nat) : Byte := Cells.getD pa 0 s.mem

/-- Bytes of device memory as stored. -/
def State.rdBytes (s : State) (pa n : Nat) : List Byte := (List.range n).map fun i => s.rd8 (pa + i)

/-- A little-endian number of device memory. -/
def State.rdNat (s : State) (pa n : Nat) : Nat := leNat (s.rdBytes pa n)

/-- Stripe of a data address (18 R433). -/
def stripeOf (pa : Nat) : Nat := pa / 256 / 11

/-- Stack that holds a stripe's parity (18 R433). -/
def parityStack (stripe : Nat) : Nat := stripe % 12

/-- Byte of its stack at which a data address lies; the parity unit of its stripe starts at the stripe's number times 256 (18 R433). -/
def stackOffset (pa : Nat) : Nat := stripeOf pa * 256 + pa % 256

/-- Stack that holds a data address (18 R433). -/
def dataStack (pa : Nat) : Nat := (parityStack (stripeOf pa) + 1 + (pa / 256) % 11) % 12

/-- State of a stripe (18 R435): stripes not listed are clean, or degraded once a stack is lost, until they are rebuilt (19 R449). -/
def Thatch.stripe (t : Thatch) (k : Nat) : Stripe :=
  match Cells.get? k t.stripes with
  | some x => x
  | none => if t.lostStack.isSome && t.rebuilt ≤ k then .degraded else .clean

/-- Is an access to the stripe held until its parity rewrite is done (18 R435 LOST)? -/
def State.held (s : State) (pa : Nat) : Bool := s.thatch.stripe (stripeOf pa) == .lost

/-- The parity rewrite of a LOST stripe is done: it is DEGRADED (18 R435). -/
def Thatch.rewritten (t : Thatch) (k : Nat) : Thatch :=
  if t.stripe k = .lost then { t with stripes := Cells.erase k t.stripes, rebuilt := Nat.min t.rebuilt k } else t

/-- Owe the parity update of a write performed at home (18 R434), by the write's id; in a DEGRADED stripe data and parity are written
together (R435). A write of the device itself to a LOST stripe comes after its rewrite, which is done by then (DEDUCED; log entry 117). -/
def Thatch.owe (t : Thatch) (id pa len : Nat) : Thatch :=
  let t := t.rewritten (stripeOf pa)
  if t.stripe (stripeOf pa) = .degraded || len = 0 then t
  else { t with owed := t.owed ++ [⟨id, pa, len⟩], stripes := Cells.set (stripeOf pa) .pending t.stripes }

/-- The device itself reads n bytes of memory: after the rewrite of a LOST stripe, as with its writes (log entry 117). -/
def State.settled (s : State) (pa n : Nat) : State :=
  { s with thatch := (List.range (stripeOf (pa + n) + 1 - stripeOf pa)).foldl (fun t i => t.rewritten (stripeOf pa + i)) s.thatch }

/-- Write one stored byte of device memory; an address outside device memory takes nothing. -/
def State.wr8 (s : State) (pa : Nat) (v : Byte) : State :=
  if pa < devSize then { s with mem := Cells.put 0 pa v s.mem, zeroed := s.zeroed.filter (· != pa / 16) } else s

/-- Store bytes from an address on, without owing parity. -/
def State.wrRaw (s : State) (pa : Nat) (bs : List Byte) : State :=
  (bs.zipIdx).foldl (fun s e => s.wr8 (pa + e.2) e.1) s

/-- A device agent's write from pa on against a pinned line: it retries until the line has been written home, and follows it then (07
R182). -/
def Pin.takeWrite (p : Pin) (now pa : Nat) (bs : List Byte) : Pin :=
  let mine := ((bs.zipIdx).map fun e => (pa + e.2, e.1)).filter fun e => e.1 / 64 * 64 == p.line
  if mine.isEmpty then p
  else { p with later := p.later ++ mine, firstRetry := match p.firstRetry with | some c => some c | none => some now }

/-- A device agent's write at home: the bytes, and the parity it owes (18 R434). The write takes a serial number. -/
def State.wrHome (s : State) (pa : Nat) (bs : List Byte) : State :=
  let s := s.wrRaw pa bs
  { s with thatch := s.thatch.owe s.seq pa bs.length, seq := s.seq + 1, pins := s.pins.map (·.takeWrite s.now pa bs) }

/-- Write a little-endian number at home. -/
def State.wrNat (s : State) (pa n v : Nat) : State := s.wrHome pa (leBytes n v)

/-- The two key halves of a slot. -/
def State.keyOf (s : State) (slot : Nat) : Nat × Nat := Cells.getD slot (0, 0) s.links.keys

/-- The plain byte at a physical address under a key slot (17 R403); a byte lost with its stack is zero (18 R435). -/
def State.homeByte (s : State) (pa : Nat) (key : Option Nat) : Byte :=
  match key with
  | none => s.rd8 pa
  | some k =>
    let u := pa / 16 * 16
    let ks := s.keyOf k
    if s.zeroed.contains (pa / 16) then 0 else
    BitVec.ofNat 8 (nth (xtsDecrypt ks.1 ks.2 u ((s.rdBytes u 16).map (·.toNat))) (pa % 16))

/-- Write a plain byte at home under a key slot (17 R403). -/
def State.setHomeByte (s : State) (pa : Nat) (key : Option Nat) (v : Byte) : State :=
  match key with
  | none => s.wr8 pa v
  | some k =>
    let u := pa / 16 * 16
    let ks := s.keyOf k
    let plain := if s.zeroed.contains (pa / 16) then List.replicate 16 0 else xtsDecrypt ks.1 ks.2 u ((s.rdBytes u 16).map (·.toNat))
    s.wrRaw u ((xtsEncrypt ks.1 ks.2 u (plain.set (pa % 16) v.toNat)).map (BitVec.ofNat 8))

/-! Contexts and error records. -/

/-- Address of a context entry (17 R403). -/
def State.ctxEntry (s : State) (ctx : Nat) : Nat := s.mgmt.ctxbase.toNat + 32 * ctx

/-- VALID of a context entry (17 R403). -/
def State.ctxValid (s : State) (ctx : Nat) : Bool := (s.rd8 (s.ctxEntry ctx)).getLsbD 0

/-- The key slot of a context with ENC set (17 R403). -/
def State.ctxKey (s : State) (ctx : Nat) : Option Nat :=
  let k := (s.rd8 (s.ctxEntry ctx + 8)).toNat
  if k ≥ 128 then some (k % 128) else none

/-- ERRQ of a context entry (17 R403). -/
def State.ctxErrq (s : State) (ctx : Nat) : Nat := s.rdNat (s.ctxEntry ctx + 16) 8

/-- An error record before it is written (18 R418). -/
structure ErrRec where
  kind : Nat
  core : Nat := 0xFFFF
  slot : Nat := 0xFF
  remote : Bool := false
  pc : Option DWord := none
  tid : Nat := 0xFFFF
  device : Option Nat := none
  addr : Nat := 0
  detail : List Byte := []
deriving DecidableEq, Repr

/-- The queue a record for a context goes to (18 R417): its own, or the device queue. -/
def State.queueOf (s : State) (ctx : Nat) : Nat := if s.ctxValid ctx && s.ctxErrq ctx != 0 then ctx else 0

/-- The 64 bytes of a record (18 R418). -/
def ErrRec.bytes (r : ErrRec) (ctx seq time ownDevice : Nat) : List Byte :=
  let body :=
    leBytes 2 r.kind ++ leBytes 2 ctx ++ leBytes 4 seq ++ leBytes 8 time ++ leBytes 2 r.core ++ leBytes 1 r.slot ++
    leBytes 1 ((if r.remote then 1 else 0) + (if r.pc.isSome then 2 else 0)) ++ leBytes 2 r.tid ++
    leBytes 2 (r.device.getD ownDevice) ++ leBytes 8 r.addr ++ leBytes 8 ((r.pc.getD 0).toNat) ++ r.detail
  (body ++ List.replicate 64 0).take 64

/-- Device index in the domain (19 R441). -/
def State.device (s : State) : Nat := s.mgmt.devindex.toNat % 1024

/-- Write an error record for a context (18 R417, R418): dropped and counted when the ring is full; a device queue
without a base takes none (log entry 13). -/
def State.record (s : State) (ctx : Nat) (r : ErrRec) : State :=
  let base := s.ctxErrq (s.queueOf ctx)
  if base = 0 then s
  else
    let head := s.rdNat base 4
    let tail := s.rdNat (base + 4) 4
    let log := (s.rd8 (base + 8)).toNat
    if (tail + 4294967296 - head) % 4294967296 = 2 ^ log then
      let d := s.rdNat (base + 12) 4
      if d = 0xFFFFFFFF then s else s.wrNat (base + 12) 4 (d + 1)
    else
      let s1 := s.wrHome (base + 64 + 64 * (tail % 2 ^ log)) (r.bytes ctx tail s.devTime s.device)
      s1.wrNat (base + 4) 4 ((tail + 1) % 4294967296)

/-- Pop the head record of a queue (18 R417). -/
def State.popRecord (s : State) (ctx : Nat) : Option (List Byte) × State :=
  let base := s.ctxErrq ctx
  if base = 0 then (none, s)
  else
    let head := s.rdNat base 4
    let tail := s.rdNat (base + 4) 4
    let log := (s.rd8 (base + 8)).toNat
    if head = tail then (none, s)
    else
      let at' := base + 64 + 64 * (head % 2 ^ log)
      (some (s.rdBytes at' 64), (s.settled at' 64).wrNat base 4 ((head + 1) % 4294967296))

/-! Full/empty bits (06 R152). -/

/-- The block whose scratchpad allocation holds a granule of a core's scratchpad. -/
def State.padOwner (s : State) (core gran : Nat) : Option Nat :=
  s.blockIds.find? fun b =>
    let x := s.block b
    x.inSlot && (if x.kind == .walker then 512 + x.core / 8 else x.core) == core &&
      x.spBase ≤ gran && gran < x.spBase + x.spLen

/-- Has the target's granule its bit set? -/
def State.isFull (s : State) : Tgt → Bool
  | .sp core off =>
    match s.padOwner core (off / 16) with
    | some b => let x := s.block b; x.spFull.contains (off / 16 - x.spBase)
    | none => false
  | .win blk row line byte => (s.block blk).winFull.contains ((256 * row + line) * 4 + byte / 16)
  | _ => false

/-- Key of the target's granule in State.doneGrans. -/
def Tgt.granKey : Tgt → Option Nat
  | .sp core off => some (core * 2 ^ 14 + off / 16)
  | .win blk row line byte => some (2 ^ 40 + blk * 2 ^ 20 + ((256 * row + line) * 4 + byte / 16))
  | _ => none

/-- Set or clear the bit of the target's granule; a command's completion write notes its scope afterwards (07 R198). -/
def State.setFull (s : State) (t : Tgt) (f : Bool) : State :=
  let s : State := match t.granKey with | some k => { s with doneGrans := Cells.erase k s.doneGrans } | none => s
  match t with
  | .sp core off =>
    match s.padOwner core (off / 16) with
    | some b => s.modBlock b fun x =>
        let g := off / 16 - x.spBase
        { x with spFull := if f then Cells.insert g x.spFull else Cells.remove g x.spFull }
    | none => s
  | .win blk row line byte => s.modBlock blk fun x =>
      let g := (256 * row + line) * 4 + byte / 16
      { x with winFull := if f then Cells.insert g x.winFull else Cells.remove g x.winFull }
  | _ => s

/-! Targets: reading and writing at the home point. -/

/-- Key of a view or instruction-path copy: core, key slot, physical address. -/
def viewKey (core : Nat) (key : Option Nat) (pa : Nat) : Nat :=
  (core * 129 + (match key with | none => 0 | some k => k % 128 + 1)) * 2 ^ 52 + pa

/-- Key of a scratchpad byte. -/
def padKey (core off : Nat) : Nat := core * 2 ^ 18 + off

/-- A byte of a store of SRAM; none: an undefined value. -/
def Store.get (st : Store) (k : Nat) : Option Byte :=
  match Cells.get? k st.cells with
  | some b => some b
  | none => match st.seed with | none => some 0 | some _ => none

/-- Write a byte of a store. -/
def Store.set (st : Store) (k : Nat) (b : Byte) : Store :=
  match st.seed with
  | none => { st with cells := Cells.put 0 k b st.cells }
  | some _ => { st with cells := Cells.set k b st.cells }

/-- Is an MMA of the tile in progress on the core (01 R28, 11 R274)? -/
def CoreState.mmaOn (c : CoreState) (tile : Nat) : Bool := c.sequencer.any fun m => m.ctl % 8 == tile

/-! Register lines (03 R82, R86; 01 R27). -/

/-- Address of a thread's word of a register line in the image (03 R86). -/
def Block.lineWord (x : Block) (t line : Nat) : Nat := x.image + t / 16 * 0x4000 + line * 64 + 4 * (t % 16)

/-- Is a register line of a block in its core's register cache? A walk slot has its registers always at hand. -/
def Block.lineIn (x : Block) (row line : Nat) : Bool := x.kind != .lane || x.cached.contains (256 * row + line)

/-- The word of place t of a line in the register cache: a thread's, or one no thread has. -/
def State.lineWordIn (s : State) (b t line : Nat) : Word :=
  let x := s.block b
  if t < x.threads.length then Cells.getD line 0 (s.thread b t).v else Cells.getD (256 * t + line) 0 x.spare

/-- Set the word of place t of a line in the register cache. -/
def State.setLineWordIn (s : State) (b t line : Nat) (w : Word) : State :=
  if t < (s.block b).threads.length then s.modThread b t fun th => { th with v := Cells.put 0 line w th.v }
  else s.modBlock b fun x => { x with spare := Cells.put 0 (256 * t + line) w x.spare }

/-- A line goes out of the register cache: its words are written back to the image (03 R82). -/
def State.spillLine (s : State) (b row line : Nat) : State :=
  let s1 := s.wrHome ((s.block b).lineWord (16 * row) line)
    ((List.range 16).flatMap fun i => leBytes 4 (s.lineWordIn b (16 * row + i) line).toNat)
  s1.modBlock b fun x => { x with cached := Cells.remove (256 * row + line) x.cached }

/-- A line comes into the register cache: its words are read from the image (03 R82). -/
def State.bringLine (s : State) (b row line : Nat) : State :=
  let x := s.block b
  let s1 := (List.range 16).foldl (fun (s : State) i =>
    s.setLineWordIn b (16 * row + i) line (w32 (s.rdNat (x.lineWord (16 * row + i) line) 4))) s
  s1.modBlock b fun x => { x with cached := Cells.insert (256 * row + line) x.cached }

/-- Set a thread's word of a register line, in the register cache or the image (01 R27). -/
def State.setLineWord (s : State) (b t line : Nat) (w : Word) : State :=
  let x := s.block b
  if x.lineIn (t / 16) line then s.setLineWordIn b t line w else s.wrNat (x.lineWord t line) 4 w.toNat

/-- The byte a target holds at its home point; none: an undefined value. -/
def State.tgtByte (s : State) : Tgt → Option Byte
  | .dev pa key => some (s.homeByte pa key)
  | .sp core off => some (Cells.getD (padKey core off) 0 s.pads)
  | .win blk row line byte =>
    let x := s.block blk
    if x.lineIn row line then some ((s.lineWordIn blk (16 * row + byte / 4) line >>> (8 * (byte % 4))).truncate 8)
    else some (s.rd8 (x.lineWord (16 * row) line + byte))
  | .acc core ch tile row col => ((s.getCore core).tiles.getD tile Store.zero).get ((ch * 32 + row) * 64 + col)
  | .bnd core tile row col => ((s.getCore core).bounds.getD tile Store.zero).get (row * 64 + col)
  | .ford _ _ _ => none
  | .zeros => some 0
  | .undef => none

/-- Replace byte k of a word. -/
def setByte (w : Word) (k : Nat) (b : Byte) : Word :=
  (w &&& ~~~((0xFF : Word) <<< (8 * k))) ||| ((b.zeroExtend 32) <<< (8 * k))

/-- Write a byte at its home point. -/
def State.setTgt (s : State) (t : Tgt) (b : Byte) : State :=
  match t with
  | .dev pa key => s.setHomeByte pa key b
  | .sp core off => { s with pads := Cells.put 0 (padKey core off) b s.pads }
  | .win blk row line byte =>
    let x := s.block blk
    let t := 16 * row + byte / 4
    if x.lineIn row line then s.setLineWordIn blk t line (setByte (s.lineWordIn blk t line) (byte % 4) b)
    else s.wrHome (x.lineWord (16 * row) line + byte) [b]
  | _ => s

/-! Waking and flags. -/

/-- A count of completion flag f of a thread. -/
def Thread.flag (th : Thread) (f : Nat) : Nat := Cells.getD f 0 th.flags

def Thread.setFlag (th : Thread) (f n : Nat) : Thread := { th with flags := Cells.put 0 f n th.flags }

/-- The flag a select bit names through the header of the thread's clause (02 R44, R48): none for 15. -/
def Thread.flagNamed (th : Thread) (f : Bool) : Option Nat :=
  let h := (th.clause.headD 0).toNat
  let n := if f then field h 1 4 else field h 5 4
  if n < 12 then some n else none

/-- Are all flags of a mask zero (02 R50)? -/
def Thread.flagsZero (th : Thread) (mask : BitVec 12) : Bool :=
  (List.range 12).all fun i => !mask.getLsbD i || th.flag i == 0

/-- Decrement a completion flag of a thread (02 R48); a count of 0 stays. With it at 0 the registers written under it are defined
(04 R120, 06 R160). -/
def Thread.complete (th : Thread) (f : Option Nat) : Thread :=
  match f with
  | some f => { th.setFlag f (th.flag f - 1) with late := if th.flag f ≤ 1 then th.late.filter (·.2 != f) else th.late }
  | none => th

/-- Number of a register in Thread.late: that of v[n], 256 + n for s[n]; the latches and the fixed codes have none there. -/
def lateKeyOf : LReg → Nat
  | .v n => n.val
  | .s n => 256 + n.val
  | _ => 1024

/-- The registers of a destination that outlast a clause, as numbers in Thread.late. -/
def Dest.lateKeys : Dest → List Nat
  | .lane (.v n) k => (List.range k).map (n.val + ·)
  | .uni (.s n) k => (List.range k).map (256 + n.val + ·)
  | _ => []

/-- An operation counted on a flag has written registers, by number: they stay undefined while the flag counts others (04 R120, 06 R160). -/
def Thread.noteLate (th : Thread) (f : Option Nat) (keys : List Nat) : Thread :=
  match f with
  | some f => if th.flag f ≤ 1 then th else { th with late := (th.late ++ keys.map fun c => (c, f)).dedup }
  | none => th

/-- Has a completed operation written the register under a flag that is not clear yet? -/
def Thread.isLate (th : Thread) (key : Nat) : Bool := th.late.any fun e => e.1 == key && th.flag e.2 != 0

/-- Decrement a flag in every live thread of a block (02 R49). -/
def State.completeAll (s : State) (b : Nat) (f : Option Nat) : State :=
  s.modBlock b fun x => { x with threads := x.threads.map fun th => if th.run == .exited then th else th.complete f }

/-- Note that a command of a scope was counted on a flag (07 R198). -/
def Thread.noteCmd (th : Thread) (f : Nat) (sc : Scope) : Thread :=
  { th with cmds := Cells.set f (match Cells.get? f th.cmds with | some a => Scope.wider a sc | none => sc) th.cmds }

/-! Registers: the one place that reads or writes them. -/

/-- The word v[n] of a thread. -/
def Thread.getV (th : Thread) (n : Nat) : Word := Cells.getD n 0 th.v
def Thread.setV (th : Thread) (n : Nat) (w : Word) : Thread := { th with v := Cells.put 0 n w th.v }
/-- Uniform register s[n] of a block. -/
def Block.getS (x : Block) (n : Nat) : Word := Cells.getD n 0 x.s
def Block.setS (x : Block) (n : Nat) (w : Word) : Block := { x with s := Cells.put 0 n w x.s }

/-- Does an operation in flight write lane register r of thread t at completion (06 R160)? -/
def MemOp.writesLane (o : MemOp) (b t : Nat) (r : LReg) : Bool :=
  o.blk == b && o.tids.contains t &&
    match o.dst with
    | .lane q n => decide (q.code ≤ r.code ∧ r.code < q.code + n) && q != .zero
    | _ => false

/-- Does an operation in flight write uniform register n at completion (04 R120)? -/
def MemOp.writesUni (o : MemOp) (b n : Nat) : Bool :=
  o.blk == b &&
    match o.dst with
    | .uni (.s k) w => decide (k.val ≤ n ∧ n < k.val + w)
    | _ => false

/-- Does a drain in flight name v[n] of thread t (11 R270)? -/
def MCmd.drains (m : MCmd) (b t n : Nat) : Bool :=
  m.blk == b &&
    match m.instr with
    | .accld _ _ _ =>
      let vd := field m.arg 24 8
      let t0 := 16 * field m.arg 18 6
      let rows := field m.arg 8 5 + 1
      let k := if field m.ctl 8 2 == 2 then 2 else 1
      t0 ≤ t && t < t0 + 64 && vd ≤ n && n < vd + k * rows
    | .accq _ _ _ =>
      let vd := field m.arg 24 8
      let t0 := 16 * field m.arg 18 6
      let rows := field m.arg 8 5 + 1
      t0 ≤ t && t < t0 + 64 && vd ≤ n && n < vd + rows
    | _ => false

/-- Is a lane register of a thread the destination of something in flight, so that reading it gives an undefined value
(06 R160, 11 R270)? It is until the flag of that operation clears; an instruction that writes the register meanwhile, after the
operation's own completion, leaves its value there (DESIGN CHOICE; log entry 41). -/
def State.lanePending (s : State) (b t : Nat) (r : LReg) : Bool :=
  s.ops.any (fun o => o.writesLane b t r) || (s.thread b t).isLate (lateKeyOf r) ||
    match r with
    | .v n => (s.getCore (s.block b).core).recon.any fun m => m.drains b t n.val
    | _ => false

/-- Is a uniform register the destination of something in flight (04 R120)? It is until the completion flag has cleared in the
threads that issue (DESIGN CHOICE; log entry 41). -/
def State.uniPending (s : State) (b n : Nat) : Bool :=
  let hit (r : UReg) (w : Nat) : Bool := match r with | .s k => decide (k.val ≤ n ∧ n < k.val + w) | _ => false
  s.cur.any (fun m => m.1 == b && (s.thread b m.2).isLate (256 + n)) ||
  s.ops.any (fun o => o.writesUni b n) ||
  s.futOps.any (fun o => o.blk == b && (match o.kind with
    | .spawn _ _ _ => hit o.dst 2
    | .fref _ | .fpoll => hit o.dst 1
    | .fget _ d2 => hit o.dst 1 || hit d2 2
    | _ => false)) ||
  s.launchOps.any (fun o => o.blk == b && hit o.dst 1) ||
  s.gangOps.any (fun o => o.blk == b && hit o.dst 1) ||
  s.hzOps.any (fun o => o.blk == b && hit o.dst 1)

/-- Mark the operations whose destination an instruction overwrites (06 R160): they deliver an undefined value. -/
def State.clobber (s : State) (b t : Nat) (r : LReg) : State :=
  let s := { s with ops := s.ops.map fun o => if o.writesLane b t r then { o with clob := true } else o }
  match r with
  | .v n =>
    let c := (s.block b).core
    if (s.getCore c).recon.any (fun m => m.drains b t n.val) then
      s.modCore c fun k => { k with
        recon := k.recon.map fun m => if m.drains b t n.val then { m with clob := (t, n.val) :: m.clob } else m }
    else s
  | _ => s

/-- Read one lane register of a thread (02 R38, R41; 04 R121). q codes are read by popQueue, not here. A uniform register
gives its new value at once to every thread of the block, where R121 allows the old one until a barrier or RECONV (DESIGN CHOICE; log
entry 42). -/
def readReg (b t : Nat) (r : LReg) : M Word := fun s =>
  let th := s.thread b t
  let x := s.block b
  if s.lanePending b t r then freeValue s
  else
    match r with
    | .v n => .ok (th.getV n.val, s)
    | .x => match th.x with | some w => .ok (w, s) | none => freeValue s
    | .o n => match Cells.get? n.val th.o with | some w => .ok (w, s) | none => freeValue s
    | .tid => .ok (w32 t, s)
    | .s n => if s.uniPending b n.val then freeValue s else .ok (x.getS n.val, s)
    | .zero | .resv _ | .q _ => .ok (0, s)

/-- Write one lane register of a thread, without the x latch. -/
def Thread.writeReg (th : Thread) (r : LReg) (w : Word) : Thread :=
  match r with
  | .v n => th.setV n.val w
  | .o n => { th with o := Cells.set n.val w th.o }
  | .x => { th with x := some w }
  | _ => th

/-- Write a lane register as an instruction does: operations in flight to it are overwritten (06 R160). -/
def writeReg (b t : Nat) (r : LReg) (w : Word) : M Unit := fun s =>
  .ok ((), (s.clobber b t r).modThread b t (·.writeReg r w))

/-- Write the x latch (02 R41). -/
def latchX (b t : Nat) (w : Word) : M Unit := fun s => .ok ((), s.modThread b t fun th => { th with x := some w })

/-- Read one uniform register (04 R120). -/
def readU (b : Nat) (r : UReg) : M Word := fun s =>
  match r with
  | .s n => if s.uniPending b n.val then freeValue s else .ok ((s.block b).getS n.val, s)
  | _ => .ok (0, s)

/-- Read a uniform pair. -/
def readU2 (b : Nat) (r : UReg) : M DWord := do
  let lo ← readU b r
  let hi ← readU b (r.plus 1)
  return pairOf lo hi

/-- Write one uniform register of a block (02 R36: zero discards). -/
def Block.writeU (x : Block) (r : UReg) (w : Word) : Block :=
  match r with
  | .s n => x.setS n.val w
  | _ => x

def writeU (b : Nat) (r : UReg) (w : Word) : M Unit := fun s => .ok ((), s.modBlock b (·.writeU r w))

/-- Write a uniform pair. -/
def Block.writeU2 (x : Block) (r : UReg) (d : DWord) : Block := (x.writeU r (loWord d)).writeU (r.plus 1) (hiWord d)

def writeU2 (b : Nat) (r : UReg) (d : DWord) : M Unit := fun s => .ok ((), s.modBlock b (·.writeU2 r d))

/-- An operation with the common fields filled in. -/
def MemOp.mk' (b core : Nat) (tids : List Nat) (kind : OpKind) (ea : DWord) (tgts : List Tgt) : MemOp :=
  { id := 0, blk := b, tids, uniform := false, core, kind, flag := none, dst := .none, tgts, data := [], ea
    nol1 := false, scope := .core, acq := false, rel := false, inView := none, clob := false, after := [] }

/-! Pins (07 R182, R183). -/

/-- End one pin: its line is written home, outside writes that retried follow it, and it stays as a copy of the core's view. A FENCE.DUR
of a thread of the core waits for the parity of that write (07 R195; log entry 40). -/
def State.endPin (s : State) (p : Pin) : State :=
  let s := (p.bytes.zipIdx).foldl (fun s e => s.setHomeByte (p.line + e.2) p.key e.1) s
  let s := p.later.foldl (fun s e => s.wr8 e.1 e.2) s
  let s := { s with
    thatch := s.thatch.owe s.seq p.line 64, seq := s.seq + 1
    blocks := s.blocks.map fun (e : Nat × Block) =>
      if e.2.core = p.core ∧ e.2.inSlot = true then
        (e.1, { e.2 with threads := e.2.threads.map fun (th : Thread) => { th with observed := s.seq :: th.observed } })
      else e }
  let s := (p.bytes.zipIdx).foldl
    (fun s e => { s with views := Cells.set (viewKey p.core p.key (p.line + e.2)) e.1 s.views }) s
  { s with pins := s.pins.filter (· != p) }

/-- An outside access retries against a pin: the count starts at the first (07 R183). -/
def State.noteRetry (s : State) (core pa : Nat) : State :=
  { s with pins := s.pins.map fun p =>
      if p.line = pa / 64 * 64 ∧ p.core ≠ core ∧ p.firstRetry.isNone then { p with firstRetry := some s.now } else p }

/-- The number under which a block's threads act on memory: their core, or, for a walk slot, which is no part of a core (07 R176),
512 plus its cluster; also the number of its scratchpad (17 R407). -/
def Block.padCore (x : Block) : Nat := if x.kind == .walker then 512 + x.core / 8 else x.core

/-- End every pin that a test picks. -/
def State.endPins (s : State) (f : Pin → Bool) : State := (s.pins.filter f).foldl (fun s p => s.endPin p) s

/-! Teams: leaving one (08 R209, R222; 03 R102). -/

/-- The SPLIT field of a thread for a team (08 R215). -/
def Thread.splitOf (th : Thread) (n : Nat) : Nat := field th.split.toNat (2 * n) 2

def Thread.setSplit (th : Thread) (n v : Nat) : Thread :=
  let old := th.splitOf n
  { th with split := BitVec.ofNat 16 (th.split.toNat + v * 4 ^ n - old * 4 ^ n) }

def Thread.member (th : Thread) (n : Nat) : Bool := th.teams.getLsbD n

def Block.team (x : Block) (n : Nat) : Team := x.teams.getD n ⟨0, 0, 0⟩

/-- Thread t leaves team n: its split arrival is withdrawn, and a team without members is zeroed (08 R209, R215, R216). -/
def Block.leaveTeam (x : Block) (t n : Nat) : Block :=
  match x.getThread t with
  | none => x
  | some th =>
    if !th.member n then x
    else
      let tm := x.team n
      let arr := if th.splitOf n = 1 then tm.arrived - 1 else tm.arrived
      let tm' : Team := if tm.members ≤ 1 then ⟨0, 0, 0⟩ else ⟨tm.members - 1, arr, tm.phase⟩
      let th' := { th.setSplit n 0 with teams := th.teams &&& ~~~((1 : BitVec 8) <<< n) }
      { x.setThread t th' with teams := x.teams.set n tm' }

/-- Leave every team. -/
def Block.leaveTeams (x : Block) (t : Nat) : Block := (List.range 8).foldl (fun x n => x.leaveTeam t n) x

/-! The future table (15 R341 to R347). -/

def State.future (s : State) (i : Nat) : Future := Cells.getD i Future.init s.futures

def FutState.code : FutState → Nat
  | .free => 0
  | .live => 1
  | .put => 2
  | .done => 3
  | .marked => 4

/-- The 32 bytes of a table entry (15 R343). -/
def Future.bytes (f : Future) : List Byte :=
  leBytes 1 f.st.code ++ leBytes 1 f.gen ++ leBytes 2 f.ctx ++ leBytes 4 f.count ++ leBytes 8 f.result.toNat ++
    leBytes 1 f.status ++ List.replicate 15 0

/-- Change a table entry; the table in memory follows the unit's copy (15 R343). -/
def State.setFuture (s : State) (i : Nat) (f : Future) : State :=
  State.wrHome { s with futures := Cells.put Future.init i f s.futures } (s.mgmt.futbase.toNat + 32 * i) f.bytes

/-- The generation after a free (15 R341). -/
def nextGen (g : Nat) : Nat := if g ≥ 255 then 1 else g + 1

/-- A freed entry (15 R341, R347). -/
def Future.freed (f : Future) : Future := { Future.init with gen := nextGen f.gen }

/-- Index of a handle (15 R341). -/
def handleIndex (h : Word) : Nat := h.toNat % 2 ^ 24
/-- Generation of a handle (15 R341). -/
def handleGen (h : Word) : Nat := h.toNat / 2 ^ 24
/-- CAP of FUTCAP (15 R342). -/
def State.futCap (s : State) : Nat := s.mgmt.futcap.toNat % 2 ^ 24
/-- A malformed handle (15 R341). -/
def State.malformed (s : State) (h : Word) : Bool :=
  handleIndex h == 0 || handleIndex h ≥ s.futCap || handleGen h == 0

/-- Drop n references to a future: at 0 it is freed when DONE, else MARKED (15 R347). -/
def State.dropRef (s : State) (h : Word) (n : Nat) : State :=
  let i := handleIndex h
  let f := s.future i
  if handleGen h = f.gen ∧ f.st ≠ .free ∧ f.st ≠ .marked then
    if f.count ≤ n then
      if f.st = .done then s.setFuture i f.freed else s.setFuture i { f with st := .marked, count := 0 }
    else s.setFuture i { f with count := f.count - n }
  else s

/-- The task's block reached DONE (15 R347): by exit, or killed. -/
def State.taskDone (s : State) (own : Word) (killed : Bool) : State :=
  if own = 0 then s
  else
    let i := handleIndex own
    let f := s.future i
    match f.st with
    | .live => s.setFuture i { f with st := .done, status := if killed then 3 else 2 }
    | .put => s.setFuture i { f with st := .done, status := 1 }
    | .marked => s.setFuture i f.freed
    | _ => s

/-- Wake a core for a placement or a walk (19 R445); true when it is ON. -/
def State.wakeCore (s : State) (core : Nat) : Bool × State :=
  match (s.getCore core).gate with
  | .on _ => (true, s)
  | .entering _ => (true, s.modCore core fun c => { c with gate := .on s.now })
  | .gated => (false, s.modCore core fun c => { c with gate := .waking })
  | .waking => (false, s)

/-- A block leaves its slot: what chains wrote to its register lines turns no granule full any more (01 R30; 13 R302). -/
def State.dropLate (s : State) (b : Nat) : State :=
  let stays (t : Tgt) : Bool := match t with | .win k _ _ _ => k != b | _ => true
  { s with chains := s.chains.map fun (c : Chain) => { c with run := { c.run with late := c.run.late.filter stays } } }

/-- A core loses a block: the count of its idle cycles starts again (19 R445). -/
def State.vacate (s : State) (x : Block) : State :=
  if x.inSlot then s.modCore x.core fun c => { c with gate := match c.gate with | .on _ => .on s.now | g => g } else s

/-! The end of a block (03 R98). -/

/-- Take a block's threads out of the bundles. -/
def State.unbundle (s : State) (b : Nat) : State :=
  { s with cur := s.cur.filter (·.1 != b)
           bundles := (s.bundles.map fun u => { u with members := u.members.filter (·.1 != b) }).filter
             fun u => !u.members.isEmpty }

/-- Abandon the matrix commands of a block and free its tiles and slots (11 R259). -/
def State.abandonMatrix (s : State) (b : Nat) : State :=
  let x := s.block b
  let c := s.getCore x.core
  let mine := (c.sequencer ++ c.loader ++ c.recon).filter (·.blk == b)
  if mine.isEmpty && x.tiles.all (fun t => !t.live) && x.slots.all (·.isNone) then s
  else
    let s := mine.foldl (fun s m => s.completeAll b m.flag) s
    let drained := c.recon.filter (·.blk == b)
    let s := drained.foldl (fun s m => (List.range x.threads.length).foldl (fun s t => (List.range 224).foldl (fun s n =>
      if m.drains b t n then s.setLineWord b t n (Config.freeWord (s.fresh + n)) else s) s) s) s
    let s := { s with fresh := s.fresh + 224 }
    let s := s.modCore x.core fun k =>
      { k with sequencer := k.sequencer.filter (·.blk != b), loader := k.loader.filter (·.blk != b)
               recon := k.recon.filter (·.blk != b)
               oprdy := [] }
    s.modBlock b fun x => { x with tiles := List.replicate 8 ⟨false, 0⟩, slots := List.replicate 16 none }

/-- Does a store still reach memory outside the block's own storage? -/
def MemOp.outlives (o : MemOp) : Bool :=
  (o.kind == .store || o.kind == .fill) && o.tgts.any fun t => match t with | .dev _ _ | .ford _ _ _ => true | _ => false

/-- A message this device sends to itself. -/
def State.post (s : State) (m : Msg) : State := { s with loop := s.loop ++ [m] }

/-- A message that leaves the device. -/
def State.send (s : State) (m : Msg) : State := { s with outbox := s.outbox ++ [m] }

/-- Note that a context exchanged something with a peer device (18 R428). -/
def State.notePeer (s : State) (ctx dev : Nat) : State :=
  { s with roofwalk := { s.roofwalk with peers := Cells.set ctx (Cells.set dev s.devTime (Cells.getD ctx [] s.roofwalk.peers)) s.roofwalk.peers } }

/-- A message of a peer has arrived (19_outside.md R442). -/
def State.hear (s : State) (peer : Nat) : State := { s with links := { s.links with heard := Cells.put 0 peer s.now s.links.heard } }

/-- A message of another device has arrived. -/
def State.hearOther (s : State) (device : Nat) : State := if device = s.device then s else s.hear device

/-- A context has exchanged gang messages with devices (18 R428): this one is none of its peers. -/
def State.notePeers (s : State) (ctx : Nat) (devices : List Nat) : State :=
  devices.foldl (fun (s : State) d => if d = s.device then s else s.notePeer ctx d) s

/-- Is this device the coordinator of a gang (16 R364), or has it taken the gang over (16 R379)? -/
def State.coordHere (s : State) (gang : Nat) : Bool := s.gangs.any (·.gang == gang) || gang % 1024 == s.device

/-- Send a message to the coordinator of a gang. -/
def State.toCoord (s : State) (gang : Nat) (m : Msg) : State := if s.coordHere gang then s.post m else s.send m

/-- Send a message to one device. -/
def State.sendTo (s : State) (dev : Nat) (m : Msg) : State := if dev = s.device then s.post m else s.send m

/-- Send a message to every device of a gang, this one included. -/
def State.sendGang (s : State) (m : Msg) : State := (s.send m).post m

/-- Tell the gang of a member's abnormal departure, or of its withdrawal before the first start (16 R370, R379). -/
def State.sayDeparted (s : State) (x : Block) : State :=
  match x.gang with
  | none => s
  | some g => s.sendGang (.depart g.gang g.index)

/-- The energy of µJ in the reservoir's unit, 1/18 nJ. -/
def ujUnits (uj : Nat) : Nat := uj * 18000

/-- A slice ends: what it did not use of its debit goes back (14 R333). -/
def State.creditSlice (s : State) (b : Nat) : State :=
  let x := s.block b
  if x.debit = 0 then s
  else
    let back : Int := (ujUnits x.debit : Int) - 18 * (x.charged : Int)
    let s1 : State := { s with sched := { s.sched with reservoir := s.sched.reservoir + (if back > 0 then back else 0) } }
    s1.modBlock b fun x => { x with debit := 0 }

/-- A block reaches DONE: what it holds is freed, its references are dropped, its launch counts it (03 R98, 14 R323,
15 R345). The set and OWN of an Oxbow copy are the original's, and count nothing at the future unit (DESIGN CHOICE; log entry 115). -/
def State.finishBlock (s : State) (b : Nat) (killed : Bool) : State :=
  match s.getBlock b with
  | none => s
  | some x =>
    if x.life = .done then s
    else
      let s := ((s.creditSlice b).endPins (·.blk == b)).abandonMatrix b
      let s := ((s.unbundle b).vacate x).dropLate b
      let s := s.modBlock b fun x =>
        { x with life := .done, held := [], regions := [], spFull := [], winFull := [], spare := [], cached := [], stopBy := none
                 moveTo := none, deferred := none, threads := x.threads.map fun th => { th with run := .exited, teams := 0, split := 0 } }
      let s := if x.isCopy then s else (x.held.foldl (fun s e => s.dropRef e.1 e.2) s).taskDone x.own killed
      { s with
        launches := s.launches.map fun l =>
          if l.id = x.launch ∧ !x.isCopy then { l with undone := l.undone - 1, killed := l.killed || killed } else l
        oxRuns := s.oxRuns.map fun r =>
          if killed && (r.orig == b || r.copy == b || r.third == some b) then { r with abandoned := true } else r
        sched := { s.sched with
          due := s.sched.due.filter (·.1 != b)
          gangCores := s.sched.gangCores.filter (·.2 != b) } }

/-- Kill one block (03 R98): nothing is saved; operations it issued that reach only its own storage are dropped, and
its unstarted and started chains end without a completion (13 R303); what it has at the future unit is dropped, but for
references given back; a LAUNCH whose record has been read stays (14 R340). -/
def State.killOne (s : State) (b : Nat) : State :=
  match s.getBlock b with
  | none => s
  | some x =>
    if x.life = .done then s
    else
      let s := { s with
        ops := (s.ops.filter fun (o : MemOp) => o.blk != b || o.outlives).map fun (o : MemOp) =>
          if o.blk = b then { o with flag := none } else o
        chains := s.chains.filter (·.blk != b)
        gangOps := s.gangOps.filter (·.blk != b)
        hzOps := s.hzOps.filter (·.blk != b)
        launchOps := s.launchOps.filter fun (o : LaunchOp) => o.blk != b || !o.bytes.isEmpty
        futOps := s.futOps.filter fun (o : FutOp) => o.blk != b || o.kind == FutKind.fdrop }
      (s.sayDeparted x).finishBlock b true

/-- Is a block one of a cooperative launch (14 R331)? A copy of an Oxbow run is a block by itself (18 R429). -/
def State.inCoop (s : State) (x : Block) : Bool := (s.recOf x).any (·.coop) && !x.isCopy

/-- The blocks that die with a block: its pair (12 R278) and, in a cooperative launch, every block (14 R340). -/
def State.killSet (s : State) (b : Nat) : List Nat :=
  let x := s.block b
  let coop := s.inCoop x
  let group (b : Nat) : List Nat :=
    let x := s.block b
    match x.pairOf with
    | some c => c :: (s.block c).partners
    | none => b :: x.partners
  if coop then (match s.launchOf x with | some l => l.blocks | none => group b) else group b

/-- Kill a block and what dies with it. -/
def State.kill (s : State) (b : Nat) : State := (s.killSet b).foldl (fun s b => s.killOne b) s

/-! Queues of slices (12 R279 to R290). -/

/-- The slice that feeds queue i of a compute block (12 R279), with its block id. -/
def State.queueSlice (s : State) (x : Block) (i : Nat) : Option (Nat × Slice) :=
  match x.partners[i % x.partners.length]? with
  | none => none
  | some p => ((s.block p).slice).map fun sl => (p, sl)

/-- A queue of a slice; none stored yet is the state at placement (12 R283). -/
def Slice.queue (sl : Slice) (i : Nat) : QueueState :=
  Cells.getD i { tail := 0, bhead := 0, block := false, mark := [], bval := [] } sl.queues

def Slice.setQueue (sl : Slice) (i : Nat) (q : QueueState) : Slice := { sl with queues := Cells.set i q sl.queues }

/-- Change a slice of a block. -/
def State.modSlice (s : State) (b : Nat) (f : Slice → Slice) : State :=
  s.modBlock b fun x => { x with slice := x.slice.map f }

/-- The queue a stream's control word names (12 R284). -/
def Stream.queue (st : Stream) : Nat := field st.ctl.toNat 12 3
/-- Does a stream deliver granules (12 R284 DEST)? -/
def Stream.granules (st : Stream) : Bool := st.ctl.getLsbD 15
/-- Bytes of one access of a stream (12 R284 SIZE; 16 for granules). -/
def Stream.size (st : Stream) : Nat := if st.granules then 16 else 2 ^ field st.ctl.toNat 10 2

/-- Is the entry at a head still in flight (12 R290)? -/
def Slice.inFlight (sl : Slice) (q head : Nat) : Bool := sl.flight.any fun f => f.kind == .entry q head

/-- The mark record of a queue slot, with its index (12 R283). -/
def Slice.markOf (sl : Slice) (q slot : Nat) : Option (Nat × MarkRec) :=
  sl.marks.find? fun e => !e.2.granule && e.2.queue == q && e.2.slot == slot

/-- Free the mark record of a slot once every live thread of the compute block has popped it (12 R288). -/
def State.freeMark (s : State) (c p q slot : Nat) : State :=
  let x := s.block c
  match (s.block p).slice with
  | none => s
  | some sl =>
    let qs := sl.queue q
    let waiting := x.liveTids.any fun t =>
      let h := Cells.getD q 0 (s.thread c t).qhead
      (List.range 3).any fun k => k < (qs.tail + 6 - h) % 6 && (h + k) % 3 == slot
    if waiting then s
    else s.modSlice p fun sl =>
      match sl.markOf q slot with
      | none => sl
      | some (m, _) =>
        (({ sl with marks := sl.marks.filter (·.1 != m) } : Slice).setQueue q { qs with mark := Cells.remove slot qs.mark })

/-- Free the mark records of a slice whose entry every live thread has popped (12 R288). -/
def State.pruneMarks (s : State) (p : Nat) : State :=
  match (s.block p).slice with
  | none => s
  | some sl => sl.marks.foldl (fun (s : State) e =>
      if e.2.granule then s else s.freeMark (((s.block p).pairOf).getD p) p e.2.queue e.2.slot) s

/-- The slice issues nothing more: its nest ends where it stands (12 R280, R281). -/
def Slice.stopNest (sl : Slice) : Slice :=
  match sl.nest with
  | none => sl
  | some n => { sl with nest := none, flight := sl.flight ++ [{ kind := .nestEnd n.flag, words := [] }] }

/-! A thread exits (03 R102). -/

/-- Stop a slice whose compute block has exited (12 R281): its thread ends and its nest issues nothing more. -/
def State.endSlice (s : State) (b : Nat) : State :=
  s.modBlock b fun x =>
    if x.life = .done then x
    else
      { x with
        life := if x.life = .resident ∨ x.life = .stopping then .exiting else x.life
        slice := x.slice.map fun sl => { sl.stopNest with ended := true }
        threads := x.threads.map fun th => { th with run := .exited, teams := 0 } }

/-- The FORDDET of a gang member whose last live thread has exited (16 R377): its release is by all threads of the block. -/
def State.detachAtExit (s : State) (b : Nat) : State :=
  let o : GangOp := { id := s.seq, blk := b, tids := List.range (s.block b).threads.length, kind := 3, phase := 0, dst := .zero, flag := none, sent := false }
  { s with gangOps := s.gangOps ++ [o], seq := s.seq + 1 }

/-- A thread becomes exited; with the last one the block goes to EXITING (03 R98, R102). -/
def State.exitThread (s : State) (b t : Nat) : State :=
  let s : State := s.modBlock b fun x => (x.leaveTeams t)
  let s : State := s.modThread b t fun (th : Thread) => { th with run := .exited, stack := [], spec := [] }
  let s : State := { s with
    cur := s.cur.filter (· != (b, t))
    bundles := (s.bundles.map fun (u : Bundle) => { u with members := u.members.filter (· != (b, t)) }).filter
      fun u => !u.members.isEmpty }
  let x := s.block b
  let s := x.partners.foldl (fun (s : State) p => s.pruneMarks p) s
  if x.liveTids.isEmpty then
    let s := s.modBlock b fun x =>
      { x with life := if x.life = .resident ∨ x.life = .stopping then .exiting else x.life, stopBy := none
               slice := x.slice.map fun sl => { sl with ended := true } }
    let s := x.partners.foldl (fun s p => s.endSlice p) s
    if x.gang.any (!·.detached) then s.detachAtExit b else s
  else s

/-! Taking an exception (17 R395), the one place. -/

/-- Code of a cause (17 R398). -/
def Cause.code : Cause → Nat
  | .illegal => 0x01 | .badTarget => 0x02 | .allotment => 0x03 | .stackOvf => 0x04 | .stackUnf => 0x05 | .brk => 0x06
  | .user => 0x07 | .priv => 0x08 | .eretSeq => 0x09 | .budget => 0x0A | .pairMis => 0x0B
  | .noTeam => 0x10 | .teamMix => 0x11 | .teamDead => 0x12 | .barSeq => 0x13
  | .noMatrix => 0x18 | .mmaArg => 0x19 | .hwClass => 0x1A | .hwArg => 0x1B | .qKind => 0x1C | .hwDead => 0x1D
  | .smapArg => 0x1E | .engArg => 0x1F
  | .futHandle => 0x20 | .futCount => 0x21 | .futNoRef => 0x22 | .futSet => 0x23 | .notTask => 0x24 | .putTwice => 0x25
  | .noGang => 0x26 | .fordSeq => 0x27 | .walkArg => 0x28
  | .nonCanon => 0x40 | .align => 0x41 | .spRange => 0x42 | .attr => 0x43 | .noFe => 0x44 | .physHole => 0x45
  | .windowRo => 0x46 | .windowEmpty => 0x47 | .windowCtx => 0x48 | .windowRange => 0x49 | .fordClosed => 0x4A
  | .fordRange => 0x4B | .fordDeparted => 0x4C
  | .xlateNp => 0x50 | .xlateProt => 0x51 | .xlateBad => 0x52

/-- TINFO of a fault: the access kind, and delivery by replay (17 R393). -/
def faultInfo (k : AccKind) (replay : Bool := false) : Word :=
  w32 ((match k with | .read => 0 | .write => 1 | .fetch => 2 | .atomic => 3) + (if replay then 4 else 0))

/-- Is a generic address canonical (06 R148)? -/
def canonical (ea : DWord) : Bool :=
  let top := ea.toNat / 2 ^ 56
  top = 0 || top = 255

/-- A fresh walk slot: 16 threads at WALKENTRY; its pending requests are delivered again (17 R407; log entry 14). -/
def State.restartWalker (s : State) (b : Nat) : State :=
  let s := (s.unbundle b).modCluster ((s.block b).core / 8) fun k => { k with reqs := k.reqs.map fun (r : WalkReq) => { r with granule := none } }
  s.modBlock b fun x =>
    { x with
             spFull := []
             threads := List.replicate 16 (Thread.init s.mgmt.walkentry s.now), life := .resident
             teams := ⟨16, 0, 0⟩ :: List.replicate 7 ⟨0, 0, 0⟩ }

/-- Trap entry of one thread (R395): the word at w traps with a cause; r is where it resumes, ridx the index of r in
its clause. A slice ends with an HW_TRAP record (12 R280) and a walk slot restarts with a WALKER_FAULT record
(17 R407). A thread that is in its handler, or without a handler, kills its block (TRAP_FATAL). -/
def State.trapEntry (s : State) (b t : Nat) (c : Cause) (addr : DWord) (info : Word) (w r : DWord) (ridx : Nat) : State :=
  let x := s.block b
  let th := s.thread b t
  match x.kind with
  | .headwater =>
    let s := s.record x.ctx
      { kind := 0x07, core := x.core, slot := x.slot, tid := t, pc := some w, addr := addr.toNat
        detail := leBytes 1 c.code }
    (s.modBlock b fun x => { x with slice := x.slice.map fun sl =>
      { sl.stopNest with ended := true } }).exitThread b t
  | .walker =>
    let s := s.record 0
      { kind := 0x0E, core := x.core, tid := t, pc := some w, addr := addr.toNat
        detail := leBytes 1 c.code ++ leBytes 1 (x.core / 8) }
    s.restartWalker b
  | .lane =>
    if th.inTrap || x.tvec == 0 || x.tvec.toNat % 4 != 0 || !canonical x.tvec then
      let s := s.record x.ctx
        { kind := 0x0C, core := x.core, slot := x.slot, tid := t, pc := some w, detail := leBytes 1 c.code }
      s.kill b
    else
      s.modThread b t fun th =>
        { th with
          tpc := r, taddr := addr, tinfo := info
          tcause := w32 (2 ^ 31 + (ridx % 32) * 2 ^ 24 + c.code)
          bankX := th.x, bankO := th.o
          x := none, o := [], clause := [], clauseIdx := 0, pc := x.tvec, run := .ready, since := s.now
          twinBad := th.twinBad && c != .pairMis }

/-! Stopping a thread at an instruction. -/

/-- Cluster of a core (01 R13). -/
def clusterOf (core : Nat) : Nat := core / 8

/-- Raise a walk request in a cluster (17 R406): a miss joins a pending request of its context and page, except that a
non-speculative one never joins a SPEC request; a chain's makes the request an engine's too. -/
def State.raiseWalk (s : State) (cluster ctx page : Nat) (kind : AccKind) (spec engine : Bool) : State :=
  let k := s.getCluster cluster
  let joins (r : WalkReq) : Bool := r.ctx == ctx && r.page == page && (spec || !r.spec)
  if k.reqs.any joins then
    (if engine then s.modCluster cluster fun k => { k with reqs := k.reqs.map fun r => if joins r then { r with engine := true } else r } else s)
  else s.modCluster cluster fun k =>
    { k with reqs := k.reqs ++ [{ ctx, page, kind, spec, engine, prefs := [], granule := none }] }

/-- Remove a thread from the bundles (03 R77): its time in the pending pool, or its wait, begins. -/
def State.leaveBundle (s : State) (b t : Nat) : State :=
  ({ s with cur := s.cur.filter (· != (b, t))
            bundles := (s.bundles.map fun u => { u with members := u.members.filter (· != (b, t)) }).filter
              fun u => !u.members.isEmpty } : State).modThread b t fun th => { th with since := s.now }

/-- A block whose threads stop at their next wait (03 R90, 15 R351); in one that moves at a YIELD, only its issuing threads have yet to
stop (14 R336). -/
def Block.atWaits (x : Block) : Bool := x.life == .stopping || x.life == .saving || x.mark.isSome

/-- The entries an exchange arrival popped from queues, in order (08 R220). -/
def Wait.popped : Wait → List Word
  | .exchange _ _ value ctl _ instr =>
    let q (r : LReg) (w : Word) : List Word := match r with | .q _ => [w] | _ => []
    match instr with
    | .tjoin a _ _ | .tred _ a _ _ | .tscan _ a _ _ _ | .matchT _ a _ => q a value
    | .shfl _ a b => q a value ++ q b ctl
    | _ => []
  | _ => []

/-- A thread's wait is withdrawn: it will execute its instruction again, with the entries it has popped (08 R213). -/
def Thread.withdraw (th : Thread) (w : Wait) : Thread :=
  if w.popped.isEmpty then th else { th with taken := some (th.pc, w.popped) }

/-- The end of the grace period of a block that is to stop (03 R90; 14 R329). -/
def State.graceOver (s : State) (x : Block) : Bool := x.stopBy.any (· ≤ s.now)

/-- A thread that is ready at a boundary of a block past its grace period stops there (03 R90; 17 R399). -/
def State.stopPast (s : State) (b t : Nat) : State :=
  let x := s.block b
  if x.atWaits && s.graceOver x && (s.thread b t).run == .ready then
    (s.modThread b t fun th => { th with run := .stopped none false }).leaveBundle b t
  else s

/-- A thread begins a wait: it leaves its bundle; a block that is stopping stops it there (03 R90). A translation
miss raises its walk request; while grace remains, the thread of a stopping block learns the walk's outcome, and may park (17 R399; DEDUCED,
log entry 111). -/
def State.beginWait (s : State) (b t : Nat) (w : Wait) : State :=
  let x := s.block b
  let walking := (match w with | .xlate _ _ _ => true | _ => false) && !s.graceOver x
  let s := s.leaveBundle b t
  let s : State := match w with
    | .peer ea ts => { s with
        ops := s.ops ++ [{ MemOp.mk' b x.padCore [t] (.load false) ea ts with id := s.seq, dst := .fetched }], seq := s.seq + 1 }
    | .xlate ctx addr kind => s.raiseWalk (clusterOf x.core) ctx (addr.toNat / 4096) kind false false
    | .sinv ctx page => s.raiseWalk (clusterOf x.core) ctx page .read true false
    | .retry pa => s.noteRetry (if s.held pa then x.padCore else 65536) pa
    | .acquire => s.modBlock b fun x => { x with acqpend := true }
    | _ => s
  s.modThread b t fun th =>
    if x.atWaits && !walking then { th.withdraw w with run := .stopped none true } else { th with run := .stalled w }

/-- What an instruction that stopped does to its thread: trap entry at its own address, or a wait. -/
def State.stopThread (s : State) (b t : Nat) (st : Stop) : State :=
  match st with
  | .trap c addr info =>
    let th := s.thread b t
    ((s.trapEntry b t c addr info th.pc th.pc th.clauseIdx).leaveBundle b t).stopPast b t
  | .stall w => s.beginWait b t w

/-! Predicates and the .spec atomics (07 R192). -/

/-- A predicate of a thread. -/
def Thread.getP (th : Thread) (p : Nat) : Bool := th.pred.getLsbD p
/-- Set a predicate. -/
def Thread.setP (th : Thread) (p : Nat) (v : Bool) : Thread :=
  { th with pred := if v then th.pred ||| ((1 : BitVec 8) <<< p) else th.pred &&& ~~~((1 : BitVec 8) <<< p) }

/-- A thread validates its .spec atomics up to a scope: p6 says whether all succeeded (07 R192). -/
def Thread.validate (th : Thread) (sc : Scope) : Thread :=
  let mine := th.spec.filter fun e => e.1.code ≤ sc.code
  if mine.isEmpty then th
  else { th.setP 6 (mine.all (·.2)) with spec := th.spec.filter fun e => !(e.1.code ≤ sc.code : Bool) }

/-! Retiring an instruction. -/

/-- COUNT of the header of a clause (02 R44). -/
def clauseCount (h : Word) : Nat :=
  let n := field h.toNat 21 4
  if n = 0 then 16 else n

/-- Words an instruction takes in its clause (02 R43). -/
def wordsOf (i : Instr) : Nat := if i.takesLiteral then 2 else 1

/-- Past the instruction: the next word of the clause, or the boundary after it, where x and o become undefined
(02 R41, R45). -/
def Thread.advance (th : Thread) (words : Nat) : Thread :=
  let idx := th.clauseIdx + words
  let pc := th.pc + w64 (4 * words)
  if idx > clauseCount (th.clause.headD 0) then { th with pc, clauseIdx := 0, clause := [], x := none, o := [] }
  else { th with pc, clauseIdx := idx }

/-- A taken transfer: the thread stands at the boundary of the target clause (03 R100). -/
def Thread.jump (th : Thread) (pc : DWord) : Thread := { th with pc, clauseIdx := 0, clause := [], x := none, o := [] }

/-- At a clause boundary x and o become undefined (02 R41): what was to arrive in them is dropped, except while the
thread is in its handler, when they belong to the interrupted clause (17 R395). -/
def State.dropLatches (s : State) (b t : Nat) : State :=
  let th := s.thread b t
  if th.clauseIdx = 0 && !th.inTrap then
    { s with ops := s.ops.map fun (o : MemOp) =>
        if o.blk = b ∧ o.tids = [t] then
          match o.dst with
          | .lane .x _ | .lane (.o _) _ => { o with dst := .none }
          | _ => o
        else o }
  else s

/-- The instruction retires with a flow: the thread moves on; one whose grace period is over stops at this boundary
(03 R90). -/
def State.retire (s : State) (b t words : Nat) (fl : Flow) : State :=
  let th := s.thread b t
  let s : State := match fl with
    | .fall => (s.modThread b t (·.advance words)).dropLatches b t
    | .goto pc => ((s.modThread b t (·.jump pc)).leaveBundle b t).dropLatches b t
    | .placed => s
    | .stops st => s.stopThread b t st
    | .trapNext c info =>
      let w := th.pc
      let s := s.modThread b t (·.advance words)
      let th' := s.thread b t
      let s := s.modThread b t fun a => { a with x := th.x, o := th.o }
      (s.trapEntry b t c 0 info w th'.pc th'.clauseIdx).leaveBundle b t
  s.stopPast b t

end Sys2Proof.Machine
end

