-- ==== Sys2Proof/Machine/Memory.lean ====
section
/-! DEFINITION. Memory accesses: where a generic address leads (06_memory.md R148 to R159, 01_machine.md R20 to R30,
16_gangs.md R372 to R374, 17_system.md R405), the view of a core and its pins (07_ordering.md R173 to R183), shadow
regions (06 R153 to R155), issue of a memory operation, and its performance at home (07 R175 to R192). -/

namespace Sys2Proof.Machine

/-! The physical map (01 R20, R24). -/

/-- Start of the on-chip map. -/
def chipBase : Nat := 0xF000000000000
/-- Start of the capacity tier. -/
def capBase : Nat := 0x1000000000000

/-- Regions of a core's on-chip offsets (01 R24). -/
inductive ChipRegion where | window | pad | acc | bound | hole
deriving DecidableEq, Repr

def chipRegion (o : Nat) : ChipRegion :=
  if o < 0x2000000 then .window
  else if o < 0x2040000 then .pad
  else if o < 0x2400000 then .hole
  else if o < 0x2428000 then .acc
  else if o < 0x242C000 then .bound
  else .hole

/-- Regions of the physical space (01 R20). -/
inductive PhysRegion where | dev | capacity | chip | hole
deriving DecidableEq, Repr

def physRegion (pa : Nat) : PhysRegion :=
  if pa < devSize then .dev
  else if chipBase ≤ pa ∧ pa < chipBase + 512 * 0x4000000 then
    match chipRegion ((pa - chipBase) % 0x4000000) with
    | .hole => .hole
    | _ => .chip
  else if capBase ≤ pa ∧ pa < capBase + Config.capacityBytes then .capacity
  else .hole

/-- Is a channel retired on a core (10_residue.md R250)? -/
def CoreState.retired (c : CoreState) (ch : Nat) : Bool := c.chstat.getLsbD (16 + ch)


/-- The block in a slot of a core; walk slots are not among them. -/
def State.slotBlock (s : State) (core slot : Nat) : Option Nat :=
  s.blockIds.find? fun b => let x := s.block b; x.inSlot && x.kind != .walker && x.core == core && x.slot == slot

/-- The target of an on-chip access, or the check of 01 R26 that fails first. -/
def State.chipTgt (s : State) (ctx pa : Nat) (write fe : Bool) : Except Cause Tgt :=
  let o := (pa - chipBase) % 0x4000000
  let core := (pa - chipBase) / 0x4000000
  match chipRegion o with
  | .hole => .error .physHole
  | .window =>
    match s.slotBlock core (o / 0x100000) with
    | none => .error .windowEmpty
    | some b =>
      let x := s.block b
      let row := o % 0x100000 / 0x4000
      let line := o % 0x4000 / 64
      if x.ctx ≠ ctx then .error .windowCtx
      else if x.kind = .headwater ∨ line ≥ x.full ∨ line > 223 ∨ 16 * row ≥ x.threads.length then .error .windowRange
      else .ok (.win b row line (o % 64))
  | .pad =>
    match s.padOwner core ((o - 0x2000000) / 16) with
    | none => .error .windowEmpty
    | some b => if (s.block b).ctx ≠ ctx then .error .windowCtx else .ok (.sp core (o - 0x2000000))
  | .acc =>
    if write then .error .windowRo
    else if fe then .error .noFe
    else
      let k := o - 0x2400000
      let ch := k / 0x4000
      let tile := k % 0x4000 / 0x800
      let c := s.getCore core
      match (s.onCore core).find? fun b => let x := s.block b; x.ctx == ctx && (x.tiles.getD tile ⟨false, 0⟩).live with
      | none => .ok .zeros
      | some _ => if c.mmaOn tile || c.retired ch then .ok .undef else .ok (.acc core ch tile (k % 0x800 / 64) (k % 64))
  | .bound =>
    if write then .error .windowRo
    else if fe then .error .noFe
    else
      let k := o - 0x2428000
      let tile := k / 0x800
      match (s.onCore core).find? fun b => let x := s.block b; x.ctx == ctx && (x.tiles.getD tile ⟨false, 0⟩).live with
      | none => .ok .zeros
      | some _ => if (s.getCore core).mmaOn tile then .ok .undef else .ok (.bnd core tile (k % 0x800 / 64) (k % 64))

/-- Target of a physical address reached through a page of a type (06 R149, R159): reserved ranges first, then the
type, then full/empty on NORMAL pages, then 01 R26. -/
def State.physTgt (s : State) (ctx : Nat) (key : Option Nat) (onchip : Bool) (pa : Nat) (write fe : Bool) :
    Except Cause Tgt :=
  match physRegion pa, onchip with
  | .hole, _ => .error .physHole
  | .dev, false => if fe then .error .noFe else .ok (.dev pa key)
  | .chip, true => s.chipTgt ctx pa write fe
  | _, _ => .error .attr

/-! Translation (17 R405). -/

/-- Bytes of a size code (17 R404). -/
def sizeBytes (code : Nat) : Nat :=
  match code with
  | 0 => 0x1000
  | 1 => 0x10000
  | 2 => 0x200000
  | 3 => 0x2000000
  | 4 => 0x40000000
  | _ => 0x400000000

def TlbEntry.covers (e : TlbEntry) (ctx : Nat) (ea : Nat) : Bool :=
  e.ctx == ctx && e.va ≤ ea && ea < e.va + sizeBytes e.size

/-- The matching entry of the smallest size (17 R405). -/
def State.tlbFind (s : State) (cluster ctx ea : Nat) : Option TlbEntry :=
  ((s.getCluster cluster).tlb.filter (·.covers ctx ea)).foldl
    (fun best e => match best with | some f => if e.size < f.size then some e else some f | none => some e) none

/-- Outcome of a translation. -/
inductive Xl where
  | hit (pa : Nat) (onchip : Bool)
  | miss
  | prot
deriving DecidableEq, Repr

/-- Translate an address for an access kind: W and X first, then the dirty bit of a write (17 R405; R398 for a fetch
from an ONCHIP page). -/
def State.translate (s : State) (cluster ctx ea : Nat) (kind : AccKind) : Xl :=
  match s.tlbFind cluster ctx ea with
  | none => .miss
  | some e =>
    let wr := kind == .write || kind == .atomic
    if wr && !e.w then .prot
    else if kind == .fetch && (!e.x || e.onchip) then .prot
    else if wr && !e.d then .miss
    else .hit (e.frame + (ea - e.va)) e.onchip

/-- The scratchpad window (06 R148). -/
def padWindow : Nat := 0xFFFFFFFFFFFC0000
/-- The Ford range (16 R372). -/
def fordBase : Nat := 0xFFFFFFF800000000

def inPadWindow (ea : DWord) : Bool := ea.toNat ≥ padWindow
def inFord (ea : DWord) : Bool := fordBase ≤ ea.toNat && ea.toNat < fordBase + 0x400000000

/-- The gang state of the member a block belongs to: its own, or its compute block's (16 R364, R372). -/
def State.gangOf (s : State) (x : Block) : Option GangMember :=
  match x.pairOf with
  | some c => (s.block c).gang
  | none => x.gang

/-- Does a member that has been placed again wait for its window (16 R380)? Its first instruction then waits too, for 1 µs after its
start at the most (16 R367). -/
def State.awaitsWindow (s : State) (x : Block) : Bool :=
  (s.gangOf x).any fun g => g.phaseSt == 4 && g.attached && !g.detached && !g.windowOpen && decide (s.devTime < g.tt + 1000)

/-- A Ford check that fails for one byte: its order and cause (16 R373). -/
def fordFail (gang : Option GangMember) (fe : Bool) (ea : DWord) : Option (Nat × Cause) :=
  let o := ea.toNat - fordBase
  let m := o / 0x40000
  match gang with
  | none => some (1, .fordClosed)
  | some g =>
    if !g.attached || !g.windowOpen || g.detached then some (1, .fordClosed)
    else if m ≥ g.members then some (2, .fordRange)
    else if g.departed.contains m then some (3, .fordDeparted)
    else if o % 0x40000 ≥ 16 * Cells.getD m 0 g.lens then some (4, .fordRange)
    else if fe then some (5, .noFe)
    else none

/-- The target of one byte of an access of a block's thread (06 R148 to R150, R159; 16 R372, R373; 17 R407). Shadow
fills are not made here. R159 branches on ea alone; an access whose later bytes lie in another region, past the start of the scratchpad
window or past 2^64, where addresses wrap to 0, has each byte taken where it lies (DESIGN CHOICE; log entry 102). -/
def State.byteTgt (s : State) (b : Nat) (kind : AccKind) (fe : Bool) (ea : DWord) : Except Stop Tgt :=
  let x := s.block b
  let write := kind == .write || kind == .atomic
  let fault {α : Type} (c : Cause) : Except Stop α := .error (.trap c ea (faultInfo kind))
  let lift : Except Cause Tgt → Except Stop Tgt := fun r => match r with | .ok t => .ok t | .error c => fault c
  if !canonical ea then fault .nonCanon
  else if inPadWindow ea then
    let o := ea.toNat - padWindow
    if o ≥ 16 * x.spLen then fault .spRange else .ok (.sp x.padCore (16 * x.spBase + o))
  else if (s.gangOf x).isSome && inFord ea then
    match fordFail (s.gangOf x) fe ea with
    | some (_, c) => fault c
    | none =>
      let o := ea.toNat - fordBase
      match s.gangOf x with
      | some g =>
        let y := s.block (x.pairOf.getD b)
        if o / 0x40000 = g.index then .ok (.sp y.padCore (16 * y.spBase + o % 0x40000))
        else .ok (.ford g.gang (o / 0x40000) (o % 0x40000))
      | none => fault .fordClosed
  else if x.kind == .walker && ea.toNat < 2 ^ 56 then
    if ea.toNat < devSize then (if fe then fault .noFe else .ok (.dev ea.toNat none)) else fault .physHole
  else
    match s.translate (clusterOf x.core) x.ctx ea.toNat kind with
    | .miss => .error (.stall (.xlate x.ctx ea kind))
    | .prot => fault .xlateProt
    | .hit pa onchip => lift (s.physTgt x.ctx (s.ctxKey x.ctx) onchip pa write fe)

/-- The first Ford check, in order, that some Ford byte of an access fails (16 R373). -/
def State.fordStop (s : State) (b : Nat) (kind : AccKind) (fe : Bool) (eas : List DWord) : Option Stop :=
  let x := s.block b
  if (s.gangOf x).isNone then none
  else
    (List.range 5).findSome? fun r =>
      eas.findSome? fun ea =>
        if inFord ea then
          match fordFail (s.gangOf x) fe ea with
          | some (k, c) => if k = r + 1 then some (.trap c ea (faultInfo kind)) else none
          | none => none
        else none

/-- Place of a check of a page's target in the order of 06 R159 and 01 R26. -/
def targetRank : Cause → Option Nat
  | .physHole => some 0
  | .attr => some 1
  | .windowRo => some 2
  | .noFe => some 3
  | .windowEmpty => some 4
  | .windowCtx => some 5
  | .windowRange => some 6
  | _ => none

/-- One page, one order of checks: where a byte fails a check of its page's target and a later byte of the same page
fails an earlier check, the earlier check decides (06 R159). -/
def State.pageStop (s : State) (b : Nat) (kind : AccKind) (fe : Bool) (ea : DWord) (e : Stop) (eas : List DWord) : Stop :=
  let x := s.block b
  let page (a : DWord) : Option TlbEntry := s.tlbFind (clusterOf x.core) x.ctx a.toNat
  let rank : Stop → Option Nat
    | .trap c _ _ => targetRank c
    | _ => none
  match rank e with
  | none => e
  | some _ => eas.foldl (fun best a =>
      if page a = page ea then
        match s.byteTgt b kind fe a with
        | .error f => if (rank f).getD 9 < (rank best).getD 9 then f else best
        | .ok _ => best
      else best) e

/-- Targets of all bytes of an access, in address order: the first failing check of the first failing page decides
(06 R159). -/
def State.byteTgts (s : State) (b : Nat) (kind : AccKind) (fe : Bool) : List DWord → Except Stop (List Tgt)
  | [] => .ok []
  | ea :: eas =>
    match s.byteTgt b kind fe ea with
    | .error e => .error (s.pageStop b kind fe ea e eas)
    | .ok t =>
      match s.byteTgts b kind fe eas with
      | .error e => .error e
      | .ok ts => .ok (t :: ts)

/-! Views and pins (07 R173, R174, R182). -/

/-- The pin on a line, if a core has one. -/
def State.pinAt (s : State) (pa : Nat) : Option Pin := s.pins.find? (·.line == pa / 64 * 64)

/-- Can an agent of a core reach the home of a device address: no pin of another core, no parity rewrite (07 R182, 18
R435)? -/
def State.reach (s : State) (core pa : Nat) : Bool :=
  (match s.pinAt pa with | some p => p.core == core | none => true) && !s.held pa

/-- A core number for agents that belong to no core. -/
def noCore : Nat := 65536


/-- The byte an operation would write at a target, if it is a store. -/
def MemOp.byteFor (o : MemOp) (t : Tgt) : Option Byte :=
  match o.kind with
  | .store | .fill | .spec _ true => ((o.tgts.zip o.data).find? (·.1 == t)).map (·.2)
  | _ => none

/-- Do two operations come from a common thread? -/
def MemOp.shares (o p : MemOp) : Bool := o.blk == p.blk && o.tids.any p.tids.contains

/-- Do two operations touch a common byte? -/
def MemOp.overlaps (o p : MemOp) : Bool := o.tgts.any p.tgts.contains

/-- Is the operation a load of either kind? -/
def MemOp.isLoad (o : MemOp) : Bool := match o.kind with | .load _ => true | _ => false
/-- Is the operation a .com atomic? -/
def MemOp.isCom (o : MemOp) : Bool := match o.kind with | .atom _ .com => true | _ => false
/-- Is the operation a .nord atomic? -/
def MemOp.isNord (o : MemOp) : Bool := match o.kind with | .atom _ .nord | .cas _ .nord => true | _ => false
/-- Is the operation an atomic? -/
def MemOp.isAtom (o : MemOp) : Bool := match o.kind with | .atom _ _ | .cas _ _ | .spec _ _ => true | _ => false

/-- The mark of a write that a read returned and that is not yet performed at home: the write's own number. A write made in a pinned copy,
which is performed at home when the pin ends (07 R183), goes by the number of the pin (log entry 40). -/
def obsWrite (id : Nat) : Nat := id

/-- The latest store of a core in its view on a device byte: stores and .spec updates not yet performed at home (07 R174, R192). -/
def State.inViewAt (s : State) (core pa : Nat) (key : Option Nat) : Option MemOp :=
  let inView := s.ops.filter fun o => o.core == core && o.inView.isSome && (o.byteFor (.dev pa key)).isSome
  inView.foldl (fun (best : Option MemOp) o =>
    match best with
    | some q => if (q.inView.getD 0) ≤ (o.inView.getD 0) then some o else best
    | none => some o) none

/-- The byte of device memory a plain load of a core returns (07 R174): that of a store of the core already in its view, a pinned
copy, the copy, or home; a .nol1 load reads the home point. The second part names the write it returned while that is not performed
at home. R174 lets core-mates see a store at any time before it is performed at home: here they see it once a .core
release has put it into the view (State.beginRelease; DESIGN CHOICE, log entry 43). -/
def State.coreByte (s : State) (core : Nat) (nol1 : Bool) (pa : Nat) (key : Option Nat) : Byte × List Nat :=
  match nol1, s.inViewAt core pa key with
  | false, some o => ((o.byteFor (.dev pa key)).getD 0, [obsWrite o.id])
  | _, _ =>
    match s.pinAt pa with
    | some p =>
      if p.core = core then (p.bytes.getD (pa % 64) 0, if p.wrote.contains (pa % 64) then [p.id] else []) else (s.homeByte pa key, [])
    | none =>
      match nol1, Cells.get? (viewKey core key pa) s.views with
      | false, some v => (v, [])
      | _, _ => (s.homeByte pa key, [])

/-- A core drops every copy of its view; stores not yet performed at home and pinned copies are kept apart (07 R179). -/
def State.dropView (s : State) (core : Nat) : State :=
  { s with views := Cells.dropRange (core * 129 * 2 ^ 52) ((core + 1) * 129 * 2 ^ 52) s.views }

/-- Bytes a core's L1 holds: the copies of its view and its pinned lines (01 R18; 07 R182). -/
def State.l1Bytes (s : State) (core : Nat) : Nat :=
  (Cells.range (core * 129 * 2 ^ 52) ((core + 1) * 129 * 2 ^ 52) s.views).length + 64 * (s.pins.filter (·.core == core)).length

/-- Room for n more bytes in a core's L1 of 128 KiB (01 R18): any copy may be dropped at any time (07 R174); a full L1 drops them
all (DESIGN CHOICE; log entry 44). -/
def State.l1Room (s : State) (core n : Nat) : State := if s.l1Bytes core + n ≤ 131072 then s else s.dropView core

/-- Fill the aligned 8-byte words that hold an address into a core's view (07 R174, 06 R157); present copies stay. A walk slot
is no part of a core and has no L1 (R176). -/
def State.fillView (s : State) (core pa : Nat) (key : Option Nat) : State :=
  if core ≥ 512 then s
  else (List.range 8).foldl (fun s i =>
    let a := pa / 8 * 8 + i
    match Cells.get? (viewKey core key a) s.views with
    | some _ => s
    | none => { s with views := Cells.set (viewKey core key a) (s.homeByte a key) s.views }) (s.l1Room core 8)

/-- Drop the copies of a physical range from a core's view, under every key. -/
def State.dropViewRange (s : State) (core pa len : Nat) : State :=
  { s with views := s.views.filter fun e =>
      !(e.1 / 2 ^ 52 / 129 == core && pa ≤ e.1 % 2 ^ 52 && e.1 % 2 ^ 52 < pa + len) }

/-- Drop the instruction-path copies of a physical range on cores a test picks (02 R52). -/
def State.dropPath (s : State) (f : Nat → Bool) (pa len : Nat) : State :=
  { s with ipath := s.ipath.filter fun e =>
      !(f (e.1 / 2 ^ 52 / 129) && pa ≤ e.1 % 2 ^ 52 && e.1 % 2 ^ 52 < pa + len) }

/-- The acquire part at a scope for an agent of a core (07 R179). -/
def State.acquireAt (s : State) (core : Nat) (sc : Scope) : State := if sc = .core then s else s.dropView core

/-- Are .spec atomics of the threads issued before a serial number still pending (07 R192)? -/
def State.specPending (s : State) (b : Nat) (tids : List Nat) (before : Nat) : Bool :=
  s.ops.any fun o => o.blk == b && o.id < before && o.tids.any tids.contains &&
    (match o.kind with | .spec _ _ => true | _ => false)

/-- Is an acquire of the same threads before a serial number still holding later accesses back (07 R179)? FGET and FPOLL acquire
too (15_futures.md R359). -/
def State.acquireHolds (s : State) (b : Nat) (tids : List Nat) (before : Nat) : Bool :=
  s.ops.any (fun o => o.blk == b && o.id < before && o.acq && o.tids.any tids.contains) ||
    s.futOps.any fun o => o.blk == b && o.id < before && o.tids.any tids.contains &&
      (match o.kind with | .fpoll | .fget _ _ => true | _ => false)

/-- An operation that an access of threads of a block, made at once, has to come after: one of theirs on a byte of it (07 R175),
or, where it writes, a store of the core's on such a byte that is in the view (R174). -/
def State.blocker (s : State) (b : Nat) (tids : List Nat) (core : Nat) (write : Bool) (ts : List Tgt) : Option Nat :=
  (s.ops.find? fun p => ((p.blk == b && p.tids.any tids.contains) || (write && p.core == core && p.inView.isSome)) &&
    p.tgts.any ts.contains).map (·.id)

/-- The wait before an access made at once, if there is one: a pending acquire, or an operation it has to come after. -/
def State.atOnce (s : State) (b : Nat) (tids : List Nat) (core : Nat) (write : Bool) (ts : List Tgt) : Option Wait :=
  if s.acquireHolds b tids s.seq then some .acquirePart else (s.blocker b tids core write ts).map .order

/-- The acquire part for threads of a block: the view, and the validation of .spec atomics (07 R179, R192). -/
def State.acquireFor (s : State) (b : Nat) (tids : List Nat) (core : Nat) (sc : Scope) : State :=
  tids.foldl (fun (s : State) t => s.modThread b t (·.validate sc)) (s.acquireAt core sc)

/-! Shadow regions (06 R153 to R155). -/

/-- The region of a block that holds a byte offset of its allocation. -/
def Block.regionAt (x : Block) (off : Nat) : Option Region := x.regions.find? fun r => r.off ≤ off && off < r.off + r.len

/-- Change a region of a block, named by its offset. -/
def Block.modRegion (x : Block) (off : Nat) (f : Region → Region) : Block :=
  { x with regions := x.regions.map fun r => if r.off = off then f r else r }

/-- The owner block and its region with the unit index that hold a scratchpad byte. -/
def State.unitAt (s : State) (core off : Nat) : Option (Nat × Region × Nat) :=
  match s.padOwner core (off / 16) with
  | none => none
  | some b =>
    let x := s.block b
    match x.regionAt (off - 16 * x.spBase) with
    | some r => some (b, r, (off - 16 * x.spBase - r.off) / 256)
    | none => none

/-- The core next to which an agent with a number as Block.padCore stands. -/
def coreBy (n : Nat) : Nat := if n ≥ 512 then (n - 512) * 8 else n

/-- Physical place of a unit's global range for a block, for reading or writing, from a cluster (06 R154). A global range in the
scratchpad window, for which the spec states no fill or write-back, faults as ATTR (DESIGN CHOICE; log entry 45). -/
def State.unitPhys (s : State) (cluster ctx : Nat) (g : DWord) (kind : AccKind) : Except Stop Nat :=
  if !canonical g || inPadWindow g then .error (.trap (if canonical g then .attr else .nonCanon) g (faultInfo kind))
  else
    match s.translate cluster ctx g.toNat kind with
    | .miss => .error (.stall (.xlate ctx g kind))
    | .prot => .error (.trap .xlateProt g (faultInfo kind))
    | .hit pa onchip =>
      match physRegion pa, onchip with
      | .hole, _ => .error (.trap .physHole g (faultInfo kind))
      | .dev, false => .ok pa
      | _, _ => .error (.trap .attr g (faultInfo kind))

/-- A write of the core in the copy of its pinned line (07 R182). -/
def Pin.write (p : Pin) (pa : Nat) (v : Byte) : Pin :=
  { p with bytes := p.bytes.set (pa % 64) v, wrote := Cells.insert (pa % 64) p.wrote }

/-- Write a byte in the copy of a pinned line. -/
def State.writePin (s : State) (line pa : Nat) (v : Byte) : State :=
  { s with pins := s.pins.map fun (q : Pin) => if q.line = line then q.write pa v else q }

/-- The numbers of a core's pins whose copies hold a written byte among some targets: what an access of those bytes has written or
read is performed at home once they end (07 R178, R183). -/
def State.pinMarks (s : State) (core : Nat) (ts : List Tgt) : List Nat :=
  (ts.filterMap fun t => match t with
    | .dev pa _ => (s.pinAt pa).bind fun p => if p.core == core && p.wrote.contains (pa % 64) then some p.id else none
    | _ => none).dedup

/-- A thread's reads returned these writes (07 R178). -/
def State.observe (s : State) (b : Nat) (tids : List Nat) (obs : List Nat) : State :=
  if obs.isEmpty then s
  else tids.foldl (fun (s : State) t => s.modThread b t fun th => { th with observed := (th.observed ++ obs).dedup }) s

/-- The 256 bytes of device memory of a unit. -/
def unitTgts (pa : Nat) (key : Option Nat) : List Tgt := (List.range 256).map fun i => .dev (pa + i) key

/-- The 256 scratchpad bytes of a unit of a block. -/
def Block.unitPad (x : Block) (r : Region) (u : Nat) : List Tgt :=
  (List.range 256).map fun i => .sp x.padCore (16 * x.spBase + r.off + 256 * u + i)

/-- Fill one unit (06 R154): its 256 bytes are read as a plain load of the threads whose access triggers the fill, in their program
order, and it is present and clean. A fill is an outside access to every pinned line, the own core's too (07 R182). -/
def State.fillUnit (s : State) (b : Nat) (tids : List Nat) (owner : Nat) (r : Region) (u : Nat) (core : Nat) : Except Stop State :=
  let x := s.block owner
  let g := r.global + w64 (256 * u)
  match s.unitPhys (clusterOf (coreBy core)) x.ctx g .read with
  | .error e => .error e
  | .ok pa =>
    let key := s.ctxKey x.ctx
    match (List.range 4).find? (fun i => !s.reach noCore (pa + 64 * i)), s.atOnce b tids core false (unitTgts pa key) with
    | some i, _ => .error (.stall (.retry (pa + 64 * i)))
    | _, some w => .error (.stall w)
    | none, none =>
      let start := 16 * x.spBase + r.off + 256 * u
      let bs := (List.range 256).map fun i => s.coreByte core false (pa + i) key
      let s1 : State := { s with pads := (bs.zipIdx).foldl (fun m e => Cells.put 0 (padKey x.padCore (start + e.2)) e.1.1 m) s.pads }
      .ok ((s1.modBlock owner fun x => x.modRegion r.off fun r => { r with present := Cells.insert u r.present }).observe b tids
        (bs.flatMap (·.2)).dedup)

/-- Fill every unit that a list of targets reaches and that is not present, in order, for threads of a block (none for an engine). -/
def State.fillUnits (s : State) (b : Nat) (tids : List Nat) (core : Nat) : List Tgt → Except Stop State
  | [] => .ok s
  | t :: ts =>
    match t with
    | .sp c off =>
      match s.unitAt c off with
      | some (o, r, u) =>
        if r.present.contains u then s.fillUnits b tids core ts
        else
          match s.fillUnit b tids o r u core with
          | .error e => .error e
          | .ok s' => s'.fillUnits b tids core ts
      | none => s.fillUnits b tids core ts
    | _ => s.fillUnits b tids core ts

/-- Write one unit back to its global range and make it clean (06 R154): a plain store of the threads that perform it, after their
own accesses to the unit and to its global range (R169). That of an Oxbow copy is not performed (18 R430; DESIGN CHOICE, log entry 115). -/
def State.writeBackUnit (s : State) (owner : Nat) (r : Region) (u : Nat) (tids : List Nat) (cluster core : Nat) : Except Stop State :=
  let x := s.block owner
  let g := r.global + w64 (256 * u)
  match s.unitPhys cluster x.ctx g .write with
  | .error e => .error e
  | .ok pa =>
    let key := s.ctxKey x.ctx
    match (List.range 4).find? (fun i => !s.reach core (pa + 64 * i)), s.atOnce owner tids core true (unitTgts pa key ++ x.unitPad r u) with
    | some i, _ => .error (.stall (.retry (pa + 64 * i)))
    | _, some w => .error (.stall w)
    | none, none =>
      if x.isCopy then .ok (s.modBlock owner fun x => x.modRegion r.off fun r => { r with dirty := Cells.remove u r.dirty }) else
      let start := 16 * x.spBase + r.off + 256 * u
      let s1 := (List.range 256).foldl (fun s i =>
        let v := Cells.getD (padKey x.padCore (start + i)) 0 s.pads
        let s := match s.pinAt (pa + i) with
          | some p => s.writePin p.line (pa + i) v
          | none => s.setHomeByte (pa + i) key v
        match Cells.get? (viewKey core key (pa + i)) s.views with
        | some _ => { s with views := Cells.set (viewKey core key (pa + i)) v s.views }
        | none => s) s
      let s2 := { s1 with thatch := s1.thatch.owe s1.seq pa 256, seq := s1.seq + 1 }
      .ok ((s2.modBlock owner fun x => x.modRegion r.off fun r => { r with dirty := Cells.remove u r.dirty }).observe owner tids
        (s2.pinMarks core (unitTgts pa key)))

/-- Write back the dirty units a list names, in order; the first failure stops. Units already written stay clean in
the state given with it. -/
def State.writeBackUnits (s : State) (owner : Nat) (tids : List Nat) (cluster core : Nat) : List (Nat × Nat) → State × Option Stop
  | [] => (s, none)
  | (off, u) :: us =>
    match (s.block owner).regions.find? (·.off == off) with
    | none => s.writeBackUnits owner tids cluster core us
    | some r =>
      if !r.dirty.contains u then s.writeBackUnits owner tids cluster core us
      else
        match s.writeBackUnit owner r u tids cluster core with
        | .error e => (s, some e)
        | .ok s' => s'.writeBackUnits owner tids cluster core us

/-- A store is performed on a scratchpad byte: it marks its unit dirty (06 R154). Every access fills its unit first, and an SINV
waits for the accesses on the units it discards (06 R171; State.invalWait); so a store finds its unit present, unless an SMAP after it has
made the region: it writes the plain scratchpad, as it would have before the SMAP, and a later fill takes its place. -/
def State.setPadByte (s : State) (core off : Nat) (v : Byte) : State :=
  match s.unitAt core off with
  | none => s.setTgt (.sp core off) v
  | some (o, r, u) =>
    if r.present.contains u then
      (s.setTgt (.sp core off) v).modBlock o fun x => x.modRegion r.off fun r => { r with dirty := Cells.insert u r.dirty }
    else s.setTgt (.sp core off) v

/-- Write a byte at its home point, with what a core's own write does to its pinned or view copy (07 R173, R174). -/
def State.performByte (s : State) (core : Nat) (nol1 seen : Bool) (t : Tgt) (v : Byte) : State :=
  match t with
  | .dev pa key =>
    match s.pinAt pa with
    | some p => s.writePin p.line pa v
    | none =>
      let s := s.setHomeByte pa key v
      let k := viewKey core key pa
      if nol1 then { s with views := Cells.erase k s.views }
      else if (Cells.get? k s.views).isSome then { s with views := Cells.set k v s.views }
      else if seen then
        let s := s.l1Room core 1
        { s with views := Cells.set k v s.views }
      else s
  | .sp c off => s.setPadByte c off v
  | t => s.setTgt t v

/-- Owe parity for the device bytes a write touched, unit by unit (18 R434). Bytes held in a pin are owed when it
ends. -/
def State.oweTgts (s : State) (id : Nat) (ts : List Tgt) : State :=
  let pas := ts.filterMap fun t => match t with | .dev pa _ => if (s.pinAt pa).isSome then none else some pa | _ => none
  let units := (pas.map (· / 256)).dedup
  { s with thatch := units.foldl (fun (th : Thatch) u =>
      let inU := pas.filter (· / 256 == u)
      let lo := inU.foldl Nat.min (256 * u + 255)
      let hi := inU.foldl Nat.max 0
      th.owe id lo (hi - lo + 1)) s.thatch }

/-! Conditions of ordered accesses (07 R175, R177 to R179). -/

/-- Die of a core (01 R13). -/
def dieOf (core : Nat) : Nat := core / 128

/-- Core a target lies on, for the on-chip columns of 07 R177. -/
def State.tgtCore (s : State) : Tgt → Option Nat
  | .sp core _ => some (coreBy core)
  | .win blk _ _ _ => some (s.block blk).core
  | .acc core _ _ _ _ | .bnd core _ _ _ => some core
  | _ => none

/-- Must a release at a scope wait for this pending operation (07 R177, R178, R190; 16 R374)? -/
def State.pendingAt (s : State) (o : MemOp) (sc : Scope) : Bool :=
  if o.isNord then false
  else if o.isCom then !(o.tgts.any fun t => match t with | .ford _ _ _ => true | _ => false) || sc == .dom || sc == .sys
  else if o.tgts.isEmpty then true
  else
    o.tgts.any fun t =>
      match t with
      | .ford _ _ _ => o.isLoad || sc == .dom || sc == .sys
      | .dev _ _ => !(sc == .core && o.inView.isSome && (o.kind == .store))
      | t =>
        if o.isLoad || o.isAtom then true
        else
          match s.tgtCore t with
          | none => true
          | some c =>
            if c = coreBy o.core then true
            else match sc with
              | .core => false
              | .die => dieOf c == dieOf (coreBy o.core)
              | _ => true

/-- Is an observed write not yet performed at a scope (07 R178)? One held in a pinned copy is not, but at .core, until the pin has
ended (07 R177, R183). -/
def State.obsPending (s : State) (sc : Scope) (k : Nat) : Bool :=
  s.ops.any (fun o => obsWrite o.id == k && s.pendingAt o sc) || (sc != .core && s.pins.any (·.id == k))

/-- Writes that the release part of a command, named by its serial number, waits for besides those its threads knew at issue: what their
earlier accesses have read or left in a pinned copy since (07 R178, R197, R200). -/
def State.afterOf (s : State) (id : Nat) : List Nat :=
  (s.chains.filter (·.id == id)).flatMap (·.after) ++ (s.launchOps.filter (·.id == id)).flatMap (·.after) ++
    (s.futOps.filter (·.id == id)).flatMap (·.after) ++ (s.gangOps.filter (·.id == id)).flatMap (·.after)

/-- A release at a scope by a thread, for its accesses before a serial number: does something remain (07 R178)? -/
def State.releaseWaits (s : State) (b : Nat) (tids : List Nat) (before : Nat) (sc : Scope) (obs : List Nat) : Bool :=
  s.ops.any (fun o => o.blk == b && o.id < before && o.tids.any tids.contains && s.pendingAt o sc) ||
    (s.afterOf before ++ obs).any (s.obsPending sc)

/-- Must the operation wait for an earlier operation of its thread on a common byte (07 R175)? A load may take its
value from an earlier store. -/
def State.orderHolds (s : State) (o : MemOp) : Bool :=
  s.ops.any fun p =>
    p.id < o.id && p.shares o && p.overlaps o &&
      !(o.isLoad && (match p.kind with | .store | .fill | .spec _ true => true | _ => p.isCom))

/-- Does the access pin its line where it may (07 R182)? -/
def MemOp.wantsPin (o : MemOp) : Bool :=
  o.scope == .core && o.core < 512 &&
    (match o.kind with
     | .store => o.rel
     | .atom _ _ | .cas _ _ => !o.isCom
     | _ => false)

/-- Do two operations touch a common line of device memory? -/
def MemOp.meetsLine (o p : MemOp) : Bool :=
  o.tgts.any fun t => match t with
    | .dev pa _ => p.tgts.any fun u => match u with | .dev pb _ => pa / 64 == pb / 64 | _ => false
    | _ => false

/-- Must the operation wait for a store of its core that is in the view (07 R174, R175)? Those reach home in the order they entered the
view; whatever else is performed at home, and what pins their line, comes after them, so that no thread of the core that has read
such a store meets an older value. A plain load reads the view itself. -/
def State.viewHolds (s : State) (o : MemOp) : Bool :=
  s.ops.any fun p =>
    p.id != o.id && p.core == o.core &&
      (match p.inView, o.inView with
       | some i, some j => i < j || (i == j && p.id < o.id)
       | some _, none => !(o.isLoad && !o.nol1) && !(o.shares p && o.id < p.id)
       | none, _ => false) &&
      (p.overlaps o || (o.wantsPin && p.meetsLine o))

/-- What a release at a scope does as it begins (07 R177, R183): at .core the thread's own pending NORMAL stores enter the core's view,
those that could be performed now, on lines that no core has pinned; the block's pins end at .die or wider. -/
def State.beginRelease (s : State) (b : Nat) (tids : List Nat) (sc : Scope) : State :=
  if sc = .core then
    { s with
      ops := s.ops.map fun o =>
        if o.blk = b ∧ o.tids.any tids.contains ∧ o.kind = .store ∧ o.inView.isNone ∧ o.rel = false ∧ o.core < 512 ∧
            o.tgts.all (fun t => match t with | .dev pa _ => (s.pinAt pa).isNone | _ => false) ∧
            s.acquireHolds o.blk o.tids o.id = false ∧ s.orderHolds o = false
        then { o with inView := some s.seq } else o
      seq := s.seq + 1 }
  else s.endPins (·.blk == b)

/-- A release of a scope wider than the core ends the pins its block has made meanwhile, as it is performed (07 R183). -/
def State.endForRelease (s : State) (o : MemOp) : State :=
  if o.rel && o.scope != .core then s.endPins (·.blk == o.blk) else s

/-- The value of a byte a load of a thread returns: its own latest pending store (06 R161), else the core's view or the
home point. -/
def State.loadByte (s : State) (o : MemOp) (reply : Option Byte) (t : Tgt) : Option Byte × List Nat :=
  let own := (s.ops.filter fun p => p.id < o.id && p.shares o && (p.byteFor t).isSome).getLast?
  match own with
  | some p => (p.byteFor t, [obsWrite p.id])
  | none =>
    match t with
    | .dev pa key => let r := s.coreByte o.core o.nol1 pa key; (some r.1, r.2)
    | .ford _ _ _ => (reply, [])
    | t => (s.tgtByte t, [])

/-- Is some device byte of the operation out of reach for its core (07 R182, 18 R435)? -/
def State.outOfReach (s : State) (o : MemOp) : Option Nat :=
  o.tgts.findSome? fun t => match t with | .dev pa _ => if s.reach o.core pa then none else some pa | _ => none

/-! Completion: flags and destinations, in the block or, when it is not resident, in its image as well (02 R49, 03 R90). -/

/-- Is the block's state in its context image only (03 R98: QUEUED after a save)? -/
def Block.inImage (x : Block) : Bool := x.life == .queued && x.placed && x.kind != .walker


/-- Address of a thread record (03 R86). -/
def Block.recordAt (x : Block) (t : Nat) : Nat := x.image + 0x100000 + t * 0x400

/-- FLAGS of a thread record (03 R87). -/
def Thread.flagBits (th : Thread) : Nat := (List.range 12).foldl (fun n i => n + th.flag i * 8 ^ i) 0

/-- Write a thread's counts to the image of a block that is not resident (02 R49). -/
def State.syncFlags (s : State) (b t : Nat) : State :=
  let x := s.block b
  if x.inImage then s.wrNat (x.recordAt t + 0x10) 8 (s.thread b t).flagBits else s

/-- An operation's flag is decremented, in one thread or in every live thread (02 R48, R49). -/
def State.finishFlag (s : State) (b : Nat) (tids : List Nat) (uniform : Bool) (f : Option Nat) : State :=
  match f with
  | none => s
  | some _ =>
    let s1 := if uniform then s.completeAll b f
      else tids.foldl (fun (s : State) t => s.modThread b t (·.complete f)) s
    if (s1.block b).inImage then
      (List.range (s1.block b).threads.length).foldl (fun (s : State) t => s.syncFlags b t) s1
    else s1

/-- A value arrives in a lane register of a thread: in the interrupted bank while the thread is in its handler (17
R395), else in the thread, and in the image too. -/
def State.arriveLane (s : State) (b t : Nat) (r : LReg) (w : Word) : State :=
  let x := s.block b
  let s1 := s.modThread b t fun th =>
    match r with
    | .x => if th.inTrap then { th with bankX := some w } else { th with x := some w }
    | .o n => if th.inTrap then { th with bankO := Cells.set n.val w th.bankO } else { th with o := Cells.set n.val w th.o }
    | r => th.writeReg r w
  if x.inImage || (match r with | .v n => x.inSlot && !x.lineIn (t / 16) n.val | _ => false) then
    match r with
    | .v n => s1.wrNat (x.lineWord t n.val) 4 w.toNat
    | .x => s1.wrNat (x.recordAt t + 0x20) 4 w.toNat
    | .o n => s1.wrNat (x.recordAt t + 0x24 + 4 * n.val) 4 w.toNat
    | _ => s1
  else s1

/-- A value arrives in a uniform register of a block, and in the image of one that is not resident. -/
def State.arriveUni (s : State) (b : Nat) (r : UReg) (w : Word) : State :=
  let x := s.block b
  let s1 := s.modBlock b (·.writeU r w)
  match r with
  | .s n => if x.inImage then s1.wrNat (x.image + 0x200000 + 4 * n.val) 4 w.toNat else s1
  | _ => s1

/-- Bytes with undefined values filled in (00 R8; log entry 2). -/
def State.define (s : State) : List (Option Byte) → List Byte × State
  | [] => ([], s)
  | some v :: r => let q := s.define r; (v :: q.1, q.2)
  | none :: r =>
    let q := State.define { s with fresh := s.fresh + 1 } r
    ((Config.freeWord s.fresh).truncate 8 :: q.1, q.2)

/-- n undefined words. -/
def State.freeWords (s : State) (n : Nat) : List Word × State :=
  ((List.range n).map fun i => Config.freeWord (s.fresh + i), { s with fresh := s.fresh + n })

/-- The words of a destination from the bytes read (06 R160): a short value is extended to 32 bits. -/
def destWords (signed : Bool) (bs : List Byte) : List Word :=
  if bs.length < 4 then
    let v := leNat bs
    [if signed then BitVec.ofInt 32 (sextNat (8 * bs.length) v) else w32 v]
  else (List.range (bs.length / 4)).map fun i => w32 (leNat ((bs.drop (4 * i)).take 4))

/-- Registers have been written at the completion of what counts a flag, in one thread or in every live thread: until the flag clears
they are undefined (04 R120, 06 R160). -/
def State.noteLate (s : State) (b : Nat) (tids : List Nat) (uniform : Bool) (f : Option Nat) (keys : List Nat) : State :=
  if keys.isEmpty then s
  else
    let mine (e : Thread × Nat) : Bool := tids.contains e.2 || (uniform && e.1.run != .exited)
    s.modBlock b fun x => { x with threads := (x.threads.zipIdx).map fun (e : Thread × Nat) => if mine e then e.1.noteLate f keys else e.1 }

/-- Deliver words to an operation's destination. -/
def State.deliver (s : State) (o : MemOp) (ws : List Word) : State :=
  let p := if o.clob then s.freeWords ws.length else (ws, s)
  let ws := p.1
  let s := p.2
  match o.dst with
  | .none => s
  | .lane r _ =>
    (o.tids.foldl (fun (s : State) t =>
      (ws.zipIdx).foldl (fun (s : State) e => if r = .zero then s else s.arriveLane o.blk t (r.plus e.2) e.1) s) s).noteLate
        o.blk o.tids o.uniform o.flag o.dst.lateKeys
  | .uni r _ =>
    ((ws.zipIdx).foldl (fun (s : State) e => if r = .zero then s else s.arriveUni o.blk (r.plus e.2) e.1) s).noteLate
      o.blk o.tids o.uniform o.flag o.dst.lateKeys
  | .fetched => o.tids.foldl (fun (s : State) t => s.modThread o.blk t fun th =>
      match th.run with
      | .stalled (.peer _ _) => { th with fetched := some (o.ea, ws) }
      | _ => th) s

/-- Forget marks of writes that are performed everywhere by now. -/
def State.pruneObs (s : State) (l : List Nat) : List Nat :=
  l.filter fun k => s.obsPending .sys k || s.thatch.owed.any fun o => obsWrite o.id == k

/-- An access of threads returned these writes, or left its own in a pinned copy: releases of the threads that come later in program
order, those of commands among them, wait for them too (07 R178, R197, R200). -/
def State.cumulate (s : State) (o : MemOp) (obs : List Nat) : State :=
  let later (blk : Nat) (tids : List Nat) (id : Nat) : Bool := blk == o.blk && tids.any o.tids.contains && o.id < id
  if obs.isEmpty then s
  else
    { s with
      ops := s.ops.map fun p => if p.rel && later p.blk p.tids p.id then { p with after := (p.after ++ obs).dedup } else p
      chains := s.chains.map fun (c : Chain) => if c.rel && later c.blk c.tids c.id then { c with after := (c.after ++ obs).dedup } else c
      launchOps := s.launchOps.map fun (p : LaunchOp) => if later p.blk p.tids p.id then { p with after := (p.after ++ obs).dedup } else p
      futOps := s.futOps.map fun (p : FutOp) => if later p.blk p.tids p.id then { p with after := (p.after ++ obs).dedup } else p
      gangOps := s.gangOps.map fun (p : GangOp) => if later p.blk p.tids p.id then { p with after := (p.after ++ obs).dedup } else p }

/-- An access that has been performed leaves its writes, or what it read, in pinned copies: its threads' releases wait for those pins
(07 R178, R183). -/
def State.notePinned (s : State) (o : MemOp) : State :=
  (s.observe o.blk o.tids (s.pinMarks o.core o.tgts)).cumulate o (s.pinMarks o.core o.tgts)

/-- Has a block a release wider than the core in progress: a thread's wait, an access, or a command that has yet to start, be read or be
sent (07 R183)? -/
def State.releasing (s : State) (b : Nat) : Bool :=
  s.ops.any (fun o => o.blk == b && o.rel && o.scope != .core) ||
    s.chains.any (fun c => c.blk == b && c.rel && !c.started && 0 < c.scope && c.scope ≤ 4) ||
    s.launchOps.any (fun o => o.blk == b && o.bytes.isEmpty) ||
    s.futOps.any (fun o => o.blk == b && (match o.kind with | .spawn _ _ _ | .fput _ => true | _ => false)) ||
    s.gangOps.any (fun o => o.blk == b && !o.sent) ||
    (s.block b).threads.any fun th => match th.run with | .stalled (.release sc _) => sc != .core | _ => false

/-- The release in progress of a block ends its pins, those that its earlier accesses have made since it was issued too (07 R183). -/
def State.endReleasing (s : State) : State := s.endPins fun p => s.releasing p.blk

/-- Remove an operation that is complete; an acquire whose value is a write not yet performed at its scope stays as a
barrier for its thread's later accesses (07 R179). -/
def State.retireOp (s : State) (o : MemOp) (obs : List Nat) : State :=
  let waits := if o.acq then obs.filter (s.obsPending o.scope) else []
  if waits.isEmpty then { s with ops := s.ops.filter (·.id != o.id) }
  else
    { s with ops := s.ops.map fun p =>
        if p.id = o.id then { p with tgts := [], data := [], dst := .none, flag := none, after := waits, kind := .load false }
        else p }

/-- Remove the barriers of acquires whose writes are performed by now (07 R179). -/
def State.pruneBarriers (s : State) : State :=
  { s with ops := s.ops.filter fun o => !(o.acq && o.tgts.isEmpty && !(o.after.any (s.obsPending o.scope))) }

/-! Performing operations. -/

/-- The new value of an atomic (07 R186), on n-byte values. -/
def atomNew (op : AtomOp) (n old opnd : Nat) : Nat :=
  let m := 2 ^ (8 * n)
  match op with
  | .add => (old + opnd) % m
  | .sub => (old + m - opnd) % m
  | .and => old &&& opnd
  | .or => old ||| opnd
  | .xor => old ^^^ opnd
  | .minI => if sextNat (8 * n) old ≤ sextNat (8 * n) opnd then old else opnd
  | .maxI => if sextNat (8 * n) old ≥ sextNat (8 * n) opnd then old else opnd
  | .minW => Nat.min old opnd
  | .maxW => Nat.max old opnd
  | .xchg => opnd
  | .inc => if old ≥ opnd then 0 else old + 1
  | .dec => if old = 0 ∨ old > opnd then opnd else old - 1

/-- The bytes of a Ford access as gang, member, offset and place in the access, in runs of consecutive offsets of one member: an STM may leave
bytes out. -/
def fordRuns : List (Nat × Nat × Nat × Nat) → List (List (Nat × Nat × Nat × Nat))
  | [] => []
  | f :: fs =>
    match fordRuns fs with
    | (n :: run) :: runs => if n.2.1 = f.2.1 ∧ n.2.2.1 = f.2.2.1 + 1 then (f :: n :: run) :: runs else [f] :: (n :: run) :: runs
    | runs => [f] :: runs

/-- Send the part of an operation that lies on a gang member's device (16 R374). -/
def State.sendRemote (s : State) (o : MemOp) : State :=
  let fs := (o.tgts.zipIdx).filterMap fun e => match e.1 with | .ford g m off => some (g, m, off, e.2) | _ => none
  let devs := ((s.gangOf (s.block o.blk)).map (·.devices)).getD []
  let gone := ((s.gangOf (s.block o.blk)).map (·.departed)).getD []
  ((fordRuns fs).filter fun part => part.all fun f => !gone.contains f.2.1).foldl (fun (s : State) part =>
    match part with
    | [] => s
    | (g, m, off, _) :: _ =>
      let bs := part.map fun f => o.data.getD f.2.2.2 0
      let sz : Width := if part.length = 8 then .w64 else .w32
      let acc : PeerAccess := match o.kind with
        | .load _ | .fe => .read part.length
        | .store | .fill | .spec _ _ => .write bs
        | .atom op _ => .atomic op sz (leNat o.data)
        | .cas e _ => .cas sz e (leNat o.data)
      ({ s with outbox := s.outbox ++ [.remote (devs.getD m 0) (.ford g off) acc] } : State).notePeer (s.block o.blk).ctx (devs.getD m 0)) s

/-- Perform the bytes of a write, as one action: LDX, STM and 16-byte accesses too, which R161 of 06_memory.md lets fall apart into
bytes or 8-byte halves (DESIGN CHOICE; log entry 46). -/
def State.performBytes (s : State) (o : MemOp) (bs : List Byte) : State :=
  let s1 := s.oweTgts o.id o.tgts
  (o.tgts.zip bs).foldl (fun (s : State) e => s.performByte o.core o.nol1 o.inView.isSome e.1 e.2) s1

/-- Pin the line of an access when 07 R182 asks for it, for a block that is in its slot. The core's stores in its view on that line have
been performed by then (State.viewHolds), so home holds the line as the core's view has it. Where a condition fails, the access is
performed at home 'exactly as it would be at .die', which is read as its place alone: its release part keeps the conditions of .core,
and its acquire part drops no view (DESIGN CHOICE; log entry 102). -/
def State.pinFor (s : State) (o : MemOp) : State :=
  match o.tgts with
  | .dev pa key :: _ =>
    if o.wantsPin && (s.pinAt pa).isNone && (s.pins.filter (·.core == o.core)).length < 32 &&
        ((s.getCore o.core).pinlim.toNat % 2 ^ 24 != 0) && (s.block o.blk).inSlot && (s.block o.blk).core == o.core then
      let line := pa / 64 * 64
      let p : Pin := { core := o.core, blk := o.blk, line, key
                       bytes := (List.range 64).map fun i => s.homeByte (line + i) key, firstRetry := none, id := s.seq, since := s.now }
      let s1 := (s.dropViewRange o.core line 64).l1Room o.core 64
      { s1 with pins := s1.pins ++ [p], seq := s1.seq + 1 }
    else s
  | _ => s

/-- What a load leaves in its core's L1, unless it is .nol1 (07 R174; 06 R157). -/
def State.fillCopies (s : State) (o : MemOp) : State :=
  if o.nol1 then s
  else o.tgts.foldl (fun (s : State) t =>
    match t with | .dev pa key => if (s.pinAt pa).isSome then s else s.fillView o.core pa key | _ => s) s

/-- Complete a load: value, destination, flag, acquire part (06 R160, 07 R179). -/
def State.performLoad (s : State) (o : MemOp) (signed : Bool) (reply : List Byte) : State :=
  let s := s.sendRemote o
  let rs := (o.tgts.zipIdx).map fun e => s.loadByte o reply[e.2]? e.1
  let obs := (rs.flatMap (·.2)).dedup
  let d := s.define (rs.map (·.1))
  let s1 := d.2
  let s2 := s1.fillCopies o
  let s3 := (s2.deliver o (destWords signed d.1)).finishFlag o.blk o.tids o.uniform o.flag
  let s4 := ((s3.observe o.blk o.tids obs).cumulate o obs).retireOp o obs
  if o.acq then s4.acquireFor o.blk o.tids o.core o.scope else s4

/-- Perform a store at home (07 R173); ST.FILL sets its granule full as the same action (06 R165). -/
def State.performStore (s : State) (o : MemOp) : State :=
  let s1 := ((s.endForRelease o).sendRemote o).pinFor o
  let s2 := s1.performBytes o o.data
  let s3 := match o.kind with
    | .fill => match o.tgts with | t :: _ => s2.setFull t true | [] => s2
    | _ => s2
  let s4 := (s3.notePinned o).finishFlag o.blk o.tids o.uniform o.flag
  { s4 with ops := s4.ops.filter (·.id != o.id) }

/-- Perform an atomic at its point (07 R186, R187). A Ford atomic's old value is the peer's reply. Older copies of its bytes leave the
core's view (R175). A .qnt atomic returns the value just before its own write, the latest of those R191 allows (DESIGN CHOICE; log
entry 47). -/
def State.performAtom (s : State) (o : MemOp) (new : Nat → Option Nat) (reply : List Byte) : State :=
  let s0 := ((s.endForRelease o).sendRemote o).pinFor o
  let s1 := o.tgts.foldl (fun (s : State) t => match t with
    | .dev pa key => { s with views := Cells.erase (viewKey o.core key pa) s.views }
    | _ => s) s0
  let n := o.tgts.length
  let ford := o.tgts.any fun t => match t with | .ford _ _ _ => true | _ => false
  let bytes : List (Option Byte) := if ford then (List.range n).map fun i => reply[i]?
    else o.tgts.map fun t =>
      match t with
      | .dev pa key => match s1.pinAt pa with | some p => some (p.bytes.getD (pa % 64) 0) | none => some (s1.homeByte pa key)
      | t => s1.tgtByte t
  let d := s1.define bytes
  let old := leNat d.1
  let s2 := d.2
  let s3 := match new old with
    | some v => if ford then s2 else s2.performBytes o (leBytes n v)
    | none => s2
  let s4 := (s3.deliver o (destWords false d.1)).finishFlag o.blk o.tids o.uniform o.flag
  let s5 := (s4.notePinned o).retireOp o (s4.pinMarks o.core o.tgts)
  if o.acq then s5.acquireFor o.blk o.tids o.core o.scope else s5

/-- Resolve the conditional update of a .spec atomic (07 R192): performed when home still holds the value taken. -/
def State.performSpec (s : State) (o : MemOp) (old : Nat) (update : Bool) : State :=
  let n := o.tgts.length
  let home := leNat (o.tgts.map fun t =>
    match t with
    | .dev pa key => (match s.pinAt pa with | some p => p.bytes.getD (pa % 64) 0 | none => s.homeByte pa key)
    | t => (s.tgtByte t).getD 0)
  let good := home == old
  let s1 := if good && update then s.performBytes o o.data
    else if update then
      o.tgts.foldl (fun (s : State) t => match t with
        | .dev pa key => { s with views := Cells.erase (viewKey o.core key pa) s.views }
        | _ => s) s
    else s
  let s2 := ((s1.notePinned o).deliver o (destWords false (leBytes n old))).finishFlag o.blk o.tids o.uniform o.flag
  let s3 := o.tids.foldl (fun (s : State) t => s.modThread o.blk t fun th =>
    { th with spec := th.spec ++ [(o.scope, good)] }) s2
  { s3 with ops := s3.ops.filter (·.id != o.id) }

/-- May an operation be performed now (07 R174, R175, R178, R179, R182)? -/
def State.ready (s : State) (o : MemOp) : Bool :=
  (o.isNord || !s.acquireHolds o.blk o.tids o.id) && !s.orderHolds o && !s.viewHolds o &&
    !(o.acq && s.specPending o.blk o.tids o.id) &&
    !(o.rel && s.releaseWaits o.blk o.tids o.id o.scope o.after)

/-- A load of a line that another core has pinned retries, whatever copy its own core has (07 R182); while a stripe's parity is
rewritten it needs home only for bytes that no own store and no copy of the core supplies (18 R435). -/
def State.loadReach (s : State) (o : MemOp) : Option Nat :=
  o.tgts.findSome? fun t =>
    match t with
    | .dev pa key =>
      if s.reach o.core pa then none
      else if (s.pinAt pa).any (·.core != o.core) then some pa
      else if s.ops.any (fun p => p.id < o.id && p.shares o && (p.byteFor t).isSome) then none
      else if !o.nol1 && (Cells.get? (viewKey o.core key pa) s.views).isSome then none
      else some pa
    | _ => none

/-- Is some operation of a thread on the granule of a target pending? -/
def State.ownPending (s : State) (b t : Nat) (tg : Tgt) : Bool :=
  s.ops.any fun o => o.blk == b && o.tids.contains t && o.tgts.any fun u => u.granKey == tg.granKey

/-- An operation by id. -/
def State.opOf (s : State) (id : Nat) : Option MemOp := s.ops.find? (·.id == id)

/-! Issue. -/

/-- What an instruction asks of memory: the access kind, whether it is LD.FE or ST.FILL, the alignment (1: none), and
the accessed bytes' addresses in order. -/
structure Access where
  kind : AccKind
  fe : Bool
  align : Nat
  eas : List DWord
deriving DecidableEq, Repr

/-- The addresses of n bytes from ea on. -/
def spanFrom (ea : DWord) (n : Nat) : List DWord := (List.range n).map fun i => ea + w64 i

/-- The checks of 06 R159, in order, and the shadow fills the access of threads of a block makes. -/
def checkAccess (b : Nat) (tids : List Nat) (a : Access) : M (List Tgt) := fun s =>
  match a.eas with
  | [] => .ok ([], s)
  | ea :: _ =>
    if !canonical ea then .error (.trap .nonCanon ea (faultInfo a.kind))
    else if ea.toNat % a.align ≠ 0 then .error (.trap .align ea (faultInfo a.kind))
    else
      match s.byteTgts b a.kind a.fe a.eas with
      | .error e =>
        (match e with
         | .trap c _ _ =>
           if c = .fordClosed ∨ c = .fordRange ∨ c = .fordDeparted ∨ c = .noFe then
             .error ((s.fordStop b a.kind a.fe a.eas).getD e)
           else .error e
         | e => .error e)
      | .ok ts =>
        match s.fillUnits b tids (s.block b).padCore ts with
        | .error e => .error e
        | .ok s' => .ok (ts, s')

/-- Count a flag at issue (02 R48, R49): in one thread, or in every live thread of the block. -/
def State.countFlag (s : State) (b : Nat) (tids : List Nat) (uniform : Bool) (f : Option Nat) : State :=
  match f with
  | none => s
  | some f =>
    if uniform then
      s.modBlock b fun x => { x with threads := x.threads.map fun th =>
        if th.run == .exited then th else th.setFlag f (th.flag f + 1) }
    else tids.foldl (fun (s : State) t => s.modThread b t fun th => th.setFlag f (th.flag f + 1)) s

/-- The comparison of an Oxbow run is abandoned by what a block executes (18 R430). -/
def State.oxAbandon (s : State) (b : Nat) : State :=
  if (s.block b).oxbow.isSome then s.modBlock b fun x => { x with sigAbandon := true } else s

/-- The target of a store of an Oxbow copy: only its own scratchpad takes it (18 R430). -/
def Block.copyTgt (x : Block) (t : Tgt) : Tgt :=
  match t with
  | .sp core off => if core = x.padCore ∧ 16 * x.spBase ≤ off ∧ off < 16 * (x.spBase + x.spLen) then t else .zeros
  | _ => .zeros

/-- A write to a scratchpad byte that a matrix command reads and has not finished with: the command loses its exactness
(11_matrix.md R269, R274). -/
def State.poisonPad (s : State) (core off : Nat) : State :=
  let c := s.getCore core
  let hit (m : MCmd) : Bool := m.addr.toNat ≤ off && off < m.addr.toNat + m.len
  if (c.sequencer ++ c.loader).any hit then
    s.modCore core fun c => { c with
      sequencer := c.sequencer.map fun m => if hit m then { m with poison := true } else m
      loader := c.loader.map fun m => if hit m then { m with poison := true } else m }
  else s

/-- A lane store or atomic that issues touches matrix operands (11 R274). -/
def State.poisonTgts (s : State) (ts : List Tgt) : State :=
  ts.foldl (fun (s : State) t => match t with | .sp core off => s.poisonPad core off | _ => s) s

/-- What issuing a store does besides: the signature of a sampled block, the targets of a copy (18 R430), and the mark of
the write for later releases of the threads (07 R178). -/
def State.issueStore (s : State) (o : MemOp) : State × MemOp :=
  let x := s.block o.blk
  let s1 : State := if x.oxbow.isSome && o.tgts.any (fun t => match t with | .dev _ _ => true | _ => false) then
      s.modBlock o.blk fun x =>
        let t := o.tids.headD 0
        { x with sig := Cells.set t (w32 (crc32cFrom (Cells.getD t 0 x.sig).toNat
            (leBytes 8 o.ea.toNat ++ leBytes 1 o.data.length ++ o.data))) x.sig }
    else s
  let o1 := if x.isCopy then { o with tgts := o.tgts.map x.copyTgt } else o
  (o.tids.foldl (fun (s : State) t => s.modThread o.blk t fun th =>
      { th with observed := s.pruneObs th.observed ++ [obsWrite s.seq] }) s1, o1)

/-- Threads remember writes of theirs, by serial number from one up to another, for a later FENCE.DUR (07 R195). -/
def State.markWrites (s : State) (b : Nat) (tids : List Nat) (lo hi : Nat) : State :=
  if lo < hi then
    tids.foldl (fun (s : State) t => s.modThread b t fun th =>
      { th with observed := s.pruneObs th.observed ++ (List.range (hi - lo)).map (lo + ·) }) s
  else s

/-- Does a target of a block's access lie in the on-chip map, outside the block's own scratchpad (01 R24)? -/
def State.onChip (s : State) (b : Nat) (t : Tgt) : Bool :=
  let x := s.block b
  match t with
  | .sp core off => !(core == x.padCore && 16 * x.spBase ≤ off && off < 16 * (x.spBase + x.spLen))
  | .win _ _ _ _ | .acc _ _ _ _ _ | .bnd _ _ _ _ | .zeros | .undef => true
  | .dev _ _ | .ford _ _ _ => false

/-- What an access through the on-chip map waits for at its instruction: 01 R30 decides its outcome by the slot's state when it is
performed, and a fault is the instruction's, so the model performs it as it issues (DESIGN CHOICE; log entry 48). -/
def State.chipWait (s : State) (o : MemOp) : Option Wait :=
  if !o.isNord && s.acquireHolds o.blk o.tids o.id then some .acquirePart
  else if o.acq && s.specPending o.blk o.tids o.id then some .acquirePart
  else if o.rel && s.releaseWaits o.blk o.tids o.id o.scope o.after then some (.release o.scope false)
  else if s.orderHolds o || s.viewHolds o then
    (s.ops.find? fun p => p.overlaps o && p.id != o.id && (p.shares o || (p.core == o.core && p.inView.isSome))).map fun p => .order p.id
  else (s.outOfReach o).map .retry

/-- A reply to a Ford access is a message of its device (19 R442). -/
def State.hearReply (s : State) (o : MemOp) : State :=
  let from' : Option Nat := o.tgts.findSome? fun t => match t with
    | .ford _ m _ => (s.gangOf (s.block o.blk)).bind fun g => g.devices[m]?
    | _ => none
  from'.elim s s.hearOther

/-- Perform an operation that may be performed. -/
def State.performOp (s : State) (o : MemOp) (reply : List Byte) : State :=
  let s := s.hearReply o
  match o.kind with
  | .load sg => s.performLoad o sg reply
  | .store | .fill => s.performStore o
  | .atom op _ => s.performAtom o (fun old => some (atomNew op o.tgts.length old (leNat o.data))) reply
  | .cas e _ => s.performAtom o (fun old => if old = e then some (leNat o.data) else none) reply
  | .fe | .spec _ _ => s

/-- Issue an operation: it takes its serial number and counts its flag. A lane destination that another operation in
flight was to write is overwritten (06 R160). A store or atomic whose twin's signature differs is not performed (18 R422). An access
through the on-chip map is performed at once. -/
def issue (o : MemOp) : M Unit := fun s =>
  if !o.isLoad && o.kind != .fe && o.tids.any (fun t => (s.thread o.blk t).twinBad) then .error (.trap .pairMis o.ea 0) else
  let chip := o.tgts.any (s.onChip o.blk) && !o.tgts.any fun t => match t with | .ford _ _ _ => true | _ => false
  match (if chip then s.chipWait { o with id := s.seq } else none) with
  | some w => .error (.stall w)
  | none =>
  let s1 := s.countFlag o.blk o.tids o.uniform o.flag
  let s2 : State := match o.dst with
    | .lane r n => o.tids.foldl (fun (s : State) t => (List.range n).foldl (fun (s : State) i => s.clobber o.blk t (r.plus i)) s) s1
    | _ => s1
  let s3 := if o.tgts.any (fun t => match t with | .ford _ _ _ => true | _ => false) then s2.oxAbandon o.blk else s2
  let s3 := match o.kind with | .load _ | .fe => s3 | _ => s3.poisonTgts o.tgts
  let p := match o.kind with
    | .store | .fill => s3.issueStore o
    | .load _ | .fe => (s3, o)
    | _ => (s3.markWrites o.blk o.tids s3.seq (s3.seq + 1), o)
  let q : MemOp := { p.2 with id := p.1.seq }
  let s4 : State := { p.1 with ops := p.1.ops ++ [q], seq := p.1.seq + 1 }
  .ok ((), if chip then s4.performOp q [] else s4)

end Sys2Proof.Machine
end

