-- ==== Sys2Proof/Machine/Operands.lean ====
section
/-! DEFINITION. Reading and writing the operands of an instruction (02_encoding.md R36 to R42), queue pops (12_headwater.md
R282, R288), the checks before execution (02 R53), instruction fetch and targets (02 R45, R52; 03_control.md R100),
and the one way a lane or uniform instruction runs in the bundle that issues (03 R76, R80). -/

namespace Sys2Proof.Machine

/-! Queue pops. -/

/-- Does a list of targets reach a gang member on a peer device? -/
def reachesPeer (ts : List Tgt) : Bool := ts.any fun t => match t with | .ford _ _ _ => true | _ => false

/-- Read bytes at once as a plain load of a thread (12 R288; 06 R154): checks, fills, reach, values. The instruction waits for what a
peer device holds, and takes it when it executes again (16 R374). -/
def plainRead (b t : Nat) (ea : DWord) (n align : Nat) : M (List Byte) := do
  let ts ← checkAccess b [t] { kind := .read, fe := false, align, eas := spanFrom ea n }
  fun s =>
    match reachesPeer ts, (s.thread b t).fetched with
    | true, some (a, ws) =>
      if a = ea then .ok ((ws.flatMap fun w => leBytes 4 w.toNat).take n, s.modThread b t fun th => { th with fetched := none })
      else .error (.stall (.peer ea ts))
    | true, none => .error (.stall (.peer ea ts))
    | false, _ =>
    let core := (s.block b).padCore
    let o := { MemOp.mk' b core [t] (.load false) ea ts with id := s.seq }
    match s.loadReach o, (if s.orderHolds o || s.acquireHolds b [t] s.seq then s.atOnce b [t] core false ts else none) with
    | some pa, _ => .error (.stall (.retry pa))
    | _, some w => .error (.stall w)
    | none, none =>
      let rs := ts.map fun tg => s.loadByte o none tg
      let d := s.define (rs.map (·.1))
      .ok (d.1, d.2.observe b [t] (rs.flatMap (·.2)).dedup)

/-- Pop the entry at the head of queue i for thread t (12 R282, R288, R290). -/
def popEntry (b t i : Nat) : M Word := fun s =>
  let x := s.block b
  match s.queueSlice x i with
  | none => .error (.trap .illegal 0 0)
  | some (p, sl) =>
    let q := sl.queue i
    let h := Cells.getD i 0 (s.thread b t).qhead
    if q.block then .error (.trap .qKind 0 0)
    else if h = q.tail then
      (if sl.ended then .error (.trap .hwDead 0 0) else .error (.stall (.popQueue i)))
    else if sl.inFlight i h then .error (.stall (.popQueue i))
    else
      let slot := h % 3
      let adv (s : State) : State := s.modThread b t fun th => { th with qhead := Cells.put 0 i ((h + 1) % 6) th.qhead }
      match (if q.mark.contains slot then sl.markOf i slot else none) with
      | some (_, m) =>
        match plainRead b t (m.addr + BitVec.ofInt 64 (t * m.tstride.toInt)) m.size m.size s with
        | .error e => .error e
        | .ok (bs, s') => .ok (w32 (leNat bs), (adv s').freeMark b p i slot)
      | none => .ok (Cells.getD (3 * i + slot) 0 (s.thread b t).qslot, (adv s).freeMark b p i slot)

/-- Pop one entry of queue i for thread t (12 R282, R288, R290). An exchange whose arrival was withdrawn takes the entries it popped
then (08 R213, R220; log entry 55). -/
def popQueue (b t i : Nat) : M Word := fun s =>
  match (s.thread b t).taken with
  | some (pc, w :: ws) =>
    if pc = (s.thread b t).pc then .ok (w, s.modThread b t fun th => { th with taken := if ws.isEmpty then none else some (pc, ws) })
    else popEntry b t i s
  | _ => popEntry b t i s

/-! Operand reads and writes. -/

/-- Read a single lane operand (02 R38, R40). -/
def src (b t : Nat) (r : LReg) : M Word :=
  match r with
  | .q n => popQueue b t n.val
  | r => readReg b t r

/-- Read a pair (02 R39). -/
def src2 (b t : Nat) (r : LReg) : M DWord := do
  let lo ← readReg b t r
  let hi ← readReg b t (r.plus 1)
  return pairOf lo hi

/-- Read n registers of a group from r on (02 R39). -/
def srcN (b t : Nat) (r : LReg) : Nat → M (List Word)
  | 0 => pure []
  | n + 1 => do
    let ws ← srcN b t r n
    let w ← readReg b t (r.plus n)
    return ws ++ [w]

/-- Write a 32-bit result: d, and the x latch (02 R41). -/
def result (b t : Nat) (d : LReg) (w : Word) : M Unit := do
  writeReg b t d w
  latchX b t w

/-- Write a group of result words; x receives the first (02 R41). -/
def resultN (b t : Nat) (d : LReg) (ws : List Word) : M Unit := do
  (ws.zipIdx).forM fun e => writeReg b t (d.plus e.2) e.1
  latchX b t (ws.headD 0)

/-- Write a 64-bit result to a pair (02 R41). -/
def result2 (b t : Nat) (d : LReg) (v : DWord) : M Unit := resultN b t d [loWord v, hiWord v]

/-- Read a predicate. -/
def getPred (b t : Nat) (p : Nat) : M Bool := fun s => .ok ((s.thread b t).getP p, s)
/-- Write a predicate. -/
def setPred (b t : Nat) (p : Nat) (v : Bool) : M Unit := fun s => .ok ((), s.modThread b t (·.setP p v))

/-- The state, and a change of it. -/
def getS : M State := fun s => .ok (s, s)
def updS (f : State → State) : M Unit := fun s => .ok ((), f s)
/-- A change of the thread, and of the block. -/
def updT (b t : Nat) (f : Thread → Thread) : M Unit := updS (·.modThread b t f)
def updB (b : Nat) (f : Block → Block) : M Unit := updS (·.modBlock b f)
def getT (b t : Nat) : M Thread := fun s => .ok (s.thread b t, s)
def getB (b : Nat) : M Block := fun s => .ok (s.block b, s)

/-! Checks 1 to 3 of 02 R53, and what holds an instruction at issue. -/

/-- Has an operand an x or o code (17 R396)? -/
def isLatch : LReg → Bool
  | .x | .o _ => true
  | _ => false

/-- Has an operand a q code? -/
def isQueue : LReg → Bool
  | .q _ => true
  | _ => false

/-- The v numbers an operand names. -/
def opndVs (o : LOpnd) : List Nat :=
  match o.reg with
  | .v n => (List.range o.grp.size).map (n.val + ·)
  | _ => []

/-- The flag an instruction counts, through the header of its clause (02 R48). -/
def flagOf (i : Instr) (s : State) (b t : Nat) : Option Nat :=
  match i.flagUse with
  | some (f, _) => (s.thread b t).flagNamed f
  | none => none

/-- Checks 1 and 2 of 02 R53, as far as they depend on the thread: placement, literal, flag, q codes, INTRAP. -/
def illegalHere (i : Instr) (x : Block) (th : Thread) : Bool :=
  !i.wellFormed ||
  (th.inTrap && i.laneOps.any (fun o => isLatch o.reg)) ||
  (!x.hasPair && i.laneOps.any (fun o => isQueue o.reg)) ||
  (i.endsClause && th.clauseIdx != clauseCount (th.clause.headD 0)) ||
  (i.takesLiteral && th.clauseIdx == clauseCount (th.clause.headD 0)) ||
  (match i.flagUse with
   | some (f, true) => (th.flagNamed f).isNone
   | _ => false)

/-- The class check between checks 2 and 3 (12 R280). -/
def wrongClass (i : Instr) (x : Block) : Bool :=
  if x.kind == .headwater then !i.sliceAllowed else i.isHeadwater

/-- The first operand with a member beyond the allotment (02 R42). -/
def beyondAllot (i : Instr) (x : Block) : Option LOpnd :=
  i.laneOps.find? fun o => (opndVs o).any fun v => x.allot ≤ v

/-- The first register line of a row that is named and not in the register cache (03 R82). -/
def lineMissing (i : Instr) (x : Block) (t : Nat) : Option Nat :=
  i.laneOps.findSome? fun o => (opndVs o).find? fun v => !x.cached.contains (256 * (t / 16) + v)

/-- The checks of a lane instruction before it executes. -/
def laneCheck (i : Instr) (s : State) (b t : Nat) : Option Stop :=
  let x := s.block b
  let th := s.thread b t
  if illegalHere i x th then some (.trap .illegal 0 0)
  else if wrongClass i x then some (.trap .hwClass 0 0)
  else
    match beyondAllot i x with
    | some o => some (.trap .allotment 0 (w32 o.reg.code))
    | none =>
      match (if x.kind == .lane then lineMissing i x t else none) with
      | some v => some (.stall (.line (t / 16) v))
      | none =>
        match flagOf i s b t with
        | some f => if th.flag f ≥ 7 then some (.stall (.flagFull f)) else none
        | none => none

/-- The checks of a uniform instruction for one block before it executes: the clause is that of the first of the
block's threads in the bundle; CSRR and CSRW of a thread's CSR touch register lines of every live thread (03 R82; 17 R402); the
flag is counted in every live thread (02 R49). -/
def uniCheck (i : Instr) (s : State) (b : Nat) (tids : List Nat) : Option Stop :=
  let x := s.block b
  let th := s.thread b (tids.headD 0)
  if illegalHere i x th then some (.trap .illegal 0 0)
  else if wrongClass i x then some (.trap .hwClass 0 0)
  else
    match beyondAllot i x with
    | some o => some (.trap .allotment 0 (w32 o.reg.code))
    | none =>
      match (if x.kind == .lane then x.liveTids.findSome? fun t => (lineMissing i x t).map fun v => (t / 16, v) else none) with
      | some (row, v) => some (.stall (.line row v))
      | none =>
      match flagOf i s b (tids.headD 0) with
      | some f => if x.liveTids.any (fun t => (s.thread b t).flag f ≥ 7) then some (.stall (.flagFull f)) else none
      | none => none

/-! Running an instruction. -/

/-- An instruction stops; a release that waits has begun (07 R177, R178). -/
def State.stopAt (s : State) (b t : Nat) (st : Stop) : State :=
  let s := match st with
    | .stall (.release sc _) => s.beginRelease b [t] sc
    | _ => s
  s.stopThread b t st

/-- Actions that leave the core and carry no access of their own: uniform commands, which are the instructions of format UC, CSRW and EXIT.
Under PAIRED the pair's signatures are compared before them; stores and atomics are compared where they are issued (18 R422). -/
def outbound : Instr → Bool
  | .exit | .csrw _ _ | .csrwThread _ _ => true
  | .mma _ _ _ _ | .mmaQ _ _ _ | .mmaz _ _ _ _ | .mmazQ _ _ _ | .bld _ _ _ | .bldReed _ _ _ | .bldConv _ _ _
  | .accld _ _ _ | .accz _ _ | .acczRows _ _ _ | .acczFree _ _ | .accq _ _ _ | .bldClr _ | .oprdy | .setrstAddr _ | .setrst | .setrstClr => true
  | .copy _ _ _ | .conv _ _ _ | .gauge _ _ _ | .reed _ _ _ | .alist _ _ _ | .coll _ _ _ | .ecancel _ _ | .ecancelAll _ => true
  | .fspawn _ _ _ _ _ | .fref _ _ _ | .fdrop _ _ | .fget _ _ _ _ | .fgetD _ _ _ _ | .fput _ _ | .fpoll _ _ _ | .fself _ => true
  | .fordatt _ _ | .forddet _ | .gsync _ _ | .fordq _ | .fordqState _ _ | .fordqCount _ => true
  | .hstream _ _ | .hloop _ _ | .hpush _ _ | .hend _ | .hsyncDrain _ | .hsyncKind _ => true
  | .launch _ _ _ | .yield | .budgetCyc _ | .budgetNrg _ | .budgetCtx _ | .budgetTime _ | .hzwait _ _ _ => true
  | _ => false

/-- Do the signatures of a thread and its twin differ (18 R422)? -/
def State.twinsDiffer (s : State) (b : Nat) (tids : List Nat) : Bool := tids.any fun t => (s.thread b t).twinBad

/-- The address of an outbound action: of a record, a template, a tile or a source, for TADDR of PAIRMIS; 0 where it has none (18 R422, which
17 R398's table leaves out; DEDUCED, log entry 112). -/
def State.actionAddr (s : State) (b : Nat) (i : Instr) : DWord :=
  let pair (r : UReg) : DWord := match readU2 b r s with | .ok (v, _) => v | .error _ => 0
  let record (r : UReg) : DWord := match readU b r s with | .ok (v, _) => w64 (padWindow + v.toNat) | .error _ => 0
  match i with
  | .launch _ a _ | .fspawn _ a _ _ _ | .bld _ a _ | .bldReed _ a _ | .bldConv _ a _ | .mma _ a _ _ | .mmaz _ a _ _ => pair a
  | .copy a _ _ | .conv a _ _ | .gauge a _ _ | .reed a _ _ | .alist a _ _ | .coll a _ _ => record a
  | _ => 0

/-- One thread of the bundle executes a lane instruction (03 R76). -/
def laneStep (i : Instr) (body : Nat → Nat → M Flow) (s : State) (m : Nat × Nat) : State :=
  if s.cur.contains m then
    match laneCheck i s m.1 m.2 with
    | some st => s.stopAt m.1 m.2 st
    | none =>
      match body m.1 m.2 s with
      | .ok (fl, s') =>
        if outbound i && s.twinsDiffer m.1 [m.2] then s.stopAt m.1 m.2 (.trap .pairMis 0 0)
        else s'.retire m.1 m.2 (wordsOf i) fl
      | .error st => s.stopAt m.1 m.2 st
  else s

/-- A lane instruction of the issuing bundle, once per thread. -/
def laneExec (i : Instr) (body : Nat → Nat → M Flow) (s : State) : Host.Outcome State Fault Refusal :=
  .next (s.cur.foldl (laneStep i body) s)

/-- The blocks of the issuing bundle, in its order. -/
def State.curBlocks (s : State) : List Nat := (s.cur.map (·.1)).eraseDups

/-- The threads of a block in the issuing bundle. -/
def State.curTids (s : State) (b : Nat) : List Nat := (s.cur.filter (·.1 == b)).map (·.2)

/-- One block of the bundle executes a uniform instruction; a stop falls on all its threads in the bundle (03 R80). -/
def uniStep (i : Instr) (body : Nat → List Nat → M Flow) (s : State) (b : Nat) : State :=
  let tids := s.curTids b
  if tids.isEmpty then s
  else
    let stopAll (st : Stop) : State := tids.foldl (fun (s : State) t => if s.cur.contains (b, t) then s.stopAt b t st else s) s
    match uniCheck i s b tids with
    | some st => stopAll st
    | none =>
      match body b tids s with
      | .ok (fl, s') =>
        if outbound i && s.twinsDiffer b tids then stopAll (.trap .pairMis (s.actionAddr b i) 0)
        else tids.foldl (fun (s : State) t => if s.cur.contains (b, t) then s.retire b t (wordsOf i) fl else s) s'
      | .error st => stopAll st

/-- A uniform instruction of the issuing bundle, once per block. -/
def uniExec (i : Instr) (body : Nat → List Nat → M Flow) (s : State) : Host.Outcome State Fault Refusal :=
  .next (s.curBlocks.foldl (uniStep i body) s)

/-- A lane instruction that always falls through. -/
def laneFall (body : Nat → Nat → M Unit) (b t : Nat) : M Flow := do body b t; return .fall

/-- A uniform instruction that always falls through. -/
def uniFall (body : Nat → List Nat → M Unit) (b : Nat) (ts : List Nat) : M Flow := do body b ts; return .fall

/-! Instruction fetch (02 R45, R52; 03 R100; 06 R148). -/

/-- Physical place of a code address for a block's thread, or the fetch fault. -/
def State.codePlace (s : State) (b : Nat) (ea : DWord) : Except Stop (Nat × Option Nat) :=
  let x := s.block b
  let fault (c : Cause) : Except Stop (Nat × Option Nat) := .error (.trap c ea (faultInfo .fetch))
  if !canonical ea then fault .nonCanon
  else if inPadWindow ea || ((s.gangOf x).isSome && inFord ea) then fault .xlateProt
  else if x.kind == .walker && ea.toNat < 2 ^ 56 then
    if ea.toNat < devSize then .ok (ea.toNat, none) else fault .physHole
  else
    match s.translate (clusterOf x.core) x.ctx ea.toNat .fetch with
    | .miss => .error (.stall (.xlate x.ctx ea .fetch))
    | .prot => fault .xlateProt
    | .hit pa _ =>
      match physRegion pa with
      | .hole => fault .physHole
      | .dev => .ok (pa, s.ctxKey x.ctx)
      | _ => fault .attr

/-- The word at a code address, through the instruction path of the block's core (02 R52). -/
def State.codeWord (s : State) (b : Nat) (ea : DWord) : Except Stop Word :=
  match s.codePlace b ea with
  | .error e => .error e
  | .ok (pa, key) =>
    let core := (s.block b).core
    match (List.range 4).mapM fun i => Cells.get? (viewKey core key (pa + i)) s.ipath with
    | some bs => .ok (w32 (leNat bs))
    | none => .error (.stall (.fetch pa key))

/-- A run of code words. -/
def State.codeWords (s : State) (b : Nat) (ea : DWord) : Nat → Except Stop (List Word)
  | 0 => .ok []
  | n + 1 =>
    match s.codeWord b ea with
    | .error e => .error e
    | .ok w =>
      match s.codeWords b (ea + 4) n with
      | .error e => .error e
      | .ok ws => .ok (w :: ws)

/-- Has a word the header pattern (02 R44, R47)? -/
def isHeader (w : Word) : Bool := w.toNat / 2 ^ 25 == 127

/-- SETA or SETB of a header is 12 to 14 (02 R44). -/
def badSets (w : Word) : Bool :=
  let a := field w.toNat 5 4
  let c := field w.toNat 1 4
  (12 ≤ a && a ≤ 14) || (12 ≤ c && c ≤ 14)

/-- Check 4 of 02 R53 (03 R100). -/
def checkTarget (b : Nat) (tgt : DWord) : M Unit := fun s =>
  if tgt.toNat % 4 ≠ 0 then .error (.trap .badTarget tgt 0)
  else
    match s.codeWord b tgt with
    | .error e => .error e
    | .ok w => if isHeader w then .ok ((), s) else .error (.trap .badTarget tgt 0)

/-- A wait on a mask of flags is satisfied: the acquire part of every command counted since the last such wait (07
R198). -/
def flagsWaited (b t : Nat) (mask : BitVec 12) : M Unit := fun s =>
  let th := s.thread b t
  let hit := th.cmds.filter fun e => mask.getLsbD e.1
  if !hit.isEmpty && s.specPending b [t] s.seq then .error (.stall .acquirePart) else
  let s1 := hit.foldl (fun (s : State) e => s.acquireFor b [t] (s.block b).padCore e.2) s
  .ok ((), if hit.isEmpty then s else s1.modThread b t fun th => { th with cmds := th.cmds.filter fun e => !mask.getLsbD e.1 })

end Sys2Proof.Machine
end

