-- ==== Sys2Proof/Machine/LoadStore.lean ====
section
/-! DEFINITION. Loads, stores, granules, prefetches and shadow regions (06_memory.md R157 to R171), and the events that
complete them. -/

namespace Sys2Proof.Machine

/-- Bytes of a width. -/
def widthBytes : Width → Nat
  | .w32 => 4
  | .w64 => 8

/-- The address of a lane memory instruction (R159). -/
def laneAddr (b t : Nat) (a : LReg) (off : BitVec 5) (unit : Nat) : M DWord := do
  return (← src2 b t a) + BitVec.ofInt 64 (off.toInt * unit)

/-- Issue a load of n bytes into d (R160). -/
def loadBody (i : Instr) (d a : LReg) (off : BitVec 5) (unit n align : Nat) (signed nol1 : Bool) (b t : Nat) : M Unit := do
  let ea ← laneAddr b t a off unit
  let tgts ← checkAccess b [t] { kind := .read, fe := false, align, eas := spanFrom ea n }
  let s ← getS
  issue { MemOp.mk' b (s.block b).padCore [t] (.load signed) ea tgts with
    flag := flagOf i s b t, dst := .lane d ((n + 3) / 4), nol1 }

/-- The data of a store of n bytes: the low bytes of d, of the pair or of the quad (R160). -/
def storeData (b t : Nat) (d : LReg) (n : Nat) : M (List Byte) := do
  if n ≤ 4 then return leBytes n (← src b t d).toNat
  else return (← srcN b t d (n / 4)).flatMap fun w => leBytes 4 w.toNat

/-- Issue a store of n bytes of d (R160), or an ST.FILL (R165). -/
def storeBody (i : Instr) (d a : LReg) (off : BitVec 5) (n : Nat) (kind : OpKind) (nol1 : Bool) (b t : Nat) : M Unit := do
  let ea ← laneAddr b t a off n
  let data ← storeData b t d n
  let tgts ← checkAccess b [t] { kind := .write, fe := kind == .fill, align := n, eas := spanFrom ea n }
  let s ← getS
  issue { MemOp.mk' b (s.block b).padCore [t] kind ea tgts with flag := flagOf i s b t, data, nol1 }

/-- LD.w8. -/
def execLdW8 (d a : LReg) (off : BitVec 5) (f : Bool) (h : Hint) (s : State) : Host.Outcome State Fault Refusal :=
  laneExec (.ldW8 d a off f h) (laneFall (loadBody (.ldW8 d a off f h) d a off 1 1 1 false (h == .nol1))) s
/-- LD.i8. -/
def execLdI8 (d a : LReg) (off : BitVec 5) (f : Bool) (h : Hint) (s : State) : Host.Outcome State Fault Refusal :=
  laneExec (.ldI8 d a off f h) (laneFall (loadBody (.ldI8 d a off f h) d a off 1 1 1 true (h == .nol1))) s
/-- LD.w16. -/
def execLdW16 (d a : LReg) (off : BitVec 5) (f : Bool) (h : Hint) (s : State) : Host.Outcome State Fault Refusal :=
  laneExec (.ldW16 d a off f h) (laneFall (loadBody (.ldW16 d a off f h) d a off 2 2 2 false (h == .nol1))) s
/-- LD.i16. -/
def execLdI16 (d a : LReg) (off : BitVec 5) (f : Bool) (h : Hint) (s : State) : Host.Outcome State Fault Refusal :=
  laneExec (.ldI16 d a off f h) (laneFall (loadBody (.ldI16 d a off f h) d a off 2 2 2 true (h == .nol1))) s
/-- LD.w32. -/
def execLdW32 (d a : LReg) (off : BitVec 5) (f : Bool) (h : Hint) (s : State) : Host.Outcome State Fault Refusal :=
  laneExec (.ldW32 d a off f h) (laneFall (loadBody (.ldW32 d a off f h) d a off 4 4 4 false (h == .nol1))) s
/-- LD.w64. -/
def execLdW64 (d a : LReg) (off : BitVec 5) (f : Bool) (h : Hint) (s : State) : Host.Outcome State Fault Refusal :=
  laneExec (.ldW64 d a off f h) (laneFall (loadBody (.ldW64 d a off f h) d a off 8 8 8 false (h == .nol1))) s
/-- LD.w128. -/
def execLdW128 (d a : LReg) (off : BitVec 5) (f : Bool) (h : Hint) (s : State) : Host.Outcome State Fault Refusal :=
  laneExec (.ldW128 d a off f h) (laneFall (loadBody (.ldW128 d a off f h) d a off 16 16 16 false (h == .nol1))) s
/-- ST.w8. -/
def execStW8 (d a : LReg) (off : BitVec 5) (f : Bool) (h : Hint) (s : State) : Host.Outcome State Fault Refusal :=
  laneExec (.stW8 d a off f h) (laneFall (storeBody (.stW8 d a off f h) d a off 1 .store (h == .nol1))) s
/-- ST.w16. -/
def execStW16 (d a : LReg) (off : BitVec 5) (f : Bool) (h : Hint) (s : State) : Host.Outcome State Fault Refusal :=
  laneExec (.stW16 d a off f h) (laneFall (storeBody (.stW16 d a off f h) d a off 2 .store (h == .nol1))) s
/-- ST.w32. -/
def execStW32 (d a : LReg) (off : BitVec 5) (f : Bool) (h : Hint) (s : State) : Host.Outcome State Fault Refusal :=
  laneExec (.stW32 d a off f h) (laneFall (storeBody (.stW32 d a off f h) d a off 4 .store (h == .nol1))) s
/-- ST.w64. -/
def execStW64 (d a : LReg) (off : BitVec 5) (f : Bool) (h : Hint) (s : State) : Host.Outcome State Fault Refusal :=
  laneExec (.stW64 d a off f h) (laneFall (storeBody (.stW64 d a off f h) d a off 8 .store (h == .nol1))) s
/-- ST.w128. -/
def execStW128 (d a : LReg) (off : BitVec 5) (f : Bool) (h : Hint) (s : State) : Host.Outcome State Fault Refusal :=
  laneExec (.stW128 d a off f h) (laneFall (storeBody (.stW128 d a off f h) d a off 16 .store (h == .nol1))) s
/-- LDX.w32 (R162). -/
def execLdxW32 (d a : LReg) (off : BitVec 5) (f : Bool) (s : State) : Host.Outcome State Fault Refusal :=
  laneExec (.ldxW32 d a off f) (laneFall (loadBody (.ldxW32 d a off f) d a off 1 4 1 false false)) s
/-- LDX.w64 (R162). -/
def execLdxW64 (d a : LReg) (off : BitVec 5) (f : Bool) (s : State) : Host.Outcome State Fault Refusal :=
  laneExec (.ldxW64 d a off f) (laneFall (loadBody (.ldxW64 d a off f) d a off 1 8 1 false false)) s
/-- ST.FILL (R165). -/
def execStFill (d a : LReg) (off : BitVec 5) (f : Bool) (h : Hint) (s : State) : Host.Outcome State Fault Refusal :=
  laneExec (.stFill d a off f h) (laneFall fun b t => do
    storeBody (.stFill d a off f h) d a off 16 .fill (h == .nol1) b t
    updS (·.oxAbandon b)) s

/-- STM (R163): the selected bytes of the quad; an empty mask accesses nothing and completes at once. -/
def execStm (d a m : LReg) (s : State) : Host.Outcome State Fault Refusal :=
  laneExec (.stm d a m) (laneFall fun b t => do
    let ea ← src2 b t a
    let mk ← src b t m
    let data ← storeData b t d 16
    let sel := (List.range 16).filter mk.getLsbD
    if !sel.isEmpty then
      let tgts ← checkAccess b [t] { kind := .write, fe := false, align := 1, eas := sel.map fun i => ea + w64 i }
      let s ← getS
      issue { MemOp.mk' b (s.block b).padCore [t] .store ea tgts with
        flag := flagOf (.stm d a m) s b t, data := sel.map fun i => data.getD i 0 }) s

/-! LD.FE (R164; 12_headwater.md R288; 07_ordering.md R198). -/

/-- The mark of a granule a stream delivered into a block's allocation, with the slice and its record (12 R287). -/
def State.granMark (s : State) (tg : Tgt) : Option (Nat × Nat × MarkRec) :=
  match tg with
  | .sp core off =>
    match s.padOwner core (off / 16) with
    | none => none
    | some c =>
      let x := s.block c
      x.partners.findSome? fun p =>
        match (s.block p).slice with
        | none => none
        | some sl => (sl.marks.find? fun e => e.2.granule && e.2.gran == off / 16 - x.spBase).map fun e => (p, e.1, e.2)
  | _ => none

/-- LD.FE: wait until full, take the data, clear the bit of a take; a granule set full by a command's completion write
is acquired at the command's scope. -/
def ldFeBody (i : Instr) (take : Bool) (d a : LReg) (off : BitVec 5) (b t : Nat) : M Unit := do
  let ea ← laneAddr b t a off 16
  let tgts ← checkAccess b [t] { kind := .read, fe := true, align := 16, eas := spanFrom ea 16 }
  let tg := tgts.headD .zeros
  let s ← getS
  if !s.isFull tg || s.ownPending b t tg then stall (.granule tg)
  if s.acquireHolds b [t] s.seq then stall .acquirePart
  let sc := (tg.granKey.bind fun k => Cells.get? k s.doneGrans)
  if sc.isSome && s.specPending b [t] s.seq then stall .acquirePart
  let data ← match s.granMark tg with
    | some (p, k, m) => do
      let bs ← plainRead b t m.addr 16 16
      if take then updS (·.modSlice p fun sl => { sl with marks := sl.marks.filter (·.1 != k) })
      pure bs
    | none => fun s => let q := s.define (tgts.map s.tgtByte); .ok (q.1, q.2)
  if take then updS (·.setFull tg false)
  let s ← getS
  let core := (s.block b).padCore
  issue { MemOp.mk' b core [t] .fe ea [] with flag := flagOf i s b t, dst := .lane d 4, data }
  updS fun s => (match sc with | some sc => s.acquireFor b [t] core sc | none => s).oxAbandon b

/-- LD.FE.take. -/
def execLdFeTake (d a : LReg) (off : BitVec 5) (f : Bool) (s : State) : Host.Outcome State Fault Refusal :=
  laneExec (.ldFeTake d a off f) (laneFall (ldFeBody (.ldFeTake d a off f) true d a off)) s
/-- LD.FE.peek. -/
def execLdFePeek (d a : LReg) (off : BitVec 5) (f : Bool) (s : State) : Host.Outcome State Fault Refusal :=
  laneExec (.ldFePeek d a off f) (laneFall (ldFeBody (.ldFePeek d a off f) false d a off)) s

/-! Prefetches (R166). -/

/-- Add 1 to a core's SPECDROP (R166). -/
def State.specDrop (s : State) (core : Nat) : State := s.modCore core fun k => { k with specdrop := k.specdrop + 1 }

/-- Fill the 64-byte span of an address into a core's view, as far as its bytes are in reach. -/
def State.fillSpan (s : State) (core pa : Nat) (key : Option Nat) : State :=
  let line := pa / 64 * 64
  if s.reach core line && (s.pinAt line).isNone then
    (List.range 8).foldl (fun (s : State) i => s.fillView core (line + 8 * i) key) s
  else s

/-- A prefetch waits for the first request of its page; each one is a request of its own in SPECDROP's count (R166). -/
def addPref (ctx page : Nat) (p : Nat × DWord × Bool) : List WalkReq → List WalkReq
  | [] => []
  | r :: rs => if r.ctx = ctx ∧ r.page = page then { r with prefs := r.prefs ++ [p] } :: rs else r :: addPref ctx page p rs

/-- A speculative request for the span of an address (R166; 17_system.md R406): a hit on NORMAL memory fills L1 unless the request
is for L2 alone, a miss asks for a walk and waits for it, every other case has no effect. -/
def State.prefetch (s : State) (core ctx : Nat) (ea : DWord) (l1 : Bool) : State :=
  if !canonical ea || inPadWindow ea then s
  else
    match s.translate (clusterOf core) ctx ea.toNat .read with
    | .hit pa false => if l1 && physRegion pa = .dev then s.fillSpan core pa (s.ctxKey ctx) else s
    | .hit _ true => s
    | .prot => s.specDrop core
    | .miss =>
      (s.raiseWalk (clusterOf core) ctx (ea.toNat / 4096) .read true false).modCluster (clusterOf core) fun k => { k with
        reqs := addPref ctx (ea.toNat / 4096) (core, ea, l1) k.reqs }

/-- PREF (R166): never faults, is not tracked. -/
def execPref (a : LReg) (off : BitVec 5) (h : Hint) (s : State) : Host.Outcome State Fault Refusal :=
  laneExec (.pref a off h) (laneFall fun b t => do
    let ea ← laneAddr b t a off 64
    updS fun s =>
      let x := s.block b
      if (s.gangOf x).isSome && inFord ea then s
      else if x.kind == .walker && ea.toNat < 2 ^ 56 then s
      else s.prefetch x.core x.ctx ea (h != .nol1 && x.kind != .walker)) s

/-- SPATIAL_PREFETCH (R166, 07 R174): a core's predictor prefetches for a context it runs. -/
def execSpatialPrefetch (core ctx : Nat) (ea : DWord) (s : State) : Host.Outcome State Fault Refusal :=
  .next (if (s.onCore core).any (fun b => (s.block b).ctx == ctx && (s.block b).kind != .walker)
    then s.prefetch core ctx ea true else s)

/-- VIEW_COPY_DROP (07 R174): a copy that is neither pinned nor an unperformed store may be dropped at any time. -/
def execViewCopyDrop (core pa : Nat) (s : State) : Host.Outcome State Fault Refusal :=
  .next (s.dropViewRange core (pa / 8 * 8) 8)

/-! Shadow regions (R153, R167 to R170). -/

/-- Do two ranges meet? -/
def rangesMeet (a n b m : Nat) : Bool := a < b + m && b < a + n

/-- Insert a region in ascending order of its offset. -/
def placeRegion (r : Region) : List Region → List Region
  | [] => [r]
  | q :: qs => if r.off ≤ q.off then r :: q :: qs else q :: placeRegion r qs

/-- SMAP (R168). -/
def execSmap (d a b : LReg) (s : State) : Host.Outcome State Fault Refusal :=
  laneExec (.smap d a b) (laneFall fun k t => do
    let g ← src2 k t a
    let off := (← src k t b).toNat
    let len := (← src k t d).toNat
    let x ← getB k
    if !(x.regions.any fun r => r.off == off && r.len == len && r.global == g) then
      if len = 0 || len % 256 != 0 || off % 256 != 0 || g.toNat % 256 != 0 || off + len > 16 * x.spLen || !canonical g ||
          x.regions.any (fun r => rangesMeet off len r.off r.len) || x.regions.length ≥ 8 then trap .smapArg
      updB k fun x => { x with
        regions := placeRegion { off, len, global := g, present := [], dirty := [] } x.regions }) s

/-- An instruction that stops keeps the units it has written back (R169), but no pop of its operands' reads: those count only once it
retires (12_headwater.md R282). The operands are read, the work done on the state before the reads, and the pops made at the end. -/
def commitReads {α : Type} (reads : M α) (work : α → State → State × Option Stop) : M Flow := fun s =>
  match reads s with
  | .error st => .error st
  | .ok (a, _) =>
    match work a s with
    | (s1, some st) => .ok (.stops st, s1)
    | (s1, none) =>
      match reads s1 with
      | .ok (_, s2) => .ok (.fall, s2)
      | .error _ => .ok (.fall, s1)

/-- The thread's own accesses in flight on the scratchpad bytes of a block's region come first (06 R161, R169). -/
def State.regionWait (s : State) (k t : Nat) (lo hi : Nat) : Option Stop :=
  let x := s.block k
  let start := 16 * x.spBase
  ((s.ops.find? fun p => p.blk == k && p.tids.contains t && p.tgts.any fun u =>
    match u with | .sp c o => c == x.padCore && start + lo ≤ o && o < start + hi | _ => false).map fun p => .stall (.order p.id))

/-- Write back units of a block for a thread, and note the writes for a later FENCE.DUR (07 R195). -/
def State.threadWritesBack (s : State) (k t : Nat) (us : List (Nat × Nat)) : State × Option Stop :=
  let x := s.block k
  let q := s.writeBackUnits k [t] (clusterOf x.core) x.padCore us
  (q.1.markWrites k [t] s.seq q.1.seq, q.2)

/-- SUNMAP of the region at an offset (R169): write back, zero the units not present, remove the region. -/
def State.unmapRegion (s : State) (k t off : Nat) : State × Option Stop :=
  let x := s.block k
  match x.regions.find? (·.off == off) with
  | none => (s, none)
  | some r =>
    match s.regionWait k t r.off (r.off + r.len) with
    | some st => (s, some st)
    | none =>
      match s.threadWritesBack k t (r.dirty.map fun u => (r.off, u)) with
      | (s1, some st) => (s1, some st)
      | (s1, none) =>
        let absent := (List.range (r.len / 256)).filter fun u => !r.present.contains u
        let start := padKey x.padCore (16 * x.spBase + r.off)
        let pads := absent.foldl (fun m u => Cells.dropRange (start + 256 * u) (start + 256 * u + 256) m) s1.pads
        (State.modBlock { s1 with pads } k fun x => { x with regions := x.regions.filter (·.off != off) }, none)

/-- SUNMAP (R169). -/
def execSunmap (b : LReg) (s : State) : Host.Outcome State Fault Refusal :=
  laneExec (.sunmap b) (fun k t => commitReads (src k t b) fun off s => s.unmapRegion k t off.toNat) s

/-- SWB of a range of offsets (R169): write back the dirty units of every region that overlaps it; an empty range overlaps none. -/
def State.writeBackRange (s : State) (k t off len : Nat) : State × Option Stop :=
  if len = 0 then (s, none) else
  let inRange (r : Region) (u : Nat) : Bool := rangesMeet (r.off + 256 * u) 256 off len
  match (s.block k).regions.findSome? fun r => ((List.range (r.len / 256)).filter (inRange r)).findSome? fun u =>
      s.regionWait k t (r.off + 256 * u) (r.off + 256 * u + 256) with
  | some st => (s, some st)
  | none => s.threadWritesBack k t ((s.block k).regions.flatMap fun r => (r.dirty.filter (inRange r)).map fun u => (r.off, u))

/-- SWB (R169). -/
def execSwb (d b : LReg) (s : State) : Host.Outcome State Fault Refusal :=
  laneExec (.swb d b) (fun k t =>
    commitReads (do return ((← src k t b).toNat, (← src k t d).toNat)) fun q s => s.writeBackRange k t q.1 q.2) s

/-- The first page of [lo, hi) without a translation in a cluster that is not among the pages to skip (R170). Fuel: one per entry and
skipped page. -/
def State.firstMiss (s : State) (cluster ctx : Nat) (skipped : List Nat) (hi : Nat) : Nat → Nat → Option Nat
  | 0, _ => none
  | n + 1, lo =>
    if lo ≥ hi then none
    else
      match s.tlbFind cluster ctx lo with
      | some e => s.firstMiss cluster ctx skipped hi n (e.va + sizeBytes e.size)
      | none => if skipped.contains (lo / 4096) then s.firstMiss cluster ctx skipped hi n ((lo / 4096 + 1) * 4096) else some (lo / 4096)

/-- Drop one physical range from a core: its view, by the blocks that overlap it, taken at their largest as whole lines (R157), its
instruction path, its pins on the lines (R170; 07 R183). -/
def State.invalPhys (s : State) (core pa len : Nat) : State :=
  let lo := pa / 64 * 64
  let n := (pa + len + 63) / 64 * 64 - lo
  let s1 := (s.dropViewRange core lo n).dropPath (· == core) lo n
  s1.endPins fun p => p.core == core && rangesMeet p.line 64 pa len

/-- The entries of a cluster's translation cache that meet a range of a context's addresses. -/
def State.rangeEntries (s : State) (cluster ctx lo hi : Nat) : List TlbEntry :=
  (s.getCluster cluster).tlb.filter fun e => e.ctx == ctx && lo < hi && rangesMeet e.va (sizeBytes e.size) lo (hi - lo)

/-- SINV of translated addresses [lo, hi) (R170), all of whose pages have a translation or are skipped: where entries of two sizes cover
a page, the smaller one's frame is the page's (17_system.md R405). -/
def State.invalRange (s : State) (core ctx lo hi : Nat) : State :=
  let k := clusterOf core
  (s.rangeEntries k ctx lo hi).foldl (fun (s : State) (e : TlbEntry) =>
    let first := Nat.max lo e.va / 4096
    let last := (Nat.min hi (e.va + sizeBytes e.size) - 1) / 4096
    if e.onchip then s
    else if (s.rangeEntries k ctx e.va (e.va + sizeBytes e.size)).all (fun f => e.size ≤ f.size) then
      let a := Nat.max lo e.va
      s.invalPhys core (e.frame + (a - e.va)) (Nat.min hi (e.va + sizeBytes e.size) - a)
    else (List.range (last + 1 - first)).foldl (fun (s : State) i =>
      let a := Nat.max lo ((first + i) * 4096)
      let z := Nat.min hi ((first + i + 1) * 4096)
      if s.tlbFind k ctx a = some e then s.invalPhys core (e.frame + (a - e.va)) (z - a) else s) s) s

/-- SINV of scratchpad window bytes [lo, hi), as offsets into the block's allocation (R170). -/
def Block.invalUnits (x : Block) (lo hi : Nat) : Block :=
  { x with regions := x.regions.map fun r =>
      let stay (u : Nat) : Bool := !rangesMeet (r.off + 256 * u) 256 lo (hi - lo)
      { r with present := r.present.filter stay, dirty := r.dirty.filter stay } }

/-- An access in flight on a scratchpad byte of a unit that an SINV of window offsets [lo, hi) discards: it is performed first (06
R171). -/
def State.invalWait (s : State) (b lo hi : Nat) : Option Wait :=
  let x := s.block b
  let hit (u : Tgt) : Bool := match u with
    | .sp c o => c == x.padCore && 16 * x.spBase ≤ o &&
        (match x.regionAt (o - 16 * x.spBase) with
         | some r => rangesMeet (r.off + (o - 16 * x.spBase - r.off) / 256 * 256) 256 lo (hi - lo)
         | none => false)
    | _ => false
  (s.ops.find? fun p => p.tgts.any hit).map fun p => .order p.id

/-- SINV of the translated part [lo, hi) of a range (R170), for a thread. It waits for the translations of the pages, asked for as a
speculative request is, and skips the pages whose translation fails (DESIGN CHOICE; log entry 25); the pages before the one it waits for
are done with by then, so that no range needs more translations at once than the cache holds. -/
def State.invalTranslated (s : State) (b t lo hi : Nat) : State × Option Stop :=
  let x := s.block b
  let k := clusterOf x.core
  let sk := (s.thread b t).skipped
  match s.firstMiss k x.ctx sk hi ((s.rangeEntries k x.ctx lo hi).length + sk.length + 1) lo with
  | some p =>
    let done := ((List.range (p - lo / 4096)).map (lo / 4096 + ·)).filter fun q => !sk.contains q
    ((s.invalRange x.core x.ctx lo (p * 4096)).modThread b t fun th => { th with skipped := sk ++ done }, some (.stall (.sinv x.ctx p)))
  | none => (s.invalRange x.core x.ctx lo hi, none)

/-- SINV of one stretch [lo, hi) of generic addresses: its translated part, then its part in the scratchpad window, which waits for the
accesses in flight there (R170, R171). A walk slot's addresses below 2^56 are device memory itself (17_system.md R407). -/
def State.invalStretch (s : State) (b t lo hi : Nat) : State × Option Stop :=
  let x := s.block b
  let q := if x.kind == .walker && lo < 2 ^ 56 then (s.invalPhys x.core lo (hi - lo), none) else s.invalTranslated b t lo (Nat.min hi padWindow)
  if q.2.isSome || hi ≤ padWindow then q
  else
    let from' := Nat.max lo padWindow - padWindow
    match q.1.invalWait b from' (hi - padWindow) with
    | some w => (q.1, some (.stall w))
    | none => (q.1.modBlock b (·.invalUnits from' (hi - padWindow)), none)

/-- SINV of len bytes from a generic address on (R170): at the end the thread forgets the pages it has passed. -/
def State.invalidate (s : State) (b t : Nat) (g : DWord) (len : Nat) : State × Option Stop :=
  if len = 0 then (s, none)
  else if !canonical g || !canonical (g + w64 (len - 1)) then (s, some (.trap .smapArg 0 0))
  else
    let top := 2 ^ 64
    let first := s.invalStretch b t g.toNat (Nat.min (g.toNat + len) top)
    let q := if first.2.isSome || g.toNat + len ≤ top then first else first.1.invalStretch b t 0 (g.toNat + len - top)
    match q.2 with
    | some st => (q.1, some st)
    | none => (q.1.modThread b t fun th => { th with skipped := [] }, none)

/-- SINV (R170). -/
def execSinv (d a : LReg) (s : State) : Host.Outcome State Fault Refusal :=
  laneExec (.sinv d a) (fun b t =>
    commitReads (do return (← src2 b t a, (← src b t d).toNat)) fun q s => s.invalidate b t q.1 q.2) s

/-! Completion. -/

/-- LOAD_COMPLETION (R160; 07 R173, R179): a lane load is performed and delivers its value, or the data of an LD.FE
arrive. -/
def execLoadCompletion (id : Nat) (reply : List Byte) (s : State) : Host.Outcome State Fault Refusal :=
  .next (match s.opOf id with
    | some o =>
      if o.uniform || !s.ready o then s
      else
        match o.kind with
        | .load _ =>
          if o.tgts.isEmpty then s
          else
            (match s.loadReach o with
             | some pa => s.noteRetry o.core pa
             | none => (s.performOp o reply).pruneBarriers)
        | .fe =>
          let s1 := (s.deliver o (destWords false o.data)).finishFlag o.blk o.tids o.uniform o.flag
          { s1 with ops := s1.ops.filter (·.id != id) }
        | _ => s
    | none => s)

/-- Is a thread's wait in LD.FE over: its granule is full, or the slot whose granule it named has been vacated since, so that the
instruction, executed again, meets the slot as it is then (R164; 01_machine.md R30)? -/
def State.granuleOver (s : State) (b t : Nat) (tg : Tgt) : Bool :=
  (s.isFull tg && !s.ownPending b t tg) ||
    match tg with
    | .win blk _ _ _ => !(s.block blk).inSlot || (s.thread b t).since < (s.block blk).placedAt
    | .sp core off =>
      (match s.padOwner core (off / 16) with
       | some o => (s.block o).ctx != (s.block b).ctx
       | none => true)
    | _ => false

/-- LDFE_WAKE (R164): a thread whose wait for a granule is over executes its LD.FE again. -/
def execLdFeWake (blk tid : Nat) (s : State) : Host.Outcome State Fault Refusal :=
  .next (match s.getThread blk tid with
    | some th =>
      (match th.run with
       | .stalled (.granule tg) =>
         if s.granuleOver blk tid tg then
           s.modThread blk tid fun th => { th with run := .ready, since := s.now }
         else s
       | _ => s)
    | none => s)

end Sys2Proof.Machine
end

