-- ==== Sys2Proof/Machine/Atomic.lean ====
section
/-! DEFINITION. Atomics, ordered loads and stores, fences and pins (07_ordering.md R178 to R195), and their events. -/

namespace Sys2Proof.Machine

/-- Read an operand of a width. -/
def srcW (b t : Nat) (r : LReg) : Width → M Nat
  | .w32 => do return (← src b t r).toNat
  | .w64 => do return (← src2 b t r).toNat

/-- Are all targets NORMAL device memory? -/
def allDev (ts : List Tgt) : Bool := ts.all fun t => match t with | .dev _ _ => true | _ => false
/-- Is some target on a peer? -/
def anyFord (ts : List Tgt) : Bool := ts.any fun t => match t with | .ford _ _ _ => true | _ => false

/-- Issue a .spec atomic on NORMAL memory (R192): old comes from the view, the home is to take data when the value it
still holds is old. -/
def issueSpec (o : MemOp) (new : Nat → Option Nat) : M Unit := do
  let s ← getS
  if s.acquireHolds o.blk o.tids s.seq then stall .acquirePart
  let asLoad : MemOp := { o with id := s.seq, kind := .load false }
  if s.orderHolds asLoad then
    match s.ops.find? fun p => p.shares asLoad && p.overlaps asLoad with
    | some p => stall (.order p.id)
    | none => pure ()
  match s.loadReach { o with id := s.seq } with
  | some pa => stall (.retry pa)
  | none => pure ()
  let rs := o.tgts.map fun t => s.loadByte { o with id := s.seq } none t
  let old := leNat (rs.map fun r => r.1.getD 0)
  updS fun s => (o.tgts.foldl (fun (s : State) t => match t with
    | .dev pa key => if (s.pinAt pa).isSome then s else s.fillView o.core pa key
    | _ => s) s).observe o.blk o.tids (rs.flatMap (·.2)).dedup
  let s ← getS
  match new old with
  | some v => issue { o with kind := .spec old true, data := leBytes o.tgts.length v, inView := some s.seq }
  | none => issue { o with kind := .spec old false }

/-- Issue an atomic (R185 to R192; Ford: 16_gangs.md R374): kind with a use, and the function of the old value for
.spec. -/
def atomBody (i : Instr) (d : LReg) (ctl : AtomCtl) (ea : DWord) (kind : AtomUse → OpKind) (data : List Byte)
    (new : Nat → Option Nat) (b t : Nat) : M Unit := do
  let n := widthBytes ctl.size
  let tgts ← checkAccess b [t] { kind := .atomic, fe := false, align := n, eas := spanFrom ea n }
  let s ← getS
  let rel := ctl.order == .rel || ctl.order == .acqrel
  let use : AtomUse :=
    if ctl.use == .spec || (ctl.use == .com && anyFord tgts) then .unp else ctl.use
  let o : MemOp := { MemOp.mk' b (s.block b).padCore [t] (kind use) ea tgts with
    flag := flagOf i s b t, data, scope := ctl.scope, acq := ctl.order == .acq || ctl.order == .acqrel, rel
    dst := if d == .zero then .none else .lane d (n / 4)
    after := if rel then (s.thread b t).observed else [] }
  if ctl.use == .spec && allDev tgts then issueSpec o new
  else
    if rel then updS (·.beginRelease b [t] ctl.scope)
    if ctl.use == .spec then updT b t fun th => { th with spec := th.spec ++ [(ctl.scope, true)] }
    issue o
  updS (·.oxAbandon b)

/-- ATOM (R186). -/
def execAtom (d a b : LReg) (ctl : AtomCtl) (s : State) : Host.Outcome State Fault Refusal :=
  laneExec (.atom d a b ctl) (laneFall fun k t => do
    let ea ← src2 k t a
    let opnd ← srcW k t b ctl.size
    let n := widthBytes ctl.size
    atomBody (.atom d a b ctl) d ctl ea (.atom ctl.op) (leBytes n opnd) (fun old => some (atomNew ctl.op n old opnd)) k t) s

/-- CAS (R186). -/
def execCas (d a b : LReg) (ctl : AtomCtl) (s : State) : Host.Outcome State Fault Refusal :=
  laneExec (.cas d a b ctl) (laneFall fun k t => do
    let ea ← src2 k t a
    let opnd ← srcW k t b ctl.size
    let expd ← srcW k t d ctl.size
    let n := widthBytes ctl.size
    atomBody (.cas d a b ctl) d ctl ea (.cas expd) (leBytes n opnd) (fun old => if old = expd then some opnd else none) k t) s

/-- LD.ACQ (R193). -/
def execLdAcq (d a : LReg) (scope : Scope) (size : Width) (f : Bool) (s : State) : Host.Outcome State Fault Refusal :=
  laneExec (.ldAcq d a scope size f) (laneFall fun b t => do
    let ea ← src2 b t a
    let n := widthBytes size
    let tgts ← checkAccess b [t] { kind := .read, fe := false, align := n, eas := spanFrom ea n }
    let s ← getS
    issue { MemOp.mk' b (s.block b).padCore [t] (.load false) ea tgts with
      flag := flagOf (.ldAcq d a scope size f) s b t, dst := .lane d (n / 4), scope, acq := true }) s

/-- ST.REL (R193). -/
def execStRel (d a : LReg) (scope : Scope) (size : Width) (f : Bool) (s : State) : Host.Outcome State Fault Refusal :=
  laneExec (.stRel d a scope size f) (laneFall fun b t => do
    let ea ← src2 b t a
    let v ← srcW b t d size
    let n := widthBytes size
    let tgts ← checkAccess b [t] { kind := .write, fe := false, align := n, eas := spanFrom ea n }
    let s ← getS
    updS (·.beginRelease b [t] scope)
    issue { MemOp.mk' b (s.block b).padCore [t] .store ea tgts with
      flag := flagOf (.stRel d a scope size f) s b t, data := leBytes n v, scope, rel := true
      after := (s.thread b t).observed }) s

/-- Does a thread's FENCE wait still (R178, R181, R192, R195)? -/
def State.fenceWaits (s : State) (b t : Nat) (sc : Scope) (dur : Bool) : Bool :=
  let obs := (s.thread b t).observed
  s.releaseWaits b [t] s.seq sc obs || s.specPending b [t] s.seq ||
    (dur && s.thatch.owed.any fun o => obs.contains (obsWrite o.id))

/-- FENCE and FENCE.DUR (R181, R195). A .nord atomic may be performed before an earlier FENCE completes (R190): here its thread stays
at the FENCE and issues it after (DESIGN CHOICE; log entry 49). -/
def fenceBody (sc : Scope) (dur : Bool) (b t : Nat) : M Unit := do
  updS (·.beginRelease b [t] sc)
  let s ← getS
  if s.fenceWaits b t sc dur then stall (.release sc dur)
  updS fun s => (s.acquireFor b [t] (s.block b).padCore sc).modThread b t fun th =>
    { th with observed := s.pruneObs th.observed }

/-- FENCE (R194). -/
def execFence (scope : Scope) (s : State) : Host.Outcome State Fault Refusal :=
  laneExec (.fence scope) (laneFall (fenceBody scope false)) s

/-- FENCE.DUR (R195). -/
def execFenceDur (s : State) : Host.Outcome State Fault Refusal := laneExec .fenceDur (laneFall (fenceBody .pkg true)) s

/-! Events. -/

/-- WRITE_PERFORMED (R173, R186): a lane store or atomic is performed at its point. -/
def execWritePerformed (id : Nat) (reply : List Byte) (s : State) : Host.Outcome State Fault Refusal :=
  .next (match s.opOf id with
    | some o =>
      if o.uniform || o.isCom || !s.ready o then s
      else
        match s.outOfReach o with
        | some pa => s.noteRetry o.core pa
        | none =>
          match o.kind with
          | .store | .fill | .atom _ _ | .cas _ _ => (s.performOp o reply).pruneBarriers
          | _ => s
    | none => s)

/-- FENCE_DONE (R181, R195): a thread whose FENCE conditions hold executes it to its end. -/
def execFenceDone (blk tid : Nat) (s : State) : Host.Outcome State Fault Refusal :=
  .next (match s.getThread blk tid with
    | some th =>
      (match th.run with
       | .stalled (.release sc dur) =>
         if s.fenceWaits blk tid sc dur then s
         else s.modThread blk tid fun th => { th with run := .ready, since := s.now }
       | _ => s)
    | none => s)

/-- The pending .com atomics that combine with one: the same core, op, size and address (R189). -/
def State.comGroup (s : State) (o : MemOp) : List MemOp :=
  s.ops.filter fun p => p.core == o.core && p.tgts == o.tgts && (match o.kind, p.kind with
    | .atom a .com, .atom c .com => a == c
    | _, _ => false)

/-- COM_MERGE_FLUSH (R189): the combined group of a .com atomic is performed as one write. -/
def execComMergeFlush (id : Nat) (s : State) : Host.Outcome State Fault Refusal :=
  .next (match s.opOf id with
    | some o =>
      if !o.isCom then s
      else
        match s.outOfReach o with
        | some pa => s.noteRetry o.core pa
        | none =>
          ((s.comGroup o).foldl (fun (s : State) p =>
            match p.kind with
            | .atom _ _ => if s.ready p then s.performOp p [] else s
            | _ => s) s).pruneBarriers
    | none => s)

/-- SPEC_RESOLVE (R192): the home slice resolves the conditional update of a .spec atomic. -/
def execSpecResolve (id : Nat) (s : State) : Host.Outcome State Fault Refusal :=
  .next (match s.opOf id with
    | some o =>
      (match o.kind with
       | .spec old update =>
         if !s.ready o then s
         else
           match s.outOfReach o with
           | some pa => s.noteRetry o.core pa
           | none => (s.performSpec o old update).pruneBarriers
       | _ => s)
    | none => s)

/-- PIN_LIMIT_BREAK (R183): the count of cycles since the first outside retry has reached the limit; the pin is broken
with a PINBREAK record, whose DETAIL counts the cycles since the pin was made (18 R419). -/
def execPinLimitBreak (core line : Nat) (s : State) : Host.Outcome State Fault Refusal :=
  .next (match s.pins.find? (fun p => p.core == core && p.line == line) with
    | none => s
    | some p =>
      match p.firstRetry with
      | none => s
      | some c =>
        if s.now < c + (s.getCore core).pinlim.toNat % 2 ^ 24 then s
        else
          let x := s.block p.blk
          (s.endPin p).record x.ctx
            { kind := 0x01, core, slot := x.slot, addr := line, detail := leBytes 4 (s.now - p.since) })

end Sys2Proof.Machine
end

