-- ==== Sys2Proof/Machine/Control.lean ====
section
/-! DEFINITION. Clause headers and the control instructions (02_encoding.md R44 to R51; 03_control.md R84, R99 to
R105), and the events of those rules. -/

namespace Sys2Proof.Machine

/-- A thread at a clause boundary starts the clause of header w, or stops (02 R45, R50, R51; 03 R90). -/
def startClause (w : Word) (b t : Nat) : M Flow := fun s =>
  let x := s.block b
  let th := s.thread b t
  if th.clauseIdx ≠ 0 then .error (.trap .illegal 0 0)
  else if badSets w then .error (.trap .illegal 0 0)
  else if x.atWaits && w.toNat % 2 == 1 then
    .ok (.placed, (s.modThread b t fun th => { th with run := .stopped none false }).leaveBundle b t)
  else
    let mask : BitVec 12 := BitVec.ofNat 12 (w.toNat / 512)
    if !th.flagsZero mask then .error (.stall (.flags mask))
    else
      match s.codeWords b (th.pc + 4) (clauseCount w) with
      | .error e => .error e
      | .ok ws =>
        match flagsWaited b t mask s with
        | .error e => .error e
        | .ok (_, s') =>
          .ok (.placed, s'.modThread b t fun th =>
            { th with clause := w :: ws, clauseIdx := 1, pc := th.pc + 4, x := none, o := [] })

/-- CLAUSE_HEADER (02 R45): each thread of the bundle at the boundary checks its header and starts its clause. In a
clause body the word is ILLEGAL (R46). -/
def execClauseHeader (count : BitVec 4) (wait : BitVec 12) (seta setb : BitVec 4) (point : Bool) (s : State) :
    Host.Outcome State Fault Refusal :=
  let w := w32 (headerWord count.toNat wait.toNat seta.toNat setb.toNat point.toNat)
  .next (s.cur.foldl (fun (s : State) m =>
    if s.cur.contains m then
      match startClause w m.1 m.2 s with
      | .ok (_, s') => s'
      | .error st => s.stopAt m.1 m.2 st
    else s) s)

/-- A waiting thread becomes ready (03 R96). -/
def State.wake (s : State) (b t : Nat) : State := s.modThread b t fun th => { th with run := .ready, since := s.now }

/-- Is a thread in a wait that a test accepts? -/
def State.waiting (s : State) (b t : Nat) (f : Wait → Bool) : Bool :=
  match s.getThread b t with
  | some th => (match th.run with | .stalled w => f w | _ => false)
  | none => false

/-- CLAUSE_START (02 R50): a thread held on flags becomes ready once they are zero. -/
def execClauseStart (blk tid : Nat) (s : State) : Host.Outcome State Fault Refusal :=
  .next (if s.waiting blk tid (fun w => match w with
      | .flags mask => (s.thread blk tid).flagsZero mask
      | .flagFull f => (s.thread blk tid).flag f < 7
      | _ => false)
    then s.wake blk tid else s)

/-- Branch offset in bytes (02 R34). -/
def wordOffset (n : Nat) (off : Nat) : DWord := BitVec.ofInt 64 (4 * sextNat n off)

/-- A branch to a computed target (03 R100). -/
def branchTo (b : Nat) (tgt : DWord) : M Flow := do
  checkTarget b tgt
  return .goto tgt

/-- Address of the thread's current word. -/
def pcOf (b t : Nat) : M DWord := fun s => .ok ((s.thread b t).pc, s)

/-- BRA (03 R100). -/
def execBra (off : BitVec 24) (s : State) : Host.Outcome State Fault Refusal :=
  laneExec (.bra off) (fun b t => do branchTo b ((← pcOf b t) + wordOffset 24 off.toNat)) s

/-- BRP (03 R100). -/
def execBrp (p : Fin 8) (off : BitVec 21) (s : State) : Host.Outcome State Fault Refusal :=
  laneExec (.brp p off) (fun b t => do
    if ← getPred b t p.val then branchTo b ((← pcOf b t) + wordOffset 21 off.toNat) else return .fall) s

/-- BRN (03 R100). -/
def execBrn (p : Fin 8) (off : BitVec 21) (s : State) : Host.Outcome State Fault Refusal :=
  laneExec (.brn p off) (fun b t => do
    if ← getPred b t p.val then return .fall else branchTo b ((← pcOf b t) + wordOffset 21 off.toNat)) s

/-- The target pair of BRX and CALLX: a v or o pair, the block's s pair, or zero (03 R99). -/
def targetPair (b t : Nat) (a : LReg) : M DWord := src2 b t a

/-- BRX (03 R100). -/
def execBrx (a : LReg) (s : State) : Host.Outcome State Fault Refusal :=
  laneExec (.brx a) (fun b t => do branchTo b (← targetPair b t a)) s

/-- A call to a target (03 R101). -/
def callTo (b t : Nat) (tgt : DWord) : M Flow := do
  checkTarget b tgt
  let th ← getT b t
  if th.stack.length ≥ 64 then trap .stackOvf
  updT b t fun th => { th with stack := (th.pc + 4) :: th.stack }
  return .goto tgt

/-- CALL (03 R101). -/
def execCall (off : BitVec 24) (s : State) : Host.Outcome State Fault Refusal :=
  laneExec (.call off) (fun b t => do callTo b t ((← pcOf b t) + wordOffset 24 off.toNat)) s

/-- CALLX (03 R101). -/
def execCallx (a : LReg) (s : State) : Host.Outcome State Fault Refusal :=
  laneExec (.callx a) (fun b t => do callTo b t (← targetPair b t a)) s

/-- RET (03 R101). -/
def execRet (s : State) : Host.Outcome State Fault Refusal :=
  laneExec .ret (fun b t => do
    let th ← getT b t
    match th.stack with
    | [] => trap .stackUnf
    | tgt :: rest =>
      checkTarget b tgt
      updT b t fun th => { th with stack := rest }
      return .goto tgt) s

/-- EXIT of a thread (03 R102; 12_headwater.md R281 for a slice); in a marked task it is a reclamation point (15_futures.md
R351). -/
def exitBody (b t : Nat) : M Flow := do
  let th ← getT b t
  if !th.flagsZero 0xFFF then stall (.flags 0xFFF)
  let x ← getB b
  if x.slice.any fun sl => sl.nest.isSome || !sl.flight.isEmpty then stall .sliceExit
  if x.mark.isSome then
    updS fun s => (s.modThread b t fun th => { th with run := .stopped none false }).leaveBundle b t
    return .placed
  updS fun s => s.exitThread b t
  return .placed

/-- EXIT (03 R102). -/
def execExit (s : State) : Host.Outcome State Fault Refusal := laneExec .exit exitBody s

/-- Is a thread a member of a team that exists (08 R222)? -/
def State.inTeam (s : State) (b t n : Nat) : Bool :=
  (s.thread b t).member n && ((s.block b).team n).members != 0

/-- RECONV (03 R103): the thread arrives and waits; RECONV_RELEASE retires it. -/
def execReconv (n : Fin 8) (s : State) : Host.Outcome State Fault Refusal :=
  laneExec (.reconv n) (fun b t => do
    let s ← getS
    if !s.inTeam b t n.val then trap .noTeam
    stall (.reconv n.val)) s

/-- WAITF (03 R104). -/
def execWaitf (mask : BitVec 12) (s : State) : Host.Outcome State Fault Refusal :=
  laneExec (.waitf mask) (fun b t => do
    let th ← getT b t
    if !th.flagsZero mask then stall (.flags mask)
    flagsWaited b t mask
    return .fall) s

/-- NOP (03 R105). -/
def execNop (s : State) : Host.Outcome State Fault Refusal := laneExec .nop (fun _ _ => return .fall) s

/-- BKPT (03 R105): retires, then traps with its code. -/
def execBkpt (imm : BitVec 16) (s : State) : Host.Outcome State Fault Refusal :=
  laneExec (.bkpt imm) (fun _ _ => return .trapNext .brk (imm.zeroExtend 32)) s

/-- ACQUIRE (03 R84). -/
def execAcquire (s : State) : Host.Outcome State Fault Refusal :=
  laneExec .acquire (fun b _ => do
    let x ← getB b
    if x.allot = x.full then return .fall else stall .acquire) s

/-- ACQUIRE_GRANT (03 R84): the full allotment, once per block; every thread waiting in ACQUIRE becomes ready and
retires it. A block that is stopped keeps its request for its next placement. -/
def execAcquireGrant (blk : Nat) (s : State) : Host.Outcome State Fault Refusal :=
  let x := s.block blk
  .next (if x.life == .resident && x.acqpend then
    let s1 : State := s.modBlock blk fun x => { x with allot := x.full, acqpend := false }
    (List.range x.threads.length).foldl (fun (s : State) t =>
      if s.waiting blk t (· == .acquire) then s.wake blk t else s) s1
  else s)

/-- Register lines a core's cache holds (03 R82). -/
def State.cacheLines (s : State) (core : Nat) : Nat :=
  ((s.onCore core).map fun b => (s.block b).cached.length).foldl (· + ·) 0

/-- The register lines of its block that the word at a thread's place names (03 R82); CSRR and CSRW of a thread's CSR name those of every
live thread (17_system.md R402). -/
def State.linesNamed (s : State) (b t : Nat) : List Nat :=
  let th := s.thread b t
  match (th.clause[th.clauseIdx]?).map fun w => decodeWord w.toNat ((th.clause[th.clauseIdx + 1]?).map (·.toNat)) with
  | some (.ok i) =>
    let rows := match i with
      | .csrrThread _ _ | .csrwThread _ _ => ((s.block b).liveTids.map (· / 16)).dedup
      | _ => [t / 16]
    rows.flatMap fun r => (i.laneOps.flatMap opndVs).map (256 * r + ·)
  | _ => []

/-- A full register cache gives up a line, which it writes back to its block's image (03 R82). Which one the spec does not say: the first,
by block and line, that no live thread's word at hand names, so that an instruction that misses several lines gets them all (R97); where
every line is named, the first that no thread waiting in an exchange names, whose result goes to its register (DESIGN CHOICE; log entry
50). -/
def State.evictLine (s : State) (core : Nat) : State :=
  if s.cacheLines core < 8192 then s
  else
    let lines := (s.onCore core).flatMap fun b => (s.block b).cached.map fun k => (b, k)
    let named (f : Thread → Bool) : List (Nat × Nat) := (s.onCore core).flatMap fun b =>
      (s.block b).liveTids.flatMap fun t => if f (s.thread b t) then (s.linesNamed b t).map fun k => (b, k) else []
    let exchanges (th : Thread) : Bool := match th.run with | .stalled (.exchange _ _ _ _ _ _) => true | _ => false
    match (lines.find? fun e => !(named fun _ => true).contains e).orElse fun _ => lines.find? fun e => !(named exchanges).contains e with
    | some (b, k) => s.spillLine b (k / 256) (k % 256)
    | none => s

/-- REGISTER_CACHE_FILL (03 R82): a line that a thread misses is filled from the image, and the threads that wait for it are ready. -/
def execRegisterCacheFill (blk row reg : Nat) (s : State) : Host.Outcome State Fault Refusal :=
  let x := s.block blk
  .next (if x.inSlot && reg < 224 && row < 64 && !s.held (x.lineWord (16 * row) reg) then
    let s1 := if x.lineIn row reg then s else (s.evictLine x.core).bringLine blk row reg
    (List.range x.threads.length).foldl (fun (s : State) t =>
      if s.waiting blk t (· == .line row reg) then s.wake blk t else s) s1
  else s)

/-- INSTRUCTION_FETCH (03 R106; 02 R52): the 64-byte line a thread's fetch waits for is filled from home into the core's
instruction path, and every thread of the core waiting for it is ready. -/
def execInstructionFetch (blk tid : Nat) (s : State) : Host.Outcome State Fault Refusal :=
  let x := s.block blk
  .next (match (s.thread blk tid).run with
    | .stalled (.fetch pa key) =>
      let line := pa / 64 * 64
      if s.reach noCore line && x.inSlot then
        let s1 := (List.range 64).foldl (fun (s : State) i =>
          { s with ipath := Cells.set (viewKey x.core key (line + i)) (s.homeByte (line + i) key) s.ipath }) s
        (s1.onCore x.core).foldl (fun (s : State) b =>
          (List.range (s.block b).threads.length).foldl (fun (s : State) t =>
            if s.waiting b t (fun w => match w with | .fetch p k => p / 64 * 64 == line && k == key | _ => false)
            then s.wake b t else s) s) s1
      else s.noteRetry noCore line
    | _ => s)

end Sys2Proof.Machine
end

