-- ==== Sys2Proof/Machine/FloatNum.lean ====
section
/-! DEFINITION. Exact floating-point arithmetic on patterns (05_float.md R126 to R146): values of codes, one rounding, and
the functions of the unary group. A result is a code with the FPSTAT flags it sets. -/

namespace Sys2Proof.Machine

/-- A floating-point format (05 R126). -/
structure Fmt where
  /-- mantissa bits -/
  man : Nat
  /-- exponent bits -/
  ex : Nat
  bias : Nat
  /-- code of the largest finite magnitude -/
  big : Nat
  /-- code of +infinity, if the format has one -/
  inf : Option Nat
  nan : Nat
deriving DecidableEq, Repr

def f32 : Fmt := { man := 23, ex := 8, bias := 127, big := 0x7F7FFFFF, inf := some 0x7F800000, nan := 0x7FC00000 }
def f16 : Fmt := { man := 10, ex := 5, bias := 15, big := 0x7BFF, inf := some 0x7C00, nan := 0x7E00 }
def bf16 : Fmt := { man := 7, ex := 8, bias := 127, big := 0x7F7F, inf := some 0x7F80, nan := 0x7FC0 }
def e4m3 : Fmt := { man := 3, ex := 4, bias := 7, big := 0x7E, inf := none, nan := 0x7F }
def e5m2 : Fmt := { man := 2, ex := 5, bias := 15, big := 0x7B, inf := some 0x7C, nan := 0x7E }

/-- The sign bit of a format. -/
def Fmt.signBit (f : Fmt) : Nat := 2 ^ (f.man + f.ex)

/-- A value: (-1)^neg * mag * 2^exp, an infinity, or a NaN. -/
inductive FpVal where
  | nan (signalling : Bool)
  | inf (neg : Bool)
  | fin (neg : Bool) (mag : Nat) (exp : Int)
deriving DecidableEq, Repr

/-- FPSTAT bits (05 R136). -/
def fNV : Nat := 1
def fDZ : Nat := 2
def fOF : Nat := 4
def fUF : Nat := 8
def fNX : Nat := 16
def fOVI : Nat := 32
def fSAT : Nat := 64

/-- The value of a code (05 R127). -/
def Fmt.value (f : Fmt) (c : Nat) : FpVal :=
  let neg := c / f.signBit % 2 == 1
  let e := c / 2 ^ f.man % 2 ^ f.ex
  let m := c % 2 ^ f.man
  if e = 2 ^ f.ex - 1 ∧ f.inf.isSome then
    if m = 0 then .inf neg else .nan (m / 2 ^ (f.man - 1) == 0)
  else if f.inf.isNone ∧ c % f.signBit = f.nan then .nan false
  else if e = 0 then .fin neg m (1 - (f.bias : Int) - f.man)
  else .fin neg (2 ^ f.man + m) ((e : Int) - f.bias - f.man)

/-- Rounding directions (05 R132). -/
inductive Dir where | rn | rz | rd | ru
deriving DecidableEq, Repr

/-- What an overflow delivers (05 R133). -/
inductive OvKind where | plain | sat | acc
deriving DecidableEq, Repr

/-- Does an overflow of a sign go to infinity under a mode (05 R133)? -/
def Dir.toInf (md : Dir) (neg : Bool) : Bool :=
  match md with
  | .rn => true
  | .rz => false
  | .ru => !neg
  | .rd => neg

/-- Is the quotient rounded up in magnitude, from its last bit, the remainder against half, and whether it is inexact? -/
def roundsUp (md : Dir) (neg odd inexact : Bool) (half : Ordering) : Bool :=
  match md with
  | .rn => half == .gt || (half == .eq && odd)
  | .rz => false
  | .rd => neg && inexact
  | .ru => !neg && inexact

/-- The overflow result (05 R133). -/
def Fmt.overflow (f : Fmt) (md : Dir) (k : OvKind) (neg : Bool) : Nat × Nat :=
  let s := if neg then f.signBit else 0
  match k with
  | .sat => (s + f.big, fSAT + fNX)
  | k =>
    let fl := fOF + fNX + (if k = .acc then fOVI else 0)
    if md.toInf neg then (s + f.inf.getD f.nan, fl) else (s + f.big, fl)

/-- Round (-1)^neg * (mag + t) * 2^exp, where t is 0 or, when sticky, lies strictly between 0 and 1 (05 R132). The magnitude is
not zero; a sticky one has more bits than the mantissa and two. -/
def Fmt.round (f : Fmt) (md : Dir) (k : OvKind) (neg : Bool) (mag : Nat) (exp : Int) (sticky : Bool) : Nat × Nat :=
  let top : Int := (Nat.log2 mag : Int) + exp
  let least : Int := 1 - (f.bias : Int)
  let e := max top least
  let q := e - f.man
  let sh := q - exp
  let n0 := if sh ≤ 0 then mag * 2 ^ (-sh).toNat else mag / 2 ^ sh.toNat
  let r := if sh ≤ 0 then 0 else mag % 2 ^ sh.toNat
  let inexact := r != 0 || sticky
  let half : Ordering :=
    if sh ≤ 0 then .lt
    else
      let h := 2 ^ (sh.toNat - 1)
      if r < h then .lt else if r = h ∧ !sticky then .eq else .gt
  let n := if roundsUp md neg (n0 % 2 == 1) inexact half then n0 + 1 else n0
  let code := ((q + f.man + f.bias - 1).toNat) * 2 ^ f.man + n
  if code > f.big then f.overflow md k neg
  else
    ((if neg then f.signBit else 0) + code,
      (if inexact then fNX else 0) + (if inexact && top < least then fUF else 0))

/-- A signed zero. -/
def Fmt.zero (f : Fmt) (neg : Bool) : Nat := if neg then f.signBit else 0
/-- A signed infinity; the NaN code with the sign in a format without one. -/
def Fmt.infinity (f : Fmt) (neg : Bool) : Nat := f.zero neg + f.inf.getD f.nan

/-- Round a finite value; an exact zero keeps the sign given. -/
def Fmt.ofFin (f : Fmt) (md : Dir) (k : OvKind) (neg : Bool) (mag : Nat) (exp : Int) : Nat × Nat :=
  if mag = 0 then (f.zero neg, 0) else f.round md k neg mag exp false

/-- NV when some operand is a signalling NaN. -/
def sigNV (vs : List FpVal) : Nat := if vs.any fun v => v == .nan true then fNV else 0

def FpVal.isNan : FpVal → Bool
  | .nan _ => true
  | _ => false

/-- Negation. -/
def FpVal.negate : FpVal → FpVal
  | .nan q => .nan q
  | .inf n => .inf !n
  | .fin n m e => .fin (!n) m e

/-- Exact product; none for 0 times infinity. -/
def FpVal.times : FpVal → FpVal → Option FpVal
  | .nan q, _ => some (.nan q)
  | _, .nan q => some (.nan q)
  | .inf n, .inf m => some (.inf (n != m))
  | .inf n, .fin m k _ => if k = 0 then none else some (.inf (n != m))
  | .fin m k _, .inf n => if k = 0 then none else some (.inf (n != m))
  | .fin n a e, .fin m b g => some (.fin (n != m) (a * b) (e + g))

/-- Sign of a term. -/
def FpVal.neg : FpVal → Bool
  | .nan _ => false
  | .inf n => n
  | .fin n _ _ => n

/-- Exact sum of finite terms as an integer multiple of a power of two. -/
def sumFin (ts : List FpVal) : Int × Int :=
  let e := ts.foldl (fun (e : Int) t => match t with | .fin _ m g => if m = 0 then e else min e g | _ => e) 4096
  (ts.foldl (fun (a : Int) t => match t with
    | .fin n m g => if m = 0 then a else a + (if n then -1 else 1) * ((m * 2 ^ (g - e).toNat : Nat) : Int)
    | _ => a) 0, e)

/-- The rounded sum of terms (05 R132, R134, R140): NaN and infinity first. -/
def Fmt.sum (f : Fmt) (md : Dir) (k : OvKind) (ts : List FpVal) : Nat × Nat :=
  if ts.any FpVal.isNan then (f.nan, sigNV ts)
  else if ts.contains (.inf true) && ts.contains (.inf false) then (f.nan, fNV)
  else if ts.contains (.inf true) then (f.infinity true, 0)
  else if ts.contains (.inf false) then (f.infinity false, 0)
  else
    let s := sumFin ts
    if s.1 = 0 then (f.zero (ts.all FpVal.neg), 0) else f.round md k (s.1 < 0) s.1.natAbs s.2 false

/-- FADD (05 R139). -/
def Fmt.add (f : Fmt) (a b : Nat) : Nat × Nat := f.sum .rn .plain [f.value a, f.value b]
/-- FSUB (05 R139). Its second term, for the sign of an exact zero, is −b: −0 − (−0) is +0 and −0 − (+0) is −0, where R134 says only that
a term is an operand (DESIGN CHOICE; log entry 53). -/
def Fmt.sub (f : Fmt) (a b : Nat) : Nat × Nat := f.sum .rn .plain [f.value a, (f.value b).negate]

/-- FMUL (05 R139). -/
def Fmt.mul (f : Fmt) (a b : Nat) : Nat × Nat :=
  let x := f.value a
  let y := f.value b
  if x.isNan || y.isNan then (f.nan, sigNV [x, y])
  else
    match x.times y with
    | none => (f.nan, fNV)
    | some (.inf n) => (f.infinity n, 0)
    | some (.fin n m e) => f.ofFin .rn .plain n m e
    | some (.nan _) => (f.nan, 0)

/-- A sum of products and an accumulator of format f (05 R139 FFMA, R140): products of values of any format. A NaN operand is tested
first, as R140 orders it for DOT: FFMA of 0 × ∞ and a quiet NaN sets no NV, which R139 leaves open (DESIGN CHOICE; log entry 52). -/
def Fmt.dot (f : Fmt) (k : OvKind) (acc : FpVal) (ps : List (FpVal × FpVal)) : Nat × Nat :=
  let ops := acc :: ps.flatMap fun p => [p.1, p.2]
  if ops.any FpVal.isNan then (f.nan, sigNV ops)
  else
    match ps.mapM fun p => p.1.times p.2 with
    | none => (f.nan, fNV)
    | some ts => f.sum .rn k (acc :: ts)

/-- FFMA (05 R139): a * b + d. -/
def Fmt.fma (f : Fmt) (k : OvKind) (a b d : Nat) : Nat × Nat := f.dot k (f.value d) [(f.value a, f.value b)]

/-- Order key of a code that is no NaN, with −0 below +0 (05 R141). -/
def Fmt.key (f : Fmt) (c : Nat) : Int :=
  if c / f.signBit % 2 = 1 then -((c % f.signBit : Nat) : Int) - 1 else ((c % f.signBit : Nat) : Int)

/-- FMIN and FMAX (05 R141). -/
def Fmt.minMax (f : Fmt) (isMax : Bool) (a b : Nat) : Nat × Nat :=
  let x := f.value a
  let y := f.value b
  let fl := sigNV [x, y]
  match x.isNan, y.isNan with
  | true, true => (f.nan, fl)
  | true, false => (b, fl)
  | false, true => (a, fl)
  | false, false => if isMax then (if f.key a ≥ f.key b then a else b, fl) else (if f.key a ≤ f.key b then a else b, fl)

/-! Roots and reciprocals (05 R142). -/

/-- Floor of the square root of a number below 4^n. -/
def isqrt (n v : Nat) : Nat :=
  (List.range n).foldl (fun r i =>
    let c := r + 2 ^ (n - 1 - i)
    if c * c ≤ v then c else r) 0

/-- FRCP. -/
def frcp32 (a : Nat) : Nat × Nat :=
  match f32.value a with
  | .nan q => (f32.nan, if q then fNV else 0)
  | .inf n => (f32.zero n, 0)
  | .fin n m e =>
    if m = 0 then (f32.infinity n, fDZ)
    else f32.round .rn .plain n (2 ^ 90 / m) (-90 - e) (2 ^ 90 % m != 0)

/-- The magnitude of a value with an even exponent. -/
def evenExp (m : Nat) (e : Int) : Nat × Int := if e % 2 = 0 then (m, e) else (2 * m, e - 1)

/-- FSQRT. -/
def fsqrt32 (a : Nat) : Nat × Nat :=
  match f32.value a with
  | .nan q => (f32.nan, if q then fNV else 0)
  | .inf n => if n then (f32.nan, fNV) else (f32.infinity false, 0)
  | .fin n m e =>
    if m = 0 then (f32.zero n, 0)
    else if n then (f32.nan, fNV)
    else
      let p := evenExp m e
      let v := p.1 * 2 ^ 80
      let r := isqrt 53 v
      f32.round .rn .plain false r (p.2 / 2 - 40) (r * r != v)

/-- FRSQ. -/
def frsq32 (a : Nat) : Nat × Nat :=
  match f32.value a with
  | .nan q => (f32.nan, if q then fNV else 0)
  | .inf n => if n then (f32.nan, fNV) else (f32.zero false, 0)
  | .fin n m e =>
    if m = 0 then (f32.infinity n, fDZ)
    else if n then (f32.nan, fNV)
    else
      let p := evenExp m e
      let r := isqrt 61 (2 ^ 120 / p.1)
      f32.round .rn .plain false r (-60 - p.2 / 2) (r * r * p.1 != 2 ^ 120)

/-! Exponential, logarithm, sine and cosine: fixed-point series far beyond the precision of a binary32 tie (log entry 24). -/

/-- ln 2 times 2^300. -/
def ln2Fix : Nat := 0xb17217f7d1cf79abc9e3b39803f2f6af40f343267298b62d8a0d175b8baafa2be7b876206de
/-- Pi times 2^420. -/
def piFix : Nat :=
  0x3243f6a8885a308d313198a2e03707344a4093822299f31d0082efa98ec4e6c89452821e638d01377be5466cf34e90c6cc0ac29b7c

/-- The sum of x^k / k! for k below n, in units of 2^-w, from the current term and index. -/
def expSeries (w x : Nat) : Nat → Nat → Nat → Nat
  | 0, _, _ => 0
  | n + 1, k, t => t + expSeries w x n (k + 1) (t * x / 2 ^ w / (k + 1))

/-- The sum of u^(2k+1) / (2k+1) for k below n, in units of 2^-w: the inverse hyperbolic tangent. -/
def atanhSeries (w u2 : Nat) : Nat → Nat → Nat → Nat
  | 0, _, _ => 0
  | n + 1, k, p => p / (2 * k + 1) + atanhSeries w u2 n (k + 1) (p * u2 / 2 ^ w)

/-- The alternating series of the sine, in units of 2^-w, from the current term. -/
def sinSeries (w x2 : Nat) : Nat → Nat → Nat → Int
  | 0, _, _ => 0
  | n + 1, k, t => (t : Int) - sinSeries w x2 n (k + 1) (t * x2 / 2 ^ w / ((2 * k + 2) * (2 * k + 3)))

/-- A finite value as an integer multiple of 2^-200, exact for every binary32 value. -/
def fix200 (neg : Bool) (m : Nat) (e : Int) : Int :=
  (if neg then -1 else 1) * ((m * 2 ^ (e + 200).toNat : Nat) : Int)

/-- FEXP2. -/
def fexp232 (a : Nat) : Nat × Nat :=
  match f32.value a with
  | .nan q => (f32.nan, if q then fNV else 0)
  | .inf n => if n then (f32.zero false, 0) else (f32.infinity false, 0)
  | .fin n m e =>
    let big := m != 0 && (Nat.log2 m : Int) + e ≥ 9
    if big && !n then f32.overflow .rn .plain false
    else if big && n then (f32.zero false, fNX + fUF)
    else
      let v := fix200 n m e
      let i := v / (2 ^ 200 : Int)
      let fr := (v % (2 ^ 200 : Int)).toNat
      if fr = 0 then f32.round .rn .plain false 1 i false
      else f32.round .rn .plain false (expSeries 256 (fr * ln2Fix / 2 ^ 244) 70 0 (2 ^ 256)) (i - 256) true

/-- FLOG2. -/
def flog232 (a : Nat) : Nat × Nat :=
  match f32.value a with
  | .nan q => (f32.nan, if q then fNV else 0)
  | .inf n => if n then (f32.nan, fNV) else (f32.infinity false, 0)
  | .fin n m e =>
    if m = 0 then (f32.infinity true, fDZ)
    else if n then (f32.nan, fNV)
    else
      let l := Nat.log2 m
      let i : Int := (l : Int) + e
      if m = 2 ^ l then f32.ofFin .rn .plain (i < 0) i.natAbs 0
      else
        let u := (m - 2 ^ l) * 2 ^ 256 / (m + 2 ^ l)
        let ln := 2 * atanhSeries 256 (u * u / 2 ^ 256) 90 0 u
        let v : Int := i * (2 ^ 256 : Int) + ((ln * 2 ^ 300 / ln2Fix : Nat) : Int)
        f32.round .rn .plain (v < 0) v.natAbs (-256) true

/-- sin(pi * r / 2^200) for r from 0 to 2^199, in units of 2^-400. -/
def sinFix (r : Nat) : Nat :=
  let x := r * piFix / 2 ^ 220
  (sinSeries 400 (x * x / 2 ^ 400) 48 0 x).toNat

/-- Rounded (-1)^neg * sin(pi * r / 2^200) for r below 2^200. -/
def sinRound (neg : Bool) (r : Nat) : Nat × Nat :=
  let q := if r > 2 ^ 199 then 2 ^ 200 - r else r
  if q = 0 then (f32.zero neg, 0)
  else if q = 2 ^ 199 then f32.round .rn .plain neg 1 0 false
  else f32.round .rn .plain neg (sinFix q) (-400) true

/-- FSIN. -/
def fsin32 (a : Nat) : Nat × Nat :=
  match f32.value a with
  | .nan q => (f32.nan, if q then fNV else 0)
  | .inf _ => (f32.nan, fNV)
  | .fin n m e =>
    let r := (m * 2 ^ (e + 200).toNat) % 2 ^ 201
    if r % 2 ^ 200 = 0 then (f32.zero n, 0)
    else sinRound (n != (r ≥ 2 ^ 200 : Bool)) (r % 2 ^ 200)

/-- FCOS. -/
def fcos32 (a : Nat) : Nat × Nat :=
  match f32.value a with
  | .nan q => (f32.nan, if q then fNV else 0)
  | .inf _ => (f32.nan, fNV)
  | .fin _ m e =>
    let r := (m * 2 ^ (e + 200).toNat + 2 ^ 199) % 2 ^ 201
    if r % 2 ^ 200 = 0 then (f32.zero false, 0) else sinRound (r ≥ 2 ^ 200) (r % 2 ^ 200)

/-- The integer nearest a finite value in a direction (05 R145), and whether it is inexact. -/
def toInteger (md : Dir) (neg : Bool) (m : Nat) (e : Int) : Int × Bool :=
  let sg (k : Nat) : Int := if neg then -(k : Int) else k
  if e ≥ 0 then (sg (m * 2 ^ e.toNat), false)
  else
    let sh := (-e).toNat
    let n0 := m / 2 ^ sh
    let r := m % 2 ^ sh
    let half : Ordering := if 2 * r < 2 ^ sh then .lt else if 2 * r = 2 ^ sh then .eq else .gt
    (sg (if roundsUp md neg (n0 % 2 == 1) (r != 0) half then n0 + 1 else n0), r != 0)

/-- FRND (05 R142). -/
def frnd32 (md : Dir) (a : Nat) : Nat × Nat :=
  match f32.value a with
  | .nan q => (f32.nan, if q then fNV else 0)
  | .inf n => (f32.infinity n, 0)
  | .fin n m e => let r := (toInteger md n m e).1; ((f32.ofFin .rn .plain n r.natAbs 0).1, 0)

/-- One element of FCVT (05 R144). -/
def convert (src dst : Fmt) (md : Dir) (sat : Bool) (c : Nat) : Nat × Nat :=
  match src.value c with
  | .nan q => (dst.nan, if q then fNV else 0)
  | .inf n =>
    if sat then (dst.zero n + dst.big, fSAT)
    else if dst.inf.isSome then (dst.infinity n, 0)
    else (dst.infinity n, fNV)
  | .fin n m e => dst.ofFin md (if sat then .sat else .plain) n m e

/-- FCVTI of a value to an integer range (05 R145). -/
def toIntType (md : Dir) (lo hi : Int) (c : Nat) : Int × Nat :=
  match f32.value c with
  | .nan _ => (0, fNV)
  | .inf n => (if n then lo else hi, fNV)
  | .fin n m e =>
    let r := toInteger md n m e
    if r.1 < lo then (lo, fNV) else if r.1 > hi then (hi, fNV) else (r.1, if r.2 then fNX else 0)

/-- ICVTF of an integer (05 R146). -/
def ofInteger (md : Dir) (v : Int) : Nat × Nat := f32.ofFin md .plain (v < 0) v.natAbs 0

end Sys2Proof.Machine
end

