-- ==== Sys2Proof/Machine/Flags.lean ====
section
/-! DEFINITION. Predicates and status bits: the conditions of SETP and SCMP (02_encoding.md R56, 04_integer.md R117, R124),
carry and borrow (04 R111), and the sticky bits of FPSTAT (05_float.md R136). -/

namespace Sys2Proof.Machine

/-- Is a binary32 pattern a NaN (05 R126)? -/
def isNan32 (w : Word) : Bool := w.toNat / 2 ^ 23 % 256 == 255 && w.toNat % 2 ^ 23 != 0

/-- Order key of a binary32 pattern that is no NaN: −0 and +0 are equal (04 R117). -/
def key32 (w : Word) : Int :=
  let m : Nat := w.toNat % 2 ^ 31
  if w.toNat / 2 ^ 31 = 1 then -(m : Int) else (m : Int)

/-- Low halfword. -/
def halfLo (w : Word) : BitVec 16 := w.truncate 16
/-- High halfword. -/
def halfHi (w : Word) : BitVec 16 := (w >>> 16).truncate 16
/-- A word of two halfwords. -/
def halves (hi lo : BitVec 16) : Word := hi ++ lo

/-- A comparison that orders two integers. -/
inductive Rel where | eq | ne | lt | le | gt | ge
deriving DecidableEq, Repr

def Rel.holds (r : Rel) (x y : Int) : Bool :=
  match r with
  | .eq => x == y
  | .ne => x != y
  | .lt => x < y
  | .le => x ≤ y
  | .gt => x > y
  | .ge => x ≥ y

/-- A float comparison: false on a NaN, except .ne (04 R117). -/
def Rel.holdsF (r : Rel) (x y : Word) : Bool :=
  if isNan32 x || isNan32 y then r == .ne else r.holds (key32 x) (key32 y)

/-- Comparison signed on halfwords; the low and the high result. -/
def Rel.onHalves (r : Rel) (a b : Word) : Bool × Bool :=
  (r.holds (halfLo a).toInt (halfLo b).toInt, r.holds (halfHi a).toInt (halfHi b).toInt)

/-- Comparison unsigned on halfwords. -/
def Rel.onHalvesW (r : Rel) (a b : Word) : Bool × Bool :=
  (r.holds (halfLo a).toNat (halfLo b).toNat, r.holds (halfHi a).toNat (halfHi b).toNat)

/-- The results of a SETP condition: for pd, and for pd + 1 when the condition is packed (02 R56). -/
def evalCond (c : Cond) (a b : Word) : Bool × Option Bool :=
  let s (r : Rel) : Bool × Option Bool := (r.holds a.toInt b.toInt, none)
  let u (r : Rel) : Bool × Option Bool := (r.holds a.toNat b.toNat, none)
  let p (r : Rel) : Bool × Option Bool := let q := r.onHalves a b; (q.1, some q.2)
  let pw (r : Rel) : Bool × Option Bool := let q := r.onHalvesW a b; (q.1, some q.2)
  let f (r : Rel) : Bool × Option Bool := (r.holdsF a b, none)
  match c with
  | .eq => s .eq | .ne => s .ne | .ltI => s .lt | .leI => s .le | .gtI => s .gt | .geI => s .ge
  | .ltW => u .lt | .leW => u .le | .gtW => u .gt | .geW => u .ge
  | .eqP => p .eq | .neP => p .ne | .ltP => p .lt | .leP => p .le | .gtP => p .gt | .geP => p .ge
  | .ltPW => pw .lt | .lePW => pw .le | .gtPW => pw .gt | .gePW => pw .ge
  | .eqF => f .eq | .neF => f .ne | .ltF => f .lt | .leF => f .le | .gtF => f .gt | .geF => f .ge
  | .nanF => (isNan32 a || isNan32 b, none)

/-- The result of an SCMP condition on the values of its width (04 R124). -/
def evalSCond (c : SCond) (a b : DWord) : Bool :=
  let lo (d : DWord) : Word := loWord d
  match c with
  | .eq => lo a == lo b
  | .ne => lo a != lo b
  | .ltI => (lo a).toInt < (lo b).toInt
  | .leI => (lo a).toInt ≤ (lo b).toInt
  | .ltW => (lo a).toNat < (lo b).toNat
  | .leW => (lo a).toNat ≤ (lo b).toNat
  | .eq64 => a == b
  | .ne64 => a != b
  | .ltI64 => a.toInt < b.toInt
  | .leI64 => a.toInt ≤ b.toInt
  | .ltW64 => a.toNat < b.toNat
  | .leW64 => a.toNat ≤ b.toNat

/-- Carry out of an addition with carry in (04 R111 ADDC). -/
def carryOut (a b : Word) (c : Bool) : Bool := a.toNat + b.toNat + c.toNat ≥ 2 ^ 32

/-- Borrow out of a subtraction with borrow in (04 R111 SUBB). -/
def borrowOut (a b : Word) (c : Bool) : Bool := a.toNat < b.toNat + c.toNat

end Sys2Proof.Machine
end

