-- ==== Sys2Proof/Machine/Integer.lean ====
section
/-! DEFINITION. Lane integer and address instructions (04_integer.md R107 to R119). -/

namespace Sys2Proof.Machine

/-- An instruction of one source: d and x receive f of it (04 R107). -/
def lane1 (i : Instr) (d a : LReg) (f : Word → Word) : State → Host.Outcome State Fault Refusal :=
  laneExec i (laneFall fun b t => do
    let x ← src b t a
    result b t d (f x))

/-- An instruction of two sources. -/
def lane2 (i : Instr) (d a c : LReg) (f : Word → Word → Word) : State → Host.Outcome State Fault Refusal :=
  laneExec i (laneFall fun b t => do
    let x ← src b t a
    let y ← src b t c
    result b t d (f x y))

/-- An instruction of two sources that reads its destination too. -/
def lane3 (i : Instr) (d a c : LReg) (f : Word → Word → Word → Word) : State → Host.Outcome State Fault Refusal :=
  laneExec i (laneFall fun b t => do
    let x ← src b t a
    let y ← src b t c
    let z ← src b t d
    result b t d (f x y z))

/-! Functions on words. -/

/-- Signed saturation to n bits (00 R9). -/
def satS (v : Int) (n : Nat) : Int :=
  let hi : Int := 2 ^ (n - 1) - 1
  let lo : Int := -(2 ^ (n - 1))
  if v > hi then hi else if v < lo then lo else v

/-- Unsigned saturation to n bits (00 R9). -/
def satU (v : Int) (n : Nat) : Int :=
  let hi : Int := 2 ^ n - 1
  if v > hi then hi else if v < 0 then 0 else v

/-- The word of an integer, modulo 2^32. -/
abbrev wi (v : Int) : Word := BitVec.ofInt 32 v

/-- Number of 1 bits. -/
def popCount (w : Word) : Nat := ((List.range 32).filter w.getLsbD).length
/-- Number of leading zeros; 32 for 0. -/
def leadZeros (w : Word) : Nat := ((List.range 32).map fun i => w.getLsbD (31 - i)).findIdx id
/-- Number of trailing zeros; 32 for 0. -/
def trailZeros (w : Word) : Nat := ((List.range 32).map w.getLsbD).findIdx id
/-- The bits in reverse order. -/
def bitReverse (w : Word) : Word :=
  w32 ((List.range 32).foldl (fun n i => n + if w.getLsbD i then 2 ^ (31 - i) else 0) 0)

/-- SHL of 04 R112. -/
def shlW (a b : Word) : Word := if b.toNat ≥ 32 then 0 else w32 (a.toNat * 2 ^ b.toNat)
/-- SHR of 04 R112. -/
def shrW (a b : Word) : Word := if b.toNat ≥ 32 then 0 else w32 (a.toNat / 2 ^ b.toNat)
/-- SAR of 04 R112. -/
def sarW (a b : Word) : Word :=
  if b.toNat ≥ 32 then (if a.toInt < 0 then 0xFFFFFFFF else 0) else wi (a.toInt / 2 ^ b.toNat)
/-- FSHL of 04 R113. -/
def fshlW (a b d : Word) : Word := hiWord ((pairOf a d) <<< (b.toNat % 64))
/-- FSHR of 04 R113. -/
def fshrW (a b d : Word) : Word := loWord ((pairOf d a) >>> (b.toNat % 64))
/-- ROTL of 04 R113. -/
def rotlW (a b : Word) : Word := hiWord ((pairOf a a) <<< (b.toNat % 32))

/-- The length of a BFX or BFI control word (04 R114). -/
def bfLen (b : Word) : Nat := Nat.min (field b.toNat 8 6) 32

/-- BFX of 04 R114. -/
def bfxW (a b : Word) : Word :=
  let m := bfLen b
  let f := a.toNat / 2 ^ (b.toNat % 32) % 2 ^ m
  if b.getLsbD 15 && m > 0 then wi (sextNat m f) else w32 f

/-- BFI of 04 R114. -/
def bfiW (a b d : Word) : Word :=
  let pos := b.toNat % 32
  let mask := w32 ((2 ^ bfLen b - 1) * 2 ^ pos)
  (d &&& ~~~mask) ||| (w32 (a.toNat * 2 ^ pos) &&& mask)

/-- Byte k of a number. -/
def byteAt (n k : Nat) : Nat := n / 256 ^ k % 256

/-- One byte of PRMT (04 R115): its code, and the result byte below, none for byte 0. -/
def prmtByte (src8 c : Nat) (below : Option Nat) : Nat :=
  if c < 8 then byteAt src8 c
  else if c = 9 then 0xFF
  else if c = 10 then (match below with | some v => if v ≥ 128 then 0xFF else 0 | none => 0)
  else if c = 11 then below.getD 0
  else 0

/-- PRMT of 04 R115. -/
def prmtW (a b d : Word) : Word :=
  let src8 := (pairOf a b).toNat
  let r0 := prmtByte src8 (field d.toNat 0 4) none
  let r1 := prmtByte src8 (field d.toNat 4 4) (some r0)
  let r2 := prmtByte src8 (field d.toNat 8 4) (some r1)
  let r3 := prmtByte src8 (field d.toNat 12 4) (some r2)
  w32 (r0 + 256 * r1 + 65536 * r2 + 16777216 * r3)

/-- SAD of 04 R111. -/
def sadW (a b d : Word) : Word :=
  w32 (d.toNat + ((List.range 4).map fun i =>
    let x := byteAt a.toNat i
    let y := byteAt b.toNat i
    if x ≥ y then x - y else y - x).sum)

/-- An operation on the two halfwords of its operands (04 R119), as integers kept modulo 2^16. -/
def onHalves (f : BitVec 16 → BitVec 16 → Int) (a b : Word) : Word :=
  halves (BitVec.ofInt 16 (f (halfHi a) (halfHi b))) (BitVec.ofInt 16 (f (halfLo a) (halfLo b)))

/-! The unary group (04 R110). -/

/-- MOV. -/
def execMov (d a : LReg) (s : State) : Host.Outcome State Fault Refusal := lane1 (.mov d a) d a id s
/-- NEG. -/
def execNeg (d a : LReg) (s : State) : Host.Outcome State Fault Refusal := lane1 (.neg d a) d a (fun x => -x) s
/-- NEG.sat.i32. -/
def execNegSatI32 (d a : LReg) (s : State) : Host.Outcome State Fault Refusal :=
  lane1 (.negSatI32 d a) d a (fun x => wi (satS (-x.toInt) 32)) s
/-- ABS. -/
def execAbs (d a : LReg) (s : State) : Host.Outcome State Fault Refusal :=
  lane1 (.abs d a) d a (fun x => w32 x.toInt.natAbs) s
/-- ABS.sat.i32. -/
def execAbsSatI32 (d a : LReg) (s : State) : Host.Outcome State Fault Refusal :=
  lane1 (.absSatI32 d a) d a (fun x => wi (satS x.toInt.natAbs 32)) s
/-- NOT. -/
def execNot (d a : LReg) (s : State) : Host.Outcome State Fault Refusal := lane1 (.not d a) d a (fun x => ~~~x) s
/-- POPC. -/
def execPopc (d a : LReg) (s : State) : Host.Outcome State Fault Refusal :=
  lane1 (.popc d a) d a (fun x => w32 (popCount x)) s
/-- CLZ. -/
def execClz (d a : LReg) (s : State) : Host.Outcome State Fault Refusal :=
  lane1 (.clz d a) d a (fun x => w32 (leadZeros x)) s
/-- CTZ. -/
def execCtz (d a : LReg) (s : State) : Host.Outcome State Fault Refusal :=
  lane1 (.ctz d a) d a (fun x => w32 (trailZeros x)) s
/-- BREV. -/
def execBrev (d a : LReg) (s : State) : Host.Outcome State Fault Refusal := lane1 (.brev d a) d a bitReverse s
/-- CVTI.i8. -/
def execCvtiI8 (d a : LReg) (s : State) : Host.Outcome State Fault Refusal :=
  lane1 (.cvtiI8 d a) d a (fun x => wi (sextNat 8 x.toNat)) s
/-- CVTI.w8. -/
def execCvtiW8 (d a : LReg) (s : State) : Host.Outcome State Fault Refusal :=
  lane1 (.cvtiW8 d a) d a (fun x => w32 (x.toNat % 256)) s
/-- CVTI.i16. -/
def execCvtiI16 (d a : LReg) (s : State) : Host.Outcome State Fault Refusal :=
  lane1 (.cvtiI16 d a) d a (fun x => wi (sextNat 16 x.toNat)) s
/-- CVTI.w16. -/
def execCvtiW16 (d a : LReg) (s : State) : Host.Outcome State Fault Refusal :=
  lane1 (.cvtiW16 d a) d a (fun x => w32 (x.toNat % 65536)) s

/-- A pair result of one source; x receives its low word (04 R107). -/
def lanePair (i : Instr) (d a : LReg) (f : Word → DWord) : State → Host.Outcome State Fault Refusal :=
  laneExec i (laneFall fun b t => do
    let x ← src b t a
    result2 b t d (f x))

/-- CVTI.i64. -/
def execCvtiI64 (d a : LReg) (s : State) : Host.Outcome State Fault Refusal :=
  lanePair (.cvtiI64 d a) d a (fun x => x.signExtend 64) s
/-- CVTI.w64. -/
def execCvtiW64 (d a : LReg) (s : State) : Host.Outcome State Fault Refusal :=
  lanePair (.cvtiW64 d a) d a (fun x => x.zeroExtend 64) s
/-- CVTI.sat.i8. -/
def execCvtiSatI8 (d a : LReg) (s : State) : Host.Outcome State Fault Refusal :=
  lane1 (.cvtiSatI8 d a) d a (fun x => wi (satS x.toInt 8)) s
/-- CVTI.sat.w8. -/
def execCvtiSatW8 (d a : LReg) (s : State) : Host.Outcome State Fault Refusal :=
  lane1 (.cvtiSatW8 d a) d a (fun x => wi (satU x.toInt 8)) s
/-- CVTI.sat.i16. -/
def execCvtiSatI16 (d a : LReg) (s : State) : Host.Outcome State Fault Refusal :=
  lane1 (.cvtiSatI16 d a) d a (fun x => wi (satS x.toInt 16)) s
/-- CVTI.sat.w16. -/
def execCvtiSatW16 (d a : LReg) (s : State) : Host.Outcome State Fault Refusal :=
  lane1 (.cvtiSatW16 d a) d a (fun x => wi (satU x.toInt 16)) s
/-- CVTI.sat.w32. -/
def execCvtiSatW32 (d a : LReg) (s : State) : Host.Outcome State Fault Refusal :=
  lane1 (.cvtiSatW32 d a) d a (fun x => wi (satU x.toInt 32)) s
/-- CVTI.sat.i32: the source is a pair. -/
def execCvtiSatI32 (d a : LReg) (s : State) : Host.Outcome State Fault Refusal :=
  laneExec (.cvtiSatI32 d a) (laneFall fun b t => do
    let x ← src2 b t a
    result b t d (wi (satS x.toInt 32))) s
/-- SETV. -/
def execSetv (d : LReg) (p : Fin 8) (s : State) : Host.Outcome State Fault Refusal :=
  laneExec (.setv d p) (laneFall fun b t => do
    let v ← getPred b t p.val
    result b t d (if v then 0xFFFFFFFF else 0)) s

/-! Arithmetic (04 R111). -/

/-- ADD. -/
def execAdd (d a b : LReg) (s : State) : Host.Outcome State Fault Refusal := lane2 (.add d a b) d a b (· + ·) s
/-- SUB. -/
def execSub (d a b : LReg) (s : State) : Host.Outcome State Fault Refusal := lane2 (.sub d a b) d a b (· - ·) s
/-- ADDC: p7 is carry in and out. With d zero x is written too, as R111's pseudocode and 02_encoding.md R41 say, where R111's prose names p7
alone; SUBB likewise (DESIGN CHOICE; log entry 51). -/
def execAddc (d a b : LReg) (s : State) : Host.Outcome State Fault Refusal :=
  laneExec (.addc d a b) (laneFall fun k t => do
    let x ← src k t a
    let y ← src k t b
    let c ← getPred k t 7
    result k t d (w32 (x.toNat + y.toNat + c.toNat))
    setPred k t 7 (carryOut x y c)) s
/-- SUBB: p7 is borrow in and out. -/
def execSubb (d a b : LReg) (s : State) : Host.Outcome State Fault Refusal :=
  laneExec (.subb d a b) (laneFall fun k t => do
    let x ← src k t a
    let y ← src k t b
    let c ← getPred k t 7
    result k t d (wi ((x.toNat : Int) - y.toNat - c.toNat))
    setPred k t 7 (borrowOut x y c)) s
/-- MULLO. -/
def execMullo (d a b : LReg) (s : State) : Host.Outcome State Fault Refusal := lane2 (.mullo d a b) d a b (· * ·) s
/-- MULHI.i32. -/
def execMulhiI32 (d a b : LReg) (s : State) : Host.Outcome State Fault Refusal :=
  lane2 (.mulhiI32 d a b) d a b (fun x y => wi (x.toInt * y.toInt / 2 ^ 32)) s
/-- MULHI.w32. -/
def execMulhiW32 (d a b : LReg) (s : State) : Host.Outcome State Fault Refusal :=
  lane2 (.mulhiW32 d a b) d a b (fun x y => w32 (x.toNat * y.toNat / 2 ^ 32)) s
/-- MAD. -/
def execMad (d a b : LReg) (s : State) : Host.Outcome State Fault Refusal :=
  lane3 (.mad d a b) d a b (fun x y z => x * y + z) s
/-- MIN.i32. -/
def execMinI32 (d a b : LReg) (s : State) : Host.Outcome State Fault Refusal :=
  lane2 (.minI32 d a b) d a b (fun x y => if x.toInt ≤ y.toInt then x else y) s
/-- MIN.w32. -/
def execMinW32 (d a b : LReg) (s : State) : Host.Outcome State Fault Refusal :=
  lane2 (.minW32 d a b) d a b (fun x y => if x.toNat ≤ y.toNat then x else y) s
/-- MAX.i32. -/
def execMaxI32 (d a b : LReg) (s : State) : Host.Outcome State Fault Refusal :=
  lane2 (.maxI32 d a b) d a b (fun x y => if x.toInt ≥ y.toInt then x else y) s
/-- MAX.w32. -/
def execMaxW32 (d a b : LReg) (s : State) : Host.Outcome State Fault Refusal :=
  lane2 (.maxW32 d a b) d a b (fun x y => if x.toNat ≥ y.toNat then x else y) s
/-- SAD. -/
def execSad (d a b : LReg) (s : State) : Host.Outcome State Fault Refusal := lane3 (.sad d a b) d a b sadW s

/-! Logic, shifts, fields (04 R112 to R116). -/

/-- AND. -/
def execAnd (d a b : LReg) (s : State) : Host.Outcome State Fault Refusal := lane2 (.and d a b) d a b (· &&& ·) s
/-- OR. -/
def execOr (d a b : LReg) (s : State) : Host.Outcome State Fault Refusal := lane2 (.or d a b) d a b (· ||| ·) s
/-- XOR. -/
def execXor (d a b : LReg) (s : State) : Host.Outcome State Fault Refusal := lane2 (.xor d a b) d a b (· ^^^ ·) s
/-- ANDN. -/
def execAndn (d a b : LReg) (s : State) : Host.Outcome State Fault Refusal :=
  lane2 (.andn d a b) d a b (fun x y => x &&& ~~~y) s
/-- SHL. -/
def execShl (d a b : LReg) (s : State) : Host.Outcome State Fault Refusal := lane2 (.shl d a b) d a b shlW s
/-- SHR. -/
def execShr (d a b : LReg) (s : State) : Host.Outcome State Fault Refusal := lane2 (.shr d a b) d a b shrW s
/-- SAR. -/
def execSar (d a b : LReg) (s : State) : Host.Outcome State Fault Refusal := lane2 (.sar d a b) d a b sarW s
/-- FSHL. -/
def execFshl (d a b : LReg) (s : State) : Host.Outcome State Fault Refusal := lane3 (.fshl d a b) d a b fshlW s
/-- FSHR. -/
def execFshr (d a b : LReg) (s : State) : Host.Outcome State Fault Refusal := lane3 (.fshr d a b) d a b fshrW s
/-- ROTL. -/
def execRotl (d a b : LReg) (s : State) : Host.Outcome State Fault Refusal := lane2 (.rotl d a b) d a b rotlW s
/-- BFX. -/
def execBfx (d a b : LReg) (s : State) : Host.Outcome State Fault Refusal := lane2 (.bfx d a b) d a b bfxW s
/-- BFI. -/
def execBfi (d a b : LReg) (s : State) : Host.Outcome State Fault Refusal := lane3 (.bfi d a b) d a b bfiW s
/-- PRMT. -/
def execPrmt (d a b : LReg) (s : State) : Host.Outcome State Fault Refusal := lane3 (.prmt d a b) d a b prmtW s
/-- SEL. -/
def execSel (d a b : LReg) (s : State) : Host.Outcome State Fault Refusal :=
  lane3 (.sel d a b) d a b (fun x y z => if z != 0 then x else y) s
/-- SETP (04 R117): predicates only. -/
def execSetp (p : Fin 8) (cond : Cond) (a b : LReg) (s : State) : Host.Outcome State Fault Refusal :=
  laneExec (.setp p cond a b) (laneFall fun k t => do
    let x ← src k t a
    let y ← src k t b
    let r := evalCond cond x y
    setPred k t p.val r.1
    match r.2 with
    | some h => setPred k t (p.val + 1) h
    | none => pure ()) s

/-! Moves and addresses (04 R118). -/

/-- MOVI. -/
def execMovi (d : LReg) (imm : BitVec 16) (s : State) : Host.Outcome State Fault Refusal :=
  laneExec (.movi d imm) (laneFall fun b t => result b t d (imm.signExtend 32)) s
/-- LIT. -/
def execLit (d : LReg) (lit : Word) (s : State) : Host.Outcome State Fault Refusal :=
  laneExec (.lit d lit) (laneFall fun b t => result b t d lit) s
/-- LEA: a pair plus a signed word. -/
def execLea (d a b : LReg) (s : State) : Host.Outcome State Fault Refusal :=
  laneExec (.lea d a b) (laneFall fun k t => do
    let x ← src2 k t a
    let y ← src k t b
    result2 k t d (x + y.signExtend 64)) s

/-! Packed halfwords (04 R119). -/

/-- ADD.i16x2. -/
def execAddI16x2 (d a b : LReg) (s : State) : Host.Outcome State Fault Refusal :=
  lane2 (.addI16x2 d a b) d a b (onHalves fun x y => (x.toNat : Int) + y.toNat) s
/-- SUB.i16x2. -/
def execSubI16x2 (d a b : LReg) (s : State) : Host.Outcome State Fault Refusal :=
  lane2 (.subI16x2 d a b) d a b (onHalves fun x y => (x.toNat : Int) - y.toNat) s
/-- ADD.sat.i16x2. -/
def execAddSatI16x2 (d a b : LReg) (s : State) : Host.Outcome State Fault Refusal :=
  lane2 (.addSatI16x2 d a b) d a b (onHalves fun x y => satS (x.toInt + y.toInt) 16) s
/-- SUB.sat.i16x2. -/
def execSubSatI16x2 (d a b : LReg) (s : State) : Host.Outcome State Fault Refusal :=
  lane2 (.subSatI16x2 d a b) d a b (onHalves fun x y => satS (x.toInt - y.toInt) 16) s
/-- MIN.i16x2. -/
def execMinI16x2 (d a b : LReg) (s : State) : Host.Outcome State Fault Refusal :=
  lane2 (.minI16x2 d a b) d a b (onHalves fun x y => min x.toInt y.toInt) s
/-- MAX.i16x2. -/
def execMaxI16x2 (d a b : LReg) (s : State) : Host.Outcome State Fault Refusal :=
  lane2 (.maxI16x2 d a b) d a b (onHalves fun x y => max x.toInt y.toInt) s
/-- MIN.w16x2. -/
def execMinW16x2 (d a b : LReg) (s : State) : Host.Outcome State Fault Refusal :=
  lane2 (.minW16x2 d a b) d a b (onHalves fun x y => (min x.toNat y.toNat : Nat)) s
/-- MAX.w16x2. -/
def execMaxW16x2 (d a b : LReg) (s : State) : Host.Outcome State Fault Refusal :=
  lane2 (.maxW16x2 d a b) d a b (onHalves fun x y => (max x.toNat y.toNat : Nat)) s
/-- MAD.i16x2. -/
def execMadI16x2 (d a b : LReg) (s : State) : Host.Outcome State Fault Refusal :=
  lane3 (.madI16x2 d a b) d a b (fun x y z =>
    halves (halfHi x * halfHi y + halfHi z) (halfLo x * halfLo y + halfLo z)) s

end Sys2Proof.Machine
end

