-- ==== Sys2Proof/Machine/Float.lean ====
section
/-! DEFINITION. Lane floating-point and conversion instructions (05_float.md R135 to R147). -/

namespace Sys2Proof.Machine

/-- Set sticky bits of FPSTAT (R136). -/
def orFp (b t fl : Nat) : M Unit := updT b t fun th => { th with fpstat := th.fpstat ||| w32 fl }

/-- A result with its flags. -/
def fpResult (b t : Nat) (d : LReg) (r : Nat × Nat) : M Unit := do
  result b t d (w32 r.1)
  orFp b t r.2

/-- An instruction of one source. -/
def float1 (i : Instr) (d a : LReg) (f : Nat → Nat × Nat) : State → Host.Outcome State Fault Refusal :=
  laneExec i (laneFall fun b t => do
    let x ← src b t a
    fpResult b t d (f x.toNat))

/-- An instruction of two sources. -/
def float2 (i : Instr) (d a c : LReg) (f : Nat → Nat → Nat × Nat) : State → Host.Outcome State Fault Refusal :=
  laneExec i (laneFall fun b t => do
    let x ← src b t a
    let y ← src b t c
    fpResult b t d (f x.toNat y.toNat))

/-- An instruction of two sources that reads its destination too. -/
def float3 (i : Instr) (d a c : LReg) (f : Nat → Nat → Nat → Nat × Nat) : State → Host.Outcome State Fault Refusal :=
  laneExec i (laneFall fun b t => do
    let x ← src b t a
    let y ← src b t c
    let z ← src b t d
    fpResult b t d (f x.toNat y.toNat z.toNat))

/-- A two-address instruction: d is the first source and a the second (R138). -/
def floatTwoAddr (i : Instr) (d a : LReg) (f : Nat → Nat → Nat × Nat) : State → Host.Outcome State Fault Refusal :=
  laneExec i (laneFall fun b t => do
    let y ← src b t a
    let x ← src b t d
    fpResult b t d (f x.toNat y.toNat))

/-- Element k of w bits of a packed word. -/
def elem (w n k : Nat) : Nat := n / 2 ^ (w * k) % 2 ^ w

/-- Elements of w bits packed, with the union of their flags (R136). -/
def packed (w : Nat) (rs : List (Nat × Nat)) : Nat × Nat :=
  (rs.foldr (fun r n => r.1 + 2 ^ w * n) 0, rs.foldl (fun n r => n ||| r.2) 0)

/-- An operation on both halfword elements. -/
def onH2 (f : Nat → Nat → Nat × Nat) (x y : Nat) : Nat × Nat :=
  packed 16 ((List.range 2).map fun k => f (elem 16 x k) (elem 16 y k))

/-- A ternary operation on both halfword elements. -/
def onH3 (f : Nat → Nat → Nat → Nat × Nat) (x y z : Nat) : Nat × Nat :=
  packed 16 ((List.range 2).map fun k => f (elem 16 x k) (elem 16 y k) (elem 16 z k))

/-- The products of the elements of two packed words (R140). -/
def products (f : Fmt) (w n x y : Nat) : List (FpVal × FpVal) :=
  (List.range n).map fun k => (f.value (elem w x k), f.value (elem w y k))

/-- The direction of a rounding field (R132). -/
def dirOf : Rnd → Dir
  | .rn => .rn
  | .rz => .rz
  | .rd => .rd
  | .ru => .ru

/-- FADD.f32 (R139). -/
def execFaddF32 (d a b : LReg) (s : State) : Host.Outcome State Fault Refusal :=
  float2 (.faddF32 d a b) d a b f32.add s
/-- FSUB.f32 (R139). -/
def execFsubF32 (d a b : LReg) (s : State) : Host.Outcome State Fault Refusal :=
  float2 (.fsubF32 d a b) d a b f32.sub s
/-- FMUL.f32 (R139). -/
def execFmulF32 (d a b : LReg) (s : State) : Host.Outcome State Fault Refusal :=
  float2 (.fmulF32 d a b) d a b f32.mul s
/-- FFMA.f32 (R139). -/
def execFfmaF32 (d a b : LReg) (s : State) : Host.Outcome State Fault Refusal :=
  float3 (.ffmaF32 d a b) d a b (f32.fma .acc) s
/-- FRCP (R142). -/
def execFrcp (d a : LReg) (s : State) : Host.Outcome State Fault Refusal :=
  float1 (.frcp d a) d a frcp32 s
/-- FRSQ (R142). -/
def execFrsq (d a : LReg) (s : State) : Host.Outcome State Fault Refusal :=
  float1 (.frsq d a) d a frsq32 s
/-- FSQRT (R142). -/
def execFsqrt (d a : LReg) (s : State) : Host.Outcome State Fault Refusal :=
  float1 (.fsqrt d a) d a fsqrt32 s
/-- FEXP2 (R142). -/
def execFexp2 (d a : LReg) (s : State) : Host.Outcome State Fault Refusal :=
  float1 (.fexp2 d a) d a fexp232 s
/-- FLOG2 (R142). -/
def execFlog2 (d a : LReg) (s : State) : Host.Outcome State Fault Refusal :=
  float1 (.flog2 d a) d a flog232 s
/-- FSIN (R142). -/
def execFsin (d a : LReg) (s : State) : Host.Outcome State Fault Refusal :=
  float1 (.fsin d a) d a fsin32 s
/-- FCOS (R142). -/
def execFcos (d a : LReg) (s : State) : Host.Outcome State Fault Refusal :=
  float1 (.fcos d a) d a fcos32 s
/-- FRND (R142). -/
def execFrnd (d a : LReg) (rnd : Rnd) (s : State) : Host.Outcome State Fault Refusal :=
  float1 (.frnd d a rnd) d a (frnd32 (dirOf rnd)) s
/-- FADD.h2 (R139). -/
def execFaddH2 (d a b : LReg) (s : State) : Host.Outcome State Fault Refusal :=
  float2 (.faddH2 d a b) d a b (onH2 f16.add) s
/-- FMUL.h2 (R139). -/
def execFmulH2 (d a b : LReg) (s : State) : Host.Outcome State Fault Refusal :=
  float2 (.fmulH2 d a b) d a b (onH2 f16.mul) s
/-- FFMA.h2 (R139; its overflow saturates, R133). -/
def execFfmaH2 (d a b : LReg) (s : State) : Host.Outcome State Fault Refusal :=
  float3 (.ffmaH2 d a b) d a b (onH3 (f16.fma .sat)) s
/-- FADD.b2 (R139). -/
def execFaddB2 (d a b : LReg) (s : State) : Host.Outcome State Fault Refusal :=
  float2 (.faddB2 d a b) d a b (onH2 bf16.add) s
/-- FMUL.b2 (R139). -/
def execFmulB2 (d a b : LReg) (s : State) : Host.Outcome State Fault Refusal :=
  float2 (.fmulB2 d a b) d a b (onH2 bf16.mul) s
/-- FFMA.b2 (R139). -/
def execFfmaB2 (d a b : LReg) (s : State) : Host.Outcome State Fault Refusal :=
  float3 (.ffmaB2 d a b) d a b (onH3 (bf16.fma .acc)) s
/-- FSUB.h2 (R139). -/
def execFsubH2 (d a : LReg) (s : State) : Host.Outcome State Fault Refusal :=
  floatTwoAddr (.fsubH2 d a) d a (onH2 f16.sub) s
/-- FSUB.b2 (R139). -/
def execFsubB2 (d a : LReg) (s : State) : Host.Outcome State Fault Refusal :=
  floatTwoAddr (.fsubB2 d a) d a (onH2 bf16.sub) s
/-- FMIN.f32 (R141). -/
def execFminF32 (d a : LReg) (s : State) : Host.Outcome State Fault Refusal :=
  floatTwoAddr (.fminF32 d a) d a (f32.minMax false) s
/-- FMAX.f32 (R141). -/
def execFmaxF32 (d a : LReg) (s : State) : Host.Outcome State Fault Refusal :=
  floatTwoAddr (.fmaxF32 d a) d a (f32.minMax true) s
/-- FMIN.h2 (R141). -/
def execFminH2 (d a : LReg) (s : State) : Host.Outcome State Fault Refusal :=
  floatTwoAddr (.fminH2 d a) d a (onH2 (f16.minMax false)) s
/-- FMAX.h2 (R141). -/
def execFmaxH2 (d a : LReg) (s : State) : Host.Outcome State Fault Refusal :=
  floatTwoAddr (.fmaxH2 d a) d a (onH2 (f16.minMax true)) s
/-- FMIN.b2 (R141). -/
def execFminB2 (d a : LReg) (s : State) : Host.Outcome State Fault Refusal :=
  floatTwoAddr (.fminB2 d a) d a (onH2 (bf16.minMax false)) s
/-- FMAX.b2 (R141). -/
def execFmaxB2 (d a : LReg) (s : State) : Host.Outcome State Fault Refusal :=
  floatTwoAddr (.fmaxB2 d a) d a (onH2 (bf16.minMax true)) s
/-- DOT2.h2 (R140). -/
def execDot2H2 (d a b : LReg) (s : State) : Host.Outcome State Fault Refusal :=
  float3 (.dot2H2 d a b) d a b (fun x y z => f32.dot .acc (f32.value z) (products f16 16 2 x y)) s
/-- DOT2.b2 (R140). -/
def execDot2B2 (d a b : LReg) (s : State) : Host.Outcome State Fault Refusal :=
  float3 (.dot2B2 d a b) d a b (fun x y z => f32.dot .acc (f32.value z) (products bf16 16 2 x y)) s
/-- DOT4.e4m3 (R140). -/
def execDot4E4m3 (d a b : LReg) (s : State) : Host.Outcome State Fault Refusal :=
  float3 (.dot4E4m3 d a b) d a b (fun x y z => f32.dot .acc (f32.value z) (products e4m3 8 4 x y)) s
/-- DOT4.e5m2 (R140). -/
def execDot4E5m2 (d a b : LReg) (s : State) : Host.Outcome State Fault Refusal :=
  float3 (.dot4E5m2 d a b) d a b (fun x y z => f32.dot .acc (f32.value z) (products e5m2 8 4 x y)) s

/-- One FCVT of the source words (R143, R144): the index of a widening kind, or the rounding of a narrowing one. -/
def fcvtWords (n : Fin 4) (sat : Bool) (kind : CvtKind) (ws : List Word) : Nat × Nat :=
  let md := dirOf (Rnd.ofCode n.val)
  let w (k : Nat) : Nat := (ws.getD k 0).toNat
  match kind with
  | .f32f16 => convert f16 f32 .rn false (elem 16 (w 0) n.val)
  | .f32bf16 => convert bf16 f32 .rn false (elem 16 (w 0) n.val)
  | .f32e4m3 => convert e4m3 f32 .rn false (elem 8 (w 0) n.val)
  | .f32e5m2 => convert e5m2 f32 .rn false (elem 8 (w 0) n.val)
  | .f16f32 => convert f32 f16 md sat (w 0)
  | .bf16f32 => convert f32 bf16 md sat (w 0)
  | .h2f32 => packed 16 ((List.range 2).map fun k => convert f32 f16 md sat (w k))
  | .b2f32 => packed 16 ((List.range 2).map fun k => convert f32 bf16 md sat (w k))
  | .e4m3f32 => packed 8 ((List.range 4).map fun k => convert f32 e4m3 md sat (w k))
  | .e5m2f32 => packed 8 ((List.range 4).map fun k => convert f32 e5m2 md sat (w k))
  | .e4m3e5m2 => packed 8 ((List.range 4).map fun k => convert e5m2 e4m3 md sat (elem 8 (w 0) k))

/-- Read the source of a conversion: one register, which may pop, or a group (R143). -/
def srcGroup (b t : Nat) (a : LReg) (g : OpGrp) : M (List Word) :=
  if g = .one then do return [← src b t a] else srcN b t a g.size

/-- FCVT (R143, R144). -/
def execFcvt (d a : LReg) (n : Fin 4) (sat : Bool) (kind : CvtKind) (s : State) : Host.Outcome State Fault Refusal :=
  laneExec (.fcvt d a n sat kind) (laneFall fun b t => do
    let ws ← srcGroup b t a kind.srcGrp
    fpResult b t d (fcvtWords n sat kind ws)) s

/-- Least and greatest value of an integer type (R145). -/
def intRange : IntType → Int × Int
  | .i32 => (-(2 ^ 31), 2 ^ 31 - 1)
  | .w32 => (0, 2 ^ 32 - 1)
  | .i16 => (-(2 ^ 15), 2 ^ 15 - 1)
  | .w16 => (0, 2 ^ 16 - 1)
  | .i8 => (-(2 ^ 7), 2 ^ 7 - 1)
  | .w8 => (0, 2 ^ 8 - 1)
  | .i64 => (-(2 ^ 63), 2 ^ 63 - 1)
  | .w64 => (0, 2 ^ 64 - 1)

/-- FCVTI (R145). -/
def execFcvti (d a : LReg) (rnd : Rnd) (ty : IntType) (s : State) : Host.Outcome State Fault Refusal :=
  laneExec (.fcvti d a rnd ty) (laneFall fun b t => do
    let x ← src b t a
    let r := toIntType (dirOf rnd) (intRange ty).1 (intRange ty).2 x.toNat
    if ty.grp = .pair then result2 b t d (BitVec.ofInt 64 r.1) else result b t d (wi r.1)
    orFp b t r.2) s

/-- The integer an ICVTF converts (R146). -/
def srcInteger (b t : Nat) (a : LReg) (ty : SrcInt) : M Int :=
  match ty with
  | .i32 => do return (← src b t a).toInt
  | .w32 => do return ((← src b t a).toNat : Int)
  | .i64 => do return (← src2 b t a).toInt
  | .w64 => do return ((← src2 b t a).toNat : Int)

/-- ICVTF (R146). -/
def execIcvtf (d a : LReg) (rnd : Rnd) (ty : SrcInt) (s : State) : Host.Outcome State Fault Refusal :=
  laneExec (.icvtf d a rnd ty) (laneFall fun b t => do
    let v ← srcInteger b t a ty
    fpResult b t d (ofInteger (dirOf rnd) v)) s

/-- One byte of BPX (R147): the top p bits of value m, from the plane words. -/
def bpxByte (planes : List Word) (p m : Nat) : Nat :=
  if p = 0 then 0
  else
    let t := (List.range p).foldl (fun n j => n + if (planes.getD j 0).getLsbD m then 2 ^ (p - 1 - j) else 0) 0
    ((sextNat p t) % 256).toNat

/-- BPX of a control word (R147). -/
def bpxWord (planes : List Word) (c : Word) : Word :=
  let p := Nat.min (field c.toNat 8 4) 8
  let k := 4 * (c.toNat % 8)
  w32 ((List.range 4).foldl (fun n i => n + 256 ^ i * bpxByte planes p (k + i)) 0)

/-- BPX (R147). -/
def execBpx (d a b : LReg) (s : State) : Host.Outcome State Fault Refusal :=
  laneExec (.bpx d a b) (laneFall fun k t => do
    let ws ← srcN k t a 8
    let c ← src k t b
    result k t d (bpxWord ws c)) s

end Sys2Proof.Machine
end

