-- ==== Sys2Proof/Machine/Residue.lean ====
section
/-! DEFINITION. Residue arithmetic and the residue lane instructions (10_residue.md R239 to R256). -/

namespace Sys2Proof.Machine

/-- The moduli of channels 0 to 9 (R239). -/
def moduli : List Nat := [253, 251, 247, 241, 239, 233, 229, 227, 256, 255]
def modulus (c : Nat) : Nat := moduli.getD c 1

/-- Channels of a set code (R240); none for the reserved code. -/
def setChannels (code : Nat) : Option (List Nat) :=
  match code with
  | 0 => some [0, 1]
  | 1 => some [0, 1, 2, 3]
  | 2 => some [0, 1, 2, 3, 4, 5, 6, 7]
  | 3 => some [2, 3]
  | 4 => some [4, 5]
  | 5 => some [6, 7]
  | 6 => some [4, 5, 6, 7]
  | _ => none

/-- Certification limit of a set (R240). -/
def certLimit (code : Nat) : Nat :=
  match code with
  | 1 | 6 => 30
  | 2 => 62
  | _ => 14

/-- Rows of the inverses of R246: row i holds c(i, i+1), c(i, i+2), … -/
def inverses : List (List Nat) :=
  [[126, 206, 221, 222, 35, 105, 131, 85, 127], [62, 217, 20, 13, 177, 123, 51, 191], [201, 30, 50, 140, 193, 199, 223],
   [120, 204, 210, 146, 17, 91], [39, 23, 19, 15, 239], [172, 38, 89, 197], [114, 237, 49], [203, 173], [1]]

/-- c(i, j) for i < j (R246). -/
def inverse (i j : Nat) : Nat := ((inverses.getD i []).getD (j - i - 1) 0)

/-- Mixed-radix digits of the residues of an ascending channel list (R247). -/
def digits : List (Nat × Nat) → List (Nat × Nat)
  | [] => []
  | (c, y) :: r => (c, y) :: digits' c y r r.length
where
  /-- the rest with the first digit taken out, then on; the count bounds the depth -/
  digits' (c y : Nat) (r : List (Nat × Nat)) : Nat → List (Nat × Nat)
    | 0 => []
    | n + 1 =>
      match r.map fun e => (e.1, ((e.2 + modulus e.1 * 2 - y % modulus e.1) % modulus e.1) * inverse c e.1 % modulus e.1) with
      | [] => []
      | (c2, y2) :: r2 => (c2, y2) :: digits' c2 y2 r2 n

/-- recon of R247: the signed integer of the residues x of the channels listed. -/
def recon (x : List Nat) (chs : List Nat) : Int :=
  let ds := digits (chs.map fun c => (c, x.getD c 0))
  let r := ds.foldl (fun (a : Nat × Nat) d => (a.1 + d.2 * a.2, a.2 * modulus d.1)) (0, 1)
  if r.1 > (r.2 - 1) / 2 then (r.1 : Int) - r.2 else r.1

/-- Classes of R248. -/
inductive Cls where | exact | corrected | uncorr | uncertOk | ovf | unguarded | uncert | badCtl
deriving DecidableEq, Repr

def Cls.code : Cls → Nat
  | .exact => 0
  | .corrected => 1
  | .uncorr => 2
  | .uncertOk => 3
  | .ovf => 4
  | .unguarded => 5
  | .uncert => 6
  | .badCtl => 7

/-- The quotient v / 2^s rounded: .rn to even, .rz, .rd (R248). -/
def roundQuot (v : Int) (s rnd : Nat) : Int :=
  let q := v / (2 ^ s : Int)
  let r := v % (2 ^ s : Int)
  match rnd with
  | 0 => if 2 * r > 2 ^ s ∨ (2 * r = 2 ^ s ∧ q % 2 = 1) then q + 1 else q
  | 1 => if v < 0 ∧ r ≠ 0 then q + 1 else q
  | _ => q

/-- What a drain or decode gives: the value, the class, the excluded channel, and CLAMP. -/
structure Decoded where
  out : Int
  cls : Cls
  ch : Nat
  clamp : Bool
deriving DecidableEq, Repr

/-- R248 on ten reduced residues. Where it returns before clamp is set (UNCORR, and BADCTL by SET or G), the clamp that RCHK reports is 0
(DESIGN CHOICE; log entry 107). -/
def decodeResidue (x : List Nat) (set : Nat) (g c : Bool) (s rnd n : Nat) (w : Bool) : Decoded :=
  match setChannels set with
  | none => ⟨0, .badCtl, 15, false⟩
  | some prim =>
    if g && set > 2 then ⟨0, .badCtl, 15, false⟩
    else
      let lim : Int := (((prim.map modulus).foldl (· * ·) 1 - 1) / 2 : Nat)
      let act := if g then prim ++ [8, 9] else prim
      let v := recon x act
      let finish (v : Int) (cls : Cls) (ch : Nat) : Decoded :=
        let q := roundQuot v s rnd
        let out := if cls = .ovf ∧ !w then (if v < 0 then -(2 ^ (n - 1)) else 2 ^ (n - 1) - 1)
          else if w then sextNat n (q % 2 ^ n).toNat
          else satS q n
        ⟨out, cls, ch, out != q⟩
      if !g then finish v (if c then .unguarded else .uncert) 15
      else if v.natAbs ≤ lim then finish v (if c then .exact else .uncertOk) 15
      else if !c then finish v .ovf 15
      else
        match act.filter fun k => (recon x (act.filter (· != k))).natAbs ≤ lim with
        | [k] => finish (recon x (act.filter (· != k))) .corrected k
        | _ => ⟨0, .uncorr, 15, false⟩

/-! Residue values in registers (R242). -/

/-- The ten reduced residues of a triple. -/
def residuesOf (ws : List Word) : List Nat :=
  (List.range 10).map fun k => (ws.getD (k / 4) 0).toNat / 256 ^ (k % 4) % 256 % modulus k

/-- The triple of ten residues. -/
def tripleOf (rs : List Nat) : List Word :=
  (List.range 3).map fun j =>
    w32 ((List.range 4).foldl (fun n i => n + if 4 * j + i < 10 then rs.getD (4 * j + i) 0 * 256 ^ i else 0) 0)

/-- Residues of an integer in all channels (R255). -/
def encodeResidue (v : Int) : List Nat := moduli.map fun (m : Nat) => (v % (m : Int)).toNat

/-- A channel-wise operation (R255). -/
def perChannel (f : Nat → Nat → Nat) (x y : List Nat) : List Nat :=
  (List.range 10).map fun k => f (x.getD k 0) (y.getD k 0) % modulus k

/-- A control word's decode of ten residues (R256). -/
def decodeCtl (x : List Nat) (c : Word) : Decoded :=
  let n := c.toNat
  let ty := field n 8 2
  let rnd := field n 6 2
  if ty = 3 ∨ rnd = 3 then ⟨0, .badCtl, 15, false⟩
  else decodeResidue x (field n 10 3) (c.getLsbD 13) (c.getLsbD 14) (n % 64) rnd (16 * 2 ^ ty) (c.getLsbD 15)

/-- RENC.i32 (R255). -/
def execRencI32 (d a : LReg) (s : State) : Host.Outcome State Fault Refusal :=
  laneExec (.rencI32 d a) (laneFall fun b t => do
    let v ← src b t a
    resultN b t d (tripleOf (encodeResidue v.toInt))) s

/-- RENC.i64 (R255). -/
def execRencI64 (d a : LReg) (s : State) : Host.Outcome State Fault Refusal :=
  laneExec (.rencI64 d a) (laneFall fun b t => do
    let v ← src2 b t a
    resultN b t d (tripleOf (encodeResidue v.toInt))) s

/-- RADD (R255). -/
def execRadd (d a b : LReg) (s : State) : Host.Outcome State Fault Refusal :=
  laneExec (.radd d a b) (laneFall fun k t => do
    let x ← srcN k t a 3
    let y ← srcN k t b 3
    resultN k t d (tripleOf (perChannel (· + ·) (residuesOf x) (residuesOf y)))) s

/-- RMUL (R255). -/
def execRmul (d a b : LReg) (s : State) : Host.Outcome State Fault Refusal :=
  laneExec (.rmul d a b) (laneFall fun k t => do
    let x ← srcN k t a 3
    let y ← srcN k t b 3
    resultN k t d (tripleOf (perChannel (· * ·) (residuesOf x) (residuesOf y)))) s

/-- RDEC (R256). -/
def execRdec (d a b : LReg) (s : State) : Host.Outcome State Fault Refusal :=
  laneExec (.rdec d a b) (laneFall fun k t => do
    let x ← srcN k t a 3
    let c ← src k t b
    result2 k t d (BitVec.ofInt 64 (decodeCtl (residuesOf x) c).out)) s

/-- The word RCHK writes (R256). -/
def Decoded.report (r : Decoded) : Word := w32 (16 * r.ch + 8 * r.clamp.toNat + r.cls.code)

/-- RCHK (R256). -/
def execRchk (d a b : LReg) (s : State) : Host.Outcome State Fault Refusal :=
  laneExec (.rchk d a b) (laneFall fun k t => do
    let x ← srcN k t a 3
    let c ← src k t b
    result k t d (decodeCtl (residuesOf x) c).report) s

end Sys2Proof.Machine
end

