-- ==== Sys2Proof/Machine/Uniform.lean ====
section
/-! DEFINITION. Uniform scalar instructions (04_integer.md R120 to R125). -/

namespace Sys2Proof.Machine

/-- Read a uniform operand of the form's width, zero-extended (R122). -/
def readUW (b : Nat) (r : UReg) (w : Bool) : M DWord := do
  if w then readU2 b r else return (← readU b r).zeroExtend 64

/-- Write a uniform result of the form's width (R122). -/
def writeUW (b : Nat) (r : UReg) (w : Bool) (v : DWord) : M Unit :=
  if w then writeU2 b r v else writeU b r (loWord v)

/-- Width in bits of a form. -/
def formBits (w : Bool) : Nat := if w then 64 else 32

/-- An instruction of two sources; f works on the values of the width (R123). -/
def uni2 (i : Instr) (d a c : UReg) (w : Bool) (f : DWord → DWord → DWord) : State → Host.Outcome State Fault Refusal :=
  uniExec i (uniFall fun b _ => do
    let x ← readUW b a w
    let y ← readUW b c w
    writeUW b d w (f x y))

/-- A shift: the count is a single register (R122). -/
def uniShift (i : Instr) (d a c : UReg) (w : Bool) (f : DWord → Nat → DWord) : State → Host.Outcome State Fault Refusal :=
  uniExec i (uniFall fun b _ => do
    let x ← readUW b a w
    let n ← readU b c
    writeUW b d w (f x n.toNat))

/-- SADD. -/
def execSadd (d a b : UReg) (w : Bool) (s : State) : Host.Outcome State Fault Refusal := uni2 (.sadd d a b w) d a b w (· + ·) s
/-- SSUB. -/
def execSsub (d a b : UReg) (w : Bool) (s : State) : Host.Outcome State Fault Refusal := uni2 (.ssub d a b w) d a b w (· - ·) s
/-- SMUL. -/
def execSmul (d a b : UReg) (w : Bool) (s : State) : Host.Outcome State Fault Refusal := uni2 (.smul d a b w) d a b w (· * ·) s
/-- SAND. -/
def execSand (d a b : UReg) (w : Bool) (s : State) : Host.Outcome State Fault Refusal :=
  uni2 (.sand d a b w) d a b w (· &&& ·) s
/-- SOR. -/
def execSor (d a b : UReg) (w : Bool) (s : State) : Host.Outcome State Fault Refusal := uni2 (.sor d a b w) d a b w (· ||| ·) s
/-- SXOR. -/
def execSxor (d a b : UReg) (w : Bool) (s : State) : Host.Outcome State Fault Refusal :=
  uni2 (.sxor d a b w) d a b w (· ^^^ ·) s
/-- SSHL. -/
def execSshl (d a b : UReg) (w : Bool) (s : State) : Host.Outcome State Fault Refusal :=
  uniShift (.sshl d a b w) d a b w (fun x n => if n ≥ formBits w then 0 else w64 (x.toNat * 2 ^ n)) s
/-- SSHR. -/
def execSshr (d a b : UReg) (w : Bool) (s : State) : Host.Outcome State Fault Refusal :=
  uniShift (.sshr d a b w) d a b w (fun x n => if n ≥ formBits w then 0 else w64 (x.toNat / 2 ^ n)) s
/-- SSAR. -/
def execSsar (d a b : UReg) (w : Bool) (s : State) : Host.Outcome State Fault Refusal :=
  uniShift (.ssar d a b w) d a b w (fun x n =>
    let v := sextNat (formBits w) x.toNat
    BitVec.ofInt 64 (if n ≥ formBits w then (if v < 0 then -1 else 0) else v / 2 ^ n)) s
/-- SMOV. -/
def execSmov (d a : UReg) (w : Bool) (s : State) : Host.Outcome State Fault Refusal :=
  uniExec (.smov d a w) (uniFall fun b _ => do
    let x ← readUW b a w
    writeUW b d w x) s
/-- SMOVI. -/
def execSmovi (d : UReg) (imm : BitVec 14) (w : Bool) (s : State) : Host.Outcome State Fault Refusal :=
  uniExec (.smovi d imm w) (uniFall fun b _ => writeUW b d w (imm.signExtend 64)) s
/-- SLIT. -/
def execSlit (d : UReg) (w : Bool) (lit : Word) (s : State) : Host.Outcome State Fault Refusal :=
  uniExec (.slit d w lit) (uniFall fun b _ => writeUW b d w (lit.signExtend 64)) s
/-- SCMP (R124). -/
def execScmp (d a b : UReg) (cond : SCond) (s : State) : Host.Outcome State Fault Refusal :=
  uniExec (.scmp d a b cond) (uniFall fun k _ => do
    let x ← readUW k a cond.wide
    let y ← readUW k b cond.wide
    writeU k d (if evalSCond cond x y then 1 else 0)) s
/-- SSEL: the old d of the form's width is the condition (R122). -/
def execSsel (d a b : UReg) (w : Bool) (s : State) : Host.Outcome State Fault Refusal :=
  uniExec (.ssel d a b w) (uniFall fun k _ => do
    let x ← readUW k a w
    let y ← readUW k b w
    let z ← readUW k d w
    writeUW k d w (if z != 0 then x else y)) s

/-- Bytes of a UM size (R125). -/
def usizeBytes : USize → Nat
  | .w8 | .i8 => 1
  | .w16 | .i16 => 2
  | .w32 => 4
  | .w64 => 8

/-- Does the size sign-extend? -/
def usizeSigned : USize → Bool
  | .i8 | .i16 => true
  | _ => false

/-- The address of SLD and SST (R125). -/
def uniAddr (b : Nat) (a : UReg) (off : BitVec 7) (n : Nat) : M DWord := do
  return (← readU2 b a) + BitVec.ofInt 64 (off.toInt * n)

/-- SLD (R125): a read issued once for the block, counted in every live thread. -/
def execSld (d a : UReg) (off : BitVec 7) (f : Bool) (size : USize) (s : State) : Host.Outcome State Fault Refusal :=
  uniExec (.sld d a off f size) (uniFall fun b ts => do
    let n := usizeBytes size
    let ea ← uniAddr b a off n
    let tgts ← checkAccess b ts { kind := .read, fe := false, align := n, eas := spanFrom ea n }
    let s ← getS
    issue { MemOp.mk' b (s.block b).padCore ts (.load (usizeSigned size)) ea tgts with
      uniform := true, flag := flagOf (.sld d a off f size) s b (ts.headD 0)
      dst := .uni d (if n = 8 then 2 else 1) }) s

/-- SST (R125): a write issued once for the block. -/
def execSst (d a : UReg) (off : BitVec 7) (f : Bool) (size : USize) (s : State) : Host.Outcome State Fault Refusal :=
  uniExec (.sst d a off f size) (uniFall fun b ts => do
    let n := usizeBytes size
    let ea ← uniAddr b a off n
    let v ← readUW b d (n == 8)
    let tgts ← checkAccess b ts { kind := .write, fe := false, align := n, eas := spanFrom ea n }
    let s ← getS
    issue { MemOp.mk' b (s.block b).padCore ts .store ea tgts with
      uniform := true, flag := flagOf (.sst d a off f size) s b (ts.headD 0), data := leBytes n v.toNat }) s

/-- UNIFORM_ACCESS_COMPLETION (R125; 07_ordering.md R173): an SLD or SST is performed and completes. -/
def execUniformAccessCompletion (id : Nat) (reply : List Byte) (s : State) : Host.Outcome State Fault Refusal :=
  .next (match s.opOf id with
    | some o =>
      if !o.uniform || !s.ready o then s
      else
        match o.kind with
        | .load _ =>
          (match s.loadReach o with
           | some pa => s.noteRetry o.core pa
           | none => (s.performOp o reply).pruneBarriers)
        | .store =>
          (match s.outOfReach o with
           | some pa => s.noteRetry o.core pa
           | none => (s.performOp o reply).pruneBarriers)
        | _ => s
    | none => s)

end Sys2Proof.Machine
end

