-- ==== Sys2Proof/Machine/System.lean ====
section
/-! DEFINITION. Traps raised and returned from, CSRs, the TLB group, error pops and HZWAIT (17_system.md R392 to R416). -/

namespace Sys2Proof.Machine

/-- TRAP (R414): retires, then every thread of the block in the bundle traps with the code. -/
def execTrap (imm : BitVec 14) (s : State) : Host.Outcome State Fault Refusal :=
  uniExec (.trap imm) (fun _ _ => return .trapNext .user (imm.zeroExtend 32)) s

/-! Return from a trap (R397). -/

/-- A thread returns from its handler: to a header, or to stand at a body word whose clause the next issue fetches, with
the interrupted bank. -/
def Thread.leaveTrap (th : Thread) : Thread :=
  let idx := field th.tcause.toNat 24 5
  let th1 := { th with tcause := th.tcause &&& 0x7FFFFFFF, bankX := none, bankO := [] }
  if idx = 0 then th1.jump th.tpc
  else { th1 with pc := th.tpc, clauseIdx := idx, clause := [], x := th.bankX, o := th.bankO }

/-- ERET (R397). -/
def execEret (s : State) : Host.Outcome State Fault Refusal :=
  uniExec .eret (fun b ts => do
    let s ← getS
    if ts.any fun t => !(s.thread b t).inTrap then trap .eretSeq
    updS fun s => ts.foldl (fun (s : State) t => ((s.modThread b t (·.leaveTrap)).leaveBundle b t).dropLatches b t) s
    return .placed) s

/-! CSRs (R400 to R402). -/

/-- CORELOC (01_machine.md R19). -/
def Block.coreloc (x : Block) : Nat :=
  let die := x.core / 128
  let cluster := x.core / 8 % 16
  die * 2 ^ 25 + cluster * 2 ^ 21 + (x.core % 8) * 2 ^ 18 + (x.slot % 32) * 2 ^ 13 + (x.lanebase % 16) * 2 ^ 9 + x.core % 512

/-- The value of a block, core, die or device CSR as a block reads it. -/
def State.csrValue (s : State) (x : Block) (n : Nat) : Nat :=
  let c := s.getCore x.core
  match n with
  | 0x100 => x.coreloc
  | 0x101 => x.spLen * 2 ^ 16 + x.spBase
  | 0x102 => x.ixval.toNat
  | 0x104 => x.tvec.toNat
  | 0x200 => c.specdrop.toNat
  | 0x201 => c.pinlim.toNat
  | 0x210 => c.chstat.toNat
  | 0x211 => (c.chcnt.getD 0 0).toNat
  | 0x212 => (c.chcnt.getD 1 0).toNat
  | 0x213 => (c.chcnt.getD 2 0).toNat
  | 0x214 => (c.chcnt.getD 3 0).toNat
  | 0x215 => (c.chcnt.getD 4 0).toNat
  | 0x216 => c.chlast.toNat
  | 0x300 => s.devTime
  | 0x302 => s.roofwalk.horizon
  | 0x310 => s.mgmt.ctxbase.toNat
  | 0x312 => (s.mgmt.fbufbase.getD (x.core / 128) 0).toNat
  | _ => 0

/-- A thread's CSR. -/
def Thread.csrValue (th : Thread) (n : Nat) : DWord :=
  match n with
  | 0x001 => (th.fpstat &&& 0x7F).zeroExtend 64
  | 0x010 => th.tpc
  | 0x012 => th.taddr
  | 0x014 => th.tcause.zeroExtend 64
  | 0x015 => th.tinfo.zeroExtend 64
  | _ => 0

/-- Write a thread's CSR, fields by their access (R136, R393). -/
def Thread.csrWrite (th : Thread) (n : Nat) (v : DWord) : Thread :=
  match n with
  | 0x001 => { th with fpstat := loWord v &&& 0x7F }
  | 0x010 => { th with tpc := v }
  | 0x012 => { th with taddr := v }
  | 0x014 => { th with tcause := (th.tcause &&& 0x80000000) ||| (loWord v &&& 0x1F0000FF) }
  | 0x015 => { th with tinfo := loWord v &&& 0xFFFF }
  | _ => th

/-- Write a core CSR, fields by their access (07 R184, 10 R250). -/
def CoreState.csrWrite (c : CoreState) (n : Nat) (v : Word) : CoreState :=
  match n with
  | 0x201 => { c with pinlim := v &&& 0xFFFFFF }
  | 0x210 => { c with chstat := c.chstat &&& ~~~(v &&& 0x3FF) }
  | 0x211 => { c with chcnt := c.chcnt.set 0 v }
  | 0x212 => { c with chcnt := c.chcnt.set 1 v }
  | 0x213 => { c with chcnt := c.chcnt.set 2 v }
  | 0x214 => { c with chcnt := c.chcnt.set 3 v }
  | 0x215 => { c with chcnt := c.chcnt.set 4 v }
  | 0x216 => { c with chlast := c.chlast &&& ~~~(v &&& 0x80000000) }
  | _ => c

/-- CSRR with sub 0 (R402). -/
def execCsrr (d : UReg) (csr : BitVec 12) (s : State) : Host.Outcome State Fault Refusal :=
  uniExec (.csrr d csr) (uniFall fun b _ => do
    let x ← getB b
    if (csrInfo csr.toNat).any (·.privRead) && x.kind != .walker then trap .priv
    let s ← getS
    writeUW b d (csrWide csr) (w64 (s.csrValue x csr.toNat))) s

/-- CSRR with sub 1: in every live thread of the block, v[d] receives that thread's CSR (R402). -/
def execCsrrThread (d : Fin 128) (csr : BitVec 12) (s : State) : Host.Outcome State Fault Refusal :=
  uniExec (.csrrThread d csr) (uniFall fun b _ => updS fun s =>
    (s.block b).liveTids.foldl (fun (s : State) t =>
      let v := (s.thread b t).csrValue csr.toNat
      let put (s : State) (n : Nat) (w : Word) : State :=
        (s.clobber b t (.v (Fin.ofNat 224 n))).modThread b t (·.setV n w)
      let s1 := put s d.val (loWord v)
      if csrWide csr then put s1 (d.val + 1) (hiWord v) else s1) s) s

/-- CSRW with sub 0 (R400, R402): privileged to walker code but for TVEC; CTXBASE and FBUFBASE are written by none. -/
def execCsrw (d : UReg) (csr : BitVec 12) (s : State) : Host.Outcome State Fault Refusal :=
  uniExec (.csrw d csr) (uniFall fun b _ => do
    let x ← getB b
    if (csrInfo csr.toNat).any (·.privWrite) && x.kind != .walker then trap .priv
    if csr.toNat == 0x310 || csr.toNat == 0x312 then trap .illegal
    let v ← readUW b d (csrWide csr)
    if csr.toNat == 0x104 then updB b fun x => { x with tvec := v }
    else updS (·.modCore x.core (·.csrWrite csr.toNat (loWord v)))) s

/-- CSRW with sub 1: every live thread of the block writes its CSR from its v[d] (R402). -/
def execCsrwThread (d : Fin 128) (csr : BitVec 12) (s : State) : Host.Outcome State Fault Refusal :=
  uniExec (.csrwThread d csr) (uniFall fun b _ => do
    let x ← getB b
    x.liveTids.forM fun t => do
      let lo ← readReg b t (.v (Fin.ofNat 224 d.val))
      let hi ← if csrWide csr then readReg b t (.v (Fin.ofNat 224 (d.val + 1))) else pure 0
      updT b t (·.csrWrite csr.toNat (pairOf lo hi))) s

/-! The TLB group (R405 to R408). -/

/-- Only a walk slot's block may go on (R408). -/
def walkerOnly (b : Nat) : M Unit := do
  if (← getB b).kind != .walker then trap .priv

/-- Put an entry into a cluster's translation cache; a full one gives up an entry (R405). -/
def ClusterState.fillTlb (k : ClusterState) (e : TlbEntry) : ClusterState :=
  let rest := k.tlb.filter fun f => !(f.ctx == e.ctx && f.va == e.va && f.size == e.size)
  { k with tlb := (e :: rest).take 4096 }

/-- TLBFILL (R408). -/
def execTlbfill (d a b : UReg) (s : State) : Host.Outcome State Fault Refusal :=
  uniExec (.tlbfill d a b) (uniFall fun k _ => do
    walkerOnly k
    let ctl := (← readU k d).toNat
    let va ← readU2 k a
    let e := (← readU2 k b).toNat
    let size := field ctl 16 3
    let frame := field e 12 40 * 4096
    if ctl ≥ 2 ^ 19 || size > 5 || !canonical va || va.toNat % sizeBytes size != 0 || frame % sizeBytes size != 0 ||
        e ≥ 2 ^ 52 || field e 10 2 != 0 || field e 6 3 != 0 || field e 4 1 != 0 || field e 0 2 != 0 then trap .walkArg
    let x ← getB k
    updS (·.modCluster (clusterOf x.core) (·.fillTlb
      { ctx := field ctl 0 16, va := va.toNat, size, frame, w := e.testBit 2, x := e.testBit 3, d := e.testBit 5
        onchip := e.testBit 9 }))) s

/-- Drop the entries of a cluster that a test picks. -/
def ClusterState.dropTlb (k : ClusterState) (f : TlbEntry → Bool) : ClusterState :=
  { k with tlb := k.tlb.filter fun e => !f e }

/-- Drop entries in every cluster of a list. -/
def State.dropTlbs (s : State) (ks : List Nat) (f : TlbEntry → Bool) : State :=
  ks.foldl (fun (s : State) k => s.modCluster k (·.dropTlb f)) s

/-- The entries of a context that overlap an aligned range (R408). -/
def TlbEntry.inRange (e : TlbEntry) (ctx va size : Nat) : Bool :=
  e.ctx == ctx && rangesMeet e.va (sizeBytes e.size) (va / sizeBytes size * sizeBytes size) (sizeBytes size)

/-- Drop the instruction-path copies of every core of a list of clusters: a clause fetched after an invalidation is fetched from home
(02 R52; R408; log entry 25). -/
def State.dropPaths (s : State) (ks : List Nat) : State :=
  { s with ipath := s.ipath.filter fun e => !ks.contains (clusterOf (e.1 / 2 ^ 52 / 129)) }

/-- TLBINV (R408): the entries and the instruction path's copies are dropped, and the threads wait for TLBINV_COMPLETE. -/
def execTlbinv (d a : UReg) (s : State) : Host.Outcome State Fault Refusal :=
  uniExec (.tlbinv d a) (fun k _ => do
    walkerOnly k
    let ctl := (← readU k d).toNat
    let va ← readU2 k a
    let size := field ctl 16 3
    let scope := field ctl 19 2
    if ctl ≥ 2 ^ 21 || size > 5 then trap .walkArg
    let x ← getB k
    let cl := clusterOf x.core
    let ks := match scope with
      | 0 => [cl]
      | 1 => (List.range 16).map (cl / 16 * 16 + ·)
      | _ => List.range 64
    updS fun s => (s.dropTlbs ks fun e => scope == 3 || e.inRange (field ctl 0 16) va.toNat size).dropPaths ks
    return .stops (.stall .tlbinv)) s

/-- TLBINV_COMPLETE (R408): every cache of the scope has dropped the entries; the thread goes on. -/
def execTlbinvComplete (blk tid : Nat) (s : State) : Host.Outcome State Fault Refusal :=
  .next (if s.waiting blk tid (· == .tlbinv) then
    (s.modThread blk tid fun th => { th.advance 1 with run := .ready, since := s.now }).dropLatches blk tid
  else s)

/-- Code of an access kind (R406). -/
def AccKind.code : AccKind → Nat
  | .read => 0
  | .write => 1
  | .fetch => 2
  | .atomic => 3

/-- The walker block of a cluster (R407). -/
def State.walkerOf (s : State) (cluster : Nat) : Option Nat :=
  s.blockIds.find? fun b => (s.block b).kind == .walker && clusterOf (s.block b).core == cluster

/-- WALK_REQUEST (R406): the next undelivered request of a cluster is written into granule n mod 16 of its walk slot's
scratchpad, which turns full; it waits while that granule is full. -/
def execWalkRequest (cluster : Nat) (s : State) : Host.Outcome State Fault Refusal :=
  let k := s.getCluster cluster
  let g := k.reqCount % 16
  let tg : Tgt := .sp (512 + cluster) (16 * g)
  .next (match s.walkerOf cluster, k.reqs.find? (·.granule.isNone) with
    | some _, some r =>
      let p := s.wakeCore (8 * cluster)
      if s.isFull tg then s
      else if !p.1 then p.2
      else
        let s := p.2
        let bs := leBytes 8 (r.page * 4096) ++ leBytes 2 r.ctx ++
          leBytes 1 (r.kind.code + (if r.spec then 4 else 0) + (if r.engine then 8 else 0)) ++ List.replicate 5 0
        let s1 := (bs.zipIdx).foldl (fun (s : State) e => s.setTgt (.sp (512 + cluster) (16 * g + e.2)) e.1) s
        (s1.setFull tg true).modCluster cluster fun k => { k with
          reqCount := k.reqCount + 1
          reqs := (k.reqs.filter fun (q : WalkReq) => q.granule.isSome) ++
            (match k.reqs.filter fun (q : WalkReq) => q.granule.isNone with
             | q :: qs => { q with granule := some g } :: qs
             | [] => []) }
    | _, _ => s)

/-- Threads of a cluster that wait for the translation of a page (R406), with the address and kind. -/
def State.xlateWaiters (s : State) (cluster ctx page : Nat) : List (Nat × Nat × DWord × AccKind) :=
  s.blockIds.flatMap fun b =>
    let x := s.block b
    if x.inSlot && clusterOf x.core == cluster then
      (x.threads.zipIdx).filterMap fun e =>
        match e.1.run with
        | .stalled (.xlate c addr kind) => if c = ctx ∧ addr.toNat / 4096 = page then some (b, e.2, addr, kind) else none
        | _ => none
    else []

/-- Threads of a cluster whose SINV waits for a page execute it again; it skips a page without a translation (06 R170). -/
def State.tellSinv (s : State) (cluster ctx page : Nat) (failed : Bool) : State :=
  s.blockIds.foldl (fun (s : State) b =>
    let x := s.block b
    if x.inSlot && clusterOf x.core == cluster then
      s.modBlock b fun x => { x with threads := x.threads.map fun (th : Thread) =>
        if th.run == RunState.stalled (Wait.sinv ctx page) then
          { th with run := .ready, since := s.now, skipped := if failed then page :: th.skipped else th.skipped }
        else th }
    else s) s

/-- The slices of a cluster and context whose next access waits for a page get its outcome (R408; 12_headwater.md
R287). -/
def State.tellSlices (s : State) (cluster ctx page : Nat) (failed : Bool) : State :=
  s.blockIds.foldl (fun (s : State) b =>
    let x := s.block b
    if x.slice.isSome && x.ctx == ctx && clusterOf x.core == cluster then
      let tell (n : Nest) : Nest := { n with
        walk := if n.walk.contains (page, false) then n.walk.erase (page, false) ++ (if failed then [(page, true)] else []) else n.walk }
      s.modSlice b fun sl => { sl with nest := sl.nest.map tell }
    else s) s

/-- Key of a read that waits for a page: its context and the cluster of the walk. -/
def xlKey (cluster ctx : Nat) : Nat := cluster * 65536 + ctx

/-- The engine chains of a context that wait for a page, in the clusters a test picks, get its outcome (R408). -/
def State.tellChains (s : State) (ctx : Nat) (here f : Nat → Bool) (failed : Bool) (cause : Nat := 0x50) : State :=
  let mine (k : Nat) : Bool := k % 65536 == ctx && here (k / 65536)
  { s with
    chains := s.chains.map fun (c : Chain) =>
      match c.waiting with
      | some (p, false) => if c.ctx = ctx ∧ here (clusterOf c.core) ∧ f p then { c with waiting := (if failed then some (p, true) else none) } else c
      | _ => c
    sched := { s.sched with
      xlFailed := s.sched.xlFailed ++
        (s.sched.xlHeld.filter fun e => failed && mine e.1 && f e.2.1).map fun e => (e.1, e.2.1, cause, e.2.2)
      xlHeld := s.sched.xlHeld.filter fun e => !(mine e.1 && f e.2.1) } }

/-- A missing entry: the scheduler's reads of the page fail, since it is neither in the capacity tier nor migrating (14
R321); an engine chain waits for a replay (R408). -/
def State.tellMissing (s : State) (cluster ctx page : Nat) : State :=
  let hit (e : Nat × Nat × Bool) : Bool := e.1 == xlKey cluster ctx && e.2.1 == page && e.2.2
  { s with sched := { s.sched with
      xlFailed := s.sched.xlFailed ++ (s.sched.xlHeld.filter hit).map fun e => (e.1, page, Cause.xlateNp.code, true)
      xlHeld := s.sched.xlHeld.filter fun e => !hit e } }

/-- Cause of a delivered fault (R408). -/
def deliverCause (c : Nat) : Cause :=
  match c with
  | 0x43 => .attr
  | 0x51 => .xlateProt
  | 0x52 => .xlateBad
  | _ => .xlateNp

/-- What the requesters of a walk request do with its outcome (R408). -/
def State.walkOutcome (s : State) (cluster : Nat) (r : WalkReq) (out cause : Nat) : State :=
  let ws := if r.spec then [] else s.xlateWaiters cluster r.ctx r.page
  let filled := out == 0
  let deliver := out ≥ 4
  let s1 := ws.foldl (fun (s : State) (w : Nat × Nat × DWord × AccKind) =>
    let b := w.1
    let t := w.2.1
    let addr := w.2.2.1
    let kind := w.2.2.2
    if filled then s.wake b t
    else if deliver then s.stopThread b t (.trap (if out = 4 then deliverCause cause else .xlateNp) addr (faultInfo kind))
    else s.modThread b t fun th => { th with run := .parked addr kind }) s
  let s2 := r.prefs.foldl (fun (s : State) p =>
    if filled then
      (match s.translate cluster r.ctx p.2.1.toNat .read with
       | .hit _ _ => s.prefetch p.1 r.ctx p.2.1 p.2.2
       | _ => s)
    else s.specDrop p.1) s1
  let s3 := (s2.tellSinv cluster r.ctx r.page (!filled)).tellSlices cluster r.ctx r.page (!filled)
  if !r.engine then s3
  else if filled then s3.tellChains r.ctx (· == cluster) (· == r.page) false
  else if deliver then s3.tellChains r.ctx (· == cluster) (· == r.page) true (if out = 4 then (deliverCause cause).code else 0x50)
  else if out = 1 then s3.tellMissing cluster r.ctx r.page
  else s3

/-- WALKDONE (R408): ends the oldest pending request of a granule. -/
def execWalkdone (d a : UReg) (s : State) : Host.Outcome State Fault Refusal :=
  uniExec (.walkdone d a) (uniFall fun b _ => do
    walkerOnly b
    let o := (← readU b d).toNat
    let g := (← readU b a).toNat
    let x ← getB b
    let cl := clusterOf x.core
    updS fun s =>
      match (s.getCluster cl).reqs.find? (·.granule == some g) with
      | none => s
      | some r =>
        let s1 := s.modCluster cl fun k => { k with reqs := k.reqs.erase r }
        s1.walkOutcome cl r (o % 256) (o / 256 % 256)) s

/-! ERRPOP and HZWAIT (R415, R416). -/

/-- The first place of a context's queue that ERRPOP reads and no device agent reaches now: its head, or its head record (R415). -/
def State.queueHeld (s : State) (ctx : Nat) : Option Nat :=
  let base := s.ctxErrq ctx
  let rec' := base + 64 + 64 * (s.rdNat base 4 % 2 ^ (s.rd8 (base + 8)).toNat)
  if base = 0 then none else [base, rec', rec' + 63].find? fun pa => !s.reach noCore pa

/-- ERRPOP (R415): the head record of the context's queue into the block's scratchpad, and the status; it waits while the
queue's head cannot be read. -/
def execErrpop (d a : UReg) (s : State) : Host.Outcome State Fault Refusal :=
  uniExec (.errpop d a) (fun b ts => do
    let off := (← readU b a).toNat
    let x ← getB b
    let ea := w64 (padWindow + off)
    if off % 64 ≠ 0 then trap .align ea (faultInfo .write)
    if off + 64 > 16 * x.spLen then trap .spRange (w64 (padWindow + Nat.max off (16 * x.spLen))) (faultInfo .write)
    let s ← getS
    if s.specPending b ts s.seq then stall .acquirePart
    let tgts ← checkAccess b ts { kind := .write, fe := false, align := 1, eas := spanFrom ea 64 }
    match s.queueHeld x.ctx with
    | some pa =>
      updS (·.noteRetry noCore pa)
      return .stops (.stall (.retry pa))
    | none =>
      updS fun s =>
        let p := s.popRecord x.ctx
        match p.1 with
        | none => p.2.modBlock b (·.writeU d 0)
        | some bs =>
          let s1 := (tgts.zip bs).foldl (fun (s : State) e => s.performByte x.padCore false false e.1 e.2) p.2
          (s1.acquireFor b ts x.padCore .pkg).modBlock b (·.writeU d 1)
      return .fall) s

/-- Is Roofwalk off (18_errors.md R425 PERIOD)? -/
def State.roofwalkOff (s : State) : Bool := field s.mgmt.rwctl.toNat 16 16 == 0

/-- The status HZWAIT writes (R416): it completes below its time only where Roofwalk is, or has been, off. -/
def State.hzStatus (s : State) (ctx time : Nat) : Word :=
  w32 ((if s.roofwalk.horizon < time then 2 else 0) +
    (if s.roofwalk.taints.any (fun e => e.1 == ctx && e.2.1 < time) then 1 else 0))

/-- HZWAIT (R416): counted in every live thread; completes by HZWAIT_COMPLETE. -/
def execHzwait (d a : UReg) (f : Bool) (s : State) : Host.Outcome State Fault Refusal :=
  uniExec (.hzwait d a f) (uniFall fun b ts => do
    let time ← readU2 b a
    updS fun s =>
      let fl := flagOf (.hzwait d a f) s b (ts.headD 0)
      let s1 := s.countFlag b ts true fl
      { s1 with hzOps := s1.hzOps ++ [{ id := s1.seq, blk := b, tids := ts, time := time.toNat, dst := d, flag := fl, off := s1.roofwalkOff }]
                seq := s1.seq + 1 }) s

/-- HZWAIT_COMPLETE (R416): the horizon has reached the time, or Roofwalk is off, or was at its issue or since. -/
def execHzwaitComplete (id : Nat) (s : State) : Host.Outcome State Fault Refusal :=
  .next (match s.hzOps.find? (·.id == id) with
    | none => s
    | some o =>
      if s.roofwalk.horizon < o.time && !s.roofwalkOff && !o.off then s
      else
        let s1 := s.arriveUni o.blk o.dst (s.hzStatus (s.block o.blk).ctx o.time)
        let s2 := s1.finishFlag o.blk o.tids true o.flag
        { s2 with hzOps := s2.hzOps.filter (·.id != id) })

end Sys2Proof.Machine
end

