-- ==== Sys2Proof/Machine/Engines.lean ====
section
/-! DEFINITION. Engine commands (13_engines.md R292 to R315): issue, chains of records, their data accesses, and the
six kinds. -/

namespace Sys2Proof.Machine

/-! Records (R294, R295). -/

/-- The number at an offset of a record. -/
def recNat (bs : List Byte) (off n : Nat) : Nat := leNat ((bs.drop off).take n)

/-- The 64 bytes of a record as its fields. -/
def parseRec (bs : List Byte) : EngRec :=
  { kind := recNat bs 0 1, flags := recNat bs 1 1, scope := recNat bs 2 1, retry := recNat bs 3 1, len := recNat bs 4 4
    src := w64 (recNat bs 8 8), dst := w64 (recNat bs 16 8), srcdev := recNat bs 24 2, dstdev := recNat bs 26 2
    next := recNat bs 28 4, doneaddr := w64 (recNat bs 32 8), expect := w32 (recNat bs 40 4), tag := recNat bs 44 2
    param := (bs.drop 48).take 16 }

def EngRec.hasNext (r : EngRec) : Bool := r.flags.testBit 0
def EngRec.crc (r : EngRec) : Bool := r.flags.testBit 1
def EngRec.cmp (r : EngRec) : Bool := r.flags.testBit 2
def EngRec.done (r : EngRec) : Bool := r.flags.testBit 3
/-- A field of PARAM, by its offset in the record. -/
def EngRec.par (r : EngRec) (off n : Nat) : Nat := leNat ((r.param.drop (off - 48)).take n)
/-- REMOTE of a device field (R294). -/
def isRemote (dev : Nat) : Bool := dev.testBit 15

/-- A channel mask as CONV and REED take it (R307). -/
def maskOk (m : Nat) : Bool := m != 0 && m < 1024

/-- The checks of a kind on its own record (R304, R307 to R311). -/
def EngRec.kindOk (r : EngRec) : Bool :=
  match r.kind with
  | 0 => r.len ≤ 2 ^ 31 && r.par 48 8 == 0 && r.par 56 8 == 0
  | 1 =>
    r.len % 32 == 0 && maskOk (r.par 52 2) && r.par 54 2 == 0 &&
      (match r.par 48 1 with
       | 0 => r.par 49 1 == 0 && 2 ≤ r.par 50 1 && r.par 50 1 ≤ 16
       | 1 => 2 ≤ r.par 49 1 && r.par 49 1 ≤ 8 && r.par 50 1 == 0 && r.par 51 1 == 0 && r.par 56 8 == 0
       | _ => false)
  | 2 => r.len % 32 == 0 && r.par 49 7 == 0
  | 3 =>
    let n := r.par 56 2
    1 ≤ n && n ≤ 512 && r.par 58 2 < n && r.par 61 1 == 0 &&
      (match r.par 60 1 with
       | 0 => r.par 62 2 == 0
       | 1 => r.par 62 2 == 0 && r.len % 32 == 0
       | 2 => maskOk (r.par 62 2) && r.len % 32 == 0
       | _ => false)
  | 4 => r.par 56 8 == 0
  | 5 =>
    let e := if r.par 48 1 = 1 then 8 else 4
    r.par 48 1 ≤ 9 && r.par 49 3 == 0 && r.par 56 8 == 0 && r.len % e == 0 && r.src.toNat % e == 0 &&
      r.dst.toNat % e == 0 && isRemote r.dstdev && !isRemote r.srcdev
  | _ => false

/-- May an endpoint field stand so (R296)? -/
def devOk (own dev : Nat) (allowed : Bool) : Bool :=
  field dev 10 5 == 0 && (if isRemote dev then allowed && dev % 1024 != own else dev % 1024 == 0)

/-- Is a record legal in its place in the chain (R294 to R296)? -/
def recOk (own kind : Nat) (crc isFirst : Bool) (bs : List Byte) : Bool :=
  let r := parseRec bs
  let isLast := !r.hasNext
  r.kind == kind && r.flags < 16 && r.scope < 8 && r.scope ≤ 4 && r.retry < 16 && recNat bs 46 2 == 0 &&
    (isFirst || (r.scope == 0 && r.tag == 0)) &&
    (isLast || (!r.cmp && !r.done && r.retry == 0 && r.expect == 0 && r.doneaddr == 0)) &&
    r.crc == crc && (!r.crc || kind == 0) && (!r.cmp || r.crc) && (!r.done || r.doneaddr.toNat % 16 == 0) &&
    devOk own r.srcdev (kind == 0) && devOk own r.dstdev (kind == 0 || kind == 5) && r.kindOk

/-- Bytes of the block's scratchpad as the issuing thread of lowest tid would read them now, units filled as its load would fill them
(R299). -/
def State.recordBytes (s : State) (c : Chain) (off n : Nat) : Except Stop (List Byte × State) :=
  let x := s.block c.blk
  let t := c.tids.headD 0
  let ts : List Tgt := (List.range n).map fun i => .sp x.padCore (16 * x.spBase + off + i)
  match s.fillUnits c.blk [t] x.padCore ts with
  | .error e => .error e
  | .ok s1 =>
    let o := { MemOp.mk' c.blk x.padCore [t] (.load false) 0 [] with id := c.id }
    .ok (ts.map (fun u => ((s1.loadByte o none u).1).getD 0), s1)

/-- The records of a chain from an offset on, at most so many, with the index of the first illegal one, if any; an illegal record's
NEXT is followed too, as the last record carries the completion (R295, R300). Else the record that cannot be read. -/
def State.readChain (s : State) (c : Chain) (crc : Option Bool) (off idx : Nat) : Nat → Except (Stop × Nat) (List EngRec × Option Nat × State)
  | 0 => .ok ([], some idx, s)
  | n + 1 =>
    if off % 64 ≠ 0 ∨ off + 64 > 16 * (s.block c.blk).spLen then .ok ([], some (idx - 1), s)
    else
      match s.recordBytes c off 64 with
      | .error e => .error (e, idx)
      | .ok (bs, s1) =>
        let r := parseRec bs
        let k := crc.getD r.crc
        let bad := if recOk s.device c.kind k (idx == 0) bs then none else some idx
        if r.hasNext then
          match s1.readChain c (some k) r.next (idx + 1) n with
          | .error e => .error e
          | .ok q => .ok (r :: q.1, bad.or q.2.1, q.2.2)
        else .ok ([r], bad, s1)

/-! Data accesses (R302). -/

/-- What holds a chain up: a translation, or a home out of reach. -/
inductive EngWait where
  | page (p : Nat) (kind : AccKind)
  | retry (pa : Nat)
  /-- an access of the issuing thread that comes first -/
  | order
deriving DecidableEq, Repr

/-- A step of a run in progress. -/
structure Eng where
  s : State
  blk : Nat
  core : Nat
  ctx : Nat
  /-- pages whose translation has failed -/
  bad : List Nat
  /-- first failure: status and address -/
  fail : Option (Nat × DWord)
  /-- of a chain: how far it has come, and the byte a soft error strikes -/
  run : EngRun
  struck : List Nat
  wrote : List Tgt
  /-- targets of writes that a read may miss (11 R269), and whether one was read -/
  early : List Tgt
  stale : Bool
  /-- the record at hand is carried out -/
  ended : Bool
  /-- what the step asks of a peer device -/
  asks : Option (Nat × PeerTarget × PeerAccess)
deriving DecidableEq, Repr

/-- A run of an agent over memory of a context. -/
def Eng.on (s : State) (blk core ctx : Nat) (bad : List Nat) : Eng :=
  { s, blk, core, ctx, bad, fail := none, run := EngRun.init, struck := [], wrote := [], early := [], stale := false, ended := false
    asks := none }

abbrev E (α : Type) := StateT Eng (Except EngWait) α

def getE : E Eng := fun g => .ok (g, g)
def updE (f : Eng → Eng) : E Unit := fun g => .ok ((), f g)
/-- Update how far a chain has come. -/
def updRun (f : EngRun → EngRun) : E Unit := updE fun g => { g with run := f g.run }
/-- The run fails, unless it has failed already. -/
def failE (status : Nat) (addr : DWord) : E Unit := updE fun g => if g.fail.isSome then g else { g with fail := some (status, addr) }

/-- Status of a refused access (R301). -/
def engStatus (c : Cause) : Nat :=
  match c with
  | .windowRo | .windowEmpty | .windowCtx | .windowRange | .spRange => 4
  | _ => 3

/-- The target of one byte, or the status of the check that fails. -/
def engTgt (kind : AccKind) (ea : DWord) : E (Except Nat Tgt) := fun g =>
  let x := g.s.block g.blk
  let wait (w : EngWait) : Except EngWait (Except Nat Tgt × Eng) := .error w
  let bad (st : Nat) : Except EngWait (Except Nat Tgt × Eng) := .ok (.error st, g)
  if !canonical ea then bad 3
  else
    let first : Except Stop Tgt :=
      if inPadWindow ea then
        (if ea.toNat - padWindow ≥ 16 * x.spLen then .error (.trap .spRange ea 0)
         else .ok (.sp x.padCore (16 * x.spBase + (ea.toNat - padWindow))))
      else
        match g.s.translate (clusterOf g.core) g.ctx ea.toNat kind with
        | .miss => .error (.stall (.xlate g.ctx ea kind))
        | .prot => .error (.trap .xlateProt ea 0)
        | .hit pa onchip =>
          match g.s.physTgt g.ctx (g.s.ctxKey g.ctx) onchip pa (kind == .write) false with
          | .ok t => .ok t
          | .error c => .error (.trap c ea 0)
    let stopped (st : Stop) : Except EngWait (Except Nat Tgt × Eng) :=
      match st with
      | .trap c _ _ => bad (engStatus c)
      | .stall (.xlate _ a k) => if g.bad.contains (a.toNat / 4096) then bad 3 else wait (.page (a.toNat / 4096) k)
      | .stall (.retry pa) => wait (.retry pa)
      | .stall _ => wait .order
    match first with
    | .error st => stopped st
    | .ok t =>
      match (match t with | .dev pa _ => if g.s.reach noCore pa then none else some pa | _ => none) with
      | some pa => wait (.retry pa)
      | none =>
        match g.s.fillUnits g.blk [] g.core [t] with
        | .error st => stopped st
        | .ok s' => .ok (.ok t, { g with s := s' })

/-- The byte at a target, at its home point: the spec does not say whether a command of scope .core may read the issuing core's view
instead (R302; 07 R197; DESIGN CHOICE; log entry 54). -/
def readTgt (t : Tgt) : E Byte := fun g =>
  let q := g.s.define [g.s.tgtByte t]
  .ok (q.1.headD 0, { g with s := q.2, stale := g.stale || g.early.contains t })

/-- Read one byte; 0 once the run has failed. -/
def readE (ea : DWord) : E Byte := do
  if (← getE).fail.isSome then return 0
  match ← engTgt .read ea with
  | .error st => do failE st ea; return 0
  | .ok t => readTgt t

/-- Read n bytes; the list stops where the run fails. -/
def readBytes (ea : DWord) : Nat → E (List Byte)
  | 0 => return []
  | n + 1 => do
    let b ← readE ea
    if (← getE).fail.isSome then return []
    return b :: (← readBytes (ea + 1) n)

/-- Write one byte at a target as an engine of a core does (R302; 07 R174). -/
def State.engWrite (s : State) (core : Nat) (t : Tgt) (v : Byte) : State :=
  match t with
  | .dev pa key =>
    let s1 := s.setHomeByte pa key v
    let k := viewKey core key pa
    if (Cells.get? k s1.views).isSome then { s1 with views := Cells.set k v s1.views } else s1
  | .sp c off => (s.setPadByte c off v).poisonPad c off
  | t => s.setTgt t v

/-- Write one byte; its granule is not yet full. True when it is written. -/
def putE (ea : DWord) (v : Byte) : E Bool := do
  if (← getE).fail.isSome then return false
  match ← engTgt .write ea with
  | .error st => do failE st ea; return false
  | .ok t => do
    updE fun g => { g with s := g.s.engWrite g.core t v, wrote := t :: g.wrote }
    return true

/-- Write one byte and set its granule full; nothing once the run has failed. -/
def writeE (ea : DWord) (v : Byte) : E Unit := do
  if ← putE ea v then updE fun g => { g with s := g.wrote.head?.elim g.s (g.s.setFull · true) }

/-- Check that every byte from an address on can be written. -/
def checkWrites (ea : DWord) (n : Nat) : E Unit :=
  (List.range n).forM fun i => do
    if (← getE).fail.isNone then
      match ← engTgt .write (ea + w64 i) with
      | .error st => failE st (ea + w64 i)
      | .ok _ => pure ()

/-- Addresses of consecutive bytes. -/
def placed (ea : DWord) (bs : List Byte) : List (DWord × Byte) := (bs.zipIdx).map fun e => (ea + w64 e.2, e.1)

/-! Formats. -/

/-- Header and planes of a residue-plane tile of integers (10 R243, R307). -/
def tileBytes (mask : Nat) (vs : List Int) : List Byte :=
  let chs := (List.range 10).filter mask.testBit
  leBytes 2 mask ++ leBytes 2 0 ++ leBytes 4 vs.length ++ leBytes 8 0 ++
    chs.flatMap fun c => vs.map fun v => BitVec.ofNat 8 (v % (modulus c : Int)).toNat

/-- Eight bit-planes of 8-bit values (09 R130). -/
def planeBytes (vs : List Int) : List Byte :=
  (List.range 8).flatMap fun j => (List.range (vs.length / 8)).map fun k =>
    BitVec.ofNat 8 ((List.range 8).foldl (fun n i =>
      n + if ((vs.getD (8 * k + i) 0) % 256).toNat.testBit (7 - j) then 2 ^ i else 0) 0)

/-- Round q · 2^k to an integer, ties to even. -/
def scaleHalfEven (q k : Int) : Int :=
  if k ≥ 0 then q * 2 ^ k.toNat else roundQuot q (-k).toNat 0

/-- CONV's outputs from its source bytes, with its saturation count (R307). -/
def convValues (r : EngRec) (src scales : List Byte) : List Int × Nat :=
  if r.par 48 1 = 0 then
    let vs := (List.range r.len).map fun i =>
      let q := sextNat 16 (leNat ((src.drop (2 * i)).take 2))
      let e := sextNat 8 ((scales.getD (i / 32) 0).toNat)
      let v := scaleHalfEven q (e - sextNat 8 (r.par 51 1))
      let o := satS v (r.par 50 1)
      (o, o != v)
    (vs.map (·.1), (vs.filter (·.2)).length)
  else
    let p := r.par 49 1
    let plane := r.len / 8
    ((List.range r.len).map fun i =>
      let bits := (List.range p).foldl (fun n j =>
        2 * n + if ((src.getD (j * plane + i / 8) 0).toNat).testBit (i % 8) then 1 else 0) 0
      sextNat p bits, 0)

/-- floor(log2 |x|) of a finite non-zero bfloat16, and its signed value as m · 2^e. -/
def bfParts (w : Nat) : Int × Int :=
  let ex := field w 7 8
  let man := w % 128
  let m : Nat := if ex = 0 then man else man + 128
  let e : Int := (if ex = 0 then 1 else (ex : Int)) - 134
  ((if w.testBit 15 then -(m : Int) else (m : Int)), e)

/-- Exponent of a finite non-zero bfloat16. -/
def bfExponent (w : Nat) : Int := let p := bfParts w; (Nat.log2 p.1.natAbs : Int) + p.2

def bfFinite (w : Nat) : Bool := field w 7 8 != 255
def bfZero (w : Nat) : Bool := w % 32768 == 0
def bfNan (w : Nat) : Bool := field w 7 8 == 255 && w % 128 != 0

/-- Insert an exponent in ascending order. -/
def placeInt (v : Int) : List Int → List Int
  | [] => [v]
  | a :: r => if v ≤ a then v :: a :: r else a :: placeInt v r

/-- Scale of a group of 32 (R308). -/
def gaugeScale (q : Nat) (ws : List Nat) : Int :=
  let xs := (ws.filter fun w => bfFinite w && !bfZero w).foldl (fun l w => placeInt (bfExponent w) l) []
  let c := xs.length
  if c = 0 then -128
  else
    let r := ((q + 1) * c + 255) / 256
    let e := xs.getD (r - 1) 0
    if e < -128 then -128 else e

/-- Encode one element under a scale (09 R131): the integer, and whether it clipped. -/
def gaugeEncode (e : Int) (w : Nat) : Int × Bool :=
  if bfNan w then (0, true)
  else if !bfFinite w || (!bfZero w && bfExponent w > e) then (if w.testBit 15 then -32767 else 32767, true)
  else let p := bfParts w; (scaleHalfEven p.1 (p.2 + 14 - e), false)

/-- GAUGE's elements, scales and clip count (R308). -/
def gaugeValues (r : EngRec) (src : List Byte) : List Int × List Int × Nat :=
  let ws := (List.range r.len).map fun i => leNat ((src.drop (2 * i)).take 2)
  let scales := (List.range (r.len / 32)).map fun g => gaugeScale (r.par 48 1) ((ws.drop (32 * g)).take 32)
  let es := (ws.zipIdx).map fun q => gaugeEncode (scales.getD (q.2 / 32) 0) q.1
  (es.map (·.1), scales, (es.filter (·.2)).length)

/-- Is a REED table entry legal (R309)? -/
def reedEntryOk (n e : Nat) : Bool :=
  field e 12 2 == 0 && e < 2 ^ 23 && field e 8 4 ≤ 8 && field e 14 9 + 2 ^ field e 8 4 ≤ n

/-- REED's outputs: state, bit position, so many to go (R309). -/
def reedRun (table : List Nat) (stream : List Byte) (st pos : Nat) : Nat → List Int
  | 0 => []
  | n + 1 =>
    let e := table.getD st 0
    let k := field e 8 4
    let b := (List.range k).foldl (fun v i =>
      v + if ((stream.getD ((pos + i) / 8) 0).toNat).testBit ((pos + i) % 8) then 2 ^ i else 0) 0
    sextNat 8 (e % 256) :: reedRun table stream (field e 14 9 + b) (pos + k) n

/-- REED's values for a record: table and stream are read; an illegal table is BADREC (R309). -/
def reedValues (r : EngRec) : E (List Int) := do
  let n := r.par 56 2
  let tb ← readBytes (w64 (r.par 48 8)) (4 * n)
  if (← getE).fail.isSome then return []
  let table := (List.range n).map fun i => leNat ((tb.drop (4 * i)).take 4)
  if table.any fun e => !reedEntryOk n e then
    failE 2 (w64 (r.par 48 8))
    return []
  let stream ← readBytes r.src r.len
  if (← getE).fail.isSome then
    updE fun g => { g with fail := g.fail.map fun e => (3, e.2) }
    return []
  return reedRun table stream (r.par 58 2) 0 r.len

/-- CONV's values for a record. -/
def convRead (r : EngRec) : E (List Int × Nat) := do
  let fmt0 := r.par 48 1 == 0
  let src ← readBytes r.src (if fmt0 then 2 * r.len else r.par 49 1 * (r.len / 8))
  let scales ← if fmt0 then readBytes (w64 (r.par 56 8)) (r.len / 32) else pure []
  if (← getE).fail.isSome then return ([], 0)
  return convValues r src scales

/-! Outputs: where a record writes, and in what units (R300, R302, R303). -/

/-- The address ranges a record may write, with their lengths. -/
def EngRec.outRanges (r : EngRec) : List (Nat × Nat) :=
  let planes (mask : Nat) : Nat := 16 + ((List.range 10).filter mask.testBit).length * r.len
  match r.kind with
  | 0 => if isRemote r.dstdev then [] else [(r.dst.toNat, r.len)]
  | 1 => [(r.dst.toNat, planes (r.par 52 2))]
  | 2 => [(r.par 56 8, r.len / 32), (r.dst.toNat, 2 * r.len)]
  | 3 => [(r.dst.toNat, if r.par 60 1 = 2 then planes (r.par 62 2) else r.len)]
  | 4 => [(r.dst.toNat, 4 + 4 * Nat.min r.len (r.par 52 4))]
  | _ => []

/-- Does a later record of the chain write into the granule of an address? -/
def laterWrites (later : List EngRec) (ea : DWord) : Bool :=
  later.any fun r => r.outRanges.any fun p => rangesMeet p.1 p.2 (ea.toNat / 16 * 16) 16

/-- The granule that the chain's last write holds back, by its address over 16: the highest one of the last record's destination, where
that has full/empty bits and no DONE is asked for (R300). -/
def holdGran (last : Bool) (top : DWord) : E (Option Nat) := do
  if !last then return none
  match ← engTgt .write top with
  | .ok t => return t.granKey.map fun _ => top.toNat / 16
  | .error _ => return none

/-- Write or hold back one output; true when it is delivered. -/
def outE (hold : Option Nat) (e : DWord × Byte) : E Bool := do
  if (← getE).fail.isSome then return false
  if hold = some (e.1.toNat / 16) then
    match ← engTgt .write e.1 with
    | .error st => do failE st e.1; return false
    | .ok _ => do
      updRun fun r => { r with held := r.held ++ [e] }
      return true
  else putE e.1 e.2

/-- The granules of the outputs delivered turn full, once the chain's bytes for them are written (R302); rest tells those that bytes of
the record still to come lie in. Where the step has failed, the bytes to come are never written. -/
def turnFull (later : List EngRec) (rest : DWord → Bool) (hold : Option Nat) (outs : List (DWord × Byte)) : E Unit :=
  outs.forM fun e => do
    if hold != some (e.1.toNat / 16) then
      match ← engTgt .write e.1 with
      | .error _ => pure ()
      | .ok t =>
        if !(rest e.1 || laterWrites later e.1) then updE fun g => { g with s := g.s.setFull t true }
        else if (← getE).fail.isNone then updRun fun r => { r with late := t :: r.late }

/-- Bytes of an aligned 64-byte unit from an address on, at most n (R303). -/
def unitLen (ea : DWord) (n : Nat) : Nat := Nat.min (64 - ea.toNat % 64) n

/-- Write the next unit of a record's outputs; each byte delivered is one output less, where the unit fails midway too (R300, R301). -/
def writeUnit (later : List EngRec) (last : Bool) (outs : List (DWord × Byte)) : E Unit := do
  match outs.head?, outs.getLast? with
  | some (ea, _), some (top, _) =>
    let hold ← holdGran last top
    let unit := outs.takeWhile fun e => e.1.toNat / 64 == ea.toNat / 64
    unit.forM fun e => do
      if ← outE hold e then updRun fun r => { r with outs := r.outs.map (·.drop 1) }
    let rest := ((← getE).run.outs).getD []
    turnFull later (fun a => rest.any fun e => e.1.toNat / 16 == a.toNat / 16) hold (unit.take (outs.length - rest.length))
  | _, _ => updE fun g => { g with ended := true }

/-! COPY (R304, R305). -/

/-- Deliver a byte: a soft error strikes it before the delivery point (R305). -/
def deliverByte (v : Byte) : E Byte := fun g =>
  let hit := g.struck.head? == some g.run.count
  let w : Byte := if hit then v ^^^ BitVec.ofNat 8 ((Config.freeWord g.s.fresh).toNat % 255 + 1) else v
  .ok (w, { g with run := { g.run with count := g.run.count + 1 }, s := if hit then { g.s with fresh := g.s.fresh + 1 } else g.s })

/-- Do the ranges of a COPY record lie on one device and overlap (R304)? -/
def EngRec.overlaps (r : EngRec) : Bool := r.srcdev == r.dstdev && rangesMeet r.src.toNat r.len r.dst.toNat r.len

/-- The bytes a COPY delivers from an offset on: an overlapped destination byte is an undefined value (R304). -/
def copyBytes (r : EngRec) (off : Nat) (bs : List Byte) : E (List (DWord × Byte)) :=
  (bs.zipIdx).mapM fun e => do
    let a := r.dst + w64 (off + e.2)
    let v ← (if r.overlaps && r.src.toNat ≤ a.toNat && a.toNat < r.src.toNat + r.len then fun g =>
        .ok (((Config.freeWord g.s.fresh).truncate 8 : Byte), { g with s := { g.s with fresh := g.s.fresh + 1 } })
      else pure e.1 : E Byte)
    return (a, ← deliverByte v)

/-- Has a device left the domain (R296; 19_outside.md R442)? -/
def deviceLost (dev : Nat) : E Bool := fun g => .ok (isRemote dev && g.s.links.lostPeers.contains (dev % 1024), g)

/-- The next source bytes of a COPY record, local: as many as can be read, and a failure only where none can. A record whose ranges
overlap is read whole before it is written, so that the bytes outside the overlap are exact. -/
def copyRead (r : EngRec) (off n : Nat) : E Unit := do
  let bs ← readBytes (r.src + w64 off) n
  if !bs.isEmpty then updE fun g => { g with fail := none, run := { g.run with got := some bs } }

/-- One step of a COPY record: the next bytes are read, or asked of a peer; then they are written, or sent to a peer, whose answer holds
the CRC (R304, R305). The peer's answer: 0 refuses; else the bytes asked for, or the CRC. -/
def copyStep (r : EngRec) (later : List EngRec) (last : Bool) (asked : Bool) (answer : List Byte) : E Unit := do
  let g ← getE
  let off := g.run.done
  let src := r.src + w64 off
  let dst := r.dst + w64 off
  let n := if r.overlaps then r.len - off else unitLen dst (r.len - off)
  if off ≥ r.len then updE fun g => { g with ended := true }
  else if ← deviceLost r.srcdev then failE 6 src
  else if ← deviceLost r.dstdev then failE 6 dst
  else
    match g.run.got with
    | none =>
      if !isRemote r.srcdev then copyRead r off n
      else if !asked then updE fun g => { g with asks := some (r.srcdev % 1024, .generic g.ctx src, .read n) }
      else
        match answer with
        | [] => pure ()
        | a :: bs => if a = 0 || bs.length < n then failE 6 src else updRun fun q => { q with got := some (bs.take n) }
    | some bs =>
      if !isRemote r.dstdev then
        let unit := bs.take (unitLen dst bs.length)
        let rest := bs.drop unit.length
        let outs ← copyBytes r off unit
        let hold ← holdGran last (r.dst + w64 (r.len - 1))
        outs.forM fun e => do
          if ← outE hold e then
            updRun fun q => { q with result := q.result + 1, done := q.done + 1, crc := if r.crc then crc32cFrom q.crc [e.2] else 0 }
        let top := (← getE).run.done
        turnFull later (fun a => top < r.len && (r.dst + w64 top).toNat / 16 == a.toNat / 16) hold (outs.take (top - off))
        updRun fun q => { q with got := if rest.isEmpty then none else some rest }
      else if !asked then
        let outs ← copyBytes r off (bs.take n)
        updE fun g => { g with run := { g.run with got := some (outs.map (·.2) ++ bs.drop n) }
                               asks := some (r.dstdev % 1024, .generic g.ctx dst, .copy g.run.crc (outs.map (·.2))) }
      else
        match answer with
        | [] => pure ()
        | a :: cs =>
          if a = 0 then failE 6 dst
          else
            let k := Nat.min n bs.length
            updRun fun q => { q with result := q.result + k, done := q.done + k, crc := if r.crc then leNat (cs.take 4) else 0
                                     got := if k < bs.length then some (bs.drop k) else none }

/-! The other kinds: a record's sources are read, then its outputs are written unit by unit. -/

/-- A record's outputs, and what it adds to RESULT as they are computed; true when an ALIST overflowed (R307 to R310). -/
def computeOuts (r : EngRec) : E (List (DWord × Byte) × Nat × Bool) := do
  match r.kind with
  | 1 =>
    let q ← convRead r
    return (placed r.dst (tileBytes (r.par 52 2) q.1), q.2, false)
  | 2 =>
    let src ← readBytes r.src (2 * r.len)
    let q := gaugeValues r src
    return (placed (w64 (r.par 56 8)) (q.2.1.map fun e => BitVec.ofInt 8 e) ++
      placed r.dst (q.1.flatMap fun v => leBytes 2 (BitVec.ofInt 16 v).toNat), q.2.2, false)
  | 3 =>
    let vs ← reedValues r
    let bytes : List Byte := match r.par 60 1 with
      | 0 => vs.map fun v => BitVec.ofInt 8 v
      | 1 => planeBytes vs
      | _ => tileBytes (r.par 62 2) vs
    return (placed r.dst bytes, 0, false)
  | 4 =>
    let src ← readBytes r.src r.len
    let act := ((src.zipIdx).filter fun e => e.1 != 0).map (·.2)
    let maxn := r.par 52 4
    return (placed r.dst (leBytes 4 (Nat.min act.length maxn) ++ (act.take maxn).flatMap fun i => leBytes 4 ((r.par 48 4 + i) % 2 ^ 32)),
      act.length, act.length > maxn)
  | _ => return ([], 0, false)

/-- Elements of a REED record that are written once all but so many of its output bytes are (R300, R309): an element of a tensor is
written with its last plane. -/
def reedWritten (r : EngRec) (left : Nat) : Nat :=
  match r.par 60 1 with
  | 0 => r.len - left
  | 1 => (r.len / 8 - left) * 8
  | _ => r.len - left

/-- One step of a record that is no COPY and no COLL; idx is its place in the chain. -/
def recordStep (r : EngRec) (idx : Nat) (later : List EngRec) (last : Bool) : E Unit := do
  match (← getE).run.outs with
  | none =>
    let q ← computeOuts r
    if (← getE).fail.isNone then
      updRun fun u => { u with
        outs := some q.1, result := (if r.kind = 4 then 0 else u.result) + q.2.1
        overflow := if q.2.2 && u.overflow.isNone then some idx else u.overflow }
  | some outs =>
    writeUnit later last outs
    if r.kind = 3 then
      let left := (((← getE).run.outs).getD []).length
      updRun fun u => { u with result := u.result + (reedWritten r left - reedWritten r outs.length) }

/-! Issue (R297, R298). -/

/-- Scope of a scope code. -/
def scopeOf (n : Nat) : Scope :=
  match n with
  | 0 => .core
  | 1 => .die
  | 2 => .pkg
  | 3 => .dom
  | _ => .sys

/-- Count a command's flag in every live thread and note its scope for the waits on it (02 R49; 07 R198). -/
def State.countCommand (s : State) (b : Nat) (fl : Option Nat) (sc : Scope) : State :=
  let s1 := s.countFlag b [] true fl
  match fl with
  | none => s1
  | some f => (s.block b).liveTids.foldl (fun (s : State) t => s.modThread b t (·.noteCmd f sc)) s1

/-- Issue of an engine command (R298). -/
def engIssue (i : Instr) (kind : Nat) (a : UReg) (rel : Bool) : State → Host.Outcome State Fault Refusal :=
  uniExec i (uniFall fun b ts => do
    let off := (← readU b a).toNat
    let x ← getB b
    if off % 64 ≠ 0 ∨ off + 64 > 16 * x.spLen then trap .engArg
    let bs ← plainRead b (ts.headD 0) (w64 (padWindow + off)) 48 1
    if recNat bs 0 1 ≠ kind then trap .engArg
    let s ← getS
    if (s.chains.filter (·.core == x.core)).length ≥ 16 then stall .chainLimit
    let sc := recNat bs 2 1
    let fl := flagOf i s b (ts.headD 0)
    if rel && sc ≤ 4 then updS (·.beginRelease b ts (scopeOf sc))
    updS fun s =>
      let s1 := (s.countCommand b fl (if sc ≤ 4 then scopeOf sc else .core)).oxAbandon b
      { s1 with
        chains := s1.chains ++ [{ id := s1.seq, blk := b, ctx := x.ctx, tids := ts, core := x.core, kind, off, rel, scope := sc
                                  tag := recNat bs 44 2, flag := fl, started := false, outcome := none, recs := []
                                  waiting := none, run := EngRun.init, pos := 0, collTries := 0, sentAt := none, struck := [] }]
        seq := s1.seq + 1 })

/-- COPY. -/
def execCopy (a : UReg) (f rel : Bool) (s : State) : Host.Outcome State Fault Refusal := engIssue (.copy a f rel) 0 a rel s
/-- CONV. -/
def execConv (a : UReg) (f rel : Bool) (s : State) : Host.Outcome State Fault Refusal := engIssue (.conv a f rel) 1 a rel s
/-- GAUGE. -/
def execGauge (a : UReg) (f rel : Bool) (s : State) : Host.Outcome State Fault Refusal := engIssue (.gauge a f rel) 2 a rel s
/-- REED. -/
def execReed (a : UReg) (f rel : Bool) (s : State) : Host.Outcome State Fault Refusal := engIssue (.reed a f rel) 3 a rel s
/-- ALIST. -/
def execAlist (a : UReg) (f rel : Bool) (s : State) : Host.Outcome State Fault Refusal := engIssue (.alist a f rel) 4 a rel s
/-- COLL. -/
def execColl (a : UReg) (f rel : Bool) (s : State) : Host.Outcome State Fault Refusal := engIssue (.coll a f rel) 5 a rel s

/-- Cancel a block's unstarted chains that a test picks (R313): each ends with CANCELLED; its completion write and flag
follow at ENGINE_CHAIN_FINISH. -/
def State.cancelChains (s : State) (b : Nat) (f : Chain → Bool) : State × Nat :=
  let hit (c : Chain) : Bool := c.blk == b && !c.started && c.outcome.isNone && f c
  ({ s with chains := s.chains.map fun (c : Chain) =>
      if hit c then { c with started := true, outcome := some (1, 0, 0, 0, 0, 0), waiting := none } else c },
   (s.chains.filter hit).length)

/-- ECANCEL (R313). -/
def execEcancel (d a : UReg) (s : State) : Host.Outcome State Fault Refusal :=
  uniExec (.ecancel d a) (uniFall fun b _ => do
    let tag := (← readU b a).toNat % 65536
    fun s =>
      let p := (s.oxAbandon b).cancelChains b (·.tag == tag)
      .ok ((), p.1.modBlock b (·.writeU d (w32 p.2)))) s

/-- ECANCEL.all (R313). -/
def execEcancelAll (d : UReg) (s : State) : Host.Outcome State Fault Refusal :=
  uniExec (.ecancelAll d) (uniFall fun b _ => fun s =>
    let p := (s.oxAbandon b).cancelChains b (fun _ => true)
    .ok ((), p.1.modBlock b (·.writeU d (w32 p.2)))) s

/-! The chain runs (R298 to R306, R312). -/

/-- Change a chain. -/
def State.modChain (s : State) (id : Nat) (f : Chain → Chain) : State :=
  { s with chains := s.chains.map fun (c : Chain) => if c.id = id then f c else c }

/-- Do the release conditions of a .rel chain hold (R197, R298)? -/
def State.chainReleased (s : State) (c : Chain) : Bool :=
  !c.rel || c.scope > 4 ||
    let obs := (c.tids.flatMap fun t => (s.thread c.blk t).observed).filter (· < c.id)
    !s.releaseWaits c.blk c.tids c.id (scopeOf c.scope) obs

/-- What a held-up run does: the walk is raised, or the retry is counted. -/
def State.engHold (s : State) (id core ctx : Nat) (w : EngWait) : State :=
  match w with
  | .retry pa => s.noteRetry noCore pa
  | .page p k => (s.raiseWalk (clusterOf core) ctx p k false true).modChain id fun c => { c with waiting := some (p, false) }
  | .order => s

/-- A step of a chain over the state. -/
def Chain.eng (c : Chain) (s : State) : Eng :=
  { Eng.on s c.blk c.core c.ctx (match c.waiting with | some (p, true) => [p] | _ => []) with run := c.run, struck := c.struck }

/-- Which unit of its cluster carries a kind out: copy engines 0, Gauge 1, Reed 2 (R292). -/
def unitOf (kind : Nat) : Nat := if kind = 2 then 1 else if kind = 3 then 2 else 0
/-- Units of a sort in a cluster (R292). -/
def unitsOf (u : Nat) : Nat := if u = 0 then 2 else 1

/-- Does a chain occupy its unit: it has started, and was not cancelled before? -/
def Chain.running (c : Chain) : Bool := c.started && !c.outcome.any (·.1 == 1)

/-- Is a free unit of its sort in the chain's cluster (01 R14; R293)? -/
def State.unitFree (s : State) (c : Chain) : Bool :=
  (s.chains.filter fun d => d.running && clusterOf d.core == clusterOf c.core && unitOf d.kind == unitOf c.kind).length < unitsOf (unitOf c.kind)

/-- Could a chain start but for its unit: the oldest of its core, its block resident, its release over (R293, R298)? -/
def State.startable (s : State) (c : Chain) : Bool :=
  let x := s.block c.blk
  !c.started && c.outcome.isNone && s.chains.all (fun d => d.core != c.core || d.id ≥ c.id || d.started) &&
    x.inSlot && x.life != .saving && s.chainReleased c

/-- How far away a core's turn at a unit of its cluster is (R293). -/
def State.unitTurn (s : State) (c : Chain) : Nat :=
  (c.core + 7 - Cells.getD (unitOf c.kind) 7 (s.getCluster (clusterOf c.core)).served % 8) % 8

/-- Is it the chain's turn: no other core of the cluster with a chain to start comes before in the unit's rotation (R293)? -/
def State.chainsTurn (s : State) (c : Chain) : Bool :=
  s.chains.all fun d => clusterOf d.core != clusterOf c.core || unitOf d.kind != unitOf c.kind || !s.startable d || s.unitTurn c ≤ s.unitTurn d

/-- An outcome of a chain: status, retries, CRC, RESULT, index, failing address. -/
def Chain.outcomeOf (c : Chain) (status idx : Nat) (addr : DWord) : Nat × Nat × Nat × Nat × Nat × DWord :=
  (status, c.run.tries, if c.recs.any (·.crc) then c.run.crc else 0, c.run.result % 2 ^ 32, idx, addr)

/-- A chain's data accesses are over: granules left to turn full do, and the outcome stands (R298, R302). -/
def State.endChain (s : State) (c : Chain) (status idx : Nat) (addr : DWord) : State :=
  (c.run.late.foldl (fun (s : State) t => s.setFull t true) s).modChain c.id fun d =>
    { d with outcome := some (c.outcomeOf status idx addr), run := { c.run with late := [] }, waiting := none, sentAt := none }

/-- The end of an attempt (R298, R306): the CRC decides on a retry. -/
def State.endAttempt (s : State) (c : Chain) : State :=
  match c.recs.getLast? with
  | none => s.endChain c 2 0 0
  | some l =>
    if l.cmp && l.expect.toNat != c.run.crc then
      if c.run.tries < l.retry then
        s.modChain c.id fun d => { d with
          pos := 0, struck := d.struck.drop 1, run := { EngRun.init with tries := c.run.tries + 1, late := c.run.late } }
      else s.endChain c 5 (c.recs.length - 1) 0
    else
      match c.run.overflow with
      | some i => s.endChain c 8 i 0
      | none => s.endChain c 0 0xFFFFFFFF 0

/-- The work of a step on the record at hand. -/
def Chain.step (c : Chain) (r : EngRec) (answer : List Byte) : E Unit :=
  let later := c.recs.drop (c.pos + 1)
  let last := later.isEmpty && !r.done
  if r.kind = 0 then copyStep r later last c.sentAt.isSome answer else recordStep r c.pos later last

/-- A peer's answer to an access or step of a chain is a message of its device (19 R442). -/
def State.hearAnswer (s : State) (c : Chain) (r : EngRec) (answer : List Byte) : State :=
  if c.sentAt.isNone || answer.isEmpty then s
  else ([r.srcdev, r.dstdev].filter isRemote).foldl (fun (s : State) d => s.hearOther (d % 1024)) s

/-- One step of a chain that is no COLL: the next unit of its record (R298, R303). -/
def State.chainStep (s : State) (c : Chain) (answer : List Byte) : State :=
  match c.recs[c.pos]? with
  | none => s.endAttempt c
  | some r =>
    let lost (dev : Nat) : Bool := isRemote dev && s.links.lostPeers.contains (dev % 1024)
    let gone := lost r.srcdev || lost r.dstdev
    -- what a lost peer answers is dropped (19 R442)
    let answer := if c.sentAt.isSome && gone then [] else answer
    if c.sentAt.isSome && answer.isEmpty && !gone then s
    else
    let s := s.hearAnswer c r answer
    match (c.step r answer).run (c.eng s) with
    | .error w => s.engHold c.id c.core c.ctx w
    | .ok (_, g) =>
      let s1 : State := { g.s.oweTgts g.s.seq g.wrote with seq := g.s.seq + 1 }
      let d := { c with run := g.run }
      match g.fail, g.asks with
      | some (st, a), _ => s1.endChain d st c.pos a
      | none, some (dev, tg, acc) =>
        ({ s1.notePeer c.ctx dev with outbox := s1.outbox ++ [.remote dev tg acc] } : State).modChain c.id fun e =>
          { e with run := g.run, waiting := none, sentAt := some s.now }
      | none, none =>
        s1.modChain c.id fun e =>
          if g.ended then { e with run := { g.run with done := 0, outs := none, got := none }, pos := c.pos + 1, waiting := none, sentAt := none }
          else { e with run := g.run, waiting := none, sentAt := if answer.isEmpty then e.sentAt else none }

/-- Bytes of the first so many records. -/
def lenSum (rs : List EngRec) : Nat := (rs.map (·.len)).sum % 2 ^ 32

/-- The current step of a COLL ends the chain (R312). -/
def State.endColl (s : State) (c : Chain) (status : Nat) (addr : DWord) : State :=
  s.modChain c.id fun d => { d with
    outcome := some (status, c.collTries, 0, lenSum (c.recs.take c.pos), if status = 0 then 0xFFFFFFFF else c.pos, addr) }

/-- An attempt of a COLL step has failed: it is sent again, or the chain ends with COLLTMO (R312). -/
def State.failColl (s : State) (c : Chain) : State :=
  if c.collTries < (c.recs.getLast?.map (·.retry)).getD 0 then s.modChain c.id fun d => { d with collTries := d.collTries + 1, sentAt := none }
  else s.endColl c 7 ((c.recs[c.pos]?.map (·.dst)).getD 0)

/-- COLL's current step (R311, R312): sent from SRC when it is not in flight. The peer's answer: 0 refuses it, 2 reports a link error,
anything else acknowledges it, and the next step starts with all its retries. A device that has left the domain refuses at once. -/
def State.runColl (s : State) (c : Chain) (answer : List Byte) : State :=
  match c.recs[c.pos]? with
  | none => s.endColl c 0 0
  | some r =>
    if s.links.lostPeers.contains (r.dstdev % 1024) then s.endColl c 6 r.dst
    else
      let s := s.hearAnswer c r answer
      match c.sentAt, answer with
      | some _, a :: _ =>
        if a = 0 then s.endColl c 6 r.dst
        else if a = 2 then s.failColl c
        else s.modChain c.id fun d => { d with
          pos := d.pos + 1, sentAt := none, waiting := none, collTries := if d.pos + 1 < d.recs.length then 0 else d.collTries }
      | some _, [] => s
      | none, _ =>
        match (readBytes r.src r.len).run (c.eng s) with
        | .error w => s.engHold c.id c.core c.ctx w
        | .ok (bs, g) =>
          match g.fail with
          | some (st, a) => g.s.endColl c st a
          | none =>
            let s1 : State := { g.s.notePeer c.ctx (r.dstdev % 1024) with outbox := g.s.outbox ++
              [.collStep (r.dstdev % 1024) c.ctx (r.par 52 4) (r.par 48 1) r.dst bs] }
            s1.modChain c.id fun c => { c with sentAt := some s.now, waiting := none }

/-- The chain's records are read; a bad one ends it, first by its own fault, then by SCOPE or TAG changed since the issue (R298). -/
def State.readRecords (s : State) (c : Chain) : State :=
  match s.readChain c none c.off 0 64 with
  | .error (.trap cause a _, i) => s.modChain c.id fun d => { d with outcome := some (engStatus cause, 0, 0, 0, i, a) }
  | .error (.stall (.xlate ctx a k), i) =>
    if c.waiting = some (a.toNat / 4096, true) then s.modChain c.id fun d => { d with outcome := some (3, 0, 0, 0, i, a) }
    else s.engHold c.id c.core ctx (.page (a.toNat / 4096) k)
  | .error (.stall (.retry pa), _) => s.engHold c.id c.core c.ctx (.retry pa)
  | .error (.stall _, _) => s
  | .ok (recs, bad, s1) =>
    let bad := bad.or (match recs with | r :: _ => if r.scope != c.scope || r.tag != c.tag then some 0 else none | [] => some 0)
    s1.modChain c.id fun d => { d with
      recs, waiting := none, outcome := match bad with | some i => some (2, 0, 0, 0, i, 0) | none => none }

/-- ENGINE_CHAIN_START (R293, R298): a unit takes the chain in its turn and reads its records; then the chain is carried out step by
step. The answer is what a peer device returned. -/
def execEngineChainStart (id : Nat) (answer : List Byte) (s : State) : Host.Outcome State Fault Refusal :=
  .next (match s.chains.find? (·.id == id) with
    | none => s
    | some c =>
      if c.outcome.isSome || (match c.waiting with | some (_, false) => true | _ => false) then s
      else if !c.started then
        (if s.startable c && s.unitFree c && s.chainsTurn c then
          ((s.modChain id fun c => { c with started := true }).modCluster (clusterOf c.core) fun k =>
            { k with served := Cells.set (unitOf c.kind) (c.core % 8) k.served }).readRecords { c with started := true }
         else s)
      else if c.recs.isEmpty then s.readRecords c
      else if c.kind = 5 then s.runColl c answer
      else s.chainStep c answer)

/-- COLL_ACK_TIMEOUT (R312): no acknowledgment in time: the step is sent again, or the chain ends with COLLTMO. -/
def execCollAckTimeout (id : Nat) (s : State) : Host.Outcome State Fault Refusal :=
  .next (match s.chains.find? (·.id == id) with
    | none => s
    | some c =>
      match c.sentAt, c.outcome with
      | some t, none =>
        if c.kind ≠ 5 ∨ s.now < t + 360000 ∨ c.recs[c.pos]?.any (fun r => s.links.lostPeers.contains (r.dstdev % 1024)) = true then s
        else s.failColl c
      | _, _ => s)

/-- The completion granule (R300). -/
def doneBytes (o : Nat × Nat × Nat × Nat × Nat × DWord) : List Byte :=
  leBytes 4 (o.1 + 256 * o.2.1) ++ leBytes 4 o.2.2.1 ++ leBytes 4 o.2.2.2.1 ++ leBytes 4 o.2.2.2.2.1

/-- The scope a completion write leaves at its granule (07 R198). -/
def State.noteDone (s : State) (t : Tgt) (sc : Scope) : State :=
  match t.granKey with
  | some k => { s with doneGrans := Cells.set k sc s.doneGrans }
  | none => s

/-- The ENG_ERROR record of a chain (R301; 18_errors.md R419). -/
def State.engError (s : State) (c : Chain) (status retries idx : Nat) (addr : DWord) : State :=
  s.record c.ctx { kind := 0x05, core := c.core, slot := (s.block c.blk).slot, addr := addr.toNat
                   detail := leBytes 1 status ++ leBytes 1 retries ++ leBytes 2 c.tag ++ leBytes 4 idx }

/-- A chain is over: its flag is decremented (R300). -/
def State.dropChain (s : State) (c : Chain) : State :=
  let s1 := s.finishFlag c.blk [] true c.flag
  { s1 with chains := s1.chains.filter (·.id != c.id) }

/-- The completion write of a chain with an outcome: the DONE granule, or the bytes held back (R300). It is checked whole before a byte is
written. -/
def Chain.completion (c : Chain) (o : Nat × Nat × Nat × Nat × Nat × DWord) (last : Option EngRec) : List (DWord × Byte) :=
  match last with
  | some l =>
    if !l.hasNext && l.done then (if l.doneaddr.toNat % 16 = 0 then placed l.doneaddr (doneBytes o) else [])
    else c.run.held
  | none => c.run.held

/-- Make a completion write; it fails where its bytes are no granule's (R300). -/
def completionE (outs : List (DWord × Byte)) : E (Option Tgt) := do
  match outs with
  | [] => return none
  | (ea, _) :: _ =>
    checkWrites ea outs.length
    match ← engTgt .write ea with
    | .error _ => return none
    | .ok t =>
      if t.granKey.isNone then failE 3 ea
      outs.forM fun e => writeE e.1 e.2
      return some t

/-- The last record of a cancelled chain, whose DONE it still answers (R313). -/
def State.cancelledLast (s : State) (c : Chain) : Except (Stop × Nat) (Option EngRec) :=
  match s.readChain c none c.off 0 64 with
  | .error e => .error e
  | .ok q => .ok q.1.getLast?

/-- ENGINE_CHAIN_FINISH (R300, R301): error record, completion write, flag. -/
def execEngineChainFinish (id : Nat) (s : State) : Host.Outcome State Fault Refusal :=
  .next (match s.chains.find? (·.id == id) with
    | none => s
    | some c =>
      match c.outcome with
      | none => s
      | some o =>
        let isErr := 2 ≤ o.1 && o.1 ≤ 7
        let sc := scopeOf c.scope
        let waits := match c.waiting with | some (_, false) => true | _ => false
        let error (s : State) (st : Nat) (a : DWord) : State := s.engError c st o.2.1 o.2.2.2.2.1 a
        let finish (last : Option EngRec) : State :=
          match (completionE (c.completion o last)).run { c.eng s with run := EngRun.init } with
          | .error w => if waits then s else s.engHold id c.core c.ctx w
          | .ok (t, g) =>
            match g.fail with
            | some (st, a) => (if isErr then error s o.1 o.2.2.2.2.2 else error s st a).dropChain c
            | none =>
              let s1 := if isErr then error g.s o.1 o.2.2.2.2.2 else g.s
              (match t with | some t => s1.noteDone t sc | none => s1).dropChain c
        if o.1 = 1 then
          match s.cancelledLast c with
          | .error (.stall (.xlate ctx a k), _) =>
            if c.waiting = some (a.toNat / 4096, true) then s.dropChain c
            else if waits then s else s.engHold id c.core ctx (.page (a.toNat / 4096) k)
          | .error (.stall (.retry pa), _) => s.engHold id c.core c.ctx (.retry pa)
          | .error (.stall _, _) => s
          | .error (.trap _ _ _, _) => s.dropChain c
          | .ok last => finish last
        else finish c.recs.getLast?)

end Sys2Proof.Machine
end

