-- ==== Sys2Proof/Machine/Matrix.lean ====
section
/-! DEFINITION. Matrix instructions (11_matrix.md R258 to R274): issue on the uniform pipe, and the three units of a core
that carry the commands out. -/

namespace Sys2Proof.Machine

/-! Modes (10_residue.md R241). -/

/-- Channels a span code uses. -/
def modeChannels (mode : Nat) : List Nat :=
  match mode with
  | 1 => [0, 1, 8, 9]
  | 2 => [0, 1, 2, 3, 8, 9]
  | 3 => List.range 10
  | 4 | 5 => List.range 8
  | _ => []

/-- Sets of the tiles of a mode. -/
def modeSets (mode : Nat) : List Nat :=
  match mode with
  | 1 => [0]
  | 2 => [1]
  | 3 => [2]
  | 4 => [1, 6]
  | 5 => [0, 3, 4, 5]
  | _ => []

/-- Required span of a block's launch (14_scheduling.md R318). -/
def State.spanOf (s : State) (x : Block) : Nat := ((s.recOf x).map (·.span)).getD 0

/-- ceil(log2 n). -/
def ceilLog2 (n : Nat) : Nat := if n ≤ 1 then 0 else Nat.log2 (n - 1) + 1

/-- Change the accumulator tile t of a block. -/
def Block.setTile (x : Block) (t : Nat) (v : TileState) : Block := { x with tiles := x.tiles.set t v }
/-- Tile t of a block. -/
def Block.tile (x : Block) (t : Nat) : TileState := x.tiles.getD t ⟨false, 0⟩

/-! Checks (R266). -/

/-- Check 1 of R266. -/
def matrixBlock (b : Nat) : M Unit := do
  let s ← getS
  let x := s.block b
  if x.kind != .lane || s.spanOf x == 0 then trap .noMatrix

/-- The plane index of a channel in a mask (10 R243). -/
def planeRank (mask ch : Nat) : Nat := ((List.range ch).filter mask.testBit).length

/-- Where the planes of some channels lie in a tile at a base (10 R243): a plane that is not needed is not read. -/
def planeRanges (base mask elems : Nat) (chs : List Nat) : List (Nat × Nat) :=
  chs.map fun ch => (base + 16 + planeRank mask ch * elems, elems)

/-- Checks 4 to 6 of R266 on a tile in the scratchpad: its absolute offset, its length and its MASK. -/
def checkTile (b t : Nat) (ea : DWord) (elems : Nat) (need : List Nat) : M (Nat × Nat × Nat) := do
  if !canonical ea || !inPadWindow ea then trap .mmaArg
  if ea.toNat % 16 ≠ 0 then trap .align ea (faultInfo .read)
  let bs ← plainRead b t ea 16 1
  let mask := recNat bs 0 2
  if mask ≥ 1024 || recNat bs 2 2 != 0 || recNat bs 4 4 != elems || recNat bs 8 8 != 0 || !need.all mask.testBit then
    trap .mmaArg
  let n := ((List.range 10).filter mask.testBit).length
  let len := 16 + n * elems
  let x ← getB b
  let off := ea.toNat - padWindow
  if off + len > 16 * x.spLen then trap .spRange (w64 (padWindow + 16 * x.spLen)) (faultInfo .read)
  let base := 16 * x.spBase + off
  fun s =>
    match s.fillUnits b [t] x.padCore ((List.range (len / 16)).map fun i => .sp x.padCore (base + 16 * i)) with
    | .error e => .error e
    | .ok s' => .ok ((base, len, mask), s')

/-- Is a write of someone to scratchpad ranges issued and not yet performed, other than those OPRDY waits for (R269)? -/
def State.staleRange (s : State) (core : Nat) (ranges : List (Nat × Nat)) (after : List Nat) : Bool :=
  s.ops.any fun o => !after.contains (obsWrite o.id) && !o.isLoad &&
    o.tgts.any fun t => match t with
      | .sp c off => c == core && ranges.any fun r => r.1 ≤ off && off < r.1 + r.2
      | _ => false

/-- Targets of a block's writes that are issued and not yet performed, other than those OPRDY waits for (R269). -/
def State.earlyWrites (s : State) (b : Nat) (after : List Nat) : List Tgt :=
  (s.ops.filter fun o => o.blk == b && !after.contains (obsWrite o.id) && !o.isLoad).flatMap (·.tgts)

/-- Queue a command on a unit: it counts its flag in every live thread (02 R49). -/
def queueCmd (b : Nat) (ts : List Nat) (unit : CoreState → MCmd → CoreState) (m : MCmd) : M Unit := fun s =>
  let x := s.block b
  let s1 := s.countFlag b ts true m.flag
  .ok ((), { (s1.modCore x.core fun c => unit c { m with id := s1.seq, after := c.oprdy }) with seq := s1.seq + 1 })

/-- A command with its common fields. -/
def MCmd.mk' (b : Nat) (ts : List Nat) (i : Instr) (ctl arg : Nat) (flag : Option Nat) : MCmd :=
  { id := 0, blk := b, tids := ts, instr := i, ctl, arg, addr := 0, len := 0, row0 := 0, flag, started := false
    poison := false, after := [], stale := false, early := [], clob := [] }

/-! MMA (R263, R267). -/

/-- K of a control word of MMA, or of BLD with its own position. -/
def kOf (kb : Nat) : Nat := 32 * (kb + 1)

def mmaTile (ctl : Nat) : Nat := field ctl 0 3
def mmaK (ctl : Nat) : Nat := kOf (field ctl 7 8)
def mmaMode (ctl : Nat) : Nat := field ctl 15 3

/-- Rows a BLD writes. -/
def bldRow0 (ctl : Nat) : Nat := field ctl 16 14
def bldK (ctl : Nat) : Nat := kOf (field ctl 8 8)

/-- Pop one entry of a queue for MMA.q (R263; 12_headwater.md R282, R288): of a block queue its value, of a thread queue
the entry of the lowest thread. -/
def popForMma (b t q : Nat) : M Word := fun s =>
  let x := s.block b
  match s.queueSlice x q with
  | none => .error (.trap .mmaArg 0 0)
  | some (p, sl) =>
    let qs := sl.queue q
    if !qs.block then popQueue b t q s
    else if qs.bhead = qs.tail then
      (if sl.ended then .error (.trap .hwDead 0 0) else .error (.stall (.popQueue q)))
    else if sl.inFlight q qs.bhead then .error (.stall (.popQueue q))
    else
      .ok (Cells.getD (qs.bhead % 3) 0 qs.bval,
        s.modSlice p fun sl => sl.setQueue q { sl.queue q with bhead := (qs.bhead + 1) % 6 })

/-- Checks and issue of MMA and MMAZ: the address pair, or the queue of an MMA.q. -/
def mmaBody (i : Instr) (z : Bool) (d : UReg) (a : Option UReg) (o : UReg) (b : Nat) (ts : List Nat) : M Unit := do
  matrixBlock b
  let ctl := (← readU b d).toNat
  let offw ← readU b o
  let off := offw.toNat
  let t0 := ts.headD 0
  let s ← getS
  let x := s.block b
  let mode := mmaMode ctl
  let k := mmaK ctl
  let tile := x.tile (mmaTile ctl)
  let slot := x.slots.getD (field ctl 3 4) none
  if ctl ≥ 2 ^ 29 || field ctl 22 4 == 0 || field ctl 18 4 == 0 || mode == 0 || mode > 5 ||
      !((modeChannels mode).all (modeChannels (s.spanOf x)).contains) || slot.isNone || off % 32 != 0 ||
      off + k > (slot.getD (0, 0)).2 || (!z && tile.live && tile.mode != 0 && tile.mode != mode) ||
      (a.isNone && !x.hasPair) || (a.isSome && field ctl 26 3 != 0) then trap .mmaArg
  let ea ← match a with
    | some r => readU2 b r
    | none => (fun w => w64 (padWindow + w.toNat)) <$> popForMma b t0 (field ctl 26 3)
  let tl ← checkTile b t0 ea (32 * k) (modeChannels mode)
  let row0 := (slot.getD (0, 0)).1 + off
  updB b (·.setTile (mmaTile ctl) ⟨true, mode⟩)
  let s ← getS
  let c := s.getCore x.core
  let sameTile (m : MCmd) : Bool := field m.ctl 29 3 == mmaTile ctl
  let isZero (m : MCmd) : Bool := match m.instr with | .accz _ _ | .acczRows _ _ _ | .acczFree _ _ => true | _ => false
  let clash := c.recon.any fun m => sameTile m && isZero m
  let loading := c.loader.any fun m => rangesMeet (bldRow0 m.ctl) (bldK m.ctl) row0 k
  updS fun s => s.modCore x.core fun c => { c with
    recon := c.recon.map fun m => if sameTile m then { m with poison := true } else m }
  queueCmd b ts (fun c m => { c with sequencer := c.sequencer ++ [m] })
    { MCmd.mk' b ts i ctl tl.2.2 (flagOf i s b t0) with
      addr := w64 tl.1, len := tl.2.1, row0, poison := clash || loading
      stale := s.staleRange x.padCore (planeRanges tl.1 tl.2.2 (32 * k) (modeChannels mode)) c.oprdy }

/-- MMA. -/
def execMma (d a b : UReg) (f : Bool) (s : State) : Host.Outcome State Fault Refusal :=
  uniExec (.mma d a b f) (uniFall (mmaBody (.mma d a b f) false d (some a) b)) s
/-- MMA.q. -/
def execMmaQ (d b : UReg) (f : Bool) (s : State) : Host.Outcome State Fault Refusal :=
  uniExec (.mmaQ d b f) (uniFall (mmaBody (.mmaQ d b f) false d none b)) s
/-- MMAZ. -/
def execMmaz (d a b : UReg) (f : Bool) (s : State) : Host.Outcome State Fault Refusal :=
  uniExec (.mmaz d a b f) (uniFall (mmaBody (.mmaz d a b f) true d (some a) b)) s
/-- MMAZ.q. -/
def execMmazQ (d b : UReg) (f : Bool) (s : State) : Host.Outcome State Fault Refusal :=
  uniExec (.mmazQ d b f) (uniFall (mmaBody (.mmazQ d b f) true d none b)) s

/-! BLD (R264, R268). -/

/-- Issue of a BLD; sub 0 with a scratchpad source makes checks 4 to 6. -/
def bldBody (i : Instr) (plain : Bool) (d a : UReg) (b : Nat) (ts : List Nat) : M Unit := do
  matrixBlock b
  let ctl := (← readU b d).toNat
  let ea ← readU2 b a
  let k := bldK ctl
  let row0 := bldRow0 ctl
  if ctl ≥ 2 ^ 30 || field ctl 4 4 != 0 || row0 % 32 != 0 || row0 + k > 8192 then trap .mmaArg
  let s ← getS
  let x := s.block b
  let pad := plain && canonical ea && inPadWindow ea
  let tl ← if pad then checkTile b (ts.headD 0) ea (64 * k) (modeChannels (s.spanOf x)) else pure (0, 0, 0)
  let s ← getS
  updB b fun x => { x with slots := x.slots.set (field ctl 0 4) (some (row0, k)) }
  updS fun s => s.modCore x.core fun c => { c with
    sequencer := c.sequencer.map fun m =>
      if rangesMeet m.row0 (mmaK m.ctl) row0 k then { m with poison := true } else m }
  queueCmd b ts (fun c m => { c with loader := c.loader ++ [m] })
    { MCmd.mk' b ts i ctl tl.2.2 (flagOf i s b (ts.headD 0)) with
      addr := if pad then w64 tl.1 else ea, len := tl.2.1
      stale := pad && s.staleRange x.padCore (planeRanges tl.1 tl.2.2 (64 * k) (modeChannels (s.spanOf x))) (s.getCore x.core).oprdy
      early := if pad then [] else s.earlyWrites b (s.getCore x.core).oprdy }

/-- BLD. -/
def execBld (d a : UReg) (f : Bool) (s : State) : Host.Outcome State Fault Refusal :=
  uniExec (.bld d a f) (uniFall (bldBody (.bld d a f) true d a)) s
/-- BLD.reed. -/
def execBldReed (d a : UReg) (f : Bool) (s : State) : Host.Outcome State Fault Refusal :=
  uniExec (.bldReed d a f) (uniFall (bldBody (.bldReed d a f) false d a)) s
/-- BLD.conv. -/
def execBldConv (d a : UReg) (f : Bool) (s : State) : Host.Outcome State Fault Refusal :=
  uniExec (.bldConv d a f) (uniFall (bldBody (.bldConv d a f) false d a)) s

/-- BLD.clr (R268). -/
def execBldClr (d : UReg) (s : State) : Host.Outcome State Fault Refusal :=
  uniExec (.bldClr d) (uniFall fun b _ => do
    matrixBlock b
    let ctl := (← readU b d).toNat
    if ctl ≥ 16 then trap .mmaArg
    updB b fun x => { x with slots := x.slots.set ctl none }) s

/-- Is a write that OPRDY waits for not yet performed at .pkg (R269, 07_ordering.md R177)? -/
def State.writeOpen (s : State) (k : Nat) : Bool :=
  s.ops.any (fun o => obsWrite o.id == k && (o.isNord || s.pendingAt o .pkg)) || s.pins.any (·.id == k)

/-- Writes an OPRDY of threads waits for (R269). It waits for more than W, as the rule allows: for every write of the block, which
covers what a team barrier holds, and for every write in the view of the core, which covers what an acquire at .core has taken. -/
def State.oprdyWrites (s : State) (b : Nat) (ts : List Nat) : List Nat :=
  ((s.ops.filter fun o => !o.isLoad && (o.blk == b || (o.core == (s.block b).core && o.inView.isSome))).map fun o => obsWrite o.id) ++
    ts.flatMap fun t => (s.thread b t).observed

/-- OPRDY (R269): the writes of the block, and those the issuing threads observed, hold back later operand reads. -/
def execOprdy (s : State) : Host.Outcome State Fault Refusal :=
  uniExec .oprdy (uniFall fun b ts => do
    matrixBlock b
    updS fun s => s.modCore (s.block b).core fun c => { c with
      oprdy := ((c.oprdy.filter s.writeOpen) ++ s.oprdyWrites b ts).dedup }) s

/-! Drains and zeroing (R270, R271). -/

/-- Issue of a drain. It takes the tile's STATE and MODE as they are now: a later ACCZ changes them for later commands (DESIGN CHOICE;
log entry 106). -/
def drainBody (i : Instr) (ld : Bool) (d a : UReg) (b : Nat) (ts : List Nat) : M Unit := do
  matrixBlock b
  let ctl := (← readU b d).toNat
  let arg := (← readU b a).toNat
  let s ← getS
  let x := s.block b
  let tile := x.tile (field ctl 29 3)
  let rows := field arg 8 5 + 1
  let vd := field arg 24 8
  let wide := ld && field ctl 8 2 == 2
  if field ctl 16 11 != 0 || field ctl 10 5 != 0 || field ctl 8 2 == 3 || field ctl 6 2 == 3 || field arg 0 8 != 0 ||
      (if tile.mode == 0 then field ctl 27 2 != 0 else field ctl 27 2 ≥ (modeSets tile.mode).length) ||
      field arg 13 5 + rows > 32 || 16 * field arg 18 6 + 64 > x.threads.length || (wide && vd % 2 == 1) then trap .mmaArg
  let top := vd + (if wide then 2 else 1) * rows
  if top > x.allot || top > 224 then trap .allotment 0 (w32 (if vd ≥ x.allot ∨ vd ≥ 224 then vd else Nat.min x.allot 224))
  let c := s.getCore x.core
  queueCmd b ts (fun c m => { c with recon := c.recon ++ [m] })
    { MCmd.mk' b ts i ctl arg (flagOf i s b (ts.headD 0)) with
      addr := w64 (tile.mode + if tile.live then 8 else 0), poison := c.mmaOn (field ctl 29 3) }

/-- ACCLD. -/
def execAccld (d a : UReg) (f : Bool) (s : State) : Host.Outcome State Fault Refusal :=
  uniExec (.accld d a f) (uniFall (drainBody (.accld d a f) true d a)) s
/-- ACCQ. -/
def execAccq (d a : UReg) (f : Bool) (s : State) : Host.Outcome State Fault Refusal :=
  uniExec (.accq d a f) (uniFall (drainBody (.accq d a f) false d a)) s

/-- Issue of an ACCZ: STATE and MODE change now (R271). -/
def acczBody (i : Instr) (next : TileState → TileState) (d : UReg) (mask : Option UReg) (b : Nat) (ts : List Nat) : M Unit := do
  matrixBlock b
  let ctl := (← readU b d).toNat
  let rows ← match mask with
    | some r => (fun w => w.toNat) <$> readU b r
    | none => pure 0
  if field ctl 0 29 != 0 then trap .mmaArg
  let t := field ctl 29 3
  let s ← getS
  let x := s.block b
  let old := x.tile t
  let clash := (s.getCore x.core).mmaOn t
  updB b fun x => x.setTile t (next old)
  updS fun s => s.modCore x.core fun c => { c with
    sequencer := c.sequencer.map fun m => if mmaTile m.ctl = t then { m with poison := true } else m }
  queueCmd b ts (fun c m => { c with recon := c.recon ++ [m] })
    { MCmd.mk' b ts i ctl rows (flagOf i s b (ts.headD 0)) with
      addr := w64 (old.mode + if old.live then 8 else 0), poison := clash }

/-- ACCZ. -/
def execAccz (d : UReg) (f : Bool) (s : State) : Host.Outcome State Fault Refusal :=
  uniExec (.accz d f) (uniFall (acczBody (.accz d f) (fun _ => ⟨true, 0⟩) d none)) s
/-- ACCZ.rows. -/
def execAcczRows (d a : UReg) (f : Bool) (s : State) : Host.Outcome State Fault Refusal :=
  uniExec (.acczRows d a f) (uniFall (acczBody (.acczRows d a f) (fun t => ⟨true, if t.live then t.mode else 0⟩) d (some a))) s
/-- ACCZ.free. -/
def execAcczFree (d : UReg) (f : Bool) (s : State) : Host.Outcome State Fault Refusal :=
  uniExec (.acczFree d f) (uniFall (acczBody (.acczFree d f) (fun _ => ⟨false, 0⟩) d none)) s

/-! SETRST (R272). -/

/-- SETRST sa: the label is checked as a branch target is. -/
def execSetrstAddr (a : UReg) (s : State) : Host.Outcome State Fault Refusal :=
  uniExec (.setrstAddr a) (uniFall fun b _ => do
    let v ← readU2 b a
    checkTarget b v
    updB b fun x => { x with restart := v }) s

/-- SETRST: the label of the block's own role entry. -/
def execSetrst (s : State) : Host.Outcome State Fault Refusal :=
  uniExec .setrst (uniFall fun b _ => do
    let s ← getS
    let x := s.block b
    let off : Nat := match s.roleOf x with | some r => r.off | none => 0
    if off = 0 then trap .mmaArg
    let entry := ((s.recOf x).map (·.entry)).getD 0
    updB b fun x => { x with restart := entry + w64 (4 * (off - 1)) }) s

/-- SETRST.clr. -/
def execSetrstClr (s : State) : Host.Outcome State Fault Refusal :=
  uniExec .setrstClr (uniFall fun b _ => updB b fun x => { x with restart := 0 }) s

/-! The sequencer. -/

/-- A residue of a tile of a core; none: undefined. -/
def CoreState.residue (c : CoreState) (tile ch i j : Nat) : Option Nat :=
  ((c.tiles.getD tile Store.zero).get ((ch * 32 + i) * 64 + j)).map (·.toNat)

/-- A bound byte of a tile. -/
def CoreState.boundAt (c : CoreState) (tile i j : Nat) : Option Nat :=
  ((c.bounds.getD tile Store.zero).get (i * 64 + j)).map (·.toNat)

/-- A B-SRAM byte. -/
def CoreState.bAt (c : CoreState) (ch row j : Nat) : Option Nat := (c.bsram.get ((ch * 8192 + row) * 64 + j)).map (·.toNat)

/-- A store of n bytes from a function, in canonical form. -/
def Store.build (n : Nat) (f : Nat → Nat) : Store :=
  { seed := none, cells := (List.range n).filterMap fun k => if f k % 256 = 0 then none else some (k, BitVec.ofNat 8 (f k)) }

/-- The bound byte after an MMA (10 R244). -/
def boundNext (z : Bool) (beta wa wb k : Nat) : Nat :=
  let t := wa + wb - 2 + ceilLog2 k
  if z || beta = 0 then t else Nat.min (Nat.max beta t + 1) 255

/-- Is the command an MMAZ? -/
def MCmd.zeroing (m : MCmd) : Bool := match m.instr with | .mmaz _ _ _ _ | .mmazQ _ _ _ => true | _ => false

/-- Carry out an MMA on its tile (R267): residues of undefined operands are undefined values. -/
def State.mmaApply (s : State) (core : Nat) (m : MCmd) : State :=
  let c := s.getCore core
  let tile := mmaTile m.ctl
  let k := mmaK m.ctl
  let chs := modeChannels (mmaMode m.ctl)
  let z := m.zeroing
  let free (n : Nat) : Nat := (Config.freeWord (s.fresh + n)).toNat
  let aByte (ch e : Nat) : Nat :=
    (Cells.getD (padKey core (m.addr.toNat + 16 + planeRank m.arg ch * (32 * k) + e)) 0 s.pads).toNat
  let res (n : Nat) : Nat :=
    let ch := n / 2048
    let i := n / 64 % 32
    let j := n % 64
    let old := if z then 0 else ((c.residue tile ch i j).getD (free n)) % modulus ch
    if chs.contains ch then
      let ys := (List.range k).map fun col => c.bAt ch (m.row0 + col) j
      if ys.all (·.isSome) then
        ((ys.zipIdx).foldl (fun acc y => acc + aByte ch (32 * y.2 + i) % modulus ch * ((y.1.getD 0) % modulus ch)) old) % modulus ch
      else free n % modulus ch
    else old
  let bnd (n : Nat) : Nat :=
    boundNext z ((c.boundAt tile (n / 64) (n % 64)).getD (free (20480 + n) % 256)) (field m.ctl 18 4 + 1) (field m.ctl 22 4 + 1) k
  { (s.modCore core fun c => { c with
      tiles := c.tiles.set tile (Store.build 20480 res), bounds := c.bounds.set tile (Store.build 2048 bnd) }) with
    fresh := s.fresh + 22528 }

/-- A tile whose residues and bounds are undefined values. -/
def State.freeTile (s : State) (core tile : Nat) : State :=
  { (s.modCore core fun c => { c with
      tiles := c.tiles.set tile (Store.free s.fresh), bounds := c.bounds.set tile (Store.free s.fresh) }) with
    fresh := s.fresh + 1 }

/-- Is it a pinned copy of the block whose command waits for writes (R269)? -/
def MCmd.heldByPin (m : MCmd) (p : Pin) : Bool := !m.after.isEmpty && p.blk == m.blk

/-- Do the writes an OPRDY waits for hold a command back (R269)? Those in a pinned copy of its block are not performed at .pkg either. -/
def State.cmdHeld (s : State) (m : MCmd) : Bool := m.after.any s.writeOpen || s.pins.any m.heldByPin

/-- A command held back ends the pins of its block that hold it (R269; DEDUCED, log entry 108): the writes of W are to be performed at
.pkg. -/
def State.holdCmd (s : State) (m : MCmd) : State := s.endPins m.heldByPin

/-- SEQUENCER_START (R261, R262): the first MMA not started begins once its OPRDY condition holds. -/
def execSequencerStart (core : Nat) (s : State) : Host.Outcome State Fault Refusal :=
  .next (match (s.getCore core).sequencer.find? (!·.started) with
    | none => s
    | some m =>
      if s.cmdHeld m then s.holdCmd m
      else (s.mmaApply core m).modCore core fun c => { c with
        sequencer := c.sequencer.map fun q => if q.id = m.id then { q with started := true } else q })

/-- SEQUENCER_DONE (R262): the oldest started MMA completes; one that lost its exactness leaves undefined values (R274). -/
def execSequencerDone (core : Nat) (s : State) : Host.Outcome State Fault Refusal :=
  .next (match (s.getCore core).sequencer with
    | [] => s
    | m :: rest =>
      if !m.started then s
      else
        let ov := rest.any fun q => q.started && q.zeroing && mmaTile q.ctl == mmaTile m.ctl
        let s1 := if (m.poison || m.stale) && !ov then s.freeTile core (mmaTile m.ctl) else s
        (s1.modCore core fun c => { c with sequencer := rest }).finishFlag m.blk m.tids true m.flag)

/-! The B loader. -/

/-- B_LOADER_START (R261, R262). -/
def execBLoaderStart (core : Nat) (s : State) : Host.Outcome State Fault Refusal :=
  .next (match (s.getCore core).loader with
    | [] => s
    | m :: rest =>
      if m.started then s
      else if s.cmdHeld m then s.holdCmd m
      else s.modCore core fun c => { c with loader := { m with started := true } :: rest })

/-- Write the rows of a slot from planes: byte (channel, element) of the source. -/
def State.fillRows (s : State) (core row0 k : Nat) (chs : List Nat) (f : Nat → Nat → Byte) : State :=
  s.modCore core fun c => { c with
    bsram := chs.foldl (fun st ch => (List.range (64 * k)).foldl (fun (st : Store) e =>
      st.set ((ch * 8192 + row0) * 64 + e) (f ch e)) st) c.bsram }

/-- Rows of undefined values. -/
def State.freeRows (s : State) (core row0 k : Nat) (chs : List Nat) : State :=
  let s1 := s.fillRows core row0 k chs fun ch e => (Config.freeWord (s.fresh + ch * 64 * k + e)).truncate 8
  { s1 with fresh := s.fresh + 640 * k }

/-- Read n bytes of NORMAL device memory; any other byte is refused as ATTR is (R264, R268). -/
def readNormal (ea : DWord) (n : Nat) : E (List Byte) := do
  (List.range n).forM fun i => do
    if (← getE).fail.isNone then
      match ← engTgt .read (ea + w64 i) with
      | .error st => failE st (ea + w64 i)
      | .ok (.dev _ _) => pure ()
      | .ok _ => failE 3 (ea + w64 i)
  readBytes ea n

/-- The source of a BLD from device memory or through an engine (R268): a function of channel and element. A device source whose base
is no multiple of 16 ends it with BADREC (2), before the address is translated (DESIGN CHOICE; log entry 106). -/
def bldSource (i : Instr) (ea : DWord) (k : Nat) (chs : List Nat) : E (Nat → Nat → Byte) := do
  let none' : Nat → Nat → Byte := fun _ _ => 0
  match i with
  | .bld _ _ _ =>
    if ea.toNat % 16 ≠ 0 then do failE 2 ea; return none'
    let h ← readNormal ea 16
    if (← getE).fail.isSome then return none'
    let mask := recNat h 0 2
    if mask ≥ 1024 || recNat h 2 2 != 0 || recNat h 4 4 != 64 * k || recNat h 8 8 != 0 || !chs.all mask.testBit then
      failE 2 ea
      return none'
    let planes ← chs.mapM fun ch => readNormal (ea + w64 (16 + planeRank mask ch * (64 * k))) (64 * k)
    return fun ch e => (planes.getD (planeRank (chs.foldl (fun m c => m + 2 ^ c) 0) ch) []).getD e 0
  | _ =>
    let bs ← readBytes ea 64
    if (← getE).fail.isSome then return none'
    let r := parseRec bs
    let kind := match i with | .bldReed _ _ _ => 3 | _ => 1
    let mask := if kind = 3 then r.par 62 2 else r.par 52 2
    let g ← getE
    if !recOk g.s.device kind false true bs || r.hasNext || r.done || r.len != 64 * k || (kind == 3 && r.par 60 1 != 2) ||
        !chs.all mask.testBit then
      failE 2 ea
      return none'
    let vs ← if kind = 3 then reedValues r else (fun q => q.1) <$> convRead r
    return fun ch e => BitVec.ofNat 8 ((vs.getD e 0) % (modulus ch : Int)).toNat

/-- A held-up read of the scheduler (`sched`), or of a B loader, a save or a peer: the walk is asked for once, and its
failure is remembered (R302). -/
def State.readHold (s : State) (cluster ctx : Nat) (w : EngWait) (sched : Bool := false) : State :=
  match w with
  | .retry pa => s.noteRetry noCore pa
  | .order => s
  | .page p k =>
    if s.sched.xlHeld.contains (xlKey cluster ctx, p, sched) then s
    else
      let s1 := s.raiseWalk cluster ctx p k false true
      { s1 with sched := { s1.sched with xlHeld := s1.sched.xlHeld ++ [(xlKey cluster ctx, p, sched)] } }

/-- Pages of a context whose translation in a cluster has failed for such reads. -/
def State.readBad (s : State) (ctx : Nat) (sched : Bool := false) (cluster : Nat := 0) : List Nat :=
  (s.sched.xlFailed.filter fun e => e.1 == xlKey cluster ctx && e.2.2.2 == sched).map (·.2.1)

/-- Does a held-up read wait for a page that has been asked for? -/
def State.heldBack (s : State) (ctx : Nat) (w : EngWait) (sched : Bool := false) : Bool :=
  match w with
  | .retry _ | .order => false
  | .page p _ => s.sched.xlHeld.contains (xlKey 0 ctx, p, sched)

/-- Such reads of a context are settled. -/
def State.readSettled (s : State) (ctx : Nat) : State :=
  { s with sched := { s.sched with xlFailed := s.sched.xlFailed.filter (·.1 % 65536 != ctx) } }

/-- B_LOADER_DONE (R262, R268): the rows are written, or the BLD ends with a BLD_FAULT record. -/
def execBLoaderDone (core : Nat) (s : State) : Host.Outcome State Fault Refusal :=
  .next (match (s.getCore core).loader with
    | [] => s
    | m :: rest =>
      if !m.started then s
      else
        let x := s.block m.blk
        let chs := modeChannels (s.spanOf x)
        let k := bldK m.ctl
        let row0 := bldRow0 m.ctl
        let finish (s : State) : State :=
          (s.modCore core fun c => { c with loader := rest }).finishFlag m.blk m.tids true m.flag
        if m.len ≠ 0 then
          finish (if m.poison || m.stale then s.freeRows core row0 k chs
            else s.fillRows core row0 k chs fun ch e =>
              Cells.getD (padKey core (m.addr.toNat + 16 + planeRank m.arg ch * (64 * k) + e)) 0 s.pads)
        else
          let g0 : Eng := { Eng.on s m.blk core x.ctx (s.readBad x.ctx false (clusterOf core)) with early := m.early }
          match (bldSource m.instr m.addr k chs).run g0 with
          | .error w => s.readHold (clusterOf core) x.ctx w
          | .ok (f, g) =>
            match g.fail with
            | none => finish ((if g.stale then g.s.freeRows core row0 k chs else g.s.fillRows core row0 k chs f).readSettled x.ctx)
            | some (st, _) =>
              let s1 := g.s.readSettled x.ctx
              let s2 := s1.record x.ctx { kind := 0x04, core, slot := x.slot, addr := m.addr.toNat
                                          detail := leBytes 1 (field m.ctl 0 4) ++ leBytes 1 st }
              finish (s2.modBlock m.blk fun x => { x with slots := x.slots.set (field m.ctl 0 4) none }))

/-! The reconstruction engine. -/

/-- RECONSTRUCTION_START (R261). -/
def execReconstructionStart (core : Nat) (s : State) : Host.Outcome State Fault Refusal :=
  .next (match (s.getCore core).recon with
    | [] => s
    | m :: rest => if m.started then s else s.modCore core fun c => { c with recon := { m with started := true } :: rest })

/-- Move a cluster to the front of the Roofwalk rotation (10 R251; 18_errors.md R432). -/
def State.walkFirst (s : State) (cluster : Nat) : State :=
  { s with roofwalk := { s.roofwalk with front := cluster :: s.roofwalk.front.filter (· != cluster) } }

/-- A CORRECTED drain counts its channel (10 R250, R251). -/
def State.countCorrected (s : State) (core ch tile row col slot : Nat) : State :=
  let c := s.getCore core
  let w := (c.chcnt.getD (ch / 2) 0).toNat
  let half := if ch % 2 = 1 then w / 65536 else w % 65536
  let next := if half = 65535 then half else half + 1
  let w' := if ch % 2 = 1 then next * 65536 + w % 65536 else w / 65536 * 65536 + next
  let s1 := s.modCore core fun c => { c with
    chcnt := c.chcnt.set (ch / 2) (w32 w')
    chstat := c.chstat ||| w32 (2 ^ ch)
    chlast := w32 (2 ^ 31 + ch * 2 ^ 27 + tile * 2 ^ 24 + row * 2 ^ 19 + col * 2 ^ 13 + slot % 32 * 256) }
  if half = 255 then s1.walkFirst (clusterOf core) else s1

/-- One element of a drain: its value and class word (R270). -/
def State.drainElem (s : State) (core : Nat) (m : MCmd) (row col : Nat) (wide : Nat) : Option (Decoded × Nat) :=
  let c := s.getCore core
  let tile := field m.ctl 29 3
  let mode := m.addr.toNat % 8
  let live := m.addr.toNat ≥ 8
  if m.poison || !live then none
  else
    match c.boundAt tile row col with
    | none => none
    | some beta =>
      if mode = 0 then
        (if beta = 0 then some (⟨0, .exact, 15, false⟩, 0) else none)
      else
        let xs := (List.range 10).map fun ch => c.residue tile ch row col
        let set := (modeSets mode).getD (field m.ctl 27 2) 0
        if (modeChannels mode).any fun ch => (xs.getD ch none).isNone then none
        else
          some (decodeResidue (xs.map fun v => v.getD 0) set (mode ≤ 3) (beta ≤ certLimit set) (field m.ctl 0 6) (field m.ctl 6 2)
            wide (m.ctl.testBit 15), set)

/-- Write one drained element to its thread's register line, in the register cache or the image (R270, R249). -/
def State.drainOne (s : State) (core : Nat) (m : MCmd) (ld : Bool) (rr j : Nat) : State :=
  let x := s.block m.blk
  let row := field m.arg 13 5 + rr
  let thr := 16 * field m.arg 18 6 + j
  let vd := field m.arg 24 8
  let wide := ld && field m.ctl 8 2 == 2
  let bits := match field m.ctl 8 2 with | 0 => 16 | 1 => 32 | _ => 64
  let put (s : State) (n : Nat) (w : Word) : State :=
    if m.clob.contains (thr, n) then { s.arriveLane m.blk thr (.v (Fin.ofNat 224 n)) (Config.freeWord s.fresh) with fresh := s.fresh + 1 }
    else s.arriveLane m.blk thr (.v (Fin.ofNat 224 n)) w
  match s.drainElem core m row j bits with
  | none =>
    let s1 := put s (if wide then vd + 2 * rr else vd + rr) (Config.freeWord s.fresh)
    let s2 := if wide then put s1 (vd + 2 * rr + 1) (Config.freeWord (s.fresh + 1)) else s1
    { s2 with fresh := s2.fresh + 2 }
  | some (r, set) =>
    if !ld then put s (vd + rr) r.report
    else
      let v := BitVec.ofInt 64 r.out
      let s1 := if wide then put (put s (vd + 2 * rr) (loWord v)) (vd + 2 * rr + 1) (hiWord v) else put s (vd + rr) (loWord v)
      let tile := field m.ctl 29 3
      match r.cls with
      | .corrected => s1.countCorrected core r.ch tile row j x.slot
      | .uncorr => s1.record x.ctx { kind := 0x03, core, slot := x.slot
                                     detail := leBytes 1 tile ++ leBytes 1 row ++ leBytes 1 j ++ leBytes 1 set }
      | _ => s1

/-- Zero, or free, the tile of an ACCZ (R271). -/
def State.zeroTile (s : State) (core : Nat) (m : MCmd) : State :=
  let t := field m.ctl 29 3
  if m.poison then s.freeTile core t
  else
    match m.instr with
    | .acczFree _ _ => s.freeTile core t
    | .acczRows _ _ _ =>
      let s0 := if m.addr.toNat ≥ 8 then s else s.freeTile core t
      s0.modCore core fun c =>
        let rows := (List.range 32).filter m.arg.testBit
        let clear (n w : Nat) (st : Store) : Store :=
          rows.foldl (fun st i => (List.range (n * 64)).foldl (fun (st : Store) e =>
            st.set ((e / 64 * w + i) * 64 + e % 64) 0) st) st
        { c with tiles := c.tiles.set t (clear 10 32 (c.tiles.getD t Store.zero))
                 bounds := c.bounds.set t (clear 1 32 (c.bounds.getD t Store.zero)) }
    | _ => s.modCore core fun c => { c with tiles := c.tiles.set t Store.zero, bounds := c.bounds.set t Store.zero }

/-- A drain has written its registers under a flag that may still count other commands: they stay undefined until it clears (R270). -/
def State.drainLate (s : State) (m : MCmd) (ld : Bool) : State :=
  let n := (if ld && field m.ctl 8 2 == 2 then 2 else 1) * (field m.arg 8 5 + 1)
  (List.range 64).foldl (fun (s : State) j => s.modThread m.blk (16 * field m.arg 18 6 + j) fun th =>
    th.noteLate m.flag ((List.range n).map (field m.arg 24 8 + ·))) s

/-- RECONSTRUCTION_DONE (R262, R270, R271): a drain delivers row by row, or a tile is zeroed. -/
def execReconstructionDone (core : Nat) (s : State) : Host.Outcome State Fault Refusal :=
  .next (match (s.getCore core).recon with
    | [] => s
    | m :: rest =>
      if !m.started then s
      else
        let drain (ld : Bool) : State :=
          ((List.range ((field m.arg 8 5 + 1) * 64)).foldl (fun (s : State) n => s.drainOne core m ld (n / 64) (n % 64)) s).drainLate m ld
        let s1 := match m.instr with
          | .accld _ _ _ => drain true
          | .accq _ _ _ => drain false
          | _ => s.zeroTile core m
        (s1.modCore core fun c => { c with recon := rest }).finishFlag m.blk m.tids true m.flag)

end Sys2Proof.Machine
end

