-- ==== Sys2Proof/Machine/Headwater.lean ====
section
/-! DEFINITION. Headwater access slices (12_headwater.md R278 to R291): queue instructions, nests and their events. -/

namespace Sys2Proof.Machine

/-- The compute block of a slice (R278). -/
def State.computeOf (s : State) (b : Nat) : Nat := ((s.block b).pairOf).getD b

/-- Does a slice own a queue (R279)? -/
def State.ownsQueue (s : State) (b q : Nat) : Bool :=
  let ps := (s.block (s.computeOf b)).partners
  ps[q % ps.length]? == some b

/-- The slice part of a block. -/
def Slice.none : Slice := { queues := [], marks := [], counts := [1, 1, 1, 1], streams := [], nest := Option.none, flight := [], ended := false }
def State.sliceOf (s : State) (b : Nat) : Slice := ((s.block b).slice).getD Slice.none

/-- Is a queue of a slice full (R282)? -/
def State.queueFull (s : State) (b q : Nat) : Bool :=
  let qs := (s.sliceOf b).queue q
  let c := s.computeOf b
  let x := s.block c
  if qs.block then (qs.tail + 6 - qs.bhead) % 6 == 3 && !x.liveTids.isEmpty
  else x.liveTids.any fun t => (qs.tail + 6 - Cells.getD q 0 (s.thread c t).qhead) % 6 == 3

/-- Is a queue empty for every live thread and, as a block queue, for the block (R291)? -/
def State.queueEmpty (s : State) (b q : Nat) : Bool :=
  let qs := (s.sliceOf b).queue q
  let c := s.computeOf b
  if qs.block then qs.tail == qs.bhead
  else (s.block c).liveTids.all fun t => Cells.getD q 0 (s.thread c t).qhead == qs.tail

/-- The queues of a mask. -/
def maskQueues (mask : Nat) : List Nat := (List.range 8).filter mask.testBit

/-- Is the wait of a slice's thread over (R282, R285, R291)? -/
def State.sliceWaitOver (s : State) (b : Nat) (w : Wait) : Bool :=
  match w with
  | .pushQueue q => !s.queueFull b q
  | .hsync mask => (maskQueues mask).all (s.queueEmpty b)
  | .nestRunning => (s.sliceOf b).nest.isNone
  | .sliceExit => (s.sliceOf b).nest.isNone && (s.sliceOf b).flight.isEmpty
  | _ => false

/-- Is the wait of a thread for a queue's entry over (R282, R290)? -/
def State.popWaitOver (s : State) (b t q : Nat) : Bool :=
  match s.queueSlice (s.block b) q with
  | none => true
  | some (_, sl) =>
    let qs := sl.queue q
    let h := if qs.block then qs.bhead else Cells.getD q 0 (s.thread b t).qhead
    if h = qs.tail then sl.ended else !sl.inFlight q h

/-! Instructions. -/

/-- HSTREAM (R284): captures a descriptor, or disables the stream. -/
def execHstream (d : UReg) (j : Fin 8) (s : State) : Host.Outcome State Fault Refusal :=
  uniExec (.hstream d j) (uniFall fun b _ => do
    if d == .zero then updS (·.modSlice b fun sl => { sl with streams := Cells.erase j.val sl.streams })
    else
      let base ← readU2 b d
      let ctl ← readU b (d.plus 2)
      let third ← readU b (d.plus 3)
      let strides ← (List.range 4).mapM fun k => readU b (d.plus (4 + k))
      let st : Stream := { base, ctl, third, strides }
      let s ← getS
      let x := s.block (s.computeOf b)
      let c := ctl.toNat
      if field c 16 16 != 0 || field c 0 8 != 0 || field c 10 2 == 3 then trap .hwArg
      if st.granules then
        let len := field third.toNat 16 16
        if field c 10 2 != 0 || field third.toNat 14 2 != 0 || len == 0 || len > 16384 ||
            field third.toNat 0 14 + len > x.spLen then trap .hwArg
      else if !s.ownsQueue b st.queue || ((s.sliceOf b).queue st.queue).block then trap .hwArg
      updS (·.modSlice b fun sl => { sl with streams := Cells.set j.val st sl.streams })) s

/-- HLOOP (R285). -/
def execHloop (d : UReg) (lvl : Fin 8) (s : State) : Host.Outcome State Fault Refusal :=
  uniExec (.hloop d lvl) (uniFall fun b _ => do
    let v ← readU b d
    updS (·.modSlice b fun sl => { sl with counts := sl.counts.set lvl.val v })) s

/-- Give an entry's words to the slots of a queue: one word per thread, or the block's (R282). -/
def State.fillSlot (s : State) (b q pos : Nat) (words : List (Nat × Word)) : State :=
  let qs := (s.sliceOf b).queue q
  let slot := pos % 3
  if qs.block then
    s.modSlice b fun sl => sl.setQueue q { sl.queue q with bval := Cells.put 0 slot ((words.headD (0, 0)).2) qs.bval }
  else
    words.foldl (fun (s : State) (e : Nat × Word) =>
      s.modThread (s.computeOf b) e.1 fun th => { th with qslot := Cells.put 0 (3 * q + slot) e.2 th.qslot }) s

/-- Advance a queue's tail by a pushed entry. -/
def State.pushTail (s : State) (b q : Nat) : State :=
  s.modSlice b fun sl => let qs := sl.queue q; sl.setQueue q { qs with tail := (qs.tail + 1) % 6 }

/-- HPUSH (R282, R286): its entry becomes poppable after every delivery issued before it; with no live thread it is
discarded. -/
def execHpush (a : UReg) (i : Fin 8) (s : State) : Host.Outcome State Fault Refusal :=
  uniExec (.hpush a i) (uniFall fun b _ => do
    let v ← readU b a
    let s ← getS
    if !s.ownsQueue b i.val then trap .hwArg
    let c := s.computeOf b
    let x := s.block c
    if !x.liveTids.isEmpty then
      if s.queueFull b i.val then stall (.pushQueue i.val)
      let pos := ((s.sliceOf b).queue i.val).tail
      let words := (List.range x.threads.length).map fun t => (t, v)
      updS fun s =>
        if (s.sliceOf b).flight.isEmpty then (s.fillSlot b i.val pos words).pushTail b i.val
        else (s.modSlice b fun sl => { sl with
          flight := sl.flight ++ [{ kind := .entry i.val pos, words }] }).pushTail b i.val) s

/-- HEND (R285): starts one nest, once the running one has issued its last access; one with nothing to issue is over at once. The
number of granules a stream has delivered so far, which chooses the granule of its ring, counts from 0 in each nest; R285 does not say
whether it runs on across HEND (DESIGN CHOICE; log entry 103). -/
def execHend (f : Bool) (s : State) : Host.Outcome State Fault Refusal :=
  uniExec (.hend f) (uniFall fun b ts => do
    let s ← getS
    let sl := s.sliceOf b
    if sl.nest.isSome then stall .nestRunning
    let fl := flagOf (.hend f) s b (ts.headD 0)
    let n : Nest := { counts := sl.counts, idx := [0, 0, 0, 0], streams := sl.streams, next := 0, delivered := [], flag := fl, walk := [] }
    updS fun s => (s.countFlag b ts true fl).modSlice b fun sl =>
      let sl1 : Slice := { sl with nest := some n }
      if sl.counts.any (· == 0) || sl.streams.isEmpty then sl1.stopNest else sl1) s

/-- The mask of an HSYNC: its queues must be the slice's own (R279, R291). -/
def syncMask (b : Nat) (a : UReg) : M Nat := do
  let m := (← readU b a).toNat
  let s ← getS
  if m ≥ 256 || (maskQueues m).any fun q => !s.ownsQueue b q then trap .hwArg
  return m

/-- HSYNC.drain (R291). -/
def execHsyncDrain (a : UReg) (s : State) : Host.Outcome State Fault Refusal :=
  uniExec (.hsyncDrain a) (uniFall fun b _ => do
    let m ← syncMask b a
    let s ← getS
    if !(maskQueues m).all (s.queueEmpty b) then stall (.hsync m)) s

/-- HSYNC.kind (R291). A queue that becomes a thread queue is empty for every thread: the heads stand at its tail (R282). -/
def execHsyncKind (a : UReg) (s : State) : Host.Outcome State Fault Refusal :=
  uniExec (.hsyncKind a) (uniFall fun b _ => do
    let m ← syncMask b a
    let s ← getS
    let sl := s.sliceOf b
    let changes := (List.range 8).filter fun q => s.ownsQueue b q && (sl.queue q).block != m.testBit q
    let named (q : Nat) (l : List (Nat × Stream)) : Bool := l.any fun e => !e.2.granules && e.2.queue == q
    if changes.any fun q => !s.queueEmpty b q || (m.testBit q && (named q sl.streams || sl.nest.any fun n => named q n.streams))
      then trap .hwArg
    let heads (th : Thread) : Thread := { th with
      qhead := changes.foldl (fun hs q => if m.testBit q then hs else Cells.put 0 q (sl.queue q).tail hs) th.qhead }
    updS fun s =>
      let s1 := s.modSlice b fun sl => changes.foldl (fun (sl : Slice) q =>
        let qs := sl.queue q
        sl.setQueue q { qs with block := m.testBit q, bhead := if m.testBit q then qs.tail else 0 }) sl
      s1.modBlock (s.computeOf b) fun x => { x with threads := x.threads.map heads }) s

/-! The nest (R285, R287). -/

/-- What one read of a stream access gives. -/
inductive StreamRead where
  | value (bs : List Byte)
  | fails
  | walk (page : Nat)
  | retry (pa : Nat)
  /-- an access of the slice's thread comes first -/
  | later
deriving DecidableEq, Repr

/-- A speculative read of a stream (R286, R287): a plain read of the slice's thread, made now; whatever would fault fails instead, and so
does an access to the Ford range of a gang launch (16_gangs.md R372). -/
def State.streamRead (s : State) (b : Nat) (ea : DWord) (n : Nat) (nol1 : Bool) (bad : List Nat) : StreamRead × State :=
  let x := s.block b
  if ea.toNat % n ≠ 0 || inPadWindow ea || ((s.gangOf x).isSome && inFord ea) then (.fails, s)
  else
    let stopped : Stop → StreamRead
      | .stall (.xlate _ a _) => if bad.contains (a.toNat / 4096) then .fails else .walk (a.toNat / 4096)
      | .stall (.retry pa) => .retry pa
      | .stall _ => .later
      | .trap _ _ _ => .fails
    match s.byteTgts b .read false (spanFrom ea n) with
    | .error e => (stopped e, s)
    | .ok ts =>
      match s.fillUnits b [0] x.padCore ts with
      | .error e => (stopped e, s)
      | .ok s1 =>
        let o := { MemOp.mk' b x.padCore [0] (.load false) ea ts with id := s1.seq, nol1 }
        if s1.orderHolds o || s1.acquireHolds b [0] s1.seq then (.later, s)
        else
          match s1.loadReach o with
          | some pa => (.retry pa, s)
          | none =>
            let rs := ts.map fun t => s1.loadByte o none t
            let d := s1.define (rs.map (·.1))
            (.value d.1, (d.2.fillCopies o).observe b [0] (rs.flatMap (·.2)).dedup)

/-- The next iteration (R285): i0 runs fastest; none after the last. -/
def nextIdx : List Word → List Word → Option (List Word)
  | i :: is, c :: cs => if i.toNat + 1 < c.toNat then some ((i + 1) :: is) else (nextIdx is cs).map fun r => 0 :: r
  | _, _ => none

/-- A nest past its current stream; none once it has issued its last access. -/
def Nest.advance (n : Nest) : Option Nest :=
  let later := (n.streams.map (·.1)).filter (n.next < ·)
  match later with
  | j :: _ => some { n with next := j, walk := [] }
  | [] => (nextIdx n.idx n.counts).map fun idx => { n with idx, next := 0, walk := [] }

/-- The running nest moves on, or ends (R285). -/
def Slice.advance (sl : Slice) (n : Nest) : Slice :=
  match n.advance with
  | .some n' => { sl with nest := some n' }
  | .none => ({ sl with nest := some n } : Slice).stopNest

/-- The address of a stream in an iteration (R285). -/
def Stream.addr (st : Stream) (idx : List Word) : DWord :=
  (idx.zip st.strides).foldl (fun a e => a + BitVec.ofInt 64 ((e.1.toNat : Int) * e.2.toInt)) st.base

/-- Is a stream's hint .nol1 (R284; 06 R157)? -/
def Stream.nol1 (st : Stream) : Bool := field st.ctl.toNat 8 2 == 3

/-- The lowest free mark record (R287). -/
def Slice.freeRec (sl : Slice) : Option Nat := (List.range 16).find? fun m => !(sl.marks.any (·.1 == m))

/-- Ask for a speculative translation that the nest now waits for (17_system.md R406). -/
def State.nestWalk (s : State) (b page : Nat) : State :=
  let x := s.block b
  (s.raiseWalk (clusterOf x.core) x.ctx page .read true false).modSlice b fun sl =>
    { sl with nest := sl.nest.map fun n => { n with walk := n.walk ++ [(page, false)] } }

/-- An access of a nest is issued: it goes in flight, and the nest moves on. -/
def State.issueFlight (s : State) (b : Nat) (n : Nest) (kind : FlightKind) (words : List (Nat × Word)) : State :=
  s.modSlice b fun sl => ({ sl with flight := sl.flight ++ [{ kind, words }] } : Slice).advance n

/-- What becomes of the unit of a shadow region that a granule lies in, before the granule's access: the unit is present in the state
given, or the page is asked for, or the access waits. -/
inductive GranuleUnit where
  | ready (s : State)
  | walk (page : Nat)
  | retry (pa : Nat)
  | later

/-- A granule delivery reaches its unit as any access does: it fills one that is not present (06 R154). A fill that fails, which has no
access of a thread to fault at, leaves the unit absent: the granule is delivered to the plain scratchpad, and the access that takes it
meets the failing fill itself (DESIGN CHOICE; log entry 45). -/
def State.granuleUnit (s : State) (b : Nat) (tg : List Tgt) (bad : List Nat) : GranuleUnit :=
  match s.fillUnits b [0] (s.block b).padCore tg with
  | .ok s1 => .ready s1
  | .error (.stall (.xlate _ a _)) => if bad.contains (a.toNat / 4096) then .ready s else .walk (a.toNat / 4096)
  | .error (.stall (.retry pa)) => .retry pa
  | .error (.stall _) => .later
  | .error (.trap _ _ _) => .ready s

/-- Issue an access of a stream that delivers granules. -/
def State.streamGranule (s : State) (b j : Nat) (st : Stream) (n : Nest) (bad : List Nat) : State :=
  let x := s.block b
  let c := s.computeOf b
  let k := Cells.getD j 0 n.delivered
  let len := field st.third.toNat 16 16
  let g := field st.third.toNat 0 14 + k % len
  let y := s.block c
  let tg : Tgt := .sp y.padCore (16 * (y.spBase + g))
  let ea := st.addr n.idx
  let n1 : Nest := { n with delivered := Cells.set j (k + 1) n.delivered }
  let numbered (ws : List Word) : List (Nat × Word) := (ws.zipIdx).map fun e => (e.2, e.1)
  if s.isFull tg || (s.sliceOf b).flight.any (fun f => f.kind == .granule g) then s
  else
    match s.granuleUnit b [tg] bad with
    | .walk p => s.nestWalk b p
    | .retry pa => s.noteRetry noCore pa
    | .later => s
    | .ready s =>
    match s.streamRead b ea 16 st.nol1 bad with
    | (.value bs, s1) => s1.issueFlight b n1 (.granule g) (numbered (destWords false bs))
    | (.walk p, _) => s.nestWalk b p
    | (.retry pa, _) => s.noteRetry x.padCore pa
    | (.later, _) => s
    | (.fails, _) =>
      match (s.sliceOf b).freeRec with
      | none => s
      | some m =>
        let p := s.freeWords 4
        let rec' : MarkRec := { addr := ea, granule := true, gran := g, queue := 0, slot := 0, tstride := 0, size := 16 }
        ((p.2.specDrop x.core).modSlice b fun sl => { sl with marks := Cells.set m rec' sl.marks }).issueFlight b n1 (.granule g) (numbered p.1)

/-- The reads of an entry, one for each of some threads. -/
def State.entryReads (s : State) (b : Nat) (st : Stream) (ea : DWord) (bad : List Nat) : List Nat → List (Nat × StreamRead) × State
  | [] => ([], s)
  | t :: ts =>
    let r := s.streamRead b (ea + BitVec.ofInt 64 (Int.ofNat t * st.third.toInt)) st.size st.nol1 bad
    let q := r.2.entryReads b st ea bad ts
    ((t, r.1) :: q.1, q.2)

/-- Issue an access of a stream that pushes queue entries: one read per live thread of the compute block. SPECDROP counts a marked entry
once. -/
def State.streamEntry (s : State) (b : Nat) (st : Stream) (n : Nest) (bad : List Nat) : State :=
  let x := s.block b
  let c := s.computeOf b
  let q := st.queue
  if s.queueFull b q then s
  else
    let ea := st.addr n.idx
    let r := s.entryReads b st ea bad (s.block c).liveTids
    let rs := r.1
    let pos := ((s.sliceOf b).queue q).tail
    let slot := pos % 3
    if rs.any (·.2 == .later) then s
    else
      match rs.findSome? (fun e => match e.2 with | .walk p => some p | _ => none),
          rs.findSome? (fun e => match e.2 with | .retry pa => some pa | _ => none) with
      | some p, _ => s.nestWalk b p
      | none, some pa => s.noteRetry x.padCore pa
      | none, none =>
        if !rs.any (·.2 == .fails) then
          let words := rs.map fun e => (e.1, match e.2 with | .value bs => w32 (leNat bs) | _ => 0)
          (r.2.issueFlight b n (.entry q pos) words).pushTail b q
        else
          match (s.sliceOf b).freeRec with
          | none => s
          | some m =>
            let p := s.freeWords rs.length
            let rec' : MarkRec :=
              { addr := ea, granule := false, gran := 0, queue := q, slot, tstride := st.third, size := st.size }
            let s2 := (p.2.specDrop x.core).modSlice b fun sl =>
              let sl1 : Slice := { sl with marks := Cells.set m rec' sl.marks }
              sl1.setQueue q { sl.queue q with mark := Cells.insert slot (sl.queue q).mark }
            (s2.issueFlight b n (.entry q pos) ((rs.zip p.1).map fun e => (e.1.1, e.2))).pushTail b q

/-- HW_STREAM_ACCESS (R285 to R287): the running nest of a slice issues its next access. -/
def execHwStreamAccess (blk : Nat) (s : State) : Host.Outcome State Fault Refusal :=
  let x := s.block blk
  let sl := s.sliceOf blk
  .next (match sl.nest with
    | none => s
    | some n =>
      if x.life != .resident || sl.ended || n.walk.any (!·.2) then s
      else
        match n.streams.find? fun e => n.next ≤ e.1 with
        | none => s.modSlice blk fun sl => sl.advance n
        | some (j, st) =>
          let n1 := { n with next := j }
          let bad := (n.walk.filter (·.2)).map (·.1)
          if st.granules then s.streamGranule blk j st n1 bad else s.streamEntry blk st n1 bad)

/-- HW_DELIVERY (R285, R286): the oldest access in flight is delivered. -/
def execHwDelivery (blk : Nat) (s : State) : Host.Outcome State Fault Refusal :=
  .next (match (s.sliceOf blk).flight with
    | [] => s
    | f :: rest =>
      let s1 := s.modSlice blk fun sl => { sl with flight := rest }
      match f.kind with
      | .nestEnd _ => s
      | .granule g =>
        let y := s1.block (s1.computeOf blk)
        let off := 16 * (y.spBase + g)
        let bs := f.words.flatMap fun w => leBytes 4 w.2.toNat
        let s2 := (bs.zipIdx).foldl (fun (s : State) e => (s.setPadByte y.padCore (off + e.2) e.1).poisonPad y.padCore (off + e.2)) s1
        s2.setFull (.sp y.padCore off) true
      | .entry q pos => s1.fillSlot blk q pos f.words)

/-- HW_NEST_DONE (R285): the last access is delivered: a tracked HEND's flag is decremented. -/
def execHwNestDone (blk : Nat) (s : State) : Host.Outcome State Fault Refusal :=
  .next (match (s.sliceOf blk).flight with
    | f :: rest =>
      match f.kind with
      | .nestEnd flag => (s.modSlice blk fun sl => { sl with flight := rest }).finishFlag blk [] true flag
      | _ => s
    | [] => s)

/-- QUEUE_POP_WAKE (R282): a thread's queue has an entry for it. -/
def execQueuePopWake (blk tid : Nat) (s : State) : Host.Outcome State Fault Refusal :=
  .next (if s.waiting blk tid (fun w => match w with | .popQueue q => s.popWaitOver blk tid q | _ => false)
    then s.wake blk tid else s)

/-- QUEUE_PUSH_WAKE (R282, R291): what a slice's thread waits for has come about. -/
def execQueuePushWake (blk : Nat) (s : State) : Host.Outcome State Fault Refusal :=
  .next (if s.waiting blk 0 (s.sliceWaitOver blk) then s.wake blk 0 else s)

end Sys2Proof.Machine
end

