-- ==== Sys2Proof/Machine/Scheduling.lean ====
section
/-! DEFINITION. Context images (03_control.md R85 to R89), pre-emption (R90 to R95), block life (R98), launch records,
queues, dispatch, slices and the scheduling instructions (14_scheduling.md R318 to R340), and replays (17_system.md
R409). -/

namespace Sys2Proof.Machine

/-! Groups. -/

/-- A lane block with its headwater partners (12 R278). -/
def State.group (s : State) (b : Nat) : List Nat :=
  let x := s.block b
  match x.pairOf with
  | some c => c :: (s.block c).partners
  | none => b :: x.partners

/-- Is the launch of a block cooperative (14 R331)? -/
def State.isCoop (s : State) (b : Nat) : Bool := s.inCoop (s.block b)

/-- The blocks that stop and start with a block: its pair, and in a cooperative launch every block (14 R331). -/
def State.stopSet (s : State) (b : Nat) : List Nat :=
  if s.isCoop b then (match s.launchOf (s.block b) with | some l => l.blocks | none => s.group b) else s.group b

/-- Has a block live accumulators (11 R259)? -/
def Block.liveAcc (x : Block) : Bool := x.tiles.any (·.live) || x.slots.any (·.isSome)

/-! Context images (03 R86 to R88). -/

/-- Write bytes of any number at home: the parity of each unit they touch is owed (18 R434). -/
def State.wrLong (s : State) (pa : Nat) (bs : List Byte) : State :=
  let units := (List.range ((pa % 256 + bs.length + 255) / 256)).map (pa / 256 + ·)
  units.foldl (fun (s : State) u =>
    let lo := Nat.max pa (256 * u)
    s.wrHome lo ((bs.drop (lo - pa)).take (256 * u + 256 - lo))) s

/-- Write 32-bit words from a physical address on; none: an undefined value. -/
def State.wrWords (s : State) (pa : Nat) (ws : List (Option Word)) : State :=
  let vs := (ws.zipIdx).map fun e => e.1.getD (Config.freeWord (s.fresh + e.2))
  (({ s with fresh := s.fresh + ws.length } : State).wrLong pa (vs.flatMap fun w => leBytes 4 w.toNat))

/-- Does a range of device memory meet a stripe under its parity rewrite, so that no access to it is made yet (18 R435)? -/
def State.rangeHeld (s : State) (pa n : Nat) : Bool :=
  s.thatch.stripes.any fun e => e.2 == .lost && pa < 2816 * (e.1 + 1) && 2816 * e.1 < pa + n

/-- Is the image or the save area of a block held by a parity rewrite (18 R435)? -/
def State.storageHeld (s : State) (b : Nat) : Bool :=
  let x := s.block b
  s.rangeHeld x.image 0x201000 || s.rangeHeld x.save 0x43000

/-- A list of words cut or filled to a length. -/
def padWords (n : Nat) (d : Option Word) (ws : List (Option Word)) : List (Option Word) := (ws ++ List.replicate n d).take n

/-- Zero words. -/
def zeroWords (n : Nat) : List (Option Word) := List.replicate n (some 0)

/-- The two words of a 64-bit value. -/
def pairWords (d : DWord) : List (Option Word) := [some (loWord d), some (hiWord d)]

/-- Code of a run state (R87 STATE). -/
def RunState.code : RunState → Nat
  | .ready => 0
  | .stalled _ => 1
  | .parked _ _ => 2
  | .exited => 3
  | .stopped (some _) _ => 2
  | .stopped none w => if w then 1 else 0

/-- STATUS of a thread record (R87). -/
def Thread.status (th : Thread) : DWord :=
  w64 (th.teams.toNat * 2 ^ 48 + th.pred.toNat * 2 ^ 40 + th.stack.length * 2 ^ 33 + th.run.code * 2 ^ 29 +
    (th.clauseIdx % 32) * 2 ^ 24)

/-- The 256 words of a thread record (R87; 17 R396). A clause not yet fetched stands as a header word of zero. -/
def Thread.recordWords (th : Thread) : List (Option Word) :=
  let mid := th.clauseIdx != 0
  let x := if th.inTrap then th.bankX else if mid then th.x else none
  let o := if th.inTrap then th.bankO else if mid then th.o else []
  let clause : List (Option Word) := if !mid then [] else if th.clause.isEmpty then [some 0] else th.clause.map some
  pairWords th.pc ++ pairWords th.status ++ pairWords (w64 th.flagBits) ++ [some th.fpstat, some 0, x] ++
    (List.range 8).map (fun i => Cells.get? i o) ++ zeroWords 47 ++
    padWords 128 none (th.stack.reverse.flatMap pairWords) ++ padWords 17 none clause ++ zeroWords 47

/-- The words of a thread in lines 224 to 255 of its row (R86). -/
def Thread.stateWords (th : Thread) : List Word :=
  [th.split.zeroExtend 32, w32 ((List.range 8).foldl (fun n i => n + Cells.getD i 0 th.qhead * 8 ^ i) 0), loWord th.tpc
  , hiWord th.tpc, loWord th.taddr, hiWord th.taddr, th.tcause, th.tinfo] ++ (List.range 24).map fun i => Cells.getD i 0 th.qslot

/-- Write a thread's state lines (R86). -/
def State.saveLines (s : State) (b t : Nat) : State :=
  let x := s.block b
  if x.kind != .lane then s
  else ((s.thread b t).stateWords.zipIdx).foldl (fun (s : State) e => s.wrNat (x.lineWord t (224 + e.2)) 4 e.1.toNat) s

/-- Write a block's register lines in the register cache back to its image (R92). -/
def State.spillAll (s : State) (b : Nat) : State :=
  (s.block b).cached.foldl (fun (s : State) k => s.spillLine b (k / 256) (k % 256)) s

/-- Word k of a slice's queue record: TAIL, BHEAD, QFLAGS (12 R283). -/
def QueueState.word (q : QueueState) : Word :=
  w32 (q.tail + q.bhead * 2 ^ 8 + ((if q.block then 1 else 0) + (q.mark.foldl (fun n k => n + 2 ^ (k + 1)) 0)) * 2 ^ 16)

/-- Words of a mark record (12 R283). -/
def MarkRec.words (m : MarkRec) : List (Option Word) :=
  pairWords m.addr ++ [some (w32 (2 ^ 31 + (if m.granule then 2 ^ 30 else 0) + m.gran * 2 ^ 16 + m.queue * 4 + m.slot)), some m.tstride]

/-- Words of a stream descriptor (12 R283, R284). -/
def Stream.words (st : Stream) : List (Option Word) := pairWords st.base ++ [some st.ctl, some st.third] ++ st.strides.map some

/-- The headwater words of a block record, 0x200 to 0x4FF (R88; 12 R283). While a nest runs, its own captured counts and streams are
held, not those given since for the next one (DESIGN CHOICE; log entry 103). -/
def Slice.words (sl : Slice) : List (Option Word) :=
  let counts := (sl.nest.map (·.counts)).getD sl.counts
  let idx := (sl.nest.map (·.idx)).getD [0, 0, 0, 0]
  let streams := (sl.nest.map (·.streams)).getD sl.streams
  let enable := streams.foldl (fun n e => n + 2 ^ e.1) 0
  (List.range 8).flatMap (fun i =>
      let q := sl.queue i
      some q.word :: (List.range 3).map fun k => some (Cells.getD k 0 q.bval)) ++
    (List.range 16).flatMap (fun m => ((Cells.get? m sl.marks).map (·.words)).getD (zeroWords 4)) ++
    counts.map some ++ idx.map some ++ [some (w32 ((if sl.nest.isSome then 1 else 0) + enable * 2 ^ 8))] ++ zeroWords 23 ++
    (List.range 8).flatMap (fun j => ((Cells.get? j streams).map (·.words)).getD (zeroWords 8))

/-- The held set and the task words of a block record, 0x800 to 0xA07 (15 R344). -/
def Block.heldWords (x : Block) : List (Option Word) :=
  padWords 128 (some 0) (x.held.flatMap fun e => [some e.1, some (w32 e.2)]) ++ [some x.own, some (if x.put then 1 else 0)]

/-- The words of a block record (R88). -/
def Block.recordWords (x : Block) : List (Option Word) :=
  (List.range 64).map (fun n => some (x.getS n)) ++
    [some (w32 (x.allot + x.full * 2 ^ 8 + x.pro * 2 ^ 16 + (if x.acqpend then 2 ^ 24 else 0))), some (w32 x.threads.length)] ++
    pairWords x.restart ++
    padWords 60 (some 0) (x.teams.flatMap fun tm => [some (w32 (tm.members + tm.arrived * 2 ^ 16)), some tm.phase, some 0, some 0]) ++
    (match x.slice with | some sl => sl.words | none => zeroWords 192) ++ zeroWords 192 ++
    x.heldWords ++ [some 0, some 0] ++ pairWords x.tvec ++ zeroWords 378

/-- Address of the block record (R86). -/
def Block.blockRecord (x : Block) : Nat := x.image + 0x200000

/-- Write the thread and block records of a block (R92). -/
def State.saveRecords (s : State) (b : Nat) : State :=
  let x := s.block b
  let s1 := (List.range x.threads.length).foldl (fun (s : State) t => s.wrWords (x.recordAt t) (s.thread b t).recordWords) s
  s1.wrWords x.blockRecord x.recordWords

/-- Write the whole image of a block (R92); a walker has none (17 R407). -/
def State.saveImage (s : State) (b : Nat) : State :=
  if (s.block b).kind == .walker then s
  else ((List.range (s.block b).threads.length).foldl (fun (s : State) t => s.saveLines b t) (s.spillAll b)).saveRecords b

/-! The scratchpad save area (06 R155). -/

/-- Write the save area of a block, and forget the allocation's contents: its units that could not be written back are
those still dirty. -/
def State.savePad (s : State) (b : Nat) : State :=
  let x := s.block b
  if x.kind != .lane then s
  else
    let regs := padWords 64 (some 0) (x.regions.flatMap fun r =>
      [some (w32 r.off), some (w32 r.len)] ++ pairWords r.global ++ [some 1, some 0, some 0, some 0])
    let bits (l : List Nat) (n : Nat) : List (Option Word) := (List.range (n / 4)).map fun k =>
      some (w32 ((List.range 32).foldl (fun v i => v + if l.contains (32 * k + i) then 2 ^ i else 0) 0))
    let inClean (g : Nat) : Bool := match x.regionAt (16 * g) with
      | some r => !r.dirty.contains ((16 * g - r.off) / 256)
      | none => false
    let word (g k : Nat) : Option Word :=
      if inClean g then none
      else some (w32 (leNat ((List.range 4).map fun i =>
        Cells.getD (padKey x.core (16 * x.spBase + 16 * g + 4 * k + i)) 0 s.pads)))
    let grans := (List.range x.spLen).flatMap fun g => (List.range 4).map fun k => word g k
    let s1 := s.wrWords x.save (regs ++ bits x.spFull 2048 ++ bits x.winFull 8192 ++ grans)
    let lo := padKey x.core (16 * x.spBase)
    { s1 with pads := Cells.dropRange lo (lo + 16 * x.spLen) s1.pads }

/-- Restore the scratchpad allocation of a block that returns, from its save area (06 R155). The region table is the block's kept one; the
descriptors of the save area are not read back (DESIGN CHOICE; log entry 105). -/
def State.restorePad (s : State) (b : Nat) : State :=
  let x := s.block b
  if x.kind != .lane then s
  else
    let bits (off n : Nat) : List Nat := (List.range (8 * n)).filter fun i => (s.rd8 (x.save + off + i / 8)).getLsbD (i % 8)
    let lost (g : Nat) : Bool := match x.regionAt (16 * g) with
      | some r => !r.dirty.contains ((16 * g - r.off) / 256)
      | none => false
    let s1 := (List.range (16 * x.spLen)).foldl (fun (s : State) i =>
      if lost (i / 16) then s else { s with pads := Cells.put 0 (padKey x.core (16 * x.spBase + i)) (s.rd8 (x.save + 0x2900 + i)) s.pads }) s
    s1.modBlock b fun x => { x with
      spFull := (bits 0x100 2048).filter (· < x.spLen)
      winFull := bits 0x900 8192
      regions := x.regions.map fun r => { r with present := r.dirty } }

/-! Placement checks (R89 and the rules it names). -/

/-- A field of a thread record in the image. -/
def State.recField (s : State) (x : Block) (t off n : Nat) : Nat := s.rdNat (x.recordAt t + off) n

/-- Are the bytes of a range all zero? -/
def State.zeroRange (s : State) (pa n : Nat) : Bool := (List.range n).all fun i => s.rd8 (pa + i) == 0

/-- The checks of a block's image, in order: R89 (1 to 6), 08 R216 (7 to 12), 12 R283 (13 to 15), 17 R392 (16, 17), 15
R344 (18 to 21); each says whether it fails. -/
def State.placeChecks (s : State) (b : Nat) : List Bool :=
  let x := s.block b
  let ts := List.range x.threads.length
  let st (t : Nat) : Nat := s.recField x t 8 8
  let depth (t : Nat) : Nat := field (st t) 33 7
  let idx (t : Nat) : Nat := field (st t) 24 5
  let gone (t : Nat) : Bool := field (st t) 29 4 == 3
  let teamBit (t i : Nat) : Bool := (st t).testBit (48 + i)
  let line (t n : Nat) : Nat := if x.kind == .lane then s.rdNat (x.lineWord t n) 4 else 0
  let split (t i : Nat) : Nat := field (line t 224) (2 * i) 2
  let rd (off n : Nat) : Nat := s.rdNat (x.blockRecord + off) n
  let A := rd 0x100 1
  let N := rd 0x101 1
  let P := rd 0x102 1
  let members (i : Nat) : Nat := rd (0x110 + 16 * i) 2
  let arrived (i : Nat) : Nat := rd (0x112 + 16 * i) 2
  let teams := List.range 8
  let hw := x.kind == .headwater
  let handle (k : Nat) : Nat := rd (0x800 + 8 * k) 4
  let hn (k : Nat) : Nat := rd (0x804 + 8 * k) 2
  let ks := List.range 64
  let marks := List.range 16
  [ ts.any fun t => field (st t) 29 4 > 3
  , ts.any fun t => depth t > 64
  , false
  , ts.any fun t => idx t > 16 || (idx t != 0 && idx t > clauseCount (w32 (s.recField x t 0x300 4)))
  , A < 16 || A > 224 || N < 16 || N > 224 || P < 16 || P > 224 || (A != P && A != N)
  , ts.any (fun t => field (st t) 0 24 != 0 || field (st t) 56 8 != 0 || s.recField x t 0x10 8 ≥ 2 ^ 36 || s.recField x t 0x18 4 ≥ 2 ^ 7 ||
        !s.zeroRange (x.recordAt t + 0x1C) 4 || !s.zeroRange (x.recordAt t + 0x44) 0xBC || !s.zeroRange (x.recordAt t + 0x344) 0xBC) ||
      field (rd 0x100 4) 25 7 != 0 || !s.zeroRange (x.blockRecord + 0x500) 0x300 || !s.zeroRange (x.blockRecord + 0xA08) 8 ||
      !s.zeroRange (x.blockRecord + 0xA18) 0x5E8 || (!hw && !s.zeroRange (x.blockRecord + 0x200) 0x300)
  , teams.any fun i => members i != (ts.filter fun t => !gone t && teamBit t i).length
  , ts.any fun t => gone t && field (st t) 48 8 != 0
  , teams.any fun i => arrived i != (ts.filter fun t => split t i == 1).length
  , teams.any fun i => members i > 0 && arrived i ≥ members i
  , ts.any fun t => teams.any fun i => split t i == 3 || (split t i != 0 && !teamBit t i)
  , teams.any (fun i => !s.zeroRange (x.blockRecord + 0x118 + 16 * i) 8) || !s.zeroRange (x.blockRecord + 0x190) 0x70 ||
      ts.any fun t => line t 224 ≥ 2 ^ 16
  , (hw && teams.any fun i => rd (0x200 + 16 * i) 1 > 5 || rd (0x201 + 16 * i) 1 > 5) ||
      ts.any fun t => teams.any fun i => field (line t 225) (3 * i) 3 > 5
  , hw && teams.any fun i => (List.range 3).any fun k => (rd (0x202 + 16 * i) 1).testBit (k + 1) &&
      !marks.any fun m => let w := rd (0x288 + 16 * m) 4; w.testBit 31 && !w.testBit 30 && field w 2 3 == i && field w 0 2 == k
  , (hw && (teams.any (fun i => rd (0x203 + 16 * i) 1 != 0 || rd (0x202 + 16 * i) 1 ≥ 16) || field (rd 0x3A0 4) 1 7 != 0 ||
        field (rd 0x3A0 4) 16 16 != 0 || !s.zeroRange (x.blockRecord + 0x3A4) 92 || marks.any (fun m => field (rd (0x288 + 16 * m) 4) 5 11 != 0) ||
        teams.any fun j => let ctl := rd (0x408 + 32 * j) 4
          field ctl 16 16 != 0 || field ctl 0 8 != 0 || (ctl.testBit 15 && field (rd (0x40C + 32 * j) 4) 14 2 != 0))) ||
      ts.any fun t => line t 225 ≥ 2 ^ 24
  , ts.any fun t => field (line t 230) 29 2 != 0 || field (line t 230) 8 16 != 0
  , ts.any fun t => field (line t 230) 24 5 > 16
  , ks.any fun k => handle k != 0 && ks.any fun j => j < k && handle j == handle k
  , ks.any fun k => if handle k = 0 then hn k != 0 else hn k == 0 || hn k > 255
  , ks.any (fun k => rd (0x806 + 8 * k) 2 != 0) || rd 0xA04 4 ≥ 2
  , rd 0xA04 4 % 2 == 1 && rd 0xA00 4 == 0 ]

/-- The first check that fails, counted from 1 (log entry 33). -/
def State.placeFail (s : State) (b : Nat) : Option Nat := ((s.placeChecks b).findIdx? (· = true)).map (· + 1)

/-- A thread as its image gives it; what the image does not hold stays as it was (R89, R91). -/
def State.loadThread (s : State) (b t : Nat) : State :=
  let x := s.block b
  let rd (off n : Nat) : Nat := s.recField x t off n
  let st := rd 8 8
  let idx := field st 24 5
  let line (n : Nat) : Word := w32 (s.rdNat (x.lineWord t n) 4)
  let words (off n : Nat) : List Word := (List.range n).map fun i => w32 (rd (off + 4 * i) 4)
  let lane := x.kind == .lane
  s.modThread b t fun th =>
    let trapped := lane && (line 230).getLsbD 31
    let bank : List (Nat × Word) := (words 0x24 8).zipIdx.map fun e => (e.2, e.1)
    let hdr := w32 (rd 0x300 4)
    { th with
      pc := w64 (rd 0 8)
      teams := BitVec.ofNat 8 (field st 48 8)
      pred := BitVec.ofNat 8 (field st 40 8)
      stack := ((List.range (field st 33 7)).map fun i => w64 (rd (0x100 + 8 * i) 8)).reverse
      run := match field st 29 4, th.run with
        | 3, _ => .exited
        | 2, .parked a k => .parked a k
        | 2, .stopped (some p) _ => .parked p.1 p.2
        | _, _ => .ready
      flags := (List.range 12).filterMap fun i =>
        let n := field (rd 0x10 8) (3 * i) 3
        if n = 0 then none else some (i, n)
      fpstat := w32 (rd 0x18 4) &&& 0x7F
      clauseIdx := idx
      clause := if idx = 0 ∨ hdr = 0 then [] else words 0x300 (clauseCount hdr + 1)
      v := if lane then [] else th.v
      x := if !trapped && idx ≠ 0 then some (w32 (rd 0x20 4)) else none
      o := if !trapped && idx ≠ 0 then bank else []
      bankX := if trapped then some (w32 (rd 0x20 4)) else none
      bankO := if trapped then bank else []
      split := if lane then BitVec.ofNat 16 (line 224).toNat else 0
      tpc := if lane then pairOf (line 226) (line 227) else 0
      taddr := if lane then pairOf (line 228) (line 229) else 0
      tcause := if lane then line 230 else 0
      tinfo := if lane then line 231 &&& 0xFFFF else 0
      twinBad := false
      qhead := if lane then (List.range 8).foldl (fun hs i => Cells.put 0 i (field (line 225).toNat (3 * i) 3) hs) [] else []
      qslot := if lane then (List.range 24).foldl (fun ws i => Cells.put 0 i (line (232 + i)) ws) [] else []
      since := s.now }

/-- The headwater part of a slice as its block record gives it (12 R283). Where the record is what the slice saved, the slice goes on as it
was; a record that system software has changed gives its own nest, which stands at the start of an iteration, and streams (log entry 56). -/
def Slice.load (sl : Slice) (rd : Nat → Nat → Nat) : Slice :=
  let was := sl.words.map fun w => (w.getD 0).toNat
  if (List.range 192).map (fun k => rd (0x200 + 4 * k) 4) = was then sl
  else
    let queue (i : Nat) : QueueState :=
      let fl := rd (0x202 + 16 * i) 1
      { tail := rd (0x200 + 16 * i) 1, bhead := rd (0x201 + 16 * i) 1, block := fl.testBit 0
        mark := (List.range 3).filter fun k => fl.testBit (k + 1)
        bval := (List.range 3).foldl (fun m k => Cells.put 0 k (w32 (rd (0x204 + 16 * i + 4 * k) 4)) m) [] }
    let run := rd 0x3A0 4
    let counts := (List.range 4).map fun k => w32 (rd (0x380 + 4 * k) 4)
    let idx := (List.range 4).map fun k => w32 (rd (0x390 + 4 * k) 4)
    let streams : List (Nat × Stream) := ((List.range 8).filter fun j => run.testBit (8 + j)).map fun j =>
      let w (k : Nat) : Word := w32 (rd (0x400 + 32 * j + 4 * k) 4)
      (j, { base := pairOf (w 0) (w 1), ctl := w 2, third := w 3, strides := (List.range 4).map fun k => w (4 + k) })
    let mark (m : Nat) : Option (Nat × MarkRec) :=
      let w := rd (0x288 + 16 * m) 4
      if !w.testBit 31 then Option.none
      else
        let q := field w 2 3
        let size := (streams.find? fun e => !e.2.granules && e.2.queue == q).elim 4 (·.2.size)
        some (m, { addr := w64 (rd (0x280 + 16 * m) 8), granule := w.testBit 30, gran := field w 16 14, queue := q, slot := field w 0 2
                   tstride := w32 (rd (0x28C + 16 * m) 4), size := if w.testBit 30 then 16 else size })
    -- iterations of the nest that are over
    let past := ((idx.zip counts).foldr (fun e n => n * e.2.toNat + e.1.toNat) 0)
    let nest : Nest :=
      { counts, idx, streams, next := 0, flag := sl.nest.bind (·.flag), walk := []
        delivered := (streams.filter (·.2.granules)).map fun e => (e.1, past) }
    { sl with
      queues := (List.range 8).map fun i => (i, queue i)
      marks := (List.range 16).filterMap mark
      counts, streams, nest := if run.testBit 0 then some nest else Option.none }

/-- A block as its image gives it. -/
def State.loadBlock (s : State) (b : Nat) : State :=
  let x := s.block b
  let rd (off n : Nat) : Nat := s.rdNat (x.blockRecord + off) n
  let s1 := (List.range x.threads.length).foldl (fun (s : State) t => s.loadThread b t) s
  s1.modBlock b fun x => { x with
    slice := x.slice.map (·.load rd)
    spare := []
    s := (List.range 64).filterMap fun n =>
      let w := w32 (rd (4 * n) 4)
      if w = 0 then none else some (n, w)
    allot := rd 0x100 1, full := rd 0x101 1, pro := rd 0x102 1, acqpend := (rd 0x103 1) % 2 == 1
    restart := w64 (rd 0x108 8)
    teams := (List.range 8).map fun i => ⟨rd (0x110 + 16 * i) 2, rd (0x112 + 16 * i) 2, w32 (rd (0x114 + 16 * i) 4)⟩
    tvec := w64 (rd 0xA10 8) }

/-! Fit (14 R330). -/

/-- Thread places a resident block takes: a lane block's threads count twice under PAIRED (12 R278; 18 R422). -/
def State.places (s : State) (b : Nat) : Nat :=
  let x := s.block b
  x.threads.length * (if x.kind == .lane && (s.recOf x).any (·.contain == 1) then 2 else 1)

/-- Blocks whose room on a core is taken: those in a slot, and gang members that hold a reservation (16 R367). -/
def State.occupants (s : State) (core : Nat) : List Nat :=
  s.blockIds.filter fun b =>
    let x := s.block b
    x.core == core && x.kind != .walker &&
      (x.inSlot || (x.life == .queued &&
        (match (x.pairOf.bind s.getBlock).getD x |>.gang with | some g => 1 ≤ g.phaseSt && g.phaseSt ≤ 3 | none => false)))

/-- Is a core in service (00 R1, 18 R423, R426, R427)? -/
def State.coreInService (s : State) (core : Nat) : Bool :=
  let c := s.getCore core
  let k := s.getCluster (clusterOf core)
  !c.withdrawn && !c.halted && !k.quarantined && k.phase == .none

/-- Does a core keep a span mode (10 R252)? -/
def State.keepsSpan (s : State) (core span : Nat) : Bool := (modeChannels span).all fun ch => !(s.getCore core).retired ch

/-- Cores of the package in service, ascending. -/
def State.serving (s : State) : List Nat := (List.range 512).filter fun c => !(s.getCore c).withdrawn && !(s.getCluster (clusterOf c)).quarantined

/-- The cores reserved for class 0 (14 R329). -/
def State.reservedCores (s : State) : List Nat := s.serving.reverse.take (field s.mgmt.schedres.toNat 16 10)

/-- What a lane block with its partners needs of a core (R330; 12 R278). -/
structure Need where
  /-- slices it brings; with itself, its block slots -/
  slices : Nat
  places : Nat
  granules : Nat
  matrix : Bool
deriving DecidableEq, Repr

/-- Room of a core: block slots, slices and thread places left, whether a matrix block is there, and the granule runs in use. -/
structure Room where
  slots : Nat
  slices : Nat
  places : Nat
  matrix : Bool
  used : List (Nat × Nat)
deriving DecidableEq, Repr

/-- An empty core: 32 slots, 4 slices, 1,024 thread places (03 R71; 12 R278). -/
def Room.empty : Room := { slots := 32, slices := 4, places := 1024, matrix := false, used := [] }

/-- Where n free granules of a scratchpad lie together after the runs in use, or at its start; ascending. -/
def freeRuns (used : List (Nat × Nat)) (n : Nat) : List Nat :=
  if n = 0 then [0]
  else
    let starts := used.foldl (fun l u => Cells.insert (u.1 + u.2) l) [0]
    starts.filter fun a => a + n ≤ 16384 && used.all fun u => u.2 == 0 || a + n ≤ u.1 || u.1 + u.2 ≤ a

/-- The scratchpad bases a need could get in a room; none where it does not fit. -/
def Room.starts (r : Room) (n : Need) : List Nat :=
  if n.slices + 1 ≤ r.slots && n.slices ≤ r.slices && n.places ≤ r.places && !(n.matrix && r.matrix) then freeRuns r.used n.granules else []

/-- A room with a need put in at a scratchpad base. -/
def Room.put (r : Room) (n : Need) (base : Nat) : Room :=
  { slots := r.slots - (n.slices + 1), slices := r.slices - n.slices, places := r.places - n.places, matrix := r.matrix || n.matrix
    used := (base, n.granules) :: r.used }

/-- The rooms of a list that differ from every one before them, with their positions. -/
def distinctRooms (rs : List Room) : List (Nat × Room) :=
  ((rs.zipIdx).foldl (fun (l : List (Nat × Room)) e => if l.any (·.2 == e.1) then l else (e.2, e.1) :: l) []).reverse

/-- An arrangement of needs in rooms, if there is one: the position of the room and the scratchpad base of each (R322, R331). -/
def arrange : List Need → List Room → Option (List (Nat × Nat))
  | [], _ => some []
  | n :: ns, rs =>
    (distinctRooms rs).findSome? fun e => (e.2.starts n).findSome? fun base =>
      (arrange ns (rs.set e.1 (e.2.put n base))).map ((e.1, base) :: ·)

/-- What a lane block needs: under PAIRED, twice its threads (R330). -/
def LaunchRec.needs (r : LaunchRec) (role : Role) (partners : Nat) : Need :=
  { slices := partners, places := if r.contain = 1 then 2 * r.threads else r.threads + partners, granules := role.share
    matrix := r.span != 0 }

/-- What a lane block of a launch needs. -/
def State.needs (s : State) (b : Nat) : Need :=
  let x := s.block b
  match s.recOf x, s.roleOf x with
  | some r, some role => r.needs role x.partners.length
  | _, _ => { slices := x.partners.length, places := x.threads.length, granules := 0, matrix := false }

/-- Is a block a matrix block (11 R257)? -/
def State.isMatrix (s : State) (b : Nat) : Bool := (s.block b).kind == .lane && (s.needs b).matrix

/-- The room of a core with some occupants. -/
def State.roomOf (s : State) (occ : List Nat) : Room :=
  { slots := 32 - occ.length, slices := 4 - (occ.filter fun o => (s.block o).kind == .headwater).length
    places := 1024 - (occ.map s.places).sum, matrix := occ.any s.isMatrix
    used := occ.map fun o => ((s.block o).spBase, (s.block o).spLen) }

/-- Who is on a core when the blocks of a list, and the block's own group, are gone. -/
def State.othersOn (s : State) (b core : Nat) (gone : List Nat) : List Nat :=
  (s.occupants core).filter fun o => !gone.contains o && !(s.group b).contains o

/-- The conditions of R330 on a core that do not ask for room. A copy of an Oxbow run goes to a cluster the run has not used (18 R429,
R432). The mark of a due cooperative launch is for each of its blocks (R331). -/
def State.admissible (s : State) (b core : Nat) (gone : List Nat) : Bool :=
  let x := s.block b
  let span := ((s.recOf x).map (·.span)).getD 0
  let cls := ((s.recOf x).map (·.cls)).getD 0
  let used := match x.oxbow.bind fun e => s.oxRuns.find? (·.id == e.1) with
    | some r => x.isCopy && r.clusters.contains (clusterOf core) && !x.placed
    | none => false
  let mine (d : Nat) : Bool := d == b || (s.isCoop b && (s.block d).launch == x.launch)
  s.coreInService core && s.keepsSpan core span && !used && !((s.othersOn b core gone).any fun o => (s.block o).acqpend) &&
    !(s.sched.due.any fun d => d.2 == core && !mine d.1) && !(s.sched.gangCores.any fun e => e.1 == core && e.2 != b) &&
    (cls == 0 || !s.reservedCores.contains core)

/-- The conditions of R330 for a lane block on a core, blocks of a list taken as gone; the scratchpad base it would get. -/
def State.fitsOn (s : State) (b core : Nat) (gone : List Nat) : Option Nat :=
  if s.admissible b core gone then ((s.roomOf (s.othersOn b core gone)).starts (s.needs b)).head? else none

/-- Has a block accesses in a copy pinned by a block outside its group, which reach home only when that pin ends (07 R183; log entry 40)? -/
def State.pinnedAway (s : State) (b : Nat) : Bool :=
  s.pins.any fun p => !(s.group b).contains p.blk && (s.block b).threads.any fun th => th.observed.contains p.id

/-- Is everything a stopped group issued performed, its writes through UALink acknowledged, so that its threads may resume (07 R200)? An
atomic without order counts like any access. -/
def State.groupQuiet (s : State) (b : Nat) : Bool :=
  !(s.ops.any fun o => (s.group b).contains o.blk && (o.isNord || s.pendingAt o .sys)) && !(s.group b).any s.pinnedAway

/-! The reservoir (14 R333), in units of 1/18 nJ. -/

/-- CAP in W. -/
def State.capW (s : State) : Nat := Nat.min 2600 (s.mgmt.pcap.toNat % 4096)

/-- Capacity: CAP × 10 ms. -/
def State.reservoirCap (s : State) : Nat := s.capW * 180000000

/-- Does the reservoir cover an estimate at a class? -/
def State.admits (s : State) (cls uj : Nat) : Bool :=
  let share := if cls = 0 then 0 else s.reservoirCap * (s.mgmt.schedres.toNat % 256)
  decide (256 * s.sched.reservoir - (share : Int) ≥ 256 * (ujUnits uj : Int))

/-! Placement (R72, R89, R98; 14 R320, R321; 07 R200). -/

/-- The lowest free slot of a core. -/
def State.freeSlot (s : State) (core : Nat) : Nat :=
  ((List.range 32).find? fun k => !((s.occupants core).any fun o => (s.block o).slot == k && (s.block o).core == core)).getD 0

/-- Give the blocks of a group their core, slots, lane base and scratchpad run. -/
def State.assign (s : State) (b core lanebase spBase : Nat) : State :=
  let s0 := (s.group b).foldl (fun (s : State) g => s.modBlock g fun x => { x with core := 512, slot := 0 }) s
  (s.group b).foldl (fun (s : State) g =>
    let sl := s.freeSlot core
    s.modBlock g fun x => { x with
      core, slot := sl, lanebase := lanebase % 16
      spBase := if x.kind = .lane then spBase else 0
      spLen := if x.kind = .lane then ((s.roleOf x).map (·.share)).getD 0 else 0
      life := if x.life == .exiting then .exiting else .resident }) s0

/-- A new slice starts (R332, R333): NRGBUD is debited. -/
def State.newSlice (s : State) (b : Nat) : State :=
  let x := s.block b
  if x.kind != .lane then s
  else
    let uj := ((s.recOf x).map (·.nrgbud)).getD 0
    let s1 : State := { s with sched := { s.sched with reservoir := s.sched.reservoir - (ujUnits uj : Int) } }
    s1.modBlock b fun x => { x with sliceStart := s.now, charged := 0, debit := uj, allowance := none }

/-- Write a block's first image (R72). -/
def State.firstImage (s : State) (b : Nat) : State :=
  let x := s.block b
  let rows := (x.threads.length + 15) / 16
  (if x.kind = .lane then s.wrLong x.image (List.replicate (rows * 0x4000) 0) else s).saveImage b

/-- One thread takes the trap BUDGET, or will when it becomes ready (R334). One in a wait takes it with its arrival withdrawn (08 R213). -/
def State.budgetTrap (s : State) (b t : Nat) : State :=
  let th := s.thread b t
  let take (s : State) : State := (s.trapEntry b t .budget 0 0 th.pc th.pc th.clauseIdx).leaveBundle b t
  if (s.block b).life = .done then s
  else
    match th.run with
    | .ready => take s
    | .stalled w => take (s.modThread b t (·.withdraw w))
    | .parked _ _ | .stopped _ _ => s.modThread b t fun th => { th with budgetDue := true }
    | .exited => s

/-- A thread that becomes ready takes the BUDGET trap that is due (R334). -/
def State.takeDue (s : State) (b t : Nat) : State :=
  let th := s.thread b t
  if th.budgetDue && th.run == .ready then (s.modThread b t fun th => { th with budgetDue := false }).budgetTrap b t else s

/-- One block of a group starts on its core: its image is checked and loaded; a copy's has been written when it was made (18 R429). Its matrix state holds undefined values
(11 R258). A slice that has exited only keeps its place beside its pair (12 R278). -/
def State.startBlock (s : State) (b : Nat) : State :=
  let first := !(s.block b).placed
  let s1 := if first && !(s.block b).isCopy then s.firstImage b else s
  match s1.placeFail b with
  | some n =>
    let x := s1.block b
    (s1.kill b).record x.ctx { kind := 0x11, core := x.core, slot := x.slot, addr := x.image, detail := leBytes 1 n }
  | none =>
    let s2 := s1.loadBlock b
    let x := s2.block b
    let lo := padKey x.core (16 * x.spBase)
    let s3 : State := if first then { s2 with pads := Cells.dropRange lo (lo + 16 * x.spLen) s2.pads } else s2.restorePad b
    let s4 := s3.modBlock b fun x => { x with
      life := if x.liveTids.isEmpty then .exiting else .resident
      placed := true, cached := [], placedAt := s.now, firstPlaced := if first then s.devTime else x.firstPlaced
      stopBy := none, deferred := none, moveTo := none
      slice := x.slice.map fun sl => { sl with nest := sl.nest.map fun n => { n with walk := [] } } }
    let s5 := if x.kind == .lane && ((s.recOf x).map (·.span)).getD 0 != 0 then
        ({ s4 with fresh := s4.fresh + 1 } : State).modCore x.core fun c => { c with
          tiles := List.replicate 8 (Store.free s4.fresh), bounds := List.replicate 8 (Store.free s4.fresh)
          bsram := Store.free s4.fresh, matrixCtx := some x.ctx, oprdy := [] }
      else s4
    let s6 := (s5.acquireAt x.core .sys).newSlice b
    let s7 := s6.modCluster (clusterOf x.core) fun k => { k with ctxs := Cells.insert x.ctx k.ctxs }
    let s8 : State :=
      { s7 with chains := s7.chains.map fun (c : Chain) => if c.blk = b && !c.started then { c with core := x.core } else c }
    (List.range x.threads.length).foldl (fun (s : State) t => s.takeDue b t) s8

/-- N of OXBOW: the largest power of two that is not above it (18 R429). -/
def State.oxRate (s : State) : Nat :=
  let n := s.mgmt.oxbow.toNat % 2 ^ 21
  if n = 0 then 0 else 2 ^ Nat.log2 n

/-- The run slots of the Oxbow area that no run uses (18 R429). -/
def State.oxSlots (s : State) : List Nat :=
  (List.range 64).filter fun k => s.oxRuns.all fun r => r.slot != k && r.thirdSlot != some k && !r.more.contains k

/-- The first of them. -/
def State.oxFreeSlot (s : State) : Option Nat := s.oxSlots.head?

/-- Where the image of an Oxbow slot is (18 R429). -/
def State.oxImage (s : State) (slot : Nat) : Nat := (s.mgmt.oxbase.toNat % 2 ^ 52) / 4096 * 4096 + slot * 0x244000

/-- Queue a copy of blocks as their first images gave them, each in a slot: a lane block and its slices, with the same launch, image contents,
class and deadline; the images are written at once (18 R429). -/
def State.queueCopy (s : State) (run role : Nat) (g : List Block) (slots : List Nat) : State × Nat :=
  let lead := s.seq + 1
  let mates := (List.range (g.length - 1)).map (lead + 1 + ·)
  let s1 : State := { s with seq := s.seq + g.length }
  let put (s : State) (e : (Block × Nat) × Nat) : State :=
    let img := s.oxImage e.1.2
    (s.setBlock (lead + e.2) { e.1.1 with
      life := .queued, placed := false, image := img, save := img + 0x201000
      partners := if e.2 = 0 then mates else [], pairOf := if e.2 = 0 then none else some lead
      oxbow := some (run, role), gang := none, enteredQueue := s.now, charged := 0, debit := 0 }).firstImage (lead + e.2)
  (((g.zip slots).zipIdx).foldl put s1, lead)

/-- The first placement of a lane block whose launch has OXBOW is counted, and sampled at every N-th (18 R429), where there are slots for its
copy and its copy's slices (log entry 115). -/
def State.oxSample (s : State) (b : Nat) : State :=
  let x := s.block b
  if x.kind != .lane || x.oxbow.isSome || !(s.recOf x).any (·.oxbow) || s.oxRate = 0 then s
  else
    let hit := s.oxCount % s.oxRate + 1 == s.oxRate
    let s1 : State := { s with oxCount := s.oxCount + 1 }
    let g := (s.group b).map s.block
    match hit && s.mgmt.oxbase.toNat != 0 && g.length ≤ s.oxSlots.length, s.oxFreeSlot with
    | true, some k =>
      let run := s1.seq + 1
      let slots := s.oxSlots.take g.length
      let p := ({ s1 with seq := run } : State).queueCopy run 1 g slots
      let s2 := p.1.modBlock b fun x => { x with oxbow := some (run, 0), sig := [], sigShadow := 0, sigAbandon := false }
      { s2 with oxRuns := s2.oxRuns ++ [{ id := run, slot := k, launch := x.launch, index := x.index, ctx := x.ctx, orig := b, copy := p.2
                                          third := none, thirdSlot := none, clusters := [clusterOf x.core], start := s.devTime
                                          finish := 0, sigs := [], abandoned := false, first := g, more := slots.drop 1 }] }
    | _, _ => s1

/-- Note the cluster of a copy when it first starts. -/
def State.oxPlaced (s : State) (b : Nat) : State :=
  match (s.block b).oxbow with
  | some (run, _) => { s with oxRuns := s.oxRuns.map fun r =>
      if r.id = run then { r with clusters := Cells.insert (clusterOf (s.block b).core) r.clusters } else r }
  | none => s

/-- Place a lane block and its partners on a core: QUEUED to RESIDENT (R98). -/
def State.placeGroup (s : State) (b core lanebase spBase : Nat) : State :=
  let first := !(s.block b).placed
  let s1 := s.assign b core lanebase spBase
  let s2 := (s.group b).foldl (fun (s : State) g => if (s.block g).life != .resident then s else s.startBlock g) s1
  let s3 : State := { s2 with sched := { s2.sched with due := s2.sched.due.filter (·.1 != b) } }
  if first && (s3.block b).life != .done then (s3.oxSample b).oxPlaced b else s3

/-! The scheduler's reads (14 R321). -/

/-- A run of the scheduler, or of a peer's access, for a context. -/
def State.schedRun (s : State) (ctx : Nat) (sched : Bool := true) : Eng := Eng.on s (2 ^ 60) 0 ctx (s.readBad ctx sched)

/-- Read n 32-bit words at an address of a context: none when one cannot be read. -/
def State.schedWords (s : State) (ctx : Nat) (ea : DWord) (n : Nat) : Except EngWait (Option (List Word)) :=
  match (readBytes ea (4 * n)).run (s.schedRun ctx) with
  | .error w => .error w
  | .ok (bs, g) => if g.fail.isSome then .ok none else .ok (some ((List.range n).map fun i => w32 (leNat ((bs.drop (4 * i)).take 4))))

/-! Launch records (R318, R319, R322). -/

/-- A role entry. -/
def parseRole (bs : List Byte) : Role :=
  let b4 := recNat bs 4 1
  { pro := recNat bs 0 1, full := recNat bs 1 1, share := recNat bs 2 2, prio := b4 % 4, hw := b4.testBit 2, pair := field b4 3 2
    off := recNat bs 5 3 }

/-- The 128 bytes of a record as its fields. -/
def parseLaunch (bs : List Byte) : LaunchRec :=
  let n (off len : Nat) : Nat := recNat bs off len
  let fl := n 0x4C 4
  { entry := w64 (n 0 8), args := w64 (n 8 8), list := w64 (n 0x10 8), image := n 0x18 8, save := n 0x20 8, deadline := n 0x28 8
    done := w64 (n 0x30 8), cycbud := n 0x38 4, nrgbud := n 0x3C 4, blocks := n 0x40 4, threads := n 0x44 2, ctx := n 0x46 2
    cls := n 0x48 1, span := n 0x49 1, argn := n 0x4A 1, coop := fl.testBit 0, oxbow := fl.testBit 1, contain := field fl 2 2
    notify := fl.testBit 4, gang := n 0x50 4, gmembers := n 0x54 2, gindex := n 0x56 2
    roles := (List.range (n 0x4B 1)).map fun k => parseRole ((bs.drop (0x58 + 8 * k)).take 8) }

/-- Is a role entry of a record in range (R319)? -/
def roleOk (r : LaunchRec) (bs : List Byte) (k : Nat) : Bool :=
  match r.roles[k]? with
  | none => false
  | some e =>
    16 ≤ e.pro && e.pro ≤ 224 && e.pro ≤ e.full && e.full ≤ 224 && recNat bs (0x5C + 8 * k) 1 < 32 && e.share ≤ 16384 &&
      (if e.hw then e.share == 0 && e.off != 0 && (match r.roles[e.pair]? with | some l => !l.hw | none => false) else e.pair == 0)

/-- Order 2 of R322, with the conditions of 16 R364. -/
def recordOk (r : LaunchRec) (bs : List Byte) : Bool :=
  let nroles := recNat bs 0x4B 1
  1 ≤ nroles && nroles ≤ 4 && (List.range nroles).all (roleOk r bs) &&
    ((bs.drop (0x58 + 8 * nroles)).take (8 * (4 - nroles))).all (· == 0) && r.roles.any (fun e => !e.hw) &&
    r.image % 4096 == 0 && r.save % 4096 == 0 && r.done.toNat % 16 == 0 && 1 ≤ r.nrgbud &&
    (if r.list = 0 then r.blocks ≤ 2 ^ 24 else r.blocks == 0) && 1 ≤ r.threads && r.threads ≤ 1024 && r.cls ≤ 3 && r.span ≤ 5 &&
    r.argn ≤ 64 && recNat bs 0x4C 4 < 32 && r.contain != 3 && recNat bs 0x78 4 == 0 &&
    (if r.gang = 0 then r.gmembers == 0 && r.gindex == 0
     else r.gang / 1024 != 0 && r.blocks == 1 && r.list == 0 && !r.coop && 2 ≤ r.gmembers && r.gmembers ≤ 1024 && r.gindex < r.gmembers)

/-- What lane block i of a record needs (R319). -/
def LaunchRec.need (r : LaunchRec) (i : Nat) : Need :=
  let lanes := (r.roles.zipIdx).filter fun e => !e.1.hw
  let role := lanes.getD (i % lanes.length) (⟨0, 0, 0, 0, false, 0, 0⟩, 0)
  r.needs role.1 (r.roles.filter fun e => e.hw && e.pair == role.2).length

/-- Order 6 of R322 for n lane blocks: each fits an empty core; those of a cooperative launch fit the package at once, by the first four
conditions of R330 alone. -/
def State.recordFits (s : State) (r : LaunchRec) (n : Nat) : Bool :=
  let lanes := (r.roles.filter fun e => !e.hw).length
  let rooms : List Room := (s.serving.filter fun c => s.keepsSpan c r.span).map fun _ => Room.empty
  (List.range (Nat.min n lanes)).all (fun i => !(Room.empty.starts (r.need i)).isEmpty) &&
    (!r.coop ||
      -- no arrangement exists where the sums exceed the package
      let k := rooms.length
      n ≤ 32 * k &&
      let ns := (List.range n).map fun i => { r.need i with matrix := false }
      (ns.map (·.slices + 1)).sum ≤ 32 * k && (ns.map (·.places)).sum ≤ 1024 * k && (ns.map (·.granules)).sum ≤ 16384 * k &&
        (arrange ns rooms).isSome)

/-- Outcome of the checks of a record. -/
inductive Checked where
  /-- rejected with a code of R322 -/
  | reject (code : Nat)
  /-- its argument words and its number of lane blocks -/
  | accept (args : List Word) (count : Nat)
  /-- a page of ARGS or LIST is on its way -/
  | hold (w : EngWait)
deriving DecidableEq, Repr

/-- The number N of lane blocks of a record (R319): BLOCKS, or the count of the active list; none where that cannot be read. -/
def State.laneCount (s : State) (r : LaunchRec) : Except EngWait (Option Nat) :=
  if r.list = 0 then .ok (some r.blocks)
  else
    match s.schedWords r.ctx r.list 1 with
    | .error w => .error w
    | .ok l => .ok (l.map fun ws => (ws.headD 0).toNat)

/-- Order 8 of R322: ARGN words at ARGS and the active list, of a count. -/
def State.checkReads (s : State) (r : LaunchRec) (count : Option Nat) : Checked :=
  match s.schedWords r.ctx r.args r.argn, count with
  | .error w, _ => .hold w
  | .ok none, _ | .ok _, none => .reject 8
  | .ok (some args), some n =>
    if r.list = 0 then .accept args n
    else if n > 2 ^ 24 then .reject 8
    else
      match s.schedWords r.ctx (r.list + 4) n with
      | .error w => .hold w
      | .ok none => .reject 8
      | .ok (some _) => .accept args n

/-- Orders 5 to 7 of R322 for a number of lane blocks; one that cannot be read is left to order 8. -/
def State.checkRoom (s : State) (r : LaunchRec) (count : Option Nat) : Option Nat :=
  if !(s.serving.any fun c => s.keepsSpan c r.span) then some 5
  else if count.any fun n => !s.recordFits r n then some 6
  else if ujUnits r.nrgbud * 256 > s.reservoirCap * (if r.cls = 0 then 256 else 256 - s.mgmt.schedres.toNat % 256) then some 7
  else none

/-- The number of accepted launches not complete. -/
def State.pendingLaunches (s : State) : Nat := (s.launches.filter fun l => l.undone != 0 && l.future.isNone).length

/-- The checks of R322 in order, on a record whose CTX and CLASS stand for themselves; ctx and mincls are the queue's or
the issuer's, and a device that has failed accepts none (18 R435). -/
def State.checkRecord (s : State) (bs : List Byte) (r : LaunchRec) (ctx mincls : Nat) (isLaunch : Bool) : Checked :=
  if crc32c (bs.take 0x7C) != recNat bs 0x7C 4 then .reject 1
  else if !recordOk r bs then .reject 2
  else if r.ctx != ctx || !s.ctxValid ctx || s.thatch.failed then .reject 3
  else if r.cls < mincls then .reject 4
  else
    match s.laneCount r with
    | .error w => .hold w
    | .ok count =>
      match s.checkRoom r count with
      | some c => .reject c
      | none =>
        match s.checkReads r count with
        | .accept args n => if isLaunch && s.pendingLaunches ≥ 65536 then .reject 9 else .accept args n
        | c => c

/-! Acceptance: the blocks of a launch (R319 to R321). -/

/-- A block of a launch, QUEUED. -/
def mkBlock (l : Launch) (role : Role) (ri index place : Nat) (kind : BlockKind) (now : Nat) : Block :=
  let r := l.record
  let n := if kind = .lane then r.threads else 1
  let start := if kind = .lane then r.entry else r.entry + w64 (4 * (role.off - 1))
  { Block.absent with
    launch := l.id, index, ixval := w32 place, ctx := r.ctx, kind, role := ri, life := .queued
    image := r.image + index * 0x201000, save := r.save + index * 0x43000
    s := (l.argWords.zipIdx).filterMap fun e => if e.1 = 0 then none else some (e.2, e.1)
    allot := role.pro, full := role.full, pro := role.pro
    teams := ⟨n, 0, 0⟩ :: List.replicate 7 ⟨0, 0, 0⟩
    slice := if kind = .lane then none else some Slice.none
    threads := List.replicate n (Thread.init start now)
    enteredQueue := now }

/-- Gang state of a member that has just been accepted (16 R368): its join is on its way, unless this device records it. -/
def gangStart (r : LaunchRec) (coordHere : Bool) (now : Nat) : Option GangMember :=
  if r.gang = 0 then none
  else some { gang := r.gang, members := r.gmembers, index := r.gindex, joined := !coordHere, phaseSt := 0, tt := 0, started := []
              attached := false, detached := false
              windowOpen := false, lens := [], detachedSet := [], departed := [], gsync := [], devices := [], queuedSince := now }

/-- Add lane block i of a launch of n and its partners. -/
def State.addLane (s : State) (l : Launch) (n i : Nat) : State :=
  let r := l.record
  let roles := r.roles.zipIdx
  let lanes := roles.filter fun e => !e.1.hw
  let hws := roles.filter fun e => e.1.hw
  let role := lanes.getD (i % lanes.length) (⟨16, 16, 0, 0, false, 0, 0⟩, 0)
  let b := s.seq + 1
  let ps := ((hws.zipIdx).filter fun e => e.1.1.pair == role.2).zipIdx.map fun e => (b + 1 + e.2, e.1)
  let y := { mkBlock l role.1 role.2 i i .lane s.now with partners := ps.map (·.1), gang := gangStart r (s.coordHere r.gang) s.now }
  let s1 := ({ s with seq := b + ps.length } : State).setBlock b y
  let s2 := ps.foldl (fun (s : State) (e : Nat × (Role × Nat) × Nat) =>
    s.setBlock e.1 { mkBlock l e.2.1.1 e.2.1.2 ((1 + e.2.2) * n + i) i .headwater s.now with pairOf := some b }) s1
  { s2 with launches := s2.launches.map fun (k : Launch) =>
      if k.id = l.id then { k with blocks := k.blocks ++ (b :: ps.map (·.1)), undone := k.undone + 1 + ps.length } else k }

/-- Accept a launch: its blocks are queued; a gang member joins, or is refused where its coordinator's device is not in the domain
(16 R365). -/
def State.acceptLaunch (s : State) (r : LaunchRec) (recAddr : Nat) (args : List Word) (n : Nat) (queue : Option Nat)
    (arrival deadline : Nat) (future : Option Nat) : State :=
  let id := s.seq + 1
  let l : Launch := { id, record := r, recAddr, argWords := args, count := n, queue, arrival, deadline, future, blocks := [], undone := 0
                      killed := false, code := 0, energy := 0, ended := false }
  let s1 : State := { s with seq := id, launches := s.launches ++ [l], mgmt := { s.mgmt with killed := Cells.remove r.ctx s.mgmt.killed } }
  let s2 := (List.range n).foldl (fun (s : State) i => s.addLane l n i) s1
  let coord := r.gang % 1024
  if r.gang = 0 then s2
  else if s2.links.lostPeers.contains coord then s2.post (.joinRefused s2.device r.gang r.gindex)
  else if s2.coordHere r.gang then s2
  else (s2.notePeer r.ctx coord).send (.join coord r.gang r.gindex r.gmembers s2.device r.ctx)

/-- Reject a launch (R322, R323): a LAUNCH_REJECT record, and a completion record when CHECK matched. -/
def State.rejectLaunch (s : State) (r : LaunchRec) (recAddr code ctx : Nat) (queue : Option Nat) (arrival : Nat) : State :=
  let s1 := s.record ctx { kind := 0x06, addr := recAddr, detail := leBytes 1 code ++ leBytes 2 (queue.getD 0xFFFF) }
  if code = 1 then s1
  else
    let l : Launch := { id := s1.seq + 1, record := r, recAddr, argWords := [], count := 0, queue, arrival, deadline := arrival, future := none
                        blocks := [], undone := 0, killed := false, code, energy := 0, ended := false }
    { s1 with seq := s1.seq + 1, launches := s1.launches ++ [l] }

/-! Completion records (R323). -/

/-- The bytes of a completion record. -/
def State.doneRecord (s : State) (l : Launch) : List Byte :=
  let st := if l.code ≠ 0 then 1 else if l.killed then 2 else 0
  leBytes 4 (st + 256 * l.code) ++ leBytes 4 (Nat.min (l.energy / 1000) 0xFFFFFFFF) ++ leBytes 8 s.devTime

/-- The cause a DONE write fails with (18 R419): that of the failed walk, or of the check. -/
def State.doneCause (s : State) (ctx : Nat) (ea : DWord) : Nat :=
  match s.sched.xlFailed.find? fun e => e.1 == ctx && e.2.2.2 &&
      (e.2.1 == ea.toNat / 4096 || e.2.1 == (ea.toNat + 15) / 4096) with
  | some e => e.2.2.1
  | none =>
    if !canonical ea then Cause.nonCanon.code
    else if inPadWindow ea then Cause.spRange.code
    else
      match s.translate 0 ctx ea.toNat .write with
      | .miss => Cause.xlateNp.code
      | .prot => Cause.xlateProt.code
      | .hit pa onchip =>
        match s.physTgt ctx (s.ctxKey ctx) onchip pa true false with
        | .ok _ => Cause.xlateNp.code
        | .error c => c.code

/-- A write checked before any byte of it is written. -/
def doneWrite (ea : DWord) (bs : List Byte) : E Unit := do
  checkWrites ea bs.length
  (placed ea bs).forM fun e => writeE e.1 e.2

/-- A Silaz message that is acknowledged (19 R439): it takes the next sequence number of its session. -/
def State.silaz (s : State) (session : Nat) (m : Msg) : State :=
  let n := Cells.getD session 0 s.links.sent
  { s with
    outbox := s.outbox ++ [m]
    links := { s.links with
      unacked := s.links.unacked ++ [{ session, seq := n, tries := 0, sentAt := s.now, msg := m }]
      sent := Cells.put 0 session (n + 1) s.links.sent } }

/-- The session a completion notice goes out on: the lowest open one (log entry 34). -/
def State.noticeSession (s : State) : Option Nat := (s.links.sessions.head?).map (·.1)

/-- Is a launch that has ended still asked for: by an Oxbow run or a copy that runs on, or by a LAUNCH of one of its blocks, whose class counts
(R338)? -/
def State.launchKept (s : State) (id : Nat) : Bool :=
  s.oxRuns.any (·.launch == id) || s.blocks.any (fun e => e.2.launch == id && e.2.isCopy && e.2.life != .done) || s.launchOps.any fun o => (s.block o.blk).launch == id

/-- Forget the launches that have ended and are no longer asked for. -/
def State.dropEnded (s : State) : State :=
  { s with launches := s.launches.filter fun (l : Launch) => !(l.ended && !s.launchKept l.id) }

/-- Complete one launch whose blocks are all DONE: the record is written, or held by a page, or DONE_FAIL is recorded. -/
def State.completeLaunch (s : State) (l : Launch) : State :=
  let gone (s : State) : State :=
    if s.launchKept l.id then { s with launches := s.launches.map fun (k : Launch) => if k.id = l.id then { k with ended := true } else k }
    else { s with launches := s.launches.filter fun (k : Launch) => k.id != l.id }
  let ctx := l.record.ctx
  if l.record.done = 0 then gone s
  else if s.sched.xlHeld.contains (ctx, l.record.done.toNat / 4096, true) then s
  else
    match (doneWrite l.record.done (s.doneRecord l)).run (s.schedRun ctx) with
    | .error w => s.readHold 0 ctx w true
    | .ok (_, g) =>
      if g.fail.isSome then
        gone ((g.s.record ctx { kind := 0x12, addr := l.record.done.toNat, detail := leBytes 1 (s.doneCause ctx l.record.done) }).readSettled ctx)
      else
        let s1 := gone ((g.s.oweTgts g.s.seq g.wrote).readSettled ctx)
        let s2 : State := { s1 with seq := s1.seq + 1 }
        match l.record.notify, s2.noticeSession with
        | true, some k => s2.silaz k (.notice l.record.done)
        | _, _ => s2

/-- Complete every launch whose blocks are all DONE; a spawned task's launch leaves no record (15 R348). -/
def State.completeLaunches (s : State) : State :=
  (s.launches.foldl (fun (s : State) (l : Launch) => if l.undone = 0 ∧ !l.ended then s.completeLaunch l else s) s).dropEnded

end Sys2Proof.Machine
end

