-- ==== Sys2Proof/Machine/Scheduler.lean ====
section
/-! DEFINITION. What the scheduler does and the scheduling instructions: queues and admission, dispatch, pre-emption, saves,
exits, budgets (03_control.md R90 to R98; 14_scheduling.md R325 to R340), and replays (17_system.md R409). -/

namespace Sys2Proof.Machine

/-! Work queues (R324 to R326). -/

/-- Address of a queue descriptor. -/
def State.queueDesc (s : State) (q : Nat) : Nat := (s.mgmt.qtbase.toNat % 2 ^ 52) / 4096 * 4096 + 32 * q

/-- The context of a queue. -/
def State.queueCtx (s : State) (q : Nat) : Nat := s.rdNat (s.queueDesc q + 0x0A) 2

/-- A submit (R325): the tail is recorded; ADMISSION_CHECK reads the records. -/
def State.submit (s : State) (q tail : Nat) : State :=
  let d := s.queueDesc q
  let t := tail % 2 ^ 32
  let old := s.rdNat (d + 0x14) 4
  let head := s.rdNat (d + 0x10) 4
  let note (kind : Nat) : State := s.record (s.queueCtx q) { kind, detail := leBytes 2 q ++ leBytes 4 t }
  if q ≥ 4096 then s
  else if (s.rdNat (d + 0x0C) 4) % 2 = 0 then note 0x0F
  else if (t + 2 ^ 32 - old) % 2 ^ 32 > 2 ^ 31 then s
  else if (t + 2 ^ 32 - head) % 2 ^ 32 > 2 ^ (s.rdNat (d + 8) 1) then note 0x10
  else
    let s1 := s.wrNat (d + 0x14) 4 t
    { s1 with sched := { s1.sched with arrivals := s1.sched.arrivals ++ [(q, t, s.devTime)] } }

/-- The arrival of record k of a queue: that of the first submit whose tail passes it (R327). -/
def State.arrivalOf (s : State) (q k : Nat) : Nat :=
  match s.sched.arrivals.find? fun e => e.1 == q && 1 ≤ (e.2.1 + 2 ^ 32 - k) % 2 ^ 32 && (e.2.1 + 2 ^ 32 - k) % 2 ^ 32 ≤ 2 ^ 31 with
  | some e => e.2.2
  | none => s.devTime

/-- The checks of a queue's record. -/
def State.checkQueued (s : State) (q : Nat) (bs : List Byte) : Checked :=
  s.checkRecord bs (parseLaunch bs) (s.queueCtx q) (s.rdNat (s.queueDesc q + 9) 1) false

/-- What follows from the checks of a queue's record. -/
def State.queueRecord (s : State) (q addr arrival : Nat) (bs : List Byte) : State :=
  let r := parseLaunch bs
  let ctx := s.queueCtx q
  let e := (q, addr, arrival, bs)
  let s1 : State := { s with sched := { s.sched with holding := s.sched.holding.erase e } }
  match s.checkQueued q bs with
  | .reject c => (s1.readSettled r.ctx).rejectLaunch r addr c ctx (some q) arrival
  | .accept args n => (s1.readSettled r.ctx).acceptLaunch r addr args n (some q) arrival (Nat.max r.deadline arrival) none
  | .hold w =>
    let s2 := s.readHold 0 r.ctx w true
    if s2.sched.holding.contains e then s2 else { s2 with sched := { s2.sched with holding := s2.sched.holding ++ [e] } }

/-- A held record of a queue may be checked again: it does not wait for a page that has been asked for. -/
def State.heldReady (s : State) (q : Nat) : Option (Nat × Nat × Nat × List Byte) :=
  s.sched.holding.find? fun e => e.1 == q &&
    (match s.checkQueued q e.2.2.2 with
     | .hold w => !s.heldBack (parseLaunch e.2.2.2).ctx w true
     | _ => true)

/-- ADMISSION_CHECK (R321, R322, R325, R326): the queue's next record is read and checked, a held one first. -/
def execAdmissionCheck (q : Nat) (s : State) : Host.Outcome State Fault Refusal :=
  let d := s.queueDesc q
  .next (if q ≥ 4096 || s.pendingLaunches ≥ 65536 then s
    else
      match s.heldReady q with
      | some e =>
        (s.queueRecord q e.2.1 e.2.2.1 e.2.2.2).completeLaunches
      | none =>
        let head := s.rdNat (d + 0x10) 4
        if head = s.rdNat (d + 0x14) 4 then s
        else
          let addr := s.rdNat d 8 + 128 * (head % 2 ^ (s.rdNat (d + 8) 1))
          if !s.reach noCore addr || !s.reach noCore (addr + 64) then s.noteRetry noCore addr
          else
            let s1 := s.queueRecord q addr (s.arrivalOf q head) (s.rdBytes addr 128)
            let s2 := s1.wrNat (d + 0x10) 4 ((head + 1) % 2 ^ 32)
            let s3 : State := if (head + 1) % 2 ^ 32 = s.rdNat (d + 0x14) 4 then
                { s2 with sched := { s2.sched with arrivals := s2.sched.arrivals.filter (·.1 != q) } } else s2
            s3.completeLaunches)

/-! Gang members and their coordinator, as the scheduler meets them (16_gangs.md R365 to R369, R379). -/

/-- The member of a gang that this device holds. -/
def State.member (s : State) (gang : Nat) : Option Nat :=
  s.blockIds.find? fun b => let x := s.block b; x.life != .done && x.gang.any fun g => g.gang == gang && g.joined

/-- Change a member's gang state. -/
def State.modMember (s : State) (b : Nat) (f : GangMember → GangMember) : State := s.modBlock b fun x => { x with gang := x.gang.map f }

/-- The record the coordinator keeps of a gang. -/
def State.gangRec (s : State) (gang : Nat) : Option Gang := s.gangs.find? (·.gang == gang)

/-- Change a gang record. -/
def State.modGang (s : State) (gang : Nat) (f : Gang → Gang) : State :=
  { s with gangs := s.gangs.map fun r => if r.gang = gang then f r else r }

/-- Joined members that have not departed, with their devices. -/
def Gang.live (r : Gang) : List (Nat × Nat) := r.joined.filter fun e => !r.gone.contains e.1

/-- READY is recorded by the coordinator. -/
def State.noteReady (s : State) (gang gindex : Nat) : State :=
  s.modGang gang fun r => if r.live.any (·.1 == gindex) then { r with ready := Cells.insert gindex r.ready } else r

/-- The device that coordinates a member's gang: COORD, or once that is lost the surviving member device of lowest index (R379). -/
def State.coordOf (s : State) (g : GangMember) : Nat :=
  let gone := s.links.lostPeers
  if gone.contains (g.gang % 1024) then
    ((g.devices.zipIdx.filter fun e => !gone.contains e.1 && !g.departed.contains e.2).map (·.1)).foldl Nat.min s.device
  else g.gang % 1024

/-- Send READY. -/
def State.sayReady (s : State) (g : GangMember) : State :=
  if s.coordHere g.gang then s.noteReady g.gang g.index else s.send (.ready (s.coordOf g) g.gang g.index)

/-- Is a block, or its compute block, a gang member that holds a reservation (R367)? -/
def Block.reserves (x : Block) : Bool := x.life == .queued && x.gang.any fun g => 1 ≤ g.phaseSt && g.phaseSt ≤ 3

/-- A waiting member reserves a core's slots, threads and scratchpad run and says READY (R367); its core is woken at COMMIT. -/
def State.reserveMember (s : State) (b core lanebase base : Nat) (g : GangMember) : State :=
  let s1 := s.assign b core lanebase base
  let s2 := (s.group b).foldl (fun (s : State) k => s.modBlock k fun x => { x with life := if x.life == .resident then .queued else x.life }) s1
  let s3 : State := { s2 with sched := { s2.sched with due := s2.sched.due.filter (·.1 != b) } }
  ((s3.modMember b fun g => { g with phaseSt := 1 }).sayReady g).notePeers (s.block b).ctx [s.coordOf g]

/-! Dispatch (R327 to R331). -/

/-- Order of dispatch (R327). -/
def State.dispatchKey (s : State) (b : Nat) : List Nat :=
  let x := s.block b
  match s.launchOf x with
  | some l => [l.record.cls, l.deadline, l.arrival, l.queue.getD 4096, x.index]
  | none => [4, 0, 0, 0, x.index]

/-- Does a key come before another? -/
def keyLt : List Nat → List Nat → Bool
  | a :: r, c :: t => a < c || (a == c && keyLt r t)
  | _, _ => false

/-- Is the future of a block's task marked (15 R351)? -/
def State.taskMarked (s : State) (x : Block) : Bool :=
  x.own != 0 && (s.future (handleIndex x.own)).st == .marked && (s.future (handleIndex x.own)).gen == handleGen x.own

/-- A lane block the scheduler may place: its group queued, but for slices that have exited, and quiet, its image and save area in
reach; a marked task is not placed (15 R351). -/
def State.placeableBlock (s : State) (b : Nat) : Bool :=
  let x := s.block b
  x.kind == .lane && x.life == .queued && x.mark.isNone && !s.taskMarked x && !s.storageHeld b &&
    (s.group b).all (fun g => let l := (s.block g).life; l == .queued || (l == .exiting && g != b)) && s.groupQuiet b

/-- A lane block the scheduler may dispatch. A gang member waits in the same order, for a core to reserve (16 R367, R369). -/
def State.dispatchable (s : State) (b : Nat) : Bool :=
  s.placeableBlock b && (s.block b).gang.all fun g => g.joined && g.phaseSt == 0

/-- The blocks that wait for dispatch. -/
def State.queued (s : State) : List Nat := s.blockIds.filter s.dispatchable

/-- The class of a block's launch. -/
def State.clsOf (s : State) (b : Nat) : Nat := ((s.recOf (s.block b)).map (·.cls)).getD 0

/-- NRGBUD of a block's launch. -/
def State.nrgOf (s : State) (b : Nat) : Nat := ((s.recOf (s.block b)).map (·.nrgbud)).getD 0

/-- The lane blocks placed with a block: itself, or every queued block of its cooperative launch (R331). -/
def State.placeSet (s : State) (b : Nat) : List Nat :=
  if s.isCoop b then b :: ((s.stopSet b).filter fun g => g != b && (s.block g).kind == .lane && (s.block g).life == .queued) else [b]

/-- Where the blocks of a set go, the first on a core: block, core and scratchpad base of each; none where they do not all fit (R331). -/
def State.arrangement (s : State) (core b : Nat) : Option (List (Nat × Nat × Nat)) :=
  match s.fitsOn b core [], s.placeSet b with
  | none, _ | _, [] => none
  | some base, [_] => some [(b, core, base)]
  | some _, _ :: bs =>
    let cores := (List.range 512).filter fun c => bs.all fun g => s.admissible g c []
    let room (c : Nat) : Room := s.roomOf (s.occupants c)
    ((room core).starts (s.needs b)).findSome? fun base =>
      let rooms := cores.map fun c => if c = core then (room c).put (s.needs b) base else room c
      (arrange (bs.map s.needs) rooms).map fun l =>
        (b, core, base) :: (bs.zip l).map fun e => (e.1, cores.getD e.2.1 0, e.2.2)

/-- May the blocks placed with a block be placed now, but for room: none of its cooperative launch is being stopped or saved (R331)? -/
def State.setReady (s : State) (b : Nat) : Bool :=
  (s.placeSet b).all s.dispatchable &&
    (!s.isCoop b || (s.stopSet b).all fun g => let l := (s.block g).life; l != .stopping && l != .saving)

/-- May a block be placed on a core now, room and, for a cooperative launch, all its blocks considered? -/
def State.placeable (s : State) (core b : Nat) : Bool := s.setReady b && (s.arrangement core b).isSome

/-- Wake the cores of a list; true when every one is ON (19_outside.md R445). -/
def State.wakeCores (s : State) : List Nat → Bool × State
  | [] => (true, s)
  | c :: cs =>
    let p := s.wakeCore c
    let q := p.2.wakeCores cs
    (p.1 && q.1, q.2)

/-- The entry of the active list for a block not yet placed (R321): its value, or none where the read fails. -/
def State.readEntry (s : State) (b : Nat) : Except EngWait (Option State) :=
  let x := s.block b
  match s.launchOf x with
  | some l =>
    if l.record.list = 0 ∨ x.placed ∨ l.future.isSome then .ok (some s)
    else
      match s.schedWords x.ctx (l.record.list + 4 + w64 (4 * x.index)) 1 with
      | .error w => .error w
      | .ok none => .ok none
      | .ok (some ws) =>
        .ok (some ((s.group b).foldl (fun (s : State) g => s.modBlock g fun x => { x with ixval := ws.headD 0 }) s))
  | none => .ok (some s)

/-- Entries of the lane blocks to be placed: a failed one kills its block (R321). -/
def State.readEntries (s : State) : List Nat → Except EngWait State
  | [] => .ok s
  | b :: bs =>
    match s.readEntry b with
    | .error w => .error w
    | .ok (some s1) => s1.readEntries bs
    | .ok none =>
      let x := s.block b
      let l := s.launchOf x
      let d := leBytes 1 8 ++ leBytes 2 ((l.bind (·.queue)).getD 0xFFFF)
      let s1 := (s.readSettled x.ctx).record x.ctx { kind := 0x06, addr := (l.map (·.recAddr)).getD 0, detail := d }
      (s1.kill b).readEntries bs

/-- Place a block and what is placed with it, once the cores are ON, the list entries read and the reservoir covers them all (R333); a gang
member reserves. -/
def State.dispatchTo (s : State) (core lanebase b : Nat) : State :=
  let n := (s.placeSet b).length
  if !s.admits (s.clsOf b) (n * s.nrgOf b) then s
  else
    match s.arrangement core b, (s.block b).gang with
    | none, _ => s
    | some l, some g => s.reserveMember b core lanebase ((l.head?.map (·.2.2)).getD 0) g
    | some l, none =>
      let p := s.wakeCores (l.map fun e => e.2.1)
      if !p.1 then p.2
      else
        match p.2.readEntries (l.map (·.1)) with
        | .error w => p.2.readHold 0 (s.block b).ctx w true
        | .ok s1 =>
          if l.any fun e => (s1.block e.1).life != .queued then s1.completeLaunches
          else l.foldl (fun (s : State) e => if (s.block e.1).life = .queued then s.placeGroup e.1 e.2.1 lanebase e.2.2 else s) s1

/-- The best of a list by a key. -/
def bestBy (key : Nat → List Nat) : List Nat → Option Nat
  | [] => none
  | b :: bs => match bestBy key bs with | none => some b | some c => if keyLt (key c) (key b) then some c else some b

/-- Free thread places of a core. -/
def State.freePlaces (s : State) (core : Nat) : Nat := 1024 - ((s.occupants core).map s.places).sum

/-- The core marked for a due block (R328): with most free thread places among those it may use with residents ignored. -/
def State.markCore (s : State) (b : Nat) : Option Nat :=
  bestBy (fun c => [1024 - s.freePlaces c, c]) ((List.range 512).filter fun c => (s.fitsOn b c (s.occupants c)).isSome)

/-- A block becomes due, or passes its mark on (R328, R340). -/
def State.markDue (s : State) (b : Nat) : State :=
  let was := s.sched.due
  let due := match s.markCore b with
    | some c => if was.any (·.1 == b) then was.map (fun d => if d.1 = b then (b, c) else d) else was ++ [(b, c)]
    | none => was.filter (·.1 != b)
  { s with sched := { s.sched with due } }

/-- A due block whose core can no longer hold it gets another (R340); one that is no longer queued is not due. -/
def State.passDue (s : State) : State :=
  s.sched.due.foldl (fun (s : State) d =>
    if (s.block d.1).life != .queued || (s.block d.1).reserves then { s with sched := { s.sched with due := s.sched.due.filter (·.1 != d.1) } }
    else if s.coreInService d.2 && s.keepsSpan d.2 (((s.recOf (s.block d.1)).map (·.span)).getD 0) then s
    else s.markDue d.1) s

/-- A dispatch opportunity was used: the count of R328 stands at n where the block was placed, or has reserved. -/
def State.counted (s : State) (b n : Nat) : State :=
  let x := s.block b
  if x.life = .queued ∧ !x.reserves then s else { s with sched := { s.sched with opportunities := n } }

/-- The 16th opportunity goes to the longest-waiting block of a lower class: it is placed where it can be at once, or becomes due (R328). -/
def State.offerLower (s : State) (core lanebase : Nat) (lower : List Nat) : State :=
  match bestBy (fun b => (s.block b).enteredQueue :: s.dispatchKey b) lower with
  | none => s
  | some w =>
    let there := (core :: List.range 512).find? fun c => s.placeable c w
    match there, s.admits (s.clsOf w) ((s.placeSet w).length * s.nrgOf w) with
    | some c, true => (s.dispatchTo c lanebase w).counted w 0
    | _, _ =>
      let s1 := if s.sched.due.any (·.1 == w) then s else s.markDue w
      { s1 with sched := { s1.sched with opportunities := 0 } }

/-- A core is offered to the queued blocks (R327 to R331, R336, R340): to one that moves there, then to a due one, then to the best. Each
counts where a block of a lower class is queued. A due block goes first at a 16th opportunity too, which stays the next one's (DESIGN CHOICE;
log entry 71). -/
def State.offer (s : State) (core lanebase : Nat) : State :=
  let s := s.passDue
  let cands := s.queued
  let ok (b : Nat) : Bool := s.placeable core b
  -- a block that moves goes to the core chosen for it, while that still has room for it
  let bound (b : Nat) : Bool := (s.block b).moveTo.any fun c => c != core && s.placeable c b
  if core ≥ 512 then s
  else
    let free := cands.filter fun b => !bound b
    let due := (s.sched.due.map (·.1)).find? fun b => free.contains b && ok b
    let moved := cands.find? fun b => (s.block b).moveTo == some core && ok b
    match (moved.orElse fun _ => due).orElse fun _ => bestBy s.dispatchKey (free.filter ok) with
    | none => s
    | some p =>
      let lower := cands.filter fun b => s.clsOf b > s.clsOf p
      let n := s.sched.opportunities + 1
      if lower.isEmpty then s.dispatchTo core lanebase p
      else if n < 16 then (s.dispatchTo core lanebase p).counted p n
      else if moved.isNone && due.isSome then s.dispatchTo core lanebase p
      else s.offerLower core lanebase lower

/-- DISPATCH_OPPORTUNITY: the scheduler places a QUEUED block on a core; the lane base is its choice (03_control.md R74). -/
def execDispatchOpportunity (core lanebase : Nat) (s : State) : Host.Outcome State Fault Refusal := .next (s.offer core lanebase)

/-! Pre-emption (03 R90 to R95). -/

/-- The grace period of a class (R329). -/
def State.graceOf (s : State) (cls : Nat) : Nat := ((s.mgmt.schedclass.getD cls 0).toNat) % 2 ^ 24

/-- A thread of a stopping block that reaches its stop point at once: in a wait, or with the grace period over. -/
def Thread.stopNow (th : Thread) (over' : Bool) : Thread :=
  match th.run with
  | .stalled w => { th.withdraw w with run := .stopped none true }
  | .ready => if over' then { th with run := .stopped none false } else th
  | _ => th

/-- Take the threads that no longer run out of the bundles. -/
def State.dropStopped (s : State) (b : Nat) : State :=
  let gone (m : Nat × Nat) : Bool := m.1 == b && (s.thread b m.2).run != .ready
  { s with cur := s.cur.filter fun m => !gone m
           bundles := (s.bundles.map fun u => { u with members := u.members.filter fun m => !gone m }).filter
             fun u => !u.members.isEmpty }

/-- Begin to stop blocks for a class, with a grace period in cycles (R90). A slice whose pair stops stops with it (12 R278). -/
def State.stopBlocks (s : State) (bs : List Nat) (cls grace : Nat) : State :=
  bs.foldl (fun (s : State) b =>
    if (s.block b).life != .resident then s
    else
      (s.modBlock b fun x => { x with
        life := .stopping, stopBy := some (s.now + grace), deferred := some cls, threads := x.threads.map (·.stopNow (grace == 0))
        gang := x.gang.map fun (g : GangMember) => { g with windowOpen := false } }).dropStopped b) s

/-- Must a pre-emption of a block be put off (R94)? -/
def State.mustDefer (s : State) (b : Nat) : Bool := (s.stopSet b).any fun g => (s.block g).liveAcc && (s.block g).restart == 0

/-- Request the pre-emption of a block with a class: a gang as a whole through its coordinator (16 R380), live accumulators
without a restart label put it off (R94). -/
def State.requestStop (s : State) (b cls : Nat) : State :=
  let x := s.block b
  let lead := s.block ((x.pairOf).getD b)
  if x.kind == .walker || x.life != .resident || x.mark.isSome then s
  else
    match lead.gang with
    | some g =>
      if lead.deferred.isSome then (if s.mustDefer b then s else s.stopBlocks (s.group b) cls (s.graceOf cls))
      else (s.toCoord g.gang (.gangStop g.gang cls)).notePeers lead.ctx g.devices
    | none =>
      if s.mustDefer b then s.modBlock b fun x => { x with deferred := some cls }
      else s.stopBlocks (s.stopSet b) cls (s.graceOf cls)

/-- May a class have a block pre-empted: a block of the class is queued, and the resident one's class is numerically above it (R329)? -/
def State.mayPreempt (s : State) (b cls : Nat) : Bool :=
  s.clsOf b > cls && s.blockIds.any fun q => let x := s.block q; x.kind == .lane && x.life == .queued && !x.reserves && s.clsOf q == cls

/-- PREEMPTION_REQUEST (R90, R329): the scheduler requests the pre-emption of a block for a class that has a block queued. -/
def execPreemptionRequest (blk cls : Nat) (s : State) : Host.Outcome State Fault Refusal :=
  .next (if s.mayPreempt blk cls then s.requestStop blk cls else s)

/-- GRACE_EXPIRY (R90): the remaining threads stop at their next instruction boundary. -/
def execGraceExpiry (blk : Nat) (s : State) : Host.Outcome State Fault Refusal :=
  let x := s.block blk
  .next (if x.life == .stopping && s.graceOver x then
    (s.modBlock blk fun x => { x with threads := x.threads.map (·.stopNow true) }).dropStopped blk
  else s)

/-- Has every thread of a block stopped (R90)? -/
def Block.allStopped (x : Block) : Bool :=
  x.threads.all fun th => match th.run with | .exited | .parked _ _ | .stopped _ _ => true | _ => false

/-- Does an operation reach a block's own scratchpad? -/
def State.touchesPad (s : State) (o : MemOp) (b : Nat) : Bool :=
  let x := s.block b
  o.tgts.any fun t => match t with
    | .sp core off => core == x.padCore && 16 * x.spBase ≤ off && off < 16 * (x.spBase + x.spLen)
    | _ => false

/-- Does a range of a context's addresses, as an engine of a core reaches it, meet a block's scratchpad: in the window of the block's own
chain, or through the on-chip map (01 R24; 06 R150)? A page that is in no TLB may be on it (DESIGN CHOICE; log entry 109). -/
def State.meetsPad (s : State) (b : Nat) (own : Bool) (core ctx lo n : Nat) : Bool :=
  let x := s.block b
  let onPad (a : Nat) : Bool :=
    match s.translate (clusterOf core) ctx a .read with
    | .hit pa true =>
      match s.chipTgt ctx pa false false with
      | .ok (.sp c off) => c == x.padCore && 16 * x.spBase ≤ off && off < 16 * (x.spBase + x.spLen)
      | _ => false
    | .miss => true
    | _ => false
  n != 0 && ((own && lo + n > padWindow) || onPad lo || onPad (lo + n - 1) ||
    (List.range ((lo % 4096 + n - 1) / 4096)).any fun k => onPad ((lo / 4096 + k + 1) * 4096))

/-- The address ranges a record names. -/
def EngRec.ranges (r : EngRec) : List (Nat × Nat) :=
  let own (dev : Nat) (a : DWord) (n : Nat) : List (Nat × Nat) := if isRemote dev then [] else [(a.toNat, n)]
  let src := match r.kind with
    | 1 => if r.par 48 1 = 0 then 2 * r.len else r.par 49 1 * (r.len / 8)
    | 2 => 2 * r.len
    | _ => r.len
  own r.srcdev r.src src ++ r.outRanges ++ (if r.done then [(r.doneaddr.toNat, 16)] else []) ++
    (match r.kind with
     | 1 => [(r.par 56 8, r.len / 32)]
     | 3 => [(r.par 48 8, 4 * r.par 56 2)]
     | _ => [])

/-- Does a started chain of the block's context name its scratchpad (13 R303)? One whose records are yet to be read may (DESIGN CHOICE; log
entry 109). -/
def State.chainNamesPad (s : State) (b : Nat) (c : Chain) : Bool :=
  c.started && c.ctx == (s.block b).ctx && (s.block b).spLen != 0 &&
    (c.recs.isEmpty || c.recs.any fun r => r.ranges.any fun e => s.meetsPad b (c.blk == b) c.core c.ctx e.1 e.2)

/-- What a save waits for (R92; 12 R289; 13 R303; 07 R192). -/
def State.saveWaits (s : State) (g : List Nat) : Bool :=
  g.any fun b =>
    s.storageHeld b ||
      s.ops.any (fun o => o.blk == b && (s.touchesPad o b || (match o.kind with | .spec _ _ => true | _ => false))) ||
      s.chains.any (s.chainNamesPad b) || !(s.sliceOf b).flight.isEmpty

/-- The saved states of a restart (R93). -/
def Block.restarted (x : Block) : Block :=
  { x with
    threads := x.threads.map fun th =>
      if th.run == .exited then th
      else { th with pc := x.restart, stack := [], clauseIdx := 0, clause := [], x := none, o := [], run := .stopped none false, split := 0
                     tcause := th.tcause &&& 0x7FFFFFFF, bankX := none, bankO := [], taken := none }
    teams := x.teams.map fun tm => { tm with arrived := 0 } }

/-- A stop that turns out to be put off (R94; 11 R259): the block runs on, and stops once it holds no live accumulator. -/
def Block.resumed (x : Block) : Block :=
  if x.life != .stopping then x
  else
    { x with
      life := .resident, stopBy := none
      threads := x.threads.map fun th => match th.run with
        | .stopped none _ => { th with run := .ready }
        | .stopped (some p) _ => { th with run := .parked p.1 p.2 }
        | _ => th }

/-- BLOCK_SAVE (R92, R98): once all threads of the blocks that stop together have stopped, these are saved; a slice that has exited stays
EXITING. A block that has come to hold live accumulators without a restart label is not stopped (R94). -/
def execBlockSave (blk : Nat) (s : State) : Host.Outcome State Fault Refusal :=
  let g := (s.stopSet blk).filter fun b => let l := (s.block b).life; l != .done && l != .queued && l != .saving
  .next (if g.contains blk && g.all (fun b => let x := s.block b; (x.life == .stopping || x.life == .exiting) && x.allStopped) &&
      g.any (fun b => (s.block b).life == .stopping) && (s.block ((s.block blk).pairOf.getD blk)).mark.isNone then
    (if g.any fun b => (s.block b).life == .stopping && (s.block b).liveAcc && (s.block b).restart == 0 then
      g.foldl (fun (s : State) b => s.modBlock b (·.resumed)) s
    else
      g.foldl (fun (s : State) b =>
        if (s.block b).life != .stopping then s
        else ((s.endPins (·.blk == b)).creditSlice b).modBlock b fun x => { x with life := .saving, stopBy := none, deferred := none }) s)
  else s)

/-- The state of a block as its records are written (R93; 07 R192, R200; 11 R259): restarted where it held live accumulators, its pins ended,
its matrix state discarded, its .spec atomics validated. -/
def State.settleBlock (s : State) (b : Nat) : State :=
  let x := s.block b
  let s1 := if x.liveAcc && x.restart != 0 then s.modBlock b (·.restarted) else s
  ((s1.endPins (·.blk == b)).abandonMatrix b).modBlock b fun x => { x with threads := x.threads.map fun th =>
    if th.run == .exited then th else { th.validate .sys with skipped := [], fetched := none } }

/-- Write the dirty units of a block back (06 R155, R156): those that fail in translation are listed; a walk or a pin holds
the rest up, and so do the block's own accesses. -/
def State.flushUnits (s : State) (b : Nat) : List (Nat × Nat) → State × List (Nat × Nat) × Option EngWait
  | [] => (s, [], none)
  | (off, u) :: us =>
    let x := s.block b
    match x.regions.find? (·.off == off) with
    | none => s.flushUnits b us
    | some r =>
      match s.writeBackUnit b r u (List.range x.threads.length) (clusterOf x.core) x.padCore with
      | .ok s1 => s1.flushUnits b us
      | .error (.stall (.retry pa)) => (s, [], some (.retry pa))
      | .error (.stall (.xlate _ a k)) =>
        if (s.readBad x.ctx false (clusterOf x.core)).contains (a.toNat / 4096) then
          let q := s.flushUnits b us
          (q.1, (off, u) :: q.2.1, q.2.2)
        else (s, [], some (.page (a.toNat / 4096) k))
      | .error (.stall _) => (s, [], some .order)
      | .error (.trap _ _ _) =>
        let q := s.flushUnits b us
        (q.1, (off, u) :: q.2.1, q.2.2)

/-- The dirty units of a block, by region offset and index. -/
def Block.dirtyUnits (x : Block) : List (Nat × Nat) := x.regions.flatMap fun r => r.dirty.map fun u => (r.off, u)

/-- WRITE_BACK_DONE (R92, R98; 01 R30): what the save waits for is over, the register lines, the records and the scratchpad are in memory,
and the slot is vacated. The dirty units of an Oxbow copy stay with it, in its save area (18 R430; DESIGN CHOICE, log entry 115). -/
def execWriteBackDone (blk : Nat) (s : State) : Host.Outcome State Fault Refusal :=
  let x := s.block blk
  .next (if x.life != .saving || s.saveWaits ((s.group blk).filter fun b => (s.block b).life != .done) then s
    else
      let q := if x.isCopy then (s, x.dirtyUnits, none) else s.flushUnits blk x.dirtyUnits
      match q.2.2 with
      | some w => q.1.readHold (clusterOf x.core) x.ctx w
      | none =>
        let s1 := (((((q.1.readSettled x.ctx).settleBlock blk).saveImage blk).savePad blk).vacate x).dropLate blk
        s1.modBlock blk fun x => { x with
          life := .queued, cached := [], enteredQueue := s.now
          stopBy := none
          regions := x.regions.map fun r => { r with present := r.dirty }
          gang := x.gang.map fun g => { g with phaseSt := 0, queuedSince := s.now } })

/-! The exit release (R98). -/

/-- Has a block of a gang to wait for its peers (16 R377)? -/
def Block.gangHeld (x : Block) : Bool :=
  match x.gang with
  | none => false
  | some g => (List.range g.members).any fun m => !g.detachedSet.contains m && !g.departed.contains m && m != g.index

/-- What an exit release waits for: commands, writes at .sys (07 R200), those it left in another block's pinned copy among them, deliveries,
peers. -/
def State.exitWaits (s : State) (b : Nat) : Bool :=
  let x := s.block b
  let c := s.getCore x.core
  x.gangHeld || s.pinnedAway b || s.chains.any (·.blk == b) || s.futOps.any (·.blk == b) || s.launchOps.any (·.blk == b) ||
    s.gangOps.any (·.blk == b) || s.hzOps.any (·.blk == b) || (c.sequencer ++ c.loader ++ c.recon).any (·.blk == b) ||
    s.ops.any (fun o => o.blk == b && (o.uniform || !o.isLoad)) || !(s.sliceOf b).flight.isEmpty

/-- A unit whose write-back failed at exit is lost, with its record (06 R156). -/
def State.shadowLost (s : State) (b : Nat) (us : List (Nat × Nat)) : State :=
  us.foldl (fun (s : State) (e : Nat × Nat) =>
    let x := s.block b
    match x.regions.find? (·.off == e.1) with
    | some r => (s.record x.ctx { kind := 0x02, core := x.core, slot := x.slot, addr := r.global.toNat + 256 * e.2 }).modBlock b fun x =>
        x.modRegion e.1 fun r => { r with dirty := Cells.remove e.2 r.dirty }
    | none => s) s

/-- The signature of the write-backs at exit, in ascending unit address (18 R430). -/
def State.shadowSig (s : State) (b : Nat) : Nat :=
  let x := s.block b
  let us := x.regions.flatMap fun r => r.dirty.map fun u => (r.global.toNat + 256 * u, 16 * x.spBase + r.off + 256 * u)
  let sorted := us.foldl (fun (m : List (Nat × Nat)) e => Cells.set e.1 e.2 m) []
  crc32c (sorted.flatMap fun e => leBytes 8 e.1 ++ leBytes 1 0 ++ (List.range 256).map fun i => Cells.getD (padKey x.padCore (e.2 + i)) 0 s.pads)

/-- EXIT_RELEASE (R98; 12 R281; 16 R377): the group reaches DONE, and its launch completes with the last (R323). A copy of an
Oxbow run writes nothing back (18 R430). -/
def execExitRelease (blk : Nat) (s : State) : Host.Outcome State Fault Refusal :=
  let lead := (s.block blk).pairOf.getD blk
  let x := s.block lead
  let g := (s.group lead).filter fun b => (s.block b).life != .done
  .next (if g.isEmpty || g.any (fun b => (s.block b).life != .exiting) || g.any s.exitWaits then s
    else
      let s0 := if x.oxbow.isSome && !x.dirtyUnits.isEmpty then s.modBlock lead fun x => { x with sigShadow := w32 (s.shadowSig lead) } else s
      let q := if x.isCopy then (s0, [], none) else s0.flushUnits lead x.dirtyUnits
      match q.2.2 with
      | some w => q.1.readHold (clusterOf x.core) x.ctx w
      | none =>
        let s1 := (q.1.shadowLost lead q.2.1).readSettled x.ctx
        let s2 := g.foldl (fun (s : State) b => s.finishBlock b false) s1
        let s3 : State := { s2 with oxRuns := s2.oxRuns.map fun r => if r.orig = lead then { r with finish := s.devTime } else r }
        s3.completeLaunches)

/-! Slices and budgets (R332 to R334). -/

/-- Which budget of a block's slice is used up: energy or not. -/
def State.budgetOut (s : State) (x : Block) : Option Bool :=
  match s.recOf x with
  | none => none
  | some r =>
    if x.charged ≥ r.nrgbud * 1000 then some true
    else if r.cycbud ≠ 0 && s.now - x.sliceStart ≥ r.cycbud then some false
    else none


/-- Does a block's slice run on: resident, with threads on their way to their stop points, or a gang member held at its exit, whose held
time counts (R332; 16 R377)? -/
def Block.inSlice (x : Block) : Bool :=
  x.life == .resident || (x.life == .stopping && !x.allStopped) || (x.life == .exiting && x.gangHeld)

/-- BUDGET_EXHAUSTED (R334, R340). A member held at its exit has no thread to trap; its allowance runs all the same. -/
def execBudgetExhausted (blk : Nat) (s : State) : Host.Outcome State Fault Refusal :=
  let x := s.block blk
  .next (match s.budgetOut x with
    | none => s
    | some e =>
      if x.kind != .lane || !x.inSlice || x.allowance.isSome then s
      else
        let s1 := s.modBlock blk fun x => { x with allowance := some (s.now + 65536, e) }
        (List.range x.threads.length).foldl (fun (s : State) t => s.budgetTrap blk t) s1)

/-- BUDGET_ALLOWANCE_EXPIRY (R334). -/
def execBudgetAllowanceExpiry (blk : Nat) (s : State) : Host.Outcome State Fault Refusal :=
  let x := s.block blk
  .next (match x.allowance with
    | some (t, e) =>
      if s.now < t || !(x.inSlice || x.life == .stopping) then s
      else
        (((s.record x.ctx { kind := 0x0D, core := x.core, slot := x.slot, detail := leBytes 1 (if e then 1 else 0) }).kill blk)).completeLaunches
    | none => s)

/-! YIELD (R336). -/

/-- Does another queued block want the room a block holds, with an earlier deadline and no lower class? Of a cooperative launch that is
the room of all its blocks, which stop with it (R331). -/
def State.yieldStop (s : State) (b : Nat) : Bool :=
  let gone := s.stopSet b
  let cores := ((gone.filter fun g => (s.block g).inSlot).map fun g => (s.block g).core).dedup
  let mine := s.dispatchKey b
  (s.sched.due.any fun d => cores.contains d.2 && (s.block d.1).life == .queued) ||
    s.queued.any fun q =>
      s.clsOf q ≤ s.clsOf b && (s.dispatchKey q).getD 1 0 < mine.getD 1 0 &&
        ((List.range 512).all fun c => (s.fitsOn q c []).isNone) && cores.any fun c => (s.fitsOn q c gone).isSome

/-- The core a block moves to at YIELD, if it does. -/
def State.yieldMove (s : State) (b : Nat) : Option Nat :=
  let x := s.block b
  if x.isGang || x.liveAcc || s.pins.any (·.blk == b) then none
  else if s.queued.any fun q => s.admits (s.clsOf q) (((s.recOf (s.block q)).map (·.nrgbud)).getD 0) &&
      ((List.range 512).all fun c => (s.fitsOn q c []).isNone) && (s.fitsOn q x.core (s.group b)).isSome then
    (List.range 512).find? fun c => dieOf c != dieOf x.core && (s.occupants c).isEmpty && (s.fitsOn b c []).isSome
  else none

/-- Blocks of a list stop at once for a YIELD of one of them; the issuing threads stop once it retires. -/
def State.stopAtYield (s : State) (b : Nat) (ts : List Nat) (life : Life) (bs : List Nat) : State :=
  bs.foldl (fun (s : State) g =>
    if (s.block g).life != .resident then s
    else
      (s.modBlock g fun x => { x with
        life, stopBy := some s.now, deferred := some (s.clsOf b)
        gang := x.gang.map fun (g : GangMember) => { g with windowOpen := false }
        threads := x.threads.zipIdx.map fun e => if g = b ∧ ts.contains e.2 then e.1 else e.1.stopNow true }).dropStopped g) s

/-- Stop a block after its YIELD, with grace 0 (R336). A gang stops as a whole: its coordinator is asked to stop the other members (16
R380). -/
def State.yieldOff (s : State) (b : Nat) (ts : List Nat) : State :=
  let g := ((s.block b).gang.map (·.gang)).getD 0
  let s1 := if (s.block b).isGang then s.toCoord g (.gangStop g (s.clsOf b)) else s
  s1.stopAtYield b ts .stopping (s.stopSet b)

/-- Move a block at its YIELD: it and its slices are saved at once (R98), for the core chosen. -/
def State.yieldTo (s : State) (b : Nat) (ts : List Nat) (core : Nat) : State :=
  (s.modBlock b fun x => { x with moveTo := some core }).stopAtYield b ts .saving (s.group b)

/-- YIELD (R336): the slice ends, and the scheduler stops, moves or continues the block. In a marked task it is a
reclamation point (15 R351). -/
def execYield (s : State) : Host.Outcome State Fault Refusal :=
  uniExec .yield (fun b ts => do
    let x ← getB b
    if x.mark.isSome then
      updS fun s => ts.foldl (fun (s : State) t => (s.modThread b t fun th => { th with run := .stopped none false }).leaveBundle b t) s
      return .placed
    updS fun s =>
      let s1 := s.creditSlice b
      let ends := s1.modBlock b fun x => { x with allowance := none }
      let cont := ends.newSlice b
      if x.kind != .lane || x.life != .resident || (s.recOf x).isNone then ends
      else if s.mustDefer b then cont
      else if s1.yieldStop b then ends.yieldOff b ts
      else
        match s1.yieldMove b with
        | some c => ends.yieldTo b ts c
        | none => if s1.admits (s.clsOf b) (((s.recOf x).map (·.nrgbud)).getD 0) then cont else ends.yieldOff b ts
    return .fall) s

/-! BUDGET (R337). -/

/-- BUDGET.cyc. -/
def execBudgetCyc (d : UReg) (s : State) : Host.Outcome State Fault Refusal :=
  uniExec (.budgetCyc d) (uniFall fun b _ => do
    let s ← getS
    let x ← getB b
    let c := ((s.recOf x).map (·.cycbud)).getD 0
    writeU2 b d (if c = 0 then w64 (2 ^ 64 - 1) else w64 (c - (s.now - x.sliceStart)))) s

/-- BUDGET.nrg. -/
def execBudgetNrg (d : UReg) (s : State) : Host.Outcome State Fault Refusal :=
  uniExec (.budgetNrg d) (uniFall fun b _ => do
    let s ← getS
    let x ← getB b
    writeU b d (w32 (((s.recOf x).map (·.nrgbud)).getD 0 - x.charged / 1000))) s

/-- BUDGET.ctx. -/
def execBudgetCtx (d : UReg) (s : State) : Host.Outcome State Fault Refusal :=
  uniExec (.budgetCtx d) (uniFall fun b _ => do
    let s ← getS
    let x ← getB b
    writeU2 b d (Cells.getD x.ctx 0 s.sched.nrgCtx)) s

/-- BUDGET.time. -/
def execBudgetTime (d : UReg) (s : State) : Host.Outcome State Fault Refusal :=
  uniExec (.budgetTime d) (uniFall fun b _ => do
    let s ← getS
    writeU2 b d (w64 s.devTime)) s

/-! LAUNCH (R338). -/

/-- The device place of a 128-byte record: the checks of 06 R159, of which the page's type is the last; no page but a NORMAL
one passes it. -/
def recordPlace (b : Nat) (ts : List Nat) (ea : DWord) : M Nat := fun s =>
  match checkAccess b ts { kind := .read, fe := false, align := 128, eas := spanFrom ea 128 } s with
  | .ok (.dev pa _ :: _, s') => .ok (pa, s')
  | .ok _ => .error (.trap .attr ea (faultInfo .read))
  | .error (.trap c addr info) =>
    if (targetRank c).any (2 ≤ ·) then .error (.trap .attr ea (faultInfo .read)) else .error (.trap c addr info)
  | .error e => .error e

/-- LAUNCH (R338): issue. -/
def execLaunch (d a : UReg) (f : Bool) (s : State) : Host.Outcome State Fault Refusal :=
  uniExec (.launch d a f) (uniFall fun b ts => do
    let ea ← readU2 b a
    let pa ← recordPlace b ts ea
    updS fun s =>
      let fl := flagOf (.launch d a f) s b (ts.headD 0)
      let s1 := ((s.beginRelease b ts .pkg).countFlag b ts true fl).oxAbandon b
      { s1 with
        launchOps := s1.launchOps ++ [{ id := s1.seq, blk := b, tids := ts, ea, bytes := [], recPa := pa, arrival := s.devTime, dst := d, flag := fl }]
        seq := s1.seq + 1 }) s

/-- Marks of writes that the threads had read before a serial number (07 R178). -/
def State.obsBefore (s : State) (b : Nat) (ts : List Nat) (id : Nat) : List Nat :=
  (ts.flatMap fun t => (s.thread b t).observed).filter (· < id)

/-- The bytes of a record read at its device place under the context's key. -/
def State.recordAt128 (s : State) (ctx pa : Nat) : List Byte := (List.range 128).map fun i => s.homeByte (pa + i) (s.ctxKey ctx)

/-- LAUNCH_STATUS (R338): the record is read and checked; the status arrives and the flag is decremented. -/
def execLaunchStatus (id : Nat) (s : State) : Host.Outcome State Fault Refusal :=
  .next (match s.launchOps.find? (·.id == id) with
    | none => s
    | some o =>
      let x := s.block o.blk
      let unread := o.bytes.isEmpty
      if unread && s.releaseWaits o.blk o.tids o.id .pkg (s.obsBefore o.blk o.tids o.id) then s
      else if unread && (!s.reach noCore o.recPa || !s.reach noCore (o.recPa + 64)) then s.noteRetry noCore o.recPa
      else
        let bs := if unread then s.recordAt128 x.ctx o.recPa else o.bytes
        let s : State := { s with launchOps := s.launchOps.map fun p => if p.id = id then { p with bytes := bs } else p }
        let r0 := parseLaunch bs
        let r := { r0 with ctx := if r0.ctx = 0 then x.ctx else r0.ctx, cls := Nat.max r0.cls (s.clsOf o.blk) }
        let finish (s : State) (st : Nat) : State :=
          let s1 := if x.life = .done then s else (s.arriveUni o.blk o.dst (w32 st)).finishFlag o.blk o.tids true o.flag
          { s1 with launchOps := s1.launchOps.filter (·.id != id) }
        match s.checkRecord bs r x.ctx 0 true with
        | .hold w => s.readHold 0 r.ctx w true
        | .reject c => (finish ((s.readSettled x.ctx).rejectLaunch r o.ea.toNat c x.ctx none o.arrival) c).completeLaunches
        | .accept args n =>
          (finish ((s.readSettled x.ctx).acceptLaunch r o.ea.toNat args n none o.arrival (Nat.max r.deadline o.arrival) none) 0).completeLaunches)

/-! Replays (17 R409). -/

/-- A parked thread is told the verdict: the access is tried again, or the fault is delivered. -/
def State.replayThread (s : State) (b t : Nat) (addr : DWord) (kind : AccKind) (verdict : Verdict) (cause : Cause) : State :=
  let x := s.block b
  let th := s.thread b t
  let stays := x.life == .saving || (x.life == .stopping && s.graceOver x)
  let s1 := match verdict with
    | .retry => s.modThread b t fun th => { th with run := .ready, since := s.now }
    | .deliver => s.trapEntry b t cause addr (faultInfo kind true) th.pc th.pc th.clauseIdx
  let s2 :=
    if !stays then s1.takeDue b t
    else s1.modThread b t fun th => if th.run == .ready then { th with run := .stopped none false } else th
  if (s2.block b).inImage then
    (s2.saveLines b t).wrWords (x.recordAt t) (s2.thread b t).recordWords
  else s2

/-- The causes of 17 R398. -/
def allCauses : List Cause :=
  [.illegal, .badTarget, .allotment, .stackOvf, .stackUnf, .brk, .user, .priv, .eretSeq, .budget, .pairMis, .noTeam, .teamMix, .teamDead, .barSeq
  , .noMatrix, .mmaArg, .hwClass, .hwArg, .qKind, .hwDead, .smapArg, .engArg, .futHandle, .futCount, .futNoRef, .futSet, .notTask, .putTwice
  , .noGang, .fordSeq, .walkArg, .nonCanon, .align, .spRange, .attr, .noFe, .physHole, .windowRo, .windowEmpty, .windowCtx, .windowRange
  , .fordClosed, .fordRange, .fordDeparted, .xlateNp, .xlateProt, .xlateBad]

/-- The cause a replay names (17 R409); one whose code the table of 17 R398 does not list, which is never delivered, acts as XLATE_NP (DESIGN
CHOICE; log entry 113). -/
def replayCause (c : Nat) : Cause := (allCauses.find? (·.code == c)).getD .xlateNp

/-- A replay acts on every parked thread and waiting chain of its range. -/
def State.replayRange (s : State) (ctx : Nat) (page : DWord) (size : Nat) (verdict : Verdict) (cause : Nat) : State :=
  let lo := page.toNat / sizeBytes size * sizeBytes size
  let hit (a : Nat) : Bool := lo ≤ a && a < lo + sizeBytes size
  let ws := s.blockIds.flatMap fun b =>
    let x := s.block b
    if x.ctx = ctx ∧ x.life != .done then
      (x.threads.zipIdx).filterMap fun e =>
        match e.1.run with
        | .parked a k => if hit a.toNat then some (b, e.2, a, k) else none
        | .stopped (some p) _ => if hit p.1.toNat then some (b, e.2, p.1, p.2) else none
        | _ => none
    else []
  let s1 := ws.foldl (fun (s : State) w => s.replayThread w.1 w.2.1 w.2.2.1 w.2.2.2 verdict (replayCause cause)) s
  (s1.tellChains ctx (fun _ => true) (fun p => hit (p * 4096)) (verdict == .deliver) (replayCause cause).code).completeLaunches

/-- REPLAY (17 R409). -/
def execReplay (ctx : Nat) (page : DWord) (size : Nat) (verdict : Verdict) (cause : Nat) (s : State) : Host.Outcome State Fault Refusal :=
  .next (s.replayRange ctx page size verdict cause)

end Sys2Proof.Machine
end

