-- ==== Sys2Proof/Machine/Futures.lean ====
section
/-! DEFINITION. Eager futures (15_futures.md R341 to R361): the instructions, the future unit's operations, marks and
reclamation. -/

namespace Sys2Proof.Machine

/-- Is a handle live for a caller of a context (R354)? -/
def State.handleLive (s : State) (h : Word) (ctx : Nat) : Bool :=
  let f := s.future (handleIndex h)
  !s.malformed h && f.gen == handleGen h && f.ctx == ctx && (f.st == .live || f.st == .put || f.st == .done)

/-- References of a block to a handle (R344). -/
def Block.refs (x : Block) (h : Word) : Nat := ((x.held.find? (·.1 == h)).map (·.2)).getD 0

/-- Add one reference to a block's set (R345). -/
def Block.addRef (x : Block) (h : Word) : Block :=
  if x.refs h = 0 then { x with held := x.held ++ [(h, 1)] }
  else { x with held := x.held.map fun e => if e.1 = h then (h, e.2 + 1) else e }

/-- Take one reference out of a block's set (R345). -/
def Block.subRef (x : Block) (h : Word) : Block :=
  { x with held := (x.held.map fun e => if e.1 = h then (h, e.2 - 1) else e).filter (·.2 != 0) }

/-- Has the set a free entry (R355)? -/
def Block.setRoom (x : Block) : Bool := x.held.length + x.reserved < 64

/-- A well-formed handle, or the trap (R355 check 1). -/
def wellFormed (h : Word) : M Unit := do
  if (← getS).malformed h then trap .futHandle

/-- Issue an operation at the future unit; a tracked one is counted in every live thread. -/
def issueFut (i : Instr) (b : Nat) (ts : List Nat) (kind : FutKind) (h : Word) (d : UReg) : M Unit := updS fun s =>
  let fl := flagOf i s b (ts.headD 0)
  let s1 := (s.countFlag b ts true fl).oxAbandon b
  let dl := ((s.launchOf (s.block b)).map (·.deadline)).getD s.devTime
  { s1 with
    futOps := s1.futOps ++ [{ id := s1.seq, blk := b, tids := ts, kind, handle := h, dst := d, flag := fl, issued := s.devTime
                              cls := s.clsOf b, deadline := dl }]
    seq := s1.seq + 1 }

/-- The place of a template (R355 check 5): a scratchpad window address lies on no NORMAL page. -/
def templatePlace (b : Nat) (ts : List Nat) (ea : DWord) : M Nat :=
  if canonical ea && ea.toNat % 128 == 0 && inPadWindow ea then trap .attr ea (faultInfo .read) else recordPlace b ts ea

/-- FSPAWN (R355, R356): issue. -/
def execFspawn (d a b : UReg) (f : Bool) (n : Fin 8) (s : State) : Host.Outcome State Fault Refusal :=
  uniExec (.fspawn d a b f n) (uniFall fun k ts => do
    let ea ← readU2 k a
    let group ← (List.range 8).mapM fun i => if b == .zero then pure 0 else readU k (b.plus i)
    (group.take n.val).forM wellFormed
    let x ← getB k
    if !x.setRoom then trap .futSet
    let pa ← templatePlace k ts ea
    updS fun s => (s.beginRelease k ts .pkg).modBlock k fun x => { x with reserved := x.reserved + 1 }
    issueFut (.fspawn d a b f n) k ts (.spawn (w64 pa) group n.val) 0 d) s

/-- FREF (R355, R357): issue; the entry is reserved or found. -/
def execFref (d a : UReg) (f : Bool) (s : State) : Host.Outcome State Fault Refusal :=
  uniExec (.fref d a f) (uniFall fun k ts => do
    let h ← readU k a
    wellFormed h
    let x ← getB k
    if x.refs h = 0 ∧ !x.setRoom then trap .futSet
    let flying := ((← getS).futOps.filter fun o =>
      o.blk == k && o.handle == h && (match o.kind with | .fref _ => true | _ => false)).length
    if x.refs h + flying ≥ 255 then trap .futCount
    if x.refs h = 0 then updB k fun x => { x with reserved := x.reserved + 1 }
    issueFut (.fref d a f) k ts (.fref (x.refs h == 0)) h d) s

/-- FDROP (R355, R357): the set changes at issue, the count at the unit. -/
def execFdrop (a : UReg) (f : Bool) (s : State) : Host.Outcome State Fault Refusal :=
  uniExec (.fdrop a f) (uniFall fun k ts => do
    let h ← readU k a
    wellFormed h
    if (← getB k).refs h = 0 then trap .futCount
    updB k (·.subRef h)
    issueFut (.fdrop a f) k ts .fdrop h .zero) s

/-- FPOLL (R355, R357). -/
def execFpoll (d a : UReg) (f : Bool) (s : State) : Host.Outcome State Fault Refusal :=
  uniExec (.fpoll d a f) (uniFall fun k ts => do
    let h ← readU k a
    wellFormed h
    if (← getB k).refs h = 0 then trap .futNoRef
    issueFut (.fpoll d a f) k ts .fpoll h d) s

/-- FPUT (R355, R358): a release at .pkg; PUT is set at issue. -/
def execFput (a : UReg) (f : Bool) (s : State) : Host.Outcome State Fault Refusal :=
  uniExec (.fput a f) (uniFall fun k ts => do
    let v ← readU2 k a
    let x ← getB k
    if x.own = 0 then trap .notTask
    if x.put then trap .putTwice
    updS fun s => (s.beginRelease k ts .pkg).modBlock k fun x => { x with put := true }
    issueFut (.fput a f) k ts (.fput v) x.own .zero) s

/-- FSELF (R358); a uniform command of the futures class abandons an Oxbow comparison (18 R430). -/
def execFself (d : UReg) (s : State) : Host.Outcome State Fault Refusal :=
  uniExec (.fself d) (uniFall fun k _ => do
    updB k fun x => x.writeU d x.own
    updS (·.oxAbandon k)) s

/-- Is a future resolved (R347)? -/
def State.resolved (s : State) (h : Word) : Bool :=
  let f := s.future (handleIndex h)
  f.gen == handleGen h && (f.st == .put || f.st == .done)

/-- Status and result of a resolved future, as FGET gives them (R347, R358). -/
def Future.answer (f : Future) : Nat × DWord :=
  let st := if f.st = .put then 1 else f.status
  (st, if st = 1 then f.result else 0)

/-- FGET and FGET.D (R355, R358): a reclamation point, then a wait until the future is resolved. -/
def fget (i : Instr) (d a b : UReg) (drop : Bool) : State → Host.Outcome State Fault Refusal :=
  uniExec i (fun k ts => do
    let h ← readU k a
    wellFormed h
    let x ← getB k
    if x.refs h = 0 then trap .futNoRef
    if x.mark.isSome then
      updS fun s => ts.foldl (fun (s : State) t => (s.modThread k t fun th => { th with run := .stopped none true }).leaveBundle k t) s
      return .placed
    if !(← getS).resolved h then stall (.fget h)
    issueFut i k ts (.fget drop b) h d
    return .fall)

/-- FGET. -/
def execFget (d a b : UReg) (f : Bool) (s : State) : Host.Outcome State Fault Refusal := fget (.fget d a b f) d a b false s
/-- FGET.D. -/
def execFgetD (d a b : UReg) (f : Bool) (s : State) : Host.Outcome State Fault Refusal := fget (.fgetD d a b f) d a b true s

/-! The future unit. -/

/-- Does an operation have its turn (R346): the block's earlier ones are done, and what it releases is performed? -/
def State.futReady (s : State) (o : FutOp) : Bool :=
  !(s.futOps.any fun p => p.blk == o.blk && p.id < o.id) &&
    match o.kind with
    | .spawn _ _ _ | .fput _ => !s.releaseWaits o.blk o.tids o.id .pkg (s.obsBefore o.blk o.tids o.id)
    | _ => true

/-- End an operation. -/
def State.futDone (s : State) (o : FutOp) : State :=
  let s1 := s.finishFlag o.blk o.tids true o.flag
  { s1 with futOps := s1.futOps.filter (·.id != o.id) }


/-- The restrictions of a template (R348). -/
def templateOk (r : LaunchRec) (ctx : Nat) : Bool :=
  r.blocks == 1 && r.list == 0 && r.image == 0 && r.save == 0 && r.done == 0 && r.gang == 0 && r.gmembers == 0 && r.gindex == 0 &&
    !r.coop && !r.notify && r.roles.all (fun e => !e.hw) && (r.ctx == 0 || r.ctx == ctx)

/-- Argument words 8 to ARGN − 1 of a template. -/
def State.templateArgs (s : State) (ctx : Nat) (r : LaunchRec) : Except EngWait (Option (List Word)) :=
  if r.argn ≤ 8 then .ok (some []) else s.schedWords ctx (r.args + 32) (r.argn - 8)

/-- A free entry of the table, 1 to CAP − 1 (R341, R356): the lowest (log entry 35). -/
def State.freeFuture (s : State) : Option Nat := (List.range s.futCap).find? fun i => i ≠ 0 ∧ (s.future i).st == .free

/-- The handles FSPAWN passes gain a reference each. -/
def State.passRefs (s : State) (hs : List Word) : State :=
  hs.foldl (fun (s : State) h =>
    let f := s.future (handleIndex h)
    s.setFuture (handleIndex h) { f with count := f.count + 1 }) s

/-- A merged held set of passed handles (R345). -/
def heldOf (hs : List Word) : List (Word × Nat) :=
  hs.foldl (fun m h => if m.any (·.1 == h) then m.map fun e => if e.1 = h then (h, e.2 + 1) else e else m ++ [(h, 1)]) []

/-- Cores where a queued block that comes before a child is the choice: the core it moves to, or the first that has room for it, once the
reservoir admits it (R327, R350; DESIGN CHOICE, log entry 79). -/
def State.chosenCores (s : State) (c : Nat) : List Nat :=
  (s.queued.filter (· != c)).filterMap fun q =>
    ((s.block q).moveTo).orElse fun _ =>
      if keyLt (s.dispatchKey q) (s.dispatchKey c) && s.admits (s.clsOf q) ((s.placeSet q).length * s.nrgOf q) then
        (List.range 512).find? fun k => s.placeable k q
      else none

/-- A child is placed at once where a core has room for it that no queued block has been chosen for, and the reservoir admits it (R350). The
scheduler's choice of core and lane base is the model's (03 R74). -/
def State.placeChild (s : State) (c : Nat) : State :=
  let chosen := s.chosenCores c
  match (List.range 512).find? fun k => s.placeable k c && !chosen.contains k with
  | some k => State.dispatchTo { s with fresh := s.fresh + 1 } k ((Config.freeWord s.fresh).toNat % 16) c
  | none => s

/-- Write the held set and the task words of a block to its record (R344). -/
def State.recordHeld (s : State) (b : Nat) : State := s.wrWords ((s.block b).blockRecord + 0x800) (s.block b).heldWords

/-- Create the child of a spawn on entry e (R349, R350): its block is queued with the spawner's class and deadline, and placed at once where
that can be. -/
def State.createChild (s : State) (o : FutOp) (r : LaunchRec) (args : List Word) (group : List Word) (sub e : Nat) : State × Word :=
  let x := s.block o.blk
  let old := s.future e
  let gen := if old.gen = 0 then 1 else old.gen
  let h := w32 (gen * 2 ^ 24 + e)
  let s1 := s.passRefs (group.take sub)
  let s2 := s1.setFuture e { st := .live, gen, ctx := x.ctx, count := 1, result := 0, status := 0 }
  let base (m : DWord) : Nat := (m.toNat % 2 ^ 52) / 4096 * 4096
  let r1 := { r with ctx := x.ctx, cls := o.cls, image := base s.mgmt.fimgbase + e * 0x201000, save := base s.mgmt.fsavebase + e * 0x43000 }
  let s3 := s2.acceptLaunch r1 0 (group ++ args) 1 none o.issued o.deadline (some e)
  match s3.launches.getLast? with
  | some l => ((l.blocks.head?).elim s3 fun c =>
      ((s3.modBlock c fun y => { y with own := h, held := heldOf (group.take sub), ixval := 0 }).recordHeld c).placeChild c, h)
  | none => (s3, h)

/-- FSPAWN at the unit (R348, R356): status, handle, and the state; or what holds its reads up. -/
def State.spawn (s : State) (o : FutOp) (pa : Nat) (group : List Word) (sub : Nat) : Except EngWait (State × Nat × Word) :=
  let x := s.block o.blk
  if !s.reach noCore pa then .error (.retry pa)
  else if !s.reach noCore (pa + 64) then .error (.retry (pa + 64))
  else
    let bs := s.recordAt128 x.ctx pa
    let r := { parseLaunch bs with cls := o.cls }
    if crc32c (bs.take 0x7C) != recNat bs 0x7C 4 || !recordOk (parseLaunch bs) bs || !templateOk r x.ctx || (s.checkRoom r (some 1)).isSome then
      .ok (s, 6, 0)
    else
      match s.templateArgs x.ctx r with
      | .error w => .error w
      | .ok none => .ok (s.readSettled x.ctx, 6, 0)
      | .ok (some args) =>
        let s := s.readSettled x.ctx
        match s.freeFuture with
        | none => .ok (s, 4, 0)
        | some e =>
          let hs := group.take sub
          if hs.any fun h => !s.handleLive h x.ctx then .ok (s, 5, 0)
          else if hs.any fun h => (s.future (handleIndex h)).count + (hs.filter (· == h)).length > 2 ^ 32 - 1 then .ok (s, 7, 0)
          else
            let p := s.createChild o r args group sub e
            .ok (p.1, 0, p.2)

/-- The acquire a resolved future gives the threads that asked (R359). -/
def State.futAcquire (s : State) (o : FutOp) (status : Nat) : State :=
  let core := (s.block o.blk).core
  match status with
  | 1 => s.acquireFor o.blk o.tids core .pkg
  | 2 => s.acquireFor o.blk o.tids core .sys
  | _ => s

/-- Are the .spec atomics an acquire validates still pending (07 R192)? -/
def State.futHeld (s : State) (o : FutOp) : Bool := s.specPending o.blk o.tids s.seq

/-- The held set of a block that is not resident is current in its record (R344). -/
def State.syncHeld (s : State) (b : Nat) : State := if (s.block b).inImage then s.recordHeld b else s

/-- FUTURE_OP_COMPLETE (R356 to R358): the unit applies FSPAWN, FREF, FDROP, FPUT or FPOLL. -/
def execFutureOpComplete (id : Nat) (s : State) : Host.Outcome State Fault Refusal :=
  .next (match s.futOps.find? (·.id == id) with
    | none => s
    | some o =>
      let x := s.block o.blk
      let i := handleIndex o.handle
      let f := s.future i
      if !s.futReady o then s
      else
        match o.kind with
        | .spawn pa group sub =>
          (match s.spawn o pa.toNat group sub with
           | .error w => s.readHold 0 x.ctx w true
           | .ok (s1, st, h) =>
             let s2 := s1.modBlock o.blk fun x => { x with reserved := x.reserved - 1 }
             let s3 := if st = 0 then s2.modBlock o.blk (·.addRef h) else s2
             (((s3.syncHeld o.blk).arriveUni o.blk o.dst h).arriveUni o.blk (if o.dst = .zero then .zero else o.dst.plus 1) (w32 st)).futDone o)
        | .fref took =>
          let live := s.handleLive o.handle x.ctx
          let st := if !live then 5 else if f.count ≥ 2 ^ 32 - 1 then 7 else 0
          let s1 := if st = 0 then s.setFuture i { f with count := f.count + 1 } else s
          let s2 := if took then s1.modBlock o.blk fun x => { x with reserved := x.reserved - 1 } else s1
          let s3 := if st = 0 then s2.modBlock o.blk (·.addRef o.handle) else s2
          ((s3.syncHeld o.blk).arriveUni o.blk o.dst (w32 st)).futDone o
        | .fdrop => (s.dropRef o.handle 1).futDone o
        | .fpoll =>
          let st := match f.st with | .put => 1 | .done => f.status | _ => 0
          if s.futHeld o && st != 0 then s else ((s.futAcquire o st).arriveUni o.blk o.dst (w32 st)).futDone o
        | .fput v =>
          let s1 := if f.st = .live ∧ f.gen = handleGen o.handle then s.setFuture i { f with st := .put, result := v } else s
          s1.futDone o
        | .fget _ _ => s)

/-- A .D has dropped its block's last reference: other FGETs of the handle still in flight in the block take the answer it took, whatever
becomes of the entry (R358; DESIGN CHOICE, log entry 110). -/
def State.keepAnswer (s : State) (o : FutOp) (a : Nat × DWord) : State :=
  if (s.block o.blk).refs o.handle ≠ 0 then s
  else { s with futOps := s.futOps.map fun p =>
    if p.blk = o.blk ∧ p.handle = o.handle ∧ p.seen.isNone then { p with seen := some a } else p }

/-- FGET_RESOLVE (R358): status and result arrive, .D drops one reference, the threads acquire. -/
def execFgetResolve (id : Nat) (s : State) : Host.Outcome State Fault Refusal :=
  .next (match s.futOps.find? (·.id == id) with
    | some o =>
      (match o.kind with
       | .fget drop dst2 =>
         if !s.futReady o || !(s.resolved o.handle || o.seen.isSome) || s.futHeld o then s
         else
           let now := (s.future (handleIndex o.handle)).answer
           let (st, v) := if s.resolved o.handle then now else o.seen.getD now
           let s1 := s.futAcquire o st
           let s2 := (s1.arriveUni o.blk o.dst (w32 st)).arriveUni o.blk dst2 (loWord v)
           let s3 := s2.arriveUni o.blk (if dst2 = .zero then .zero else dst2.plus 1) (hiWord v)
           let s4 := if drop && (s3.block o.blk).refs o.handle != 0 then ((s3.modBlock o.blk (·.subRef o.handle)).keepAnswer o (st, v)).dropRef o.handle 1
             else s3
           (s4.syncHeld o.blk).futDone o
       | _ => s)
    | none => s)

/-! Marks and reclamation (R351, R352). -/

/-- Is a block, not yet done, a marked task? -/
def State.markedTask (s : State) (b : Nat) : Bool := (s.block b).life != .done && s.taskMarked (s.block b)

/-- A thread of a marked block stops where the mark finds it: in a wait, or parked, whose fault is abandoned (R351). -/
def Thread.markStop (th : Thread) : Thread :=
  match th.run with
  | .stalled _ => { th with run := .stopped none true }
  | .parked _ _ => { th with run := .stopped none true }
  | _ => th

/-- MARK_DELIVERY (R351): a resident task's threads stop at their reclamation points from now on; a pending pre-emption is
dropped. -/
def execMarkDelivery (blk : Nat) (s : State) : Host.Outcome State Fault Refusal :=
  let x := s.block blk
  .next (if !s.markedTask blk || x.mark.isSome || !(x.life == .resident || x.life == .stopping) then s
    else
      (s.modBlock blk fun x => { x with
        mark := some s.devTime, stopBy := some (s.now + s.graceOf (s.clsOf blk)), deferred := none, moveTo := none, life := .resident
        threads := x.threads.map (·.markStop) }).dropStopped blk)

/-- MARK_GRACE_EXPIRY (R351): the rest stop at their next instruction boundary. -/
def execMarkGraceExpiry (blk : Nat) (s : State) : Host.Outcome State Fault Refusal :=
  let x := s.block blk
  .next (if x.mark.isSome && x.inSlot && s.graceOver x then
    (s.modBlock blk fun x => { x with threads := x.threads.map (·.stopNow true) }).dropStopped blk
  else s)

/-- What a reclamation waits for (R352): writes and atomics issued, started chains, spawns in flight. -/
def State.reclaimWaits (s : State) (b : Nat) : Bool :=
  s.ops.any (fun o => o.blk == b && !o.isLoad) || s.chains.any (fun c => c.blk == b && c.started) ||
    s.futOps.any (fun o => o.blk == b && (match o.kind with | .spawn _ _ _ => true | _ => false))

/-- Reclaim a task (R352): it ends as killed, its references are dropped, its entry is freed; a LAUNCH whose record has been read stays. -/
def State.reclaimBlock (s : State) (b : Nat) : State :=
  let x := s.block b
  -- references that were still on their way to the unit are dropped there too
  let drops := s.futOps.filter fun o => o.blk == b && (match o.kind with | .fdrop => true | _ => false)
  let s1 := drops.foldl (fun (s : State) o => s.dropRef o.handle 1) s
  let s2 : State := { s1 with
    ops := s1.ops.filter (·.blk != b), chains := s1.chains.filter (·.blk != b), futOps := s1.futOps.filter (·.blk != b)
    launchOps := s1.launchOps.filter fun (o : LaunchOp) => o.blk != b || !o.bytes.isEmpty
    gangOps := s1.gangOps.filter (·.blk != b), hzOps := s1.hzOps.filter (·.blk != b) }
  let s3 := s2.modBlock b fun x => { x with threads := x.threads.map fun th => { th with spec := [] } }
  let s4 := s3.finishBlock b true
  let f := s4.future (handleIndex x.own)
  (if f.st = .marked ∧ f.gen = handleGen x.own then s4.setFuture (handleIndex x.own) f.freed else s4).completeLaunches

/-- RECLAIM (R351, R352): a QUEUED marked task, or a resident one when every live thread has stopped: what it issued is completed or
cancelled first. -/
def execReclaim (blk : Nat) (s : State) : Host.Outcome State Fault Refusal :=
  let x := s.block blk
  .next (if s.markedTask blk && (x.life == .queued || (x.mark.isSome && x.allStopped && !x.liveTids.isEmpty)) then
    let s1 := (s.cancelChains blk fun _ => true).1
    if s1.reclaimWaits blk then s1 else s1.reclaimBlock blk
  else s)

/-- The future unit's copy governs: what another agent has written to the table is overwritten (R343). -/
def State.mendTable (s : State) : State :=
  let base := s.mgmt.futbase.toNat
  if s.futCap = 0 then s
  else
    let touched := (s.mem.filter fun e => base ≤ e.1 && e.1 < base + 32 * s.futCap).map fun e => (e.1 - base) / 32
    ((s.futures.map (·.1) ++ touched).dedup.filter fun i => s.rdBytes (base + 32 * i) 32 != (s.future i).bytes).foldl
      (fun (s : State) i => s.setFuture i (s.future i)) s

end Sys2Proof.Machine
end

