-- ==== Sys2Proof/Machine/Gangs.lean ====
section
/-! DEFINITION. Gangs and the Ford window (16_gangs.md R364 to R388): the coordinator, the members, the gang instructions, and
a peer's access to a member's scratchpad. -/

namespace Sys2Proof.Machine

/-- LEAD of GANGTIME in ticks (R366): below 4 it acts as 4. -/
def State.gangLead (s : State) : Nat := 1000 * Nat.max 4 (field s.mgmt.gangtime.toNat 24 8)

/-- RETRY of GANGTIME in ticks (R366). -/
def State.gangRetry (s : State) : Nat := 1000 * field s.mgmt.gangtime.toNat 16 8

/-- PERIOD of GANGTIME in ticks (R366): 0 acts as 1. -/
def State.gangPeriod (s : State) : Nat := 1000000 * Nat.max 1 (field s.mgmt.gangtime.toNat 0 16)

/-- Has every member of a gang let go of it, so that its record may be used again (log entry 36)? -/
def Gang.over (r : Gang) : Bool := (List.range r.gmembers).all fun m => r.gone.contains m || r.detached.contains m

/-- DETAIL of the gang kinds (18 R419). -/
def gangDetail (g : GangMember) : List Byte := leBytes 4 g.gang ++ leBytes 2 g.index ++ leBytes 2 g.members

/-- Kill a member that cannot start, with a record of a kind (R365, R367, R370). The coordinator needs no word of it. -/
def State.killMember (s : State) (b kind : Nat) : State :=
  let x := s.block b
  match x.gang with
  | none => s
  | some g =>
    (((s.record x.ctx { kind, detail := gangDetail g }).modBlock b fun x => { x with gang := none }).kill b).completeLaunches

/-- The coordinator breaks a gang that never started: every member is told, and the record is freed (R370). -/
def State.breakGang (s : State) (r : Gang) : State :=
  let s1 := r.live.foldl (fun (s : State) e => s.sendTo e.2 (.broken e.2 r.gang)) s
  { s1 with gangs := s1.gangs.filter (·.gang != r.gang) }

/-! The coordinator (R365, R367). -/

/-- This device's members of a gang and index that have not been placed, in the order accepted. -/
def State.unplaced (s : State) (gang gindex : Nat) : List Nat :=
  s.blockIds.filter fun b =>
    let x := s.block b
    x.life != .done && !x.placed && x.gang.any fun g => g.gang == gang && g.index == gindex

/-- A member of this device has its join recorded, or refused: it waits at its sender no longer (R365). -/
def State.joinHeard (s : State) (gang gindex device : Nat) : State :=
  if device ≠ s.device then s
  else
    match (s.unplaced gang gindex).find? fun b => (s.block b).gang.any (!·.joined) with
    | some b => s.modMember b fun g => { g with joined := true }
    | none => s

/-- The device of a member of a gang: by the coordinator's record here, or by the list COMMIT brought. -/
def State.memberDevice (s : State) (gang gindex : Nat) : Option Nat :=
  match s.gangRec gang with
  | some r => Cells.get? gindex r.joined
  | none => (s.member gang).bind fun b => (s.block b).gang.bind fun g => g.devices[gindex]?

/-- Does a gang message of a member come from a peer that counts as lost, so that it is dropped (19_outside.md R442)? -/
def State.fromLost (s : State) (gang gindex : Nat) : Bool :=
  (s.memberDevice gang gindex).any fun d => d != s.device && s.links.lostPeers.contains d

/-- Context of a gang's member, or record, on this device. -/
def State.gangCtx (s : State) (gang : Nat) : Nat :=
  match s.member gang with
  | some b => (s.block b).ctx
  | none => ((s.gangRec gang).map (·.ctx)).getD 0

/-- A gang message of a member has arrived: its device is heard, and is a peer of the context (18 R428; 19 R442). -/
def State.heardMember (s : State) (gang gindex : Nat) : State :=
  match s.memberDevice gang gindex with
  | some d => (s.hearOther d).notePeers (s.gangCtx gang) [d]
  | none => s

/-- A message of a gang's coordinator has arrived. One whose COORD is lost is its successor's, since before the first COMMIT the loss has
ended its members here (R379; log entry 93). -/
def State.heardCoord (s : State) (gang : Nat) : State :=
  if s.coordHere gang then s
  else
    match (s.member gang).bind fun b => (s.block b).gang with
    | some g => (s.hearOther (s.coordOf g)).notePeers (s.gangCtx gang) [s.coordOf g]
    | none => s

/-- GANG_JOIN (R365): the coordinator records or refuses a join; with 64 gangs kept, the join waits at its sender. Another join from a
device that holds a member is a second member there. A refused join breaks a gang that has not started (R370). A lost device's join is
dropped (19 R442). -/
def execGangJoin (gang gindex gmembers device ctx : Nat) (old : State) : Host.Outcome State Fault Refusal :=
  let s := old.hearOther device
  let kept := s.gangs.filter fun r => !(r.over && (r.gang == gang || s.gangs.length ≥ 64))
  .next (if gang % 1024 ≠ s.device ∨ (device ≠ s.device ∧ s.links.lostPeers.contains device = true) then old
    else
      match kept.find? (·.gang == gang) with
      | some r =>
        if r.joined.any (fun e => e.1 == gindex || e.2 == device) || r.gmembers ≠ gmembers then
          let s1 := (s.joinHeard gang gindex device).sendTo device (.joinRefused device gang gindex)
          if r.everStarted then s1 else s1.breakGang r
        else ((s.joinHeard gang gindex device).notePeer ctx device).modGang gang fun r => { r with joined := Cells.set gindex device r.joined }
      | none =>
        if kept.length ≥ 64 then s
        else
          { (s.joinHeard gang gindex device).notePeer ctx device with
            gangs := kept ++ [{ gang, gmembers, ctx, joined := [(gindex, device)], ready := [], accepted := [], started := [], tt := none
                                committed := false, everStarted := false, running := false, next := s.devTime, misses := 0, gone := []
                                detached := [] }] })

/-- GANG_CONFLICT (R365): a member learns that its join was refused: the latest accepted of its gang and index. -/
def execGangConflict (gang gindex : Nat) (s : State) : Host.Outcome State Fault Refusal :=
  .next (match (s.unplaced gang gindex).getLast? with
    | some b => s.killMember b 0x08
    | none => s)

/-- GANG_BROKEN (R370): a member that has not started is killed. -/
def execGangBroken (gang : Nat) (s : State) : Host.Outcome State Fault Refusal :=
  .next (match s.member gang with
    | some b => if (s.block b).placed then s else s.killMember b 0x09
    | none => s)

/-- GANG_READY (R367, R368): a QUEUED member that a core fits, and that comes first there in the order of dispatch (R369), reserves it and
says READY; a member EXITING at a gang stop holds its core and says so (R380). READY of a member elsewhere is recorded by the
coordinator. -/
def execGangReady (gang gindex core : Nat) (s : State) : Host.Outcome State Fault Refusal :=
  .next (match s.member gang with
    | some b =>
      let x := s.block b
      (match x.gang with
       | some g =>
         if g.index ≠ gindex then (if s.fromLost gang gindex then s else (s.heardMember gang gindex).noteReady gang gindex)
         else if x.life == .exiting && g.phaseSt == 5 then (s.modMember b fun g => { g with phaseSt := 1 }).sayReady g
         else
           let s1 := ({ s with fresh := s.fresh + 1 } : State).offer core ((Config.freeWord s.fresh).toNat % 16)
           if !x.reserves && (s1.block b).reserves then s1 else s
       | none => s)
    | none => if s.fromLost gang gindex then s else (s.heardMember gang gindex).noteReady gang gindex)

/-- GANG_PROPOSE (R367): READY from every member and the time reached: PREPARE(tt). -/
def execGangPropose (gang : Nat) (s : State) : Host.Outcome State Fault Refusal :=
  .next (match s.gangRec gang with
    | none => s
    | some r =>
      if r.joined.length < r.gmembers || r.live.isEmpty || r.tt.isSome || r.running || s.devTime < r.next ||
          r.live.any (fun e => !r.ready.contains e.1) then s
      else
        let tt := s.devTime + s.gangLead
        let s1 := s.modGang gang fun r => { r with tt := some tt, accepted := [], started := [], committed := false }
        r.live.foldl (fun (s : State) e => s.sendTo e.2 (.prepare e.2 gang tt)) s1)

/-- Does the coordinator's record name this proposal, still open? -/
def Gang.open (r : Gang) (tt : Nat) : Bool := r.tt == some tt && !r.committed

/-- ACCEPT (R367): counted until tt − LEAD / 2. -/
def execAccept (gang gindex tt : Nat) (s : State) : Host.Outcome State Fault Refusal :=
  .next (if s.fromLost gang gindex then s
    else (s.heardMember gang gindex).modGang gang fun r =>
    if r.open tt && 2 * s.devTime + s.gangLead ≤ 2 * tt then { r with accepted := Cells.insert gindex r.accepted } else r)

/-- REFUSE (R367). -/
def execRefuse (gang gindex tt : Nat) (s : State) : Host.Outcome State Fault Refusal :=
  .next (if s.fromLost gang gindex then s
    else (s.heardMember gang gindex).modGang gang fun r => if r.open tt then { r with accepted := Cells.remove gindex r.accepted } else r)

/-- A missed start: ABORT, and every third in a row the records (R367, R369). -/
def State.gangMiss (s : State) (r : Gang) (tt : Nat) : State :=
  let ms := (r.live.map (·.1)).filter fun m => !r.accepted.contains m
  let s1 := r.live.foldl (fun (s : State) e => s.sendTo e.2 (.abort e.2 r.gang tt)) s
  let third := r.misses + 1 = 3
  let s2 := s1.modGang r.gang fun r => { r with
    tt := none, ready := [], accepted := [], misses := if third then 0 else r.misses + 1
    next := if third then (tt / s.gangPeriod + 1) * s.gangPeriod else tt + s.gangRetry }
  if third then r.live.foldl (fun (s : State) e => s.sendTo e.2 (.miss e.2 r.gang tt ms.length (ms.take 4))) s2 else s2

/-- A member's device writes GANG_MISS for it. -/
def State.gangMissed (s : State) (gang tt count : Nat) (ms : List Nat) : State :=
  match s.member gang with
  | some b => s.record (s.block b).ctx { kind := 0x0A, detail := leBytes 4 gang ++ leBytes 8 tt ++ leBytes 2 count ++
      ((ms ++ List.replicate 4 0xFFFF).take 4).flatMap (leBytes 2) }
  | none => s

/-- ACCEPT_DEADLINE (R367): COMMIT with every ACCEPT, else ABORT at tt − LEAD / 2. -/
def execAcceptDeadline (gang : Nat) (s : State) : Host.Outcome State Fault Refusal :=
  .next (match s.gangRec gang with
    | none => s
    | some r =>
      match r.tt with
      | none => s
      | some tt =>
        if r.committed then s
        else if r.live.all fun e => r.accepted.contains e.1 then
          let devs := (List.range r.gmembers).map fun m => Cells.getD m 0 r.joined
          let s1 := s.modGang gang fun r => { r with committed := true, everStarted := true, misses := 0 }
          r.live.foldl (fun (s : State) e => s.sendTo e.2 (.commit e.2 gang tt devs)) s1
        else if 2 * s.devTime + s.gangLead < 2 * tt then s
        else s.gangMiss r tt)

/-- The window of a placed member that is attached opens once every attached member has said STARTED for the start (R380). -/
def GangMember.reopened (g : GangMember) : GangMember :=
  let there (m : Nat) : Bool := !(Cells.get? m g.lens).isSome || g.detachedSet.contains m || g.departed.contains m || g.started.contains m
  if g.phaseSt = 4 ∧ g.attached = true ∧ g.detached = false ∧ (List.range g.members).all there = true then { g with windowOpen := true } else g

/-- STARTED (R367): with the last one the gang runs; a member device learns that another has been placed (R380). -/
def execStarted (gang gindex tt : Nat) (s : State) : Host.Outcome State Fault Refusal :=
  let s1 := (s.heardMember gang gindex).modGang gang fun r =>
    if r.tt = some tt ∧ r.committed then
      let st := Cells.insert gindex r.started
      if r.live.all fun e => st.contains e.1 then { r with started := st, running := true, tt := none } else { r with started := st }
    else r
  .next (if s.fromLost gang gindex then s
    else match s1.member gang with
    | some b => s1.modMember b fun g => if g.tt = tt then ({ g with started := Cells.insert gindex g.started } : GangMember).reopened else g
    | none => s1)

/-- STARTED_TIMEOUT (R367): members without STARTED by tt + LEAD / 2 depart abnormally. -/
def execStartedTimeout (gang : Nat) (s : State) : Host.Outcome State Fault Refusal :=
  .next (match s.gangRec gang with
    | none => s
    | some r =>
      match r.tt with
      | none => s
      | some tt =>
        if !r.committed || 2 * s.devTime < 2 * tt + s.gangLead then s
        else
          let late := (r.live.map (·.1)).filter fun m => !r.started.contains m
          let s1 := s.modGang gang fun r => { r with running := true, tt := none }
          late.foldl (fun (s : State) m => s.sendGang (.depart gang m)) s1)

/-! Members (R367, R368). -/

/-- The gang state of a member of this device that is DONE: its device answers for it, as it has nothing left to place (R378, R380). -/
def State.doneMember (s : State) (gang : Nat) : Option GangMember :=
  (s.blocks.filterMap fun e => if e.2.life = .done then e.2.gang.filter fun g => g.gang == gang && g.joined else none).getLast?

/-- PREPARE (R367): ACCEPT with the reservation held, else REFUSE. -/
def execPrepare (gang tt : Nat) (s : State) : Host.Outcome State Fault Refusal :=
  let s := s.heardCoord gang
  .next (match s.member gang with
    | none => (match s.doneMember gang with | some g => s.toCoord gang (.accept (s.coordOf g) gang g.index tt) | none => s)
    | some b =>
      match (s.block b).gang with
      | none => s
      | some g =>
        if g.phaseSt = 1 then (s.modMember b fun g => { g with phaseSt := 2, tt, started := [] }).toCoord gang (.accept (s.coordOf g) gang g.index tt)
        else s.toCoord gang (.refuse (s.coordOf g) gang g.index tt))

/-- A member lets its reservation go; one held EXITING keeps its core and says READY again. -/
def State.releaseMember (s : State) (b : Nat) : State :=
  let out := (s.block b).life == .exiting
  s.modMember b fun g => { g with phaseSt := if out then 5 else 0 }

/-- Change the gang state of a member of this device that is DONE. -/
def State.modDone (s : State) (gang : Nat) (f : GangMember → GangMember) : State :=
  { s with blocks := s.blocks.map fun e => if e.2.life = .done ∧ (e.2.gang.any fun g => g.gang == gang && g.joined) = true then
      (e.1, { e.2 with gang := e.2.gang.map f }) else e }

/-- A gang starts again, or has been told to: no start of it has been missed of late (R367). -/
def State.clearAborts (s : State) (gang : Nat) : State := { s with sched := { s.sched with gangAborts := Cells.erase gang s.sched.gangAborts } }

/-- A coordinator elsewhere has missed a start of a gang that has a member here: after the third in a row the member's context is to have a
GANG_MISS record (R367, R369). What the record says of the members that did not accept only the coordinator knows: those fields are free
values (DESIGN CHOICE; log entry 86). -/
def State.noteAbort (s : State) (gang tt : Nat) : State :=
  if s.coordHere gang then s
  else
    let n := Cells.getD gang 0 s.sched.gangAborts + 1
    if n < 3 then { s with sched := { s.sched with gangAborts := Cells.put 0 gang n s.sched.gangAborts } }
    else
      let v (i : Nat) : Nat := (Config.freeWord (s.fresh + i)).toNat % 65536
      ({ s.clearAborts gang with fresh := s.fresh + 5 } : State).post (.miss s.device gang tt (v 0) [v 1, v 2, v 3, v 4])

/-- COMMIT (R367, R379): the start is armed; after tt it comes too late. -/
def execCommit (gang tt : Nat) (devices : List Nat) (s : State) : Host.Outcome State Fault Refusal :=
  let s := (s.heardCoord gang).clearAborts gang
  .next (match s.member gang with
    | none => (match s.doneMember gang with | some g => (s.modDone gang fun g => { g with phaseSt := 4 }).sendGang (.started (s.coordOf g) gang g.index tt) | none => s)
    | some b =>
      let x := s.block b
      match x.gang with
      | none => s
      | some g =>
        if g.tt ≠ tt || g.phaseSt = 3 || g.phaseSt = 4 then s
        else if s.devTime < tt && g.phaseSt = 2 then
          let s1 := s.modMember b fun g => { g with phaseSt := 3, devices }
          let s2 := s1.notePeers x.ctx devices
          if x.life == .queued then (s2.wakeCore x.core).2 else s2
        else s.killMember b 0x09)

/-- ABORT (R367): the reservation is released; the device of a member that is DONE says READY again (R380). -/
def execAbort (gang tt : Nat) (s : State) : Host.Outcome State Fault Refusal :=
  let s := s.heardCoord gang
  .next (match s.member gang with
    | none => (match s.doneMember gang with | some g => s.sayReady g | none => s)
    | some b =>
      let s := s.noteAbort gang tt
      match (s.block b).gang with
      | none => s
      | some g =>
        if g.phaseSt = 1 || (g.phaseSt = 2 && g.tt = tt) then (s.releaseMember b).modMember b fun g => { g with tt := 0 } else s)

/-- May a member start on the core it has reserved: the core still in service, its span kept (10_residue.md R252)? -/
def State.mayStart (s : State) (b : Nat) : Bool :=
  let x := s.block b
  let c := s.getCore x.core
  !c.withdrawn && !c.halted && !(s.getCluster (clusterOf x.core)).quarantined && s.keepsSpan x.core (((s.recOf x).map (·.span)).getD 0)

/-- The member's start at tt (R367): placed on its reserved core, STARTED said to the devices of the gang, of which those attached open
their windows on it (R380). One whose core has gone out of service does not start. -/
def State.startMember (s : State) (b tt : Nat) : State :=
  let x := s.block b
  match x.gang with
  | none => s
  | some g =>
    if x.life == .queued && !s.mayStart b then s.killMember b 0x09 else
    let armed : State :=
      if x.life == .queued then
        let s1 := (s.group b).foldl (fun (s : State) k => if (s.block k).life == .done then s else s.startBlock k) s
        if !x.placed && (s1.block b).life != .done then (s1.oxSample b).oxPlaced b else s1
      else s
    if (armed.block b).life == .done then armed.completeLaunches
    else
      let s2 := armed.modMember b fun g => ({ g with phaseSt := 4 } : GangMember).reopened
      let s3 : State := { s2 with sched := { s2.sched with gangCores := s2.sched.gangCores.filter (·.2 != b) } }
      (s3.sendGang (.started (s3.coordOf g) g.gang g.index tt)).notePeers x.ctx g.devices

/-- GANG_START_TIME (R367, R368): at tt a COMMITTED member is placed once its core is ON; a PREPARED one is released. -/
def execGangStartTime (gang tt : Nat) (s : State) : Host.Outcome State Fault Refusal :=
  .next (match s.member gang with
    | none => s
    | some b =>
      let x := s.block b
      match x.gang with
      | none => s
      | some g =>
        if g.tt ≠ tt || s.devTime < tt then s
        else if g.phaseSt = 3 then
          if x.life == .queued then
            let p := s.wakeCore x.core
            if p.1 then p.2.startMember b tt else p.2
          else s.startMember b tt
        else if g.phaseSt = 2 then s.releaseMember b
        else s)

/-! Waiting for a core (R371). -/

/-- LIMIT of GANGWAIT in core cycles. -/
def State.gangLimit (s : State) : Nat := usCycles (s.mgmt.gangwait.toNat % 2 ^ 20)

/-- Blocks that a waiting member's device pre-empts on its chosen core. -/
def State.gangVictims (s : State) (b core : Nat) : List Nat :=
  (s.onCore core).filter fun v =>
    let x := s.block v
    x.kind == .lane && x.life == .resident && x.deferred.isNone && s.clsOf v > s.clsOf b && s.now > x.placedAt + s.gangLimit

/-- GANG_WAIT_LIMIT (R371): after LIMIT a core is chosen; after another, lower classes there are pre-empted. -/
def execGangWaitLimit (blk : Nat) (s : State) : Host.Outcome State Fault Refusal :=
  let x := s.block blk
  .next (match x.gang with
    | none => s
    | some g =>
      if s.gangLimit = 0 || x.life != .queued || g.phaseSt ≠ 0 || s.now < g.queuedSince + s.gangLimit then s
      else
        match s.sched.gangCores.find? (·.2 == blk) with
        | none =>
          (match s.markCore blk with
           | some c => { s with sched := { s.sched with gangCores := s.sched.gangCores ++ [(c, blk)] } }
           | none => s)
        | some e =>
          if s.now < g.queuedSince + 2 * s.gangLimit then s
          else (s.gangVictims blk e.1).foldl (fun (s : State) v => s.requestStop v (s.clsOf blk)) s)

/-! Commands in flight (R383 to R386). -/

/-- The gang state of a block, for what has come so far. -/
def GangMember.count (g : GangMember) (m : Nat) : Nat := Cells.getD m 0 g.gsync

/-- Has every member executed a phase, detached or departed (R386)? -/
def GangMember.phaseOver (g : GangMember) (k : Nat) : Bool :=
  (List.range g.members).all fun m => k ≤ g.count m || g.detachedSet.contains m || g.departed.contains m

/-- Has every member attached (R383)? -/
def GangMember.allAttached (g : GangMember) : Bool := (List.range g.members).all fun m => (Cells.get? m g.lens).isSome

/-- End a gang command. -/
def State.gangDone (s : State) (o : GangOp) : State :=
  let s1 := s.finishFlag o.blk o.tids true o.flag
  { s1 with gangOps := s1.gangOps.filter (·.id != o.id) }

/-- The release part of a command is over: what it says to the gang is said (R383, R384, R386). -/
def State.sendGangOp (s : State) (o : GangOp) : State :=
  let x := s.block o.blk
  let s1 : State := { s with gangOps := s.gangOps.map fun p => if p.id = o.id then { p with sent := true } else p }
  match x.gang with
  | none => s1
  | some g =>
    let s1 := s1.notePeers x.ctx g.devices
    match o.kind with
    | 0 => (s1.modMember o.blk fun g => { g with lens := Cells.set g.index x.spLen g.lens }).send (.attach g.gang g.index x.spLen)
    | 2 => (s1.modMember o.blk fun g => { g with gsync := Cells.set g.index (Nat.max o.phase (g.count g.index)) g.gsync }).send
        (.gsync g.gang g.index o.phase)
    | k =>
      let s2 : State := if k = 3 then { s1 with gangOps := s1.gangOps.filter (·.id != o.id) } else s1
      (s2.modMember o.blk fun g => { g with detached := true, windowOpen := false, detachedSet := Cells.insert g.index g.detachedSet }).sendGang
        (.detach g.gang g.index)

/-- Commands whose release part is over, in the order issued. A GSYNC waits for the earlier ones of its block: phases are numbered in the
order of execution (R386). -/
def State.gangSends (s : State) : State :=
  s.gangOps.foldl (fun (s : State) o =>
    if o.sent || s.releaseWaits o.blk o.tids o.id .dom (s.obsBefore o.blk o.tids o.id) then s
    else if o.kind = 2 && s.gangOps.any (fun p => p.blk == o.blk && p.kind == 2 && !p.sent && p.id < o.id) then s
    else s.sendGangOp o) s

/-- GSYNC executions whose phase is over complete (R386). -/
def State.gangPhases (s : State) : State :=
  s.gangOps.foldl (fun (s : State) o =>
    match (s.block o.blk).gang with
    | some g =>
      if o.kind = 2 ∧ o.sent = true ∧ g.phaseOver o.phase = true then
        (s.arriveUni o.blk o.dst (if g.departed.isEmpty then 0 else 1)).gangDone o
      else s
    | none => s) s

/-- What follows without a further message. -/
def State.settleGang (s : State) : State := if s.gangOps.isEmpty then s else s.gangSends.gangPhases

/-- FORDATT_COMPLETE (R383, R388). -/
def execFordattComplete (blk : Nat) (s : State) : Host.Outcome State Fault Refusal :=
  .next (match s.gangOps.find? (fun o => o.blk == blk && o.kind == 0 && o.sent), (s.block blk).gang with
    | some o, some g =>
      if g.attached then (s.arriveUni blk o.dst 0).gangDone o
      else
        match g.departed with
        | m :: _ => (s.arriveUni blk o.dst (w32 (1 + m * 65536))).gangDone o
        | [] =>
          if g.allAttached then
            let s1 := s.modMember blk fun g => { g with attached := true, windowOpen := (s.block blk).inSlot && g.phaseSt == 4 && !g.detached }
            (s1.arriveUni blk o.dst 0).gangDone o
          else s
    | _, _ => s)

/-- FORDDET_COMPLETE (R384): every peer has recorded the detach. -/
def execForddetComplete (blk : Nat) (s : State) : Host.Outcome State Fault Refusal :=
  .next (match s.gangOps.find? (fun o => o.blk == blk && o.kind == 1 && o.sent) with
    | some o => s.gangDone o
    | none => s)

/-! Messages of the other members. -/

/-- ATTACH (R383). -/
def execAttach (gang gindex len : Nat) (old : State) : Host.Outcome State Fault Refusal :=
  let s := old.heardMember gang gindex
  .next (if old.fromLost gang gindex then old else match s.member gang with
    | some b => s.modMember b fun g => { g with lens := Cells.set gindex len g.lens }
    | none => s)

/-- DETACH (R377, R384): recorded by a member and by the coordinator. -/
def execDetach (gang gindex : Nat) (s : State) : Host.Outcome State Fault Refusal :=
  let s1 := (s.heardMember gang gindex).modGang gang fun r => { r with detached := Cells.insert gindex r.detached }
  .next (if s.fromLost gang gindex then s else match s1.member gang with
    | some b => (s1.modMember b fun g => ({ g with detachedSet := Cells.insert gindex g.detachedSet } : GangMember).reopened).settleGang
    | none => s1)

/-- The first Ford address of an operation on a member's scratchpad: its first byte there. -/
def MemOp.fordAt (o : MemOp) (m : Nat) : Option DWord :=
  (o.tgts.findIdx? fun t => match t with | .ford _ k _ => k == m | _ => false).map fun i => o.ea + w64 i

/-- The thread FORD_LOST names (R375; 18 R420). -/
def MemOp.leadTid (o : MemOp) : Nat := o.tids.foldl Nat.min (o.tids.headD 0)

/-- An access to a member that has departed ends (R375): a value it reads is undefined. -/
def State.endFordOp (s : State) (o : MemOp) : State :=
  match o.kind with
  | .load sg => s.performLoad o sg []
  | .atom _ _ | .cas _ _ => s.performAtom o (fun _ => none) []
  | .fe => s
  | _ => s.performStore o

/-- What a departure does to the accesses of a block in flight (R375): one FORD_LOST for each thread. -/
def State.fordLost (s : State) (b m : Nat) : State :=
  let hits := s.ops.filterMap fun o => if o.blk = b then (o.fordAt m).map fun a => (o, a) else none
  let x := s.block b
  let firsts := hits.foldl (fun (acc : List (Nat × DWord)) h => if acc.any (·.1 == h.1.leadTid) then acc else acc ++ [(h.1.leadTid, h.2)]) []
  let s1 := firsts.foldl (fun (s : State) e =>
    s.record x.ctx { kind := 0x0B, core := x.core, slot := x.slot, tid := e.1, addr := e.2.toNat, detail := leBytes 2 m }) s
  (hits.foldl (fun (s : State) h => s.endFordOp h.1) s1).pruneBarriers

/-- A member device marks a member departed (R379). -/
def State.markDeparted (s : State) (b m : Nat) : State :=
  let s1 := s.modMember b fun g => ({ g with departed := Cells.insert m g.departed } : GangMember).reopened
  let s2 := ((s.group b).foldl (fun (s : State) k => s.fordLost k m) s1)
  s2.settleGang

/-- DEPART (R379): a member device marks the member; a departure before the first COMMIT breaks the gang at its coordinator
(R370). -/
def execDepart (gang gindex : Nat) (s : State) : Host.Outcome State Fault Refusal :=
  let s1 := s.modGang gang fun r => { r with gone := Cells.insert gindex r.gone, ready := Cells.remove gindex r.ready }
  let s2 := match s1.gangRec gang with
    | some r => if r.everStarted then s1 else s1.breakGang r
    | none => s1
  .next (match s2.member gang with
    | some b => if (s2.block b).gang.any (·.index == gindex) then s2 else s2.markDeparted b gindex
    | none => s2)

/-- GSYNC_ARRIVAL (R386). -/
def execGsyncArrival (gang gindex phase : Nat) (old : State) : Host.Outcome State Fault Refusal :=
  let s := old.heardMember gang gindex
  .next (if old.fromLost gang gindex then old else match s.member gang with
    | some b => (s.modMember b fun g => { g with gsync := Cells.set gindex (Nat.max phase (g.count gindex)) g.gsync }).settleGang
    | none => s)

/-! The gang stop (R380). -/

/-- A member stops for its gang, if its own YIELD has not stopped it already; live accumulators put it off (03_control.md R94). -/
def State.stopMember (s : State) (b cls : Nat) : State :=
  let x := s.block b
  if x.gang.all (·.phaseSt != 4) || x.life == .queued || x.life == .done then s
  else
    let s1 := s.modMember b fun g => { g with phaseSt := 5, windowOpen := false }
    if x.life != .resident then s1
    else if s.mustDefer b then s1.modBlock b fun x => { x with deferred := some cls }
    else s1.stopBlocks (s.group b) cls (s.graceOf cls)

/-- This device's member stops for its gang; for one that is DONE its device says READY. -/
def State.stopHere (s : State) (gang cls : Nat) : State :=
  match s.member gang, s.doneMember gang with
  | some b, _ => s.stopMember b cls
  | none, some g => (s.modDone gang fun g => { g with phaseSt := 5 }).sayReady g
  | none, none => s

/-- GANG_STOP_REQUEST (R380): the coordinator forwards one stop of a running gang; each member stops. -/
def execGangStopRequest (gang cls : Nat) (s : State) : Host.Outcome State Fault Refusal :=
  let c := cls % 4
  let s := (s.heardCoord gang).notePeers (s.gangCtx gang) (((s.member gang).bind fun b => (s.block b).gang).elim [] (·.devices))
  .next (match s.gangRec gang with
    | some r =>
      if !r.running then s
      else
        let s1 := (s.modGang gang fun r => { r with running := false, committed := false, ready := [], accepted := [], started := [] }).send
          (.gangStop gang c)
        s1.stopHere gang c
    | none => s.stopHere gang c)

/-! The instructions (R381 to R386). -/

/-- The gang state of the issuing block, or the trap NOGANG (R382). -/
def gangOf! (b : Nat) : M GangMember := do
  match (← getB b).gang with
  | some g => return g
  | none => trap .noGang

/-- Has the block executed a FORDDET (R382)? It stays attached until that one's release is over (R384). -/
def State.detaching (s : State) (b : Nat) (g : GangMember) : Bool := g.detached || s.gangOps.any fun o => o.blk == b && o.kind == 1

/-- Put a gang command in flight. -/
def issueGang (i : Instr) (b : Nat) (ts : List Nat) (kind phase : Nat) (d : UReg) (sent : Bool) : M Unit := updS fun s =>
  let fl := flagOf i s b (ts.headD 0)
  let s1 := ((if sent then s else s.beginRelease b ts .dom).countCommand b fl .dom).oxAbandon b
  { s1 with gangOps := s1.gangOps ++ [{ id := s1.seq, blk := b, tids := ts, kind, phase, dst := d, flag := fl, sent }], seq := s1.seq + 1 }

/-- FORDATT (R382, R383). -/
def execFordatt (d : UReg) (f : Bool) (s : State) : Host.Outcome State Fault Refusal :=
  uniExec (.fordatt d f) (uniFall fun b ts => do
    let g ← gangOf! b
    if (← getS).detaching b g then trap .fordSeq
    issueGang (.fordatt d f) b ts 0 0 d g.attached) s

/-- FORDDET (R382, R384). -/
def execForddet (f : Bool) (s : State) : Host.Outcome State Fault Refusal :=
  uniExec (.forddet f) (uniFall fun b ts => do
    let g ← gangOf! b
    if !g.attached || g.detached then trap .fordSeq
    issueGang (.forddet f) b ts 1 0 .zero false) s

/-- State of a member as this device holds it (R385). -/
def GangMember.stateOf (g : GangMember) (m : Nat) : Nat :=
  if m ≥ g.members then 4
  else if g.departed.contains m then 3
  else if g.detachedSet.contains m then 2
  else if m = g.index then (if g.attached then 1 else 0)
  else if (Cells.get? m g.lens).isSome then 1
  else 0

/-- FORDQ (R385). -/
def execFordq (d : UReg) (s : State) : Host.Outcome State Fault Refusal :=
  uniExec (.fordq d) (uniFall fun b _ => do
    let g ← gangOf! b
    writeU b d (w32 (g.members * 65536 + g.index))
    updS (·.oxAbandon b)) s

/-- FORDQ.state (R385). -/
def execFordqState (d a : UReg) (s : State) : Host.Outcome State Fault Refusal :=
  uniExec (.fordqState d a) (uniFall fun b _ => do
    let m ← readU b a
    let g ← gangOf! b
    writeU b d (w32 (g.stateOf m.toNat))
    updS (·.oxAbandon b)) s

/-- FORDQ.count (R385). -/
def execFordqCount (d : UReg) (s : State) : Host.Outcome State Fault Refusal :=
  uniExec (.fordqCount d) (uniFall fun b _ => do
    let g ← gangOf! b
    writeU b d (w32 ((List.range g.members).filter fun m => g.stateOf m == 1).length)
    updS (·.oxAbandon b)) s

/-- GSYNC (R382, R386). -/
def execGsync (d : UReg) (f : Bool) (s : State) : Host.Outcome State Fault Refusal :=
  uniExec (.gsync d f) (uniFall fun b ts => do
    let g ← gangOf! b
    let s ← getS
    if !g.attached || g.detached then trap .fordSeq
    let waiting := (s.gangOps.filter fun o => o.blk == b && o.kind == 2 && !o.sent).length
    issueGang (.gsync d f) b ts 2 (g.count g.index + waiting + 1) d false) s

/-! A peer that is lost (R370, R379; 19_outside.md R442). -/

/-- A device that has never been heard names no device of the domain (R365; log entry 80): a member whose COORD it is was refused; else its
coordinator is lost (R379). -/
def State.lostKind (s : State) (dev : Nat) : Nat := if (Cells.get? dev s.links.heard).isSome then 0x09 else 0x08

/-- The record a device takes over from a gang's lost coordinator (R379), as its own member's state tells it. -/
def GangMember.takenOver (g : GangMember) (ctx now : Nat) : Gang :=
  { gang := g.gang, gmembers := g.members, ctx, joined := g.devices.zipIdx.map fun e => (e.2, e.1)
    ready := [], accepted := [], started := [], tt := none, committed := true, everStarted := true
    running := g.phaseSt == 3 || g.phaseSt == 4, next := now, misses := 0, gone := g.departed, detached := g.detachedSet }

/-- What the loss of a device does to the gang members: the coordinator declares its members departed; a member whose
coordinator is lost before the first COMMIT is killed, and after it the surviving member device of lowest index takes the record over, be its
member DONE by now, and is told again who is READY. -/
def State.gangPeerLost (s : State) (dev : Nat) : State :=
  let before : State := { s with links := { s.links with lostPeers := Cells.remove dev s.links.lostPeers } }
  let s1 := s.gangs.foldl (fun (s : State) r =>
    (r.live.filter (·.2 == dev)).foldl (fun (s : State) e => s.sendGang (.depart r.gang e.1)) s) s
  s1.blockIds.foldl (fun (s : State) b =>
    let x := s.block b
    match x.gang with
    | none => s
    | some g =>
      let done := x.life == .done
      if done && (!g.joined || x.gangHeld || g.devices.isEmpty) then s
      else if g.gang % 1024 == dev && g.devices.isEmpty then s.killMember b (s.lostKind dev)
      else
        let lost := (g.devices.zipIdx.filter fun e => e.1 == dev).map (·.2)
        let s2 := lost.foldl (fun (s : State) m => s.markDeparted b m) s
        let h := ((s2.block b).gang).getD g
        let s3 : State := if before.coordOf g == dev && s2.coordOf h == s2.device && (s2.gangRec g.gang).isNone then
            { s2 with gangs := s2.gangs ++ [h.takenOver x.ctx s.devTime] }
          else s2
        if before.coordOf g == dev && (if done then h.phaseSt == 5 else h.phaseSt == 1) then s3.sayReady h else s3) s1

end Sys2Proof.Machine
end

