-- ==== Sys2Proof/Machine/Errors.lean ====
section
/-! DEFINITION. Containment, Roofwalk, Oxbow and Thatch (18_errors.md R421 to R436), the kill of a context (17_system.md R413)
and soft errors (11_matrix.md R274). -/

namespace Sys2Proof.Machine

/-! Killing a context (17 R413). -/

/-- Every block of a context is killed and what it has is dropped, records read for it included; its cached translations and copies go.
Dropping the copies of other contexts too is allowed (07_ordering.md R174; log entry 25). -/
def State.killCtx (s : State) (ctx : Nat) : State :=
  let mine := s.blockIds.filter fun b => let x := s.block b; x.ctx == ctx && x.kind != .walker && x.life != .done
  let s1 := mine.foldl (fun (s : State) b => s.killOne b) s
  let s2 : State := { s1 with
    clusters := s1.clusters.map fun (e : Nat × ClusterState) => (e.1, { e.2 with tlb := e.2.tlb.filter (·.ctx != ctx) })
    views := [], ipath := [], launchOps := s1.launchOps.filter fun (o : LaunchOp) => (s1.block o.blk).ctx != ctx }
  s2.completeLaunches

/-- Contexts with an entry that is VALID, or with work on the package. -/
def State.contexts (s : State) : List Nat :=
  (List.range 65536).filter fun c => c != 0 && (s.ctxValid c || s.blocks.any fun e => e.2.ctx == c && e.2.life != .done)

/-! SRAM errors (R421 to R424). -/

/-- Code of a structure (R419). -/
def sramCode : SramKind → Nat
  | .registerCache => 0
  | .scratchpad => 1
  | .l1 => 2
  | .instructionPath => 3
  | .uniformRegisters => 4

/-- Containment mode of a block (R421). -/
def State.containOf (s : State) (b : Nat) : Nat := ((s.recOf (s.block b)).map (·.contain)).getD 0

/-- The blocks whose state an error of a structure is in: the owner, or every resident one (R424). -/
def State.struck (s : State) (core : Nat) (kind : SramKind) (slot : Nat) : List Nat :=
  let here := (s.onCore core).filter fun b => (s.block b).kind != .walker
  match kind with
  | .registerCache | .scratchpad => here.filter fun b => (s.block b).slot == slot
  | _ => here

/-- A core halts: its blocks are killed, and their contexts are told (R423). -/
def State.haltCore (s : State) (core : Nat) (kind : SramKind) (bank syndrome addr : Nat) : State :=
  let here := (s.onCore core).filter fun b => (s.block b).kind != .walker
  let halting := here.filter fun b => s.containOf b != 0
  let hctx := (halting.map fun b => (s.block b).ctx).dedup
  let octx := ((here.map fun b => (s.block b).ctx).dedup).filter fun c => !hctx.contains c
  let hd := leBytes 1 (sramCode kind) ++ leBytes 2 bank ++ leBytes 4 syndrome
  let s1 := s.modCore core fun c => { c with halted := true }
  let s2 := here.foldl (fun (s : State) b => s.kill b) s1
  let s3 := hctx.foldl (fun (s : State) c => s.record c { kind := 0x30, core, addr, detail := hd }) s2
  let s4 := octx.foldl (fun (s : State) c => s.record c { kind := 0x31, core, addr, detail := leBytes 1 (sramCode kind) }) s3
  (s4.record 0 { kind := 0x30, core, addr, detail := hd }).completeLaunches

/-- The entry an error of a core's L1 strikes is cleared: one of the core's pinned copies, whose line is then dropped with home keeping its
last value (07 R183), or another copy; which is not the event's to say (log entry 37). -/
def State.strikeL1 (s : State) (core : Nat) : State :=
  let ps := s.pins.filter (·.core == core)
  match ps[(Config.freeWord s.fresh).toNat % (ps.length + 1)]? with
  | some p => { s with pins := s.pins.filter (· != p), fresh := s.fresh + 1 }
  | none => { s with fresh := s.fresh + 1 }

/-- SRAM_UE (R423, R424): the structure's address is not the manual's to state (log entry 37). -/
def execSramUe (core : Nat) (kind : SramKind) (slot bank syndrome : Nat) (s : State) : Host.Outcome State Fault Refusal :=
  let hit := s.struck core kind slot
  .next (if hit.isEmpty then s
    else
      let addr := (Config.freeWord s.fresh).toNat
      let s0 : State := { s with fresh := s.fresh + 1 }
      let s1 := match kind with | .l1 => s0.strikeL1 core | _ => s0
      if hit.any fun b => s.containOf b != 0 then s1.haltCore core kind bank syndrome addr
      else
        ((hit.map fun b => (s.block b).ctx).dedup).foldl (fun (s : State) c =>
          (s.killCtx c).record c { kind := 0x31, core, addr, detail := leBytes 1 (sramCode kind) }) s1)

/-- The failing entry of the L2 is cleared: which of the writes of its line had reached HBM is not the event's to say, so the line's bytes
are undefined (log entry 116). -/
def State.clearLine (s : State) (pa : Nat) : State :=
  let line := pa / 64 * 64
  (List.range 64).foldl (fun (s : State) i => { s.wr8 (line + i) (Config.freeByte s.fresh) with fresh := s.fresh + 1 }) s

/-- A migration under way that meets an uncorrectable error in its frame ends with FAILED, and the error is reported (19_outside.md R451; which
of its bytes had been moved is not stated: log entry 118). -/
def State.migrationFails (s : State) (pa : Nat) (r : ErrRec) : State :=
  let st := s.mgmt.cmdstat.toNat
  let code := field st 16 8
  let n := sizeBytes (field s.mgmt.cmd.toNat 16 16)
  let frame := (s.mgmt.cmdarg.getD (if code = 0x10 then 0 else 1) 0).toNat
  if st % 2 = 1 ∧ (code = 0x10 ∨ code = 0x11) ∧ s.mgmt.outcome.any (·.1 = 0) ∧ frame ≤ pa ∧ pa < frame + n then
    ({ s with mgmt := { s.mgmt with outcome := some (3, 0) } } : State).record 0 r
  else s

/-- Every context's work is discarded, and each is told with a record (R424, R435). -/
def State.discardAll (s : State) (r : ErrRec) : State :=
  s.contexts.foldl (fun (s : State) c => (s.killCtx c).record c r) s

/-- L2_UE (R424): the entry is cleared; a migration that reads the line fails with it. -/
def execL2Ue (pa : Nat) (s : State) : Host.Outcome State Fault Refusal :=
  let r : ErrRec := { kind := 0x31, addr := pa, detail := leBytes 1 5 }
  .next (((((s.clearLine pa).discardAll r).record 0 r)).migrationFails pa r)

/-! Roofwalk (R425 to R428). -/

/-- Cores of a cluster. -/
def clusterCores (k : Nat) : List Nat := (List.range 8).map (8 * k + ·)

/-- PERIOD / 64 in core cycles. -/
def State.walkStep (s : State) : Nat := field s.mgmt.rwctl.toNat 16 16 * 3600000 / 64

/-- WALK in core cycles. -/
def State.walkLimit (s : State) : Nat := usCycles (s.mgmt.rwctl.toNat % 65536)

/-- A cluster whose readmission the management interface is running (19_outside.md R451). -/
def State.readmitting (s : State) : Option Nat :=
  let st := s.mgmt.cmdstat.toNat
  if st % 2 = 1 ∧ field st 16 8 = 0x31 ∧ s.mgmt.outcome.isNone then some (field s.mgmt.cmd.toNat 16 16) else none

/-- The running readmission ends with a result. -/
def State.readmitEnds (s : State) (r : Nat) : State := { s with mgmt := { s.mgmt with outcome := some (r, 0) } }

/-- The next cluster of the rotation from k on that is not quarantined. -/
def State.rotateFrom (s : State) (k : Nat) : Option Nat :=
  ((List.range 64).map fun i => (k + i) % 64).find? fun c => !(s.getCluster c).quarantined

/-- The cluster whose walk is due: one being readmitted; an abandoned one after the next turn; one moved to the front, or the
next of the rotation, at its time (R425, R426). -/
def State.walkDue (s : State) : Option Nat :=
  let busy := s.clusters.any fun e => e.2.phase != .none
  match s.readmitting with
  | some k => if (s.getCluster k).phase == .none then some k else none
  | none =>
    if s.roofwalkOff then none
    else
      match s.roofwalk.retry.find? fun k => k < 64 && !busy && !(s.getCluster k).quarantined with
      | some k => some k
      | none =>
        if s.now < s.roofwalk.nextAt then none
        else
          match s.roofwalk.front.find? fun k => !(s.getCluster k).quarantined with
          | some k => if (s.getCluster k).phase == .none then some k else none
          | none => (s.rotateFrom s.roofwalk.next).bind fun k => if (s.getCluster k).phase == .none then some k else none

/-- HORIZON after a change of the clusters (17 R401). -/
def State.newHorizon (s : State) : State :=
  let live := (List.range 64).filter fun k => !(s.getCluster k).quarantined
  match live with
  | [] => s
  | k :: ks =>
    if s.roofwalkOff then s
    else
      let m := ks.foldl (fun m k => Nat.min m (s.getCluster k).lastPass) (s.getCluster k).lastPass
      { s with roofwalk := { s.roofwalk with horizon := Nat.max s.roofwalk.horizon m } }

/-- A drain is over: no block in a slot of the cluster's cores, none reserved there, no started chain (R426). -/
def State.drained (s : State) (k : Nat) : Bool :=
  ((clusterCores k).all fun c => (s.occupants c).isEmpty) &&
    !(s.chains.any fun c => c.started && clusterOf c.core == k)

/-- ROOFWALK_WALK (R425, R426): the walk that is due starts with a drain. A gang member that is READY lets its reservation there go
(10_residue.md R252; 16 R369); one further on has its start settled first. -/
def execRoofwalkWalk (cluster : Nat) (s : State) : Host.Outcome State Fault Refusal :=
  .next (if s.walkDue ≠ some cluster || cluster ≥ 64 then s
    else
      let readmit := s.readmitting == some cluster
      let rw := s.roofwalk
      let inTurn := !readmit && !rw.retry.contains cluster
      let s1 : State := if readmit then s else { s with roofwalk := { rw with
        next := if inTurn && !rw.front.contains cluster then (cluster + 1) % 64 else rw.next
        nextAt := if inTurn then rw.nextAt + s.walkStep else rw.nextAt
        front := rw.front.filter (· != cluster), retry := (rw.retry.filter (· != cluster)).map fun k => if inTurn then k % 64 else k } }
      let s2 := s1.modCluster cluster fun k => { k with phase := .draining s.now }
      let s3 := (clusterCores cluster).foldl (fun (s : State) c => (s.wakeCore c).2) s2
      let s4 := match s3.walkerOf cluster with
        | some w => (s3.unbundle w).modBlock w fun x => { x with life := .saving }
        | none => s3
      let bs := (clusterCores cluster).flatMap fun c => (s4.occupants c).filter fun b => (s.block b).kind == .lane
      bs.foldl (fun (s : State) b =>
        if (s.block b).gang.any (·.phaseSt == 1) && (s.block b).life == .queued then s.releaseMember b else s.requestStop b 0) s4)

/-- A walk is over: the idle cycles of the cluster's cores count from now (19_outside.md R445). -/
def State.idleFrom (s : State) (k : Nat) : State :=
  (clusterCores k).foldl (fun (s : State) c => s.modCore c fun x => { x with gate := match x.gate with | .on _ => .on s.now | g => g }) s

/-- A drained cluster's test begins (R426). -/
def State.beginTests (s : State) : State :=
  s.clusters.foldl (fun (s : State) (e : Nat × ClusterState) =>
    match e.2.phase with
    | .draining _ => if s.drained e.1 then s.modCluster e.1 fun k => { k with phase := .testing s.devTime s.now } else s
    | _ => s) s

/-- WALK_DRAIN_TIMEOUT (R426): a block still resident after WALK µs: the walk is abandoned, and tried again after the next
cluster's turn. A readmission that cannot drain fails. -/
def execWalkDrainTimeout (cluster : Nat) (s : State) : Host.Outcome State Fault Refusal :=
  .next (match (s.getCluster cluster).phase with
    | .draining t =>
      if s.now < t + s.walkLimit || s.drained cluster then s
      else
        let s1 := (s.idleFrom cluster).modCluster cluster fun k => { k with phase := .none }
        let s2 := match s1.walkerOf cluster with
          | some w => s1.modBlock w fun x => { x with life := .resident }
          | none => s1
        if s.readmitting = some cluster then
          s2.readmitEnds 3
        else { s2 with roofwalk := { s2.roofwalk with retry := s2.roofwalk.retry ++ [cluster + 64] } }
    | _ => s)

/-- A TAINT of this device: its record, its note for HZWAIT (17 R416), and the notices to the peers the context has had an exchange with
since what HORIZON confirms (R428). -/
def State.taint (s : State) (ctx start stop cluster cause image : Nat) : State :=
  let s1 := s.record ctx { kind := 0x20, detail := leBytes 8 start ++ leBytes 8 stop ++ leBytes 1 cluster ++ leBytes 1 cause ++ leBytes 4 image }
  let s2 : State := { s1 with roofwalk := { s1.roofwalk with taints := s1.roofwalk.taints ++ [(ctx, start, stop)] } }
  ((Cells.getD ctx [] s2.roofwalk.peers).filter fun e => s2.roofwalk.horizon ≤ e.2).foldl (fun (s : State) e =>
    s.send (.taint e.1 ctx start stop cluster cause image)) s2

/-- The state of a cluster's cores is cleared (R426). -/
def State.clearCluster (s : State) (k : Nat) : State :=
  let lo := padKey (8 * k) 0
  let s1 : State := { s with
    pads := Cells.dropRange (padKey (512 + k) 0) (padKey (512 + k) 4096) (Cells.dropRange lo (lo + 8 * 2 ^ 18) s.pads)
    views := s.views.filter fun (e : Nat × Byte) => clusterOf (e.1 / 2 ^ 52 / 129) != k
    ipath := s.ipath.filter fun (e : Nat × Byte) => clusterOf (e.1 / 2 ^ 52 / 129) != k }
  (clusterCores k).foldl (fun (s : State) c => s.modCore c fun x => { x with
    tiles := List.replicate 8 Store.zero, bounds := List.replicate 8 Store.zero, bsram := Store.zero, matrixCtx := none, oprdy := [] }) s1

/-- PATTERN_TEST_DONE (R426, R427): after 100 µs the cluster passes, passes with a channel retired, or is quarantined. -/
def execPatternTestDone (cluster : Nat) (result : WalkResult) (s : State) : Host.Outcome State Fault Refusal :=
  .next (match (s.getCluster cluster).phase with
    | .testing b t =>
      if s.now < t + 360000 then s
      else
        let k := s.getCluster cluster
        let tell (s : State) : State := k.ctxs.foldl (fun (s : State) c => s.taint c k.lastPass b cluster 0 0xFFFFFFFF) s
        let done := (s.clearCluster cluster).idleFrom cluster
        let pass (s : State) : State :=
          (s.modCluster cluster fun k => { k with phase := .none, lastPass := b, quarantined := false, ctxs := [] }).newHorizon
        let s1 := match result with
          | .pass => pass done
          | .channelFails core ch =>
            let c := 8 * cluster + core % 8
            pass (tell (done.modCore c fun x => { x with chstat := x.chstat ||| ((1 : Word) <<< (16 + ch % 10)) }))
          | .clusterFails => ((tell done).modCluster cluster fun k => { k with phase := .none, quarantined := true }).newHorizon
        let s2 := match s1.walkerOf cluster with
          | some w => s1.restartWalker w
          | none => s1
        if s.readmitting = some cluster then s2.readmitEnds (if result = .clusterFails then 3 else 0) else s2
    | _ => s)

/-- TAINT_NOTICE (R428): a peer's TAINT is written to the context's queue; one of a lost peer is dropped (19 R442). A notice carries no time:
the record's is that of its arrival (DESIGN CHOICE; log entry 114). -/
def execTaintNotice (ctx device start stop cluster cause image : Nat) (s : State) : Host.Outcome State Fault Refusal :=
  .next (if s.links.lostPeers.contains device then s
    else
      let s1 := (s.hear device).record ctx { kind := 0x20, remote := true, device := some device
                                             detail := leBytes 8 start ++ leBytes 8 stop ++ leBytes 1 cluster ++ leBytes 1 cause ++ leBytes 4 image }
      { s1 with roofwalk := { s1.roofwalk with taints := s1.roofwalk.taints ++ [(ctx, start, stop)] } })

/-! Oxbow (R429 to R432). -/

/-- The signature of a block (R430). -/
def Block.signature (x : Block) : Nat :=
  ((x.threads.zipIdx.map fun e => e.2 * 2 ^ 32 + (Cells.getD e.2 0 x.sig).toNat).sum + x.sigShadow.toNat) % 2 ^ 64

/-- A run's slots and what it kept of the launch are free again. -/
def State.endRun (s : State) (r : OxRun) : State :=
  let s1 : State := { s with oxRuns := s.oxRuns.filter (·.id != r.id) }
  s1.dropEnded

/-- Is a run's comparison abandoned (R430)? Its slots are then free; its copy runs on as it does (DESIGN CHOICE; log entry 115). -/
def State.runAbandoned (s : State) (r : OxRun) : Bool :=
  r.abandoned || (r.orig :: r.copy :: r.third.toList).any fun b => (s.block b).sigAbandon

/-- Have all blocks of a list exited? -/
def State.allDone (s : State) (bs : List Nat) : Bool := bs.all fun b => (s.block b).life == .done

/-- OXBOW_COMPARE (R430 to R432): equal signatures end the run, different ones call for a third. -/
def execOxbowCompare (run : Nat) (s : State) : Host.Outcome State Fault Refusal :=
  .next (match s.oxRuns.find? (·.id == run) with
    | none => s
    | some r =>
      if r.third.isNone && s.runAbandoned r then s.endRun r
      else if r.third.isSome || !s.allDone [r.orig, r.copy] then s
      else if (s.block r.orig).signature = (s.block r.copy).signature then s.endRun r
      else
        match s.oxFreeSlot with
        | none => s
        | some k =>
          let slots := s.oxSlots.take r.first.length
          if slots.length < r.first.length then s
          else
            let p := s.queueCopy run 2 r.first slots
            { p.1 with oxRuns := p.1.oxRuns.map fun q =>
              if q.id = run then { q with third := some p.2, thirdSlot := some k, more := q.more ++ slots.drop 1 } else q })

/-- OXBOW_THIRD_RUN (R432). -/
def execOxbowThirdRun (run : Nat) (s : State) : Host.Outcome State Fault Refusal :=
  .next (match s.oxRuns.find? (·.id == run) with
    | none => s
    | some r =>
      match r.third with
      | none => s
      | some t =>
        if s.runAbandoned r then s.endRun r
        else if !s.allDone [r.orig, r.copy, t] then s
        else
          let sg (b : Nat) : Nat := (s.block b).signature
          let ko := clusterOf (s.block r.orig).core
          let kc := clusterOf (s.block r.copy).core
          if sg t = sg r.orig then (s.walkFirst kc).endRun r
          else if sg t = sg r.copy then ((s.taint r.ctx r.start r.finish ko 1 r.index).walkFirst ko).endRun r
          else
            let s1 := s.record r.ctx { kind := 0x21, detail := leBytes 1 ko ++ leBytes 1 kc ++ leBytes 4 r.index }
            let s2 := (s1.modCluster ko fun k => { k with quarantined := true }).modCluster kc fun k => { k with quarantined := true }
            (s2.newHorizon.killCtx r.ctx).endRun r)

/-! Thatch (R433 to R436). -/

/-- PARITY_UPDATE (R434): the oldest owed update of a stripe is applied; with the last the stripe is CLEAN. -/
def execParityUpdate (stripe : Nat) (s : State) : Host.Outcome State Fault Refusal :=
  let mine (o : Owed) : Bool := stripeOf o.pa == stripe
  .next (match s.thatch.owed.find? mine with
    | none => s
    | some o =>
      let rest := s.thatch.owed.erase o
      { s with thatch := { s.thatch with
        owed := rest, stripes := if rest.any mine then s.thatch.stripes else Cells.erase stripe s.thatch.stripes } })

/-- HBM_UNIT_UE (R434): the unit is rebuilt and written back with the value it had, after the stripe's owed updates. With a stack lost it
cannot be; a migration whose frame it is in fails (19_outside.md R451). -/
def execHbmUnitUe (pa : Nat) (s : State) : Host.Outcome State Fault Refusal :=
  let k := stripeOf pa
  .next (if s.thatch.lostStack.isSome then s.migrationFails pa { kind := 0x31, addr := pa, detail := [Config.freeByte s.fresh] }
    else { s with thatch := { s.thatch with
      owed := s.thatch.owed.filter fun o => stripeOf o.pa != k, stripes := Cells.erase k s.thatch.stripes } })

/-- First address of the data unit of a stripe that a stack holds (R433): unit j of the stripe, j = stack − pstack − 1 mod 12. -/
def unitOn (stripe stack : Nat) : Nat := (stripe * 11 + (stack + 11 - parityStack stripe) % 12) * 256

/-- Runs of consecutive stripes: first and length (R435). -/
def stripeRuns : List Nat → List (Nat × Nat)
  | [] => []
  | k :: ks =>
    match stripeRuns ks with
    | (a, n) :: r => if a = k + 1 then (k, n + 1) :: r else (k, 1) :: (a, n) :: r
    | [] => [(k, 1)]

/-- The first loss: each PENDING stripe is DEGRADED when the lost stack holds its parity, else LOST, its unit there zero (R435). -/
def State.degrade (s : State) (stack : Nat) : State :=
  let lost := (s.thatch.stripes.filter fun e => e.2 == .pending && parityStack e.1 != stack).map (·.1)
  let s1 := lost.foldl (fun (s : State) k =>
    { s with mem := Cells.dropRange (unitOn k stack) (unitOn k stack + 256) s.mem
             zeroed := s.zeroed ++ (List.range 16).map (unitOn k stack / 16 + ·) }) s
  let s2 : State := { s1 with thatch := { s1.thatch with
    stripes := lost.map fun k => (k, Stripe.lost), owed := [], lostStack := some stack, healthy := false, rebuilding := false
    rebuilt := 0 } }
  let s3 := s2.record 0 { kind := 0x40, detail := leBytes 1 stack }
  (stripeRuns lost).foldl (fun (s : State) e => s.record 0 { kind := 0x41, addr := unitOn e.1 stack, detail := leBytes 4 e.2 }) s3

/-- STACK_LOSS (R435). -/
def execStackLoss (stack : Nat) (s : State) : Host.Outcome State Fault Refusal :=
  .next (if stack ≥ 12 || s.thatch.failed then s
    else
      match s.thatch.lostStack with
      | none => s.degrade stack
      | some a =>
        if a = stack then s
        else
          let r : ErrRec := { kind := 0x42, detail := leBytes 1 a ++ leBytes 1 stack }
          let s1 : State := { s with thatch := { s.thatch with failed := true, rebuilding := false } }
          (s1.discardAll r).record 0 r)

/-- PARITY_REWRITE_DONE (R435): LOST to DEGRADED. -/
def execParityRewriteDone (stripe : Nat) (s : State) : Host.Outcome State Fault Refusal :=
  .next { s with thatch := s.thatch.rewritten stripe }

/-- STACK_HEALTHY (19 R449). -/
def execStackHealthy (s : State) : Host.Outcome State Fault Refusal :=
  .next (if s.thatch.lostStack.isSome then { s with thatch := { s.thatch with healthy := true } } else s)

/-- The rebuild goes on in ascending stripe order, past no LOST stripe; how far it gets in a step is free (19 R449; log entry 119). -/
def State.rebuildOn (s : State) : State :=
  let t := s.thatch
  if t.rebuilding && !t.failed then
    let lost := (t.stripes.filter fun e => e.2 == .lost).map (·.1)
    let goal := lost.foldl Nat.min (Nat.min (2 ^ 28) (t.rebuilt + (Config.freeWord s.fresh).toNat))
    { s with fresh := s.fresh + 1, thatch := { t with rebuilt := Nat.max t.rebuilt goal } }
  else s

/-- THATCH_REBUILD_DONE (19 R449): the last stripe is CLEAN, but for parity updates owed since, and THATCHST as at reset. -/
def execThatchRebuildDone (s : State) : Host.Outcome State Fault Refusal :=
  let t := s.thatch
  .next (if t.rebuilding && !t.failed && t.stripes.all (·.2 == .pending) then
    { s with thatch := { stripes := t.stripes, owed := t.owed.filter fun o => (Cells.get? (stripeOf o.pa) t.stripes).isSome, lostStack := none
                         failed := false, healthy := false, rebuilding := false, rebuilt := 0 } }
  else s)

/-! Soft errors. -/

/-- SOFT_ERROR: a residue of a core's accumulator or B-SRAM takes another value (11 R274, 10 R248); a twin's signature differs
at its next outbound action (R422); a byte of a chain's staging buffer is struck (13_engines.md R305). -/
def execSoftError (core : Nat) (target : SoftTarget) (s : State) : Host.Outcome State Fault Refusal :=
  let v := Config.freeByte s.fresh
  let s1 : State := { s with fresh := s.fresh + 1 }
  .next (match target with
    | .residue tile ch row col => s1.modCore core fun c => { c with
        tiles := c.tiles.modify (tile % 8) fun st => st.set ((ch * 32 + row) * 64 + col) v }
    | .bsram ch row col => s1.modCore core fun c => { c with bsram := c.bsram.set ((ch * 8192 + row) * 64 + col) v }
    | .twin blk tid => if s.containOf blk = 1 then s1.modThread blk tid fun th => { th with twinBad := true } else s
    | .staging chain i => { s with chains := s.chains.map fun (c : Chain) => if c.id = chain then { c with struck := c.struck ++ [i] } else c })

end Sys2Proof.Machine
end

