-- ==== Sys2Proof/Machine/Outside.lean ====
section
/-! DEFINITION. Links, power, start-up and the management interface (19_outside.md R438 to R451), and what peers and hosts do to
the device (07_ordering.md R201; 13_engines.md R312; 16_gangs.md R374). -/

namespace Sys2Proof.Machine

/-! Core gating (R445). -/

/-- May a core start to gate: no block resident for 3,600 cycles and no walk of its cluster? The walk slot is no block's slot, and keeps its
state (17 R407). -/
def State.mayGate (s : State) (core : Nat) : Bool :=
  let k := clusterOf core
  (match (s.getCore core).gate with | .on t => s.now ≥ t + 3600 | _ => false) &&
    ((s.onCore core).filter fun b => (s.block b).kind != .walker).isEmpty && (s.getCluster k).phase == .none

/-- CORE_GATE_ENTRY. -/
def execCoreGateEntry (core : Nat) (s : State) : Host.Outcome State Fault Refusal :=
  .next (if core < 512 ∧ s.mayGate core then s.modCore core fun c => { c with gate := .entering s.now } else s)

/-- GATE_COMMIT: at entry cycle 64, unless a wake comes in that cycle. -/
def execGateCommit (core : Nat) (wake : Bool) (s : State) : Host.Outcome State Fault Refusal :=
  .next (match (s.getCore core).gate with
    | .entering t => if s.now < t + 64 then s else s.modCore core fun c => { c with gate := if wake then .on s.now else .gated }
    | _ => s)

/-- CORE_WAKE. -/
def execCoreWake (core : Nat) (s : State) : Host.Outcome State Fault Refusal := .next (if core < 512 then (s.wakeCore core).2 else s)

/-- POWER_UP_COMPLETE. -/
def execPowerUpComplete (core : Nat) (s : State) : Host.Outcome State Fault Refusal :=
  .next (if (s.getCore core).gate = .waking then s.modCore core fun c => { c with gate := .on s.now } else s)

/-! Peers (R441, R442). -/

/-- TIME_MESSAGE_SEND (R441). -/
def execTimeMessageSend (s : State) : Host.Outcome State Fault Refusal :=
  .next (if s.now < 36000 * (s.links.timeSent + 1) then s
    else { s.send (.time s.devTime) with links := { s.links with timeSent := s.links.timeSent + 1 } })

/-- TIME_MESSAGE_RX (R441): the time base is moved to within 20 ns of the peer's. -/
def execTimeMessageRx (peer time : Nat) (s : State) : Host.Outcome State Fault Refusal :=
  .next (if s.links.lostPeers.contains peer then s
    else
      let s1 := s.hear peer
      let d := s.devTime
      let want := if d + 20 < time then time - 20 else if time + 20 < d then time + 20 else d
      { s1 with devAdj := s1.devAdj + (want : Int) - (d : Int) })

/-- Messages of whose kind, session, queue pair or peer a message waits for its turn (01_machine.md R32; 07 R201): 0 Silaz, 1 RoCEv2, 2 UALink,
3 COLL. -/
def Incoming.stream : Incoming → Nat × Nat
  | .memwr session _ _ | .memrd session _ _ | .submit session _ _ => (0, session)
  | .rdmaWrite qp _ _ _ _ | .rdmaRead qp _ _ _ _ | .send qp _ => (1, qp)
  | .access peer _ _ => (2, peer)
  | .coll sender _ _ _ _ _ => (3, sender)

/-- Messages that wait are never performed (R439, R442). -/
def State.dropInbox (s : State) (f : Nat × Nat → Bool) : State := { s with inbox := s.inbox.filter fun i => !f i.stream }

/-- A peer counts as lost (R442): what has come from it is dropped, its gang members depart, and engine accesses to it end with REMOTE as
their chains go on (13 R296, R312). -/
def State.losePeer (s : State) (peer : Nat) : State :=
  if s.links.lostPeers.contains peer then s
  else
    let s1 : State := { s with links := { s.links with lostPeers := Cells.insert peer s.links.lostPeers } }
    ((s1.dropInbox fun k => k == (2, peer) || k == (3, peer)).gangPeerLost peer).completeLaunches

/-- What comes of a message now: whether it is performed, and the state. -/
abbrev Try := State → Bool × State

/-- A message comes: it is performed, or waits with those of its kind before it. -/
def State.take (s : State) (i : Incoming) (run : Try) : State :=
  if s.inbox.any fun j => j.stream == i.stream then { s with inbox := s.inbox ++ [i] }
  else
    let q := run s
    if q.1 then q.2 else { q.2 with inbox := q.2.inbox ++ [i] }

/-- PEER_SILENCE_TIMEOUT (R442). -/
def execPeerSilenceTimeout (peer : Nat) (s : State) : Host.Outcome State Fault Refusal :=
  .next (if s.now < Cells.getD peer 0 s.links.heard + 360000 || peer == s.device then s else s.losePeer peer)

/-- Bytes that an access of a peer reaches. -/
def accessSize : PeerAccess → Nat
  | .read n => n
  | .write bs | .copy _ bs => bs.length
  | .atomic _ w _ | .cas w _ _ => widthBytes w

/-- A byte of a member's scratchpad allocation: in its slot, or, for a member that its gang's stop has saved, in its save area (06 R155; the
spec does not say what becomes of an access that comes so late: DESIGN CHOICE; log entry 57). -/
def Block.memberByte (x : Block) (off : Nat) : Tgt :=
  if x.inSlot then .sp x.padCore (16 * x.spBase + off) else .dev (x.save + 0x2900 + off) none

/-- Write bytes of a member's scratchpad for a peer; full/empty bits are not touched (16 R374). -/
def State.putMember (s : State) (x : Block) (off : Nat) (bs : List Byte) : State :=
  if x.inSlot then
    (bs.zipIdx).foldl (fun (s : State) e =>
      (s.setPadByte x.padCore (16 * x.spBase + off + e.2) e.1).poisonPad x.padCore (16 * x.spBase + off + e.2)) s
  else s.wrHome (x.save + 0x2900 + off) bs

/-- A peer's access to a member's scratchpad (16 R374), absent units of a shadow region filled first (06 R154): the bytes it gives back, or
none where it is refused, or what it waits for. -/
def State.fordAccess (s : State) (b off : Nat) (a : PeerAccess) : Except EngWait (Option (List Byte × State)) :=
  let x := s.block b
  let n := accessSize a
  if !x.placed || x.life == .done || off + n > 16 * x.spLen then .ok none
  else
    let ts := (List.range n).map fun i => x.memberByte (off + i)
    match s.fillUnits b [] x.padCore ts with
    | .error (.stall (.xlate _ ea k)) =>
      if (s.readBad x.ctx false (clusterOf x.core)).contains (ea.toNat / 4096) then .ok none else .error (.page (ea.toNat / 4096) k)
    | .error (.stall (.retry pa)) => .error (.retry pa)
    | .error (.stall _) => .error .order
    | .error (.trap _ _ _) => .ok none
    | .ok s1 =>
      let q := s1.define (ts.map s1.tgtByte)
      let old := leNat q.1
      .ok (some (match a with
        | .read _ => q
        | .write bs | .copy _ bs => ([], s1.putMember x off bs)
        | .atomic op _ v => (q.1, q.2.putMember x off (leBytes n (atomNew op n old v)))
        | .cas _ e v => (q.1, if old = e then q.2.putMember x off (leBytes n v) else q.2)))

/-- A peer's access to memory of a context (13 R296), as a run. A COPY's bytes are answered with the CRC after them (13 R305). -/
def genericAccess (ea : DWord) (a : PeerAccess) : E (List Byte) := do
  match a with
  | .read n => readBytes ea n
  | .write bs => do doneWrite ea bs; return []
  | .copy crc bs => do doneWrite ea bs; return leBytes 4 (crc32cFrom crc bs)
  | .atomic op w v => do
    let n := widthBytes w
    let old ← readBytes ea n
    if (← getE).fail.isNone then doneWrite ea (leBytes n (atomNew op n (leNat old) v))
    return old
  | .cas w e v => do
    let n := widthBytes w
    let old ← readBytes ea n
    if (← getE).fail.isNone ∧ leNat old = e then doneWrite ea (leBytes n v)
    return old

/-- A peer's access is performed and answered, or refused (R441; 16 R374; 13 R296). -/
def takeAccess (peer : Nat) (target : PeerTarget) (access : PeerAccess) : Try := fun s =>
  let refuse (s : State) : Bool × State := (true, s.send (.peerReply peer false []))
  match target with
  | .ford gang off =>
    (match s.member gang with
     | none => refuse s
     | some b =>
       let ctx := (s.block b).ctx
       match s.fordAccess b off access with
       | .error w => (false, s.readHold (clusterOf (s.block b).core) ctx w)
       | .ok none => refuse (s.readSettled ctx)
       | .ok (some q) => (true, ((q.2.readSettled ctx).notePeer ctx peer).send (.peerReply peer true q.1)))
  | .generic ctx ea =>
    if !s.ctxValid ctx then refuse s
    else
      match (genericAccess ea access).run (s.schedRun ctx false) with
      | .error w => (false, s.readHold 0 ctx w)
      | .ok (bs, g) =>
        if g.fail.isSome then refuse (s.readSettled ctx)
        else
          let s1 := ((g.s.oweTgts g.s.seq g.wrote).readSettled ctx).notePeer ctx peer
          (true, ({ s1 with seq := s1.seq + 1 } : State).send (.peerReply peer true bs))

/-- UALINK_ACCESS_RX (R441; 16 R374, 13 R296): a peer's access is performed and answered; a lost peer's is dropped. -/
def execUalinkAccessRx (peer : Nat) (target : PeerTarget) (access : PeerAccess) (s : State) : Host.Outcome State Fault Refusal :=
  .next (if s.links.lostPeers.contains peer then s
    else (s.hear peer).take (.access peer target access) (takeAccess peer target access))

/-- The operation of a COLL step (13 R311). -/
def collOp (op : Nat) : Option AtomOp :=
  match op with
  | 0 | 1 => some .add
  | 2 => some .minI
  | 3 => some .maxI
  | 4 => some .minW
  | 5 => some .maxW
  | 6 => some .and
  | 7 => some .or
  | 8 => some .xor
  | 9 => some .xchg
  | _ => none

/-- Apply a COLL step: every byte is checked, then each element is combined (13 R311, R312). -/
def collApply (op : AtomOp) (n : Nat) (ea : DWord) (data : List Byte) : E Unit := do
  (List.range data.length).forM fun i => do
    if (← getE).fail.isNone then
      match ← engTgt .write (ea + w64 i) with
      | .error st => failE st (ea + w64 i)
      | .ok _ => pure ()
  (List.range (data.length / n)).forM fun k => do
    if (← getE).fail.isNone then
      let at' := ea + w64 (n * k)
      let old ← readBytes at' n
      let new := atomNew op n (leNat old) (leNat ((data.drop (n * k)).take n))
      if (← getE).fail.isNone then ((leBytes n new).zipIdx).forM fun e => writeE (at' + w64 e.2) e.1

/-- The ids of the last 64 steps applied for a sender and context. -/
def State.stepsOf (s : State) (sender ctx : Nat) : List Nat :=
  ((s.links.steps.find? fun e => e.1 == sender && e.2.1 == ctx).map (·.2.2)).getD []

/-- Remember a step. -/
def State.noteStep (s : State) (sender ctx step : Nat) : State :=
  { s with links := { s.links with
    steps := (sender, ctx, (step :: s.stepsOf sender ctx).take 64) :: s.links.steps.filter fun e => !(e.1 == sender && e.2.1 == ctx) } }

/-- A step of COLL is checked, applied once, and acknowledged (13 R311, R312). -/
def takeColl (sender ctx step op : Nat) (ea : DWord) (data : List Byte) : Try := fun s =>
  let ack (s : State) (ok : Bool) : Bool × State := (true, (s.notePeer ctx sender).send (.collAck sender ok))
  if (s.stepsOf sender ctx).contains step then ack s true
  else if !s.ctxValid ctx then ack s false
  else
    match collOp op with
    | none => ack s false
    | some o =>
      match (collApply o (if op = 1 then 8 else 4) ea data).run (s.schedRun ctx false) with
      | .error w => (false, s.readHold 0 ctx w)
      | .ok (_, g) =>
        if g.fail.isSome then ack (s.readSettled ctx) false
        else
          let s1 := ((g.s.oweTgts g.s.seq g.wrote).readSettled ctx).noteStep sender ctx step
          ack { s1 with seq := s1.seq + 1 } true

/-- COLL_STEP_RX (13 R311, R312). -/
def execCollStepRx (sender ctx step op : Nat) (ea : DWord) (data : List Byte) (s : State) : Host.Outcome State Fault Refusal :=
  .next (if s.links.lostPeers.contains sender then s
    else (s.hear sender).take (.coll sender ctx step op ea data) (takeColl sender ctx step op ea data))

/-! Silaz (R439). -/

/-- Is a session open for host messages? -/
def State.sessionOpen (s : State) (session : Nat) : Bool := (Cells.get? session s.links.sessions).isSome

/-- Close a session: messages of it that wait are never performed. With session 0 the secure session on it ends. -/
def State.dropSession (s : State) (session : Nat) : State :=
  { s.dropInbox (· == (0, session)) with links := { s.links with
    sessions := Cells.erase session s.links.sessions, unacked := s.links.unacked.filter (·.session != session)
    sent := Cells.erase session s.links.sent, taken := Cells.erase session s.links.taken
    secure := s.links.secure && session != 0, keyExchange := if session = 0 then none else s.links.keyExchange } }

/-- A message of a session is performed, in its turn: it is acknowledged by its number (R439). -/
def State.noteTaken (s : State) (session : Nat) : State :=
  { s with links := { s.links with taken := Cells.put 0 session (Cells.getD session 0 s.links.taken + 1) s.links.taken } }

/-- A reply with its status. -/
def State.reply (s : State) (session status : Nat) (data : List Byte) : State :=
  (s.noteTaken session).silaz session (.reply session status data)

/-- SILAZ_RESEND_TIMEOUT: 50 µs without an acknowledgment; after 8 tries the session closes. -/
def execSilazResendTimeout (session seq : Nat) (s : State) : Host.Outcome State Fault Refusal :=
  .next (match s.links.unacked.find? fun u => u.session == session && u.seq == seq with
    | none => s
    | some u =>
      if s.now < u.sentAt + 180000 then s
      else if u.tries ≥ 8 then s.dropSession session
      else
        { s.send u.msg with links := { s.links with unacked := s.links.unacked.map fun (v : Unacked) =>
            if v = u then { v with tries := v.tries + 1, sentAt := s.now } else v } })

/-- SILAZ_ACK: messages are retired in order. -/
def execSilazAck (session seq : Nat) (s : State) : Host.Outcome State Fault Refusal :=
  .next { s with links := { s.links with unacked := s.links.unacked.filter fun u => !(u.session == session && u.seq ≤ seq) } }

/-- The first byte of a range of device memory that a host access cannot reach now. -/
def State.hostBlocked (s : State) (addr n : Nat) : Option Nat :=
  ((List.range n).map (addr + ·)).find? fun a => !s.reach noCore a

/-- A host write at home (07 R201). -/
def State.hostWrite (s : State) (addr : Nat) (data : List Byte) : State :=
  let s1 := (data.zipIdx).foldl (fun (s : State) e => s.setHomeByte (addr + e.2) none e.1) s
  let s2 := s1.oweTgts s1.seq ((List.range data.length).map fun i => Tgt.dev (addr + i) none)
  { s2 with seq := s2.seq + 1 }

/-- Is a host's range inside device memory, 1 to 4,096 bytes? -/
def hostRange (addr n : Nat) : Bool := 1 ≤ n && n ≤ 4096 && addr + n ≤ devSize

/-- A host's access to a range of device memory is performed once every byte of it is within reach. -/
def takeRange (addr n : Nat) (f : State → State) : Try := fun s =>
  match s.hostBlocked addr n with
  | some pa => (false, s.noteRetry noCore pa)
  | none => (true, f s)

/-- A host's write (R439): performed, or outside device memory. -/
def takeMemwr (session addr : Nat) (data : List Byte) : Try :=
  if hostRange addr data.length then takeRange addr data.length fun s => (s.hostWrite addr data).reply session 0 []
  else fun s => (true, s.reply session 2 [])

/-- A host's read at home (R439). -/
def takeMemrd (session addr len : Nat) : Try :=
  if hostRange addr len then takeRange addr len fun s => s.reply session 0 (s.rdBytes addr len)
  else fun s => (true, s.reply session 2 [])

/-- MEMWR (R439; 07 R201). -/
def execMemwr (session addr : Nat) (data : List Byte) (s : State) : Host.Outcome State Fault Refusal :=
  .next (if s.sessionOpen session then s.take (.memwr session addr data) (takeMemwr session addr data) else s)

/-- MEMRD (R439): read at home. -/
def execMemrd (session addr len : Nat) (s : State) : Host.Outcome State Fault Refusal :=
  .next (if s.sessionOpen session then s.take (.memrd session addr len) (takeMemrd session addr len) else s)

/-- SUBMIT (14 R325), after the writes sent before it in its session (01_machine.md R32). -/
def execSubmit (q : SessionQueue) (tail : Nat) (s : State) : Host.Outcome State Fault Refusal :=
  .next (if s.sessionOpen q.session then s.take (.submit q.session q.queue tail) fun s => (true, (s.noteTaken q.session).submit q.queue tail) else s)

/-- HOST_ERRPOP (R439; 18 R417): one record, or empty. -/
def execHostErrpop (session ctx : Nat) (s : State) : Host.Outcome State Fault Refusal :=
  .next (if !s.sessionOpen session then s
    else
      let p := s.popRecord (ctx % 65536)
      p.2.reply session 0 (p.1.getD []))

/-- HOST_REPLAY (R439; 17 R409). -/
def execHostReplay (session ctx : Nat) (page : DWord) (size : Nat) (verdict : Verdict) (cause : Nat) (s : State) :
    Host.Outcome State Fault Refusal :=
  .next (if s.sessionOpen session then (s.replayRange ctx page size verdict cause).reply session 0 [] else s)

/-- ETH_FRAME_DROP (R438). -/
def execEthFrameDrop (s : State) : Host.Outcome State Fault Refusal :=
  .next { s with links := { s.links with dropped := s.links.dropped + 1 } }

/-! Registers with behaviour of their own. -/

/-- Bits [51:k] of a value. -/
def bits51 (k : Nat) (v : DWord) : DWord := w64 (v.toNat % 2 ^ 52 / 2 ^ k * 2 ^ k)

/-- The block of a cluster's walk slot (17 R407): 16 threads and 4 KiB of scratchpad of its own. -/
def walkBlock (entry : DWord) (cluster now : Nat) : Block :=
  { Block.absent with
    kind := .walker, life := .resident, placed := true, core := 8 * cluster, slot := 32, spBase := 0, spLen := 256
    allot := 224, full := 224, pro := 224, teams := ⟨16, 0, 0⟩ :: List.replicate 7 ⟨0, 0, 0⟩
    threads := List.replicate 16 (Thread.init entry now) }

/-- A write of WALKENTRY (17 R407): the first entry point starts the walk slots. -/
def State.setWalkEntry (s : State) (v : DWord) : State :=
  let s1 : State := { s with mgmt := { s.mgmt with walkentry := bits51 2 v } }
  if bits51 2 v = 0 || (s.walkerOf 0).isSome then s1
  else
    let s2 := (List.range 64).foldl (fun (s : State) k => s.setBlock (s1.seq + 1 + k) (walkBlock (bits51 2 v) k s1.now)) s1
    { s2 with seq := s1.seq + 65 }

/-- RWCTL (18 R425): turning Roofwalk off ends the HZWAITs that wait (17 R416); turned on, HORIZON advances again (17 R401). -/
def State.setRwctl (s : State) (v : Word) : State :=
  let off := s.roofwalkOff
  let s1 : State := { s with mgmt := { s.mgmt with rwctl := v } }
  let s2 : State := if s1.roofwalkOff then { s1 with hzOps := s1.hzOps.map fun o => { o with off := true } } else s1
  if off && !s2.roofwalkOff then ({ s2 with roofwalk := { s2.roofwalk with nextAt := s2.now + s2.walkStep } } : State).newHorizon else s2

/-- PCAP (14 R333): a level above the new capacity is cut. -/
def State.setPcap (s : State) (v : Word) : State :=
  let s1 : State := { s with mgmt := { s.mgmt with pcap := v &&& 0xFFF } }
  { s1 with sched := { s1.sched with reservoir := min s1.sched.reservoir (s1.reservoirCap : Int) } }

/-- FUTBASE, FIMGBASE, FSAVEBASE and FUTCAP (15 R342): ignored while an entry is not FREE. System software zeroes the table before it writes
CAP (R343), so a write of FUTBASE or FUTCAP leaves the unit's copy of every entry zero (log entry 58). -/
def State.setFutReg (s : State) (num : Nat) (v : DWord) : State :=
  if s.futures.any fun e => e.2.st != .free then s
  else
    { s with
      futures := if num = 0x20 ∨ num = 0x23 then [] else s.futures
      mgmt := match num with
      | 0x20 => { s.mgmt with futbase := bits51 12 v }
      | 0x21 => { s.mgmt with fimgbase := bits51 12 v }
      | 0x22 => { s.mgmt with fsavebase := bits51 12 v }
      | 0x23 => { s.mgmt with futcap := loWord v &&& 0xFFFFFF }
      | _ => s.mgmt }

/-! Management commands (R451): each gives its RESULT and DATA, or none while it runs. -/

/-- What a command does. -/
abbrev Cmd := State → State × Option (Nat × Nat)

/-- A command that ends at once. -/
def cmdEnds (r : Nat) (s : State) : State × Option (Nat × Nat) := (s, some (r, 0))

/-- Argument n. -/
def State.cmdArg (s : State) (n : Nat) : Nat := (s.mgmt.cmdarg.getD n 0).toNat

def cmdOpenSession (p : Nat) : Cmd := fun s =>
  if p < 1 ∨ p > 63 then cmdEnds 1 s
  else if s.sessionOpen p then cmdEnds 2 s
  else cmdEnds 0 { s with links := { s.links with
    sessions := Cells.set p (s.cmdArg 0 + s.cmdArg 1 * 2 ^ 64, s.cmdArg 2 % 65536) s.links.sessions } }

def cmdCloseSession (p : Nat) : Cmd := fun s => if p < 1 ∨ p > 63 then cmdEnds 1 s else cmdEnds 0 (s.dropSession p)

/-- MIG_DEMOTE (17 R411): the page's bytes go to the capacity tier; DATA is the compressed length (log entry 16). -/
def cmdMigDemote (p : Nat) : Cmd := fun s =>
  let n := sizeBytes p
  let frame := s.cmdArg 0
  let page := s.cmdArg 1
  if p > 5 || frame % n != 0 || frame + n > devSize || page * 4096 + n > Config.capacityBytes then cmdEnds 1 s
  else
    let cells := (Cells.range frame (frame + n) s.mem).map fun e => (e.1 - frame, e.2)
    ({ s.settled frame n with capacity := Cells.set page (p, cells) s.capacity, fresh := s.fresh + 1 }, some (0, Config.compressedUnits s.fresh % 2 ^ 32))

/-- A promotion of a page that is not in the capacity tier ends with FAILED and a record of the device queue (R451; its kind, and the page's
place in the tier as its address, are the model's: DESIGN CHOICE, log entry 118). -/
def State.noPage (s : State) (page : Nat) : State :=
  ({ s with fresh := s.fresh + 1 } : State).record 0 { kind := 0x31, addr := 2 ^ 48 + page * 4096, detail := [Config.freeByte s.fresh] }

/-- MIG_PROMOTE (17 R411): the page goes into the frame, a write at home that owes the parity of its units (18 R434); a capacity page that
holds none of this size fails. -/
def cmdMigPromote (p : Nat) : Cmd := fun s =>
  let n := sizeBytes p
  let page := s.cmdArg 0
  let frame := s.cmdArg 1
  if p > 5 || frame % n != 0 || frame + n > devSize || page * 4096 + n > Config.capacityBytes then cmdEnds 1 s
  else
    match Cells.get? page s.capacity with
    | some (q, cells) =>
      if q ≠ p then cmdEnds 3 (s.noPage page)
      else cmdEnds 0 { s with
        seq := s.seq + 1, zeroed := s.zeroed.filter fun u => u < frame / 16 || (frame + n) / 16 ≤ u
        thatch := (List.range (n / 256)).foldl (fun (t : Thatch) i => t.owe s.seq (frame + 256 * i) 256) s.thatch
        mem := (cells.filter (·.1 < n)).foldl (fun m e => Cells.put 0 (frame + e.1) e.2 m) (Cells.dropRange frame (frame + n) s.mem)
        capacity := Cells.erase page s.capacity }
    | none => cmdEnds 3 (s.noPage page)

/-- TLB_INVAL: the entries go, and the instruction-path copies (all of them: log entry 25). -/
def cmdTlbInval (p : Nat) : Cmd := fun s =>
  let c := s.cmdArg 0
  if p > 5 || (c ≥ 65536 && c != 0xFFFFFFFF) then cmdEnds 1 s
  else
    cmdEnds 0 { s.dropTlbs (List.range 64) (fun e =>
        if c = 0xFFFFFFFF then e.inRange e.ctx (s.cmdArg 1) p else e.inRange c (s.cmdArg 1) p) with ipath := [] }

def cmdReplay (p : Nat) : Cmd := fun s =>
  let a := s.cmdArg 2
  if p > 1 || s.cmdArg 0 ≥ 65536 || a % 8 > 5 then cmdEnds 1 s
  else cmdEnds 0 (s.replayRange (s.cmdArg 0) (w64 (s.cmdArg 1)) (a % 8) (if p = 0 then .retry else .deliver) (field a 8 8))

/-- CTX_KILL (17 R413): acknowledged once nothing of the context is on its way. -/
def cmdCtxKill (p : Nat) : Cmd := fun s => (s.killCtx p, none)

/-- KEY_LOAD (R448). -/
def cmdKeyLoad (p : Nat) : Cmd := fun s =>
  let slot := p % 128
  let key := s.cmdArg 0 + s.cmdArg 1 * 2 ^ 64 + s.cmdArg 2 * 2 ^ 128 + s.cmdArg 3 * 2 ^ 192
  if p % 256 ≥ 128 || p ≥ 512 then cmdEnds 1 s
  else if (List.range 65536).any fun c => s.ctxKey c == some slot && !s.mgmt.killed.contains c then cmdEnds 2 s
  else
    let old := s.keyOf slot
    cmdEnds 0 { s with links := { s.links with keys := Cells.put (0, 0) slot (if p ≥ 256 then (old.1, key) else (key, old.2)) s.links.keys } }

/-- CORE_RESET (18 R423); as a request for a core it wakes it (R445). -/
def cmdCoreReset (p : Nat) : Cmd := fun s =>
  if p ≥ 512 then cmdEnds 1 s else cmdEnds 0 ((s.modCore p fun c => { c with halted := false }).wakeCore p).2

/-- CLUSTER_READMIT (18 R427): the walk decides. -/
def cmdClusterReadmit (p : Nat) : Cmd := fun s => if p ≥ 64 then cmdEnds 1 s else (s, none)

def cmdPeerLost (p : Nat) : Cmd := fun s => if p ≥ 1024 ∨ p = s.device then cmdEnds 1 s else cmdEnds 0 (s.losePeer p)

/-- THATCH_REBUILD (R449). -/
def cmdThatchRebuild (p : Nat) : Cmd := fun s =>
  if p ≠ 0 then cmdEnds 1 s
  else if s.thatch.lostStack.isSome && s.thatch.healthy && !s.thatch.failed then
    cmdEnds 0 { s with thatch := { s.thatch with rebuilding := true } }
  else cmdEnds 2 s

def cmdMrRegister (p : Nat) : Cmd := fun s =>
  let base := s.cmdArg 0
  let len := s.cmdArg 1
  let f := s.cmdArg 2
  if p ≥ 256 || base + len > devSize || f ≥ 4 || s.cmdArg 3 ≥ 2 ^ 32 then cmdEnds 1 s
  else
    let r : MemRegion := { base, len, rd := f.testBit 0, wr := f.testBit 1, key := w32 (s.cmdArg 3) }
    let rs := if len = 0 then Cells.erase p s.links.regions else Cells.set p r s.links.regions
    cmdEnds 0 { s with links := { s.links with regions := rs } }

def cmdQpRing (p : Nat) : Cmd := fun s =>
  let base := s.cmdArg 0
  let log2n := s.cmdArg 1
  let entry := s.cmdArg 2
  if p ≥ 256 || log2n ≥ 32 || entry == 0 || entry % 64 != 0 || base + entry * 2 ^ log2n > devSize then cmdEnds 1 s
  else cmdEnds 0 { s with links := { s.links with rings := Cells.set p { base, log2n, entry, count := 0 } s.links.rings } }

/-- The command of a code; one not listed ends with BADARG. -/
def cmdOf (code p : Nat) : Cmd :=
  match code with
  | 0x01 => cmdOpenSession p
  | 0x02 => cmdCloseSession p
  | 0x10 => cmdMigDemote p
  | 0x11 => cmdMigPromote p
  | 0x18 => cmdTlbInval p
  | 0x19 => cmdReplay p
  | 0x20 => cmdCtxKill p
  | 0x28 => cmdKeyLoad p
  | 0x30 => cmdCoreReset p
  | 0x31 => cmdClusterReadmit p
  | 0x32 => cmdPeerLost p
  | 0x38 => cmdThatchRebuild p
  | 0x40 => cmdMrRegister p
  | 0x41 => cmdQpRing p
  | _ => cmdEnds 1

/-- Does a command run (R451)? -/
def State.cmdBusy (s : State) : Bool := s.mgmt.cmdstat.toNat % 2 == 1

/-- A write of CMD (R451): it starts the command, unless one runs. -/
def State.command (s : State) (code p : Nat) (run : Cmd) : State :=
  if s.cmdBusy then s
  else
    let q := run { s with mgmt := { s.mgmt with
      cmd := w32 (code + p % 65536 * 65536), cmdstat := w64 (code * 65536 + 1), outcome := none } }
    { q.1 with mgmt := { q.1.mgmt with outcome := q.2 } }

/-- A command arrives inside the secure session (R439): a write of CMD, answered OK. -/
def State.mgmtCommand (s : State) (code p : Nat) (run : Cmd) : Host.Outcome State Fault Refusal :=
  .next (if s.links.secure then (s.command code p run).reply 0 0 [] else s)

/-- OPEN_SESSION. -/
def execOpenSession (p : Nat) (s : State) : Host.Outcome State Fault Refusal := s.mgmtCommand 0x01 p (cmdOpenSession (p % 65536))
/-- CLOSE_SESSION. -/
def execCloseSession (p : Nat) (s : State) : Host.Outcome State Fault Refusal := s.mgmtCommand 0x02 p (cmdCloseSession (p % 65536))
/-- MIG_DEMOTE. -/
def execMigDemote (p : Nat) (s : State) : Host.Outcome State Fault Refusal := s.mgmtCommand 0x10 p (cmdMigDemote (p % 65536))
/-- MIG_PROMOTE. -/
def execMigPromote (p : Nat) (s : State) : Host.Outcome State Fault Refusal := s.mgmtCommand 0x11 p (cmdMigPromote (p % 65536))
/-- TLB_INVAL. -/
def execTlbInval (p : Nat) (s : State) : Host.Outcome State Fault Refusal := s.mgmtCommand 0x18 p (cmdTlbInval (p % 65536))
/-- REPLAY as a command. -/
def execMgmtReplay (p : Nat) (s : State) : Host.Outcome State Fault Refusal := s.mgmtCommand 0x19 p (cmdReplay (p % 65536))
/-- CTX_KILL. -/
def execCtxKill (p : Nat) (s : State) : Host.Outcome State Fault Refusal := s.mgmtCommand 0x20 p (cmdCtxKill (p % 65536))
/-- KEY_LOAD. -/
def execKeyLoad (p : Nat) (s : State) : Host.Outcome State Fault Refusal := s.mgmtCommand 0x28 p (cmdKeyLoad (p % 65536))
/-- CORE_RESET. -/
def execCoreReset (p : Nat) (s : State) : Host.Outcome State Fault Refusal := s.mgmtCommand 0x30 p (cmdCoreReset (p % 65536))
/-- CLUSTER_READMIT. -/
def execClusterReadmit (p : Nat) (s : State) : Host.Outcome State Fault Refusal := s.mgmtCommand 0x31 p (cmdClusterReadmit (p % 65536))
/-- PEER_LOST. -/
def execPeerLost (p : Nat) (s : State) : Host.Outcome State Fault Refusal := s.mgmtCommand 0x32 p (cmdPeerLost (p % 65536))
/-- THATCH_REBUILD. -/
def execThatchRebuild (s : State) : Host.Outcome State Fault Refusal := s.mgmtCommand 0x38 0 (cmdThatchRebuild 0)
/-- MR_REGISTER. -/
def execMrRegister (p : Nat) (s : State) : Host.Outcome State Fault Refusal := s.mgmtCommand 0x40 p (cmdMrRegister (p % 65536))
/-- QP_RING. -/
def execQpRing (p : Nat) (s : State) : Host.Outcome State Fault Refusal := s.mgmtCommand 0x41 p (cmdQpRing (p % 65536))

/-- MGMT_CMD_COMPLETE (R451): BUSY clears, RESULT and DATA are set; a context kill is acknowledged once no operation of the
context is in flight. -/
def execMgmtCmdComplete (s : State) : Host.Outcome State Fault Refusal :=
  let code := s.mgmt.cmd.toNat % 256
  let p := field s.mgmt.cmd.toNat 16 16
  let ends (s : State) (r d : Nat) : State :=
    { s with mgmt := { s.mgmt with cmdstat := w64 (d * 2 ^ 32 + code * 65536 + r * 256), outcome := none } }
  .next (if !s.cmdBusy then s
    else
      match s.mgmt.outcome with
      | some (r, d) => ends s r d
      | none =>
        if code = 0x20 ∧ !(s.ops.any fun o => (s.block o.blk).ctx == p) then
          let s1 := ends s 0 0
          { s1 with mgmt := { s1.mgmt with killed := Cells.insert p s1.mgmt.killed } }
        else s)

/-! Management registers (R450). -/

/-- The number of a core CSR register: its core and CSR. -/
def mgmtCoreCsr (num : Nat) : Option (Nat × Nat) :=
  if 0x4000 ≤ num ∧ num ≤ 0x5FFF then
    let c := (num - 0x4000) / 16
    match num % 16 with
    | 0 => some (c, 0x201)
    | 1 => some (c, 0x210)
    | 2 => some (c, 0x211)
    | 3 => some (c, 0x212)
    | 4 => some (c, 0x213)
    | 5 => some (c, 0x214)
    | 6 => some (c, 0x215)
    | 7 => some (c, 0x216)
    | 8 => some (c, 0x200)
    | _ => none
  else none

/-- Store a register under its map; none for an unlisted number or one whose every field is RO. -/
def State.mgmtStore (s : State) (num : Nat) (v : DWord) : Option State :=
  let set (m : Mgmt) : Option State := some { s with mgmt := m }
  let m := s.mgmt
  match num with
  | 0x01 => set { m with devindex := loWord v &&& 0x3FF }
  | 0x10 => set { m with qtbase := bits51 12 v }
  | 0x11 => set { m with ctxbase := v }
  | 0x12 => set { m with fbufbase := m.fbufbase.set 0 v }
  | 0x13 => set { m with fbufbase := m.fbufbase.set 1 v }
  | 0x14 => set { m with fbufbase := m.fbufbase.set 2 v }
  | 0x15 => set { m with fbufbase := m.fbufbase.set 3 v }
  | 0x16 => some (s.setWalkEntry v)
  | 0x20 => some (s.setFutReg 0x20 v)
  | 0x21 => some (s.setFutReg 0x21 v)
  | 0x22 => some (s.setFutReg 0x22 v)
  | 0x23 => some (s.setFutReg 0x23 v)
  | 0x24 => set { m with oxbase := bits51 12 v }
  | 0x30 => set { m with schedclass := m.schedclass.set 0 (loWord v &&& 0xFFFFFF) }
  | 0x31 => set { m with schedclass := m.schedclass.set 1 (loWord v &&& 0xFFFFFF) }
  | 0x32 => set { m with schedclass := m.schedclass.set 2 (loWord v &&& 0xFFFFFF) }
  | 0x33 => set { m with schedclass := m.schedclass.set 3 (loWord v &&& 0xFFFFFF) }
  | 0x34 => set { m with schedres := loWord v &&& 0x03FF00FF }
  | 0x35 => some (s.setPcap (loWord v))
  | 0x40 => set { m with gangtime := loWord v }
  | 0x41 => set { m with gangwait := loWord v &&& 0xFFFFF }
  | 0x50 => some (s.setRwctl (loWord v))
  | 0x51 => set { m with oxbow := loWord v &&& 0x1FFFFF }
  | 0x65 => set { m with nrgctxsel := loWord v &&& 0xFFFF }
  | 0x80 =>
    let c := v.toNat % 256
    let p := field v.toNat 16 16
    some (s.command c p (cmdOf c p))
  | 0x81 => set { m with cmdarg := m.cmdarg.set 0 v }
  | 0x82 => set { m with cmdarg := m.cmdarg.set 1 v }
  | 0x83 => set { m with cmdarg := m.cmdarg.set 2 v }
  | 0x84 => set { m with cmdarg := m.cmdarg.set 3 v }
  | n =>
    match mgmtCoreCsr n with
    | some (c, csr) => if csr = 0x200 then none else some (s.modCore c (·.csrWrite csr (loWord v)))
    | none => none

/-- A request for a register of a core wakes the core (R445). -/
def State.mgmtWake (s : State) (num : Nat) : State :=
  match mgmtCoreCsr num with
  | some (c, _) => (s.wakeCore c).2
  | none => s

/-- A MGMT write inside the secure session, with its reply. -/
def State.mgmtAnswer (s : State) (num : Nat) (v : DWord) : Host.Outcome State Fault Refusal :=
  .next (if !s.links.secure then s
    else
      match s.mgmtStore num v with
      | some s1 => (s1.mgmtWake num).reply 0 0 []
      | none => s.reply 0 1 [])

/-- RWCTL_WRITE. -/
def execRwctlWrite (value : Word) (s : State) : Host.Outcome State Fault Refusal := s.mgmtAnswer 0x50 (value.zeroExtend 64)
/-- PCAP_WRITE. -/
def execPcapWrite (value : Word) (s : State) : Host.Outcome State Fault Refusal := s.mgmtAnswer 0x35 (value.zeroExtend 64)
/-- FUTURE_CONFIG_WRITE: num counts the four registers of 15 R342 from FUTBASE. -/
def execFutureConfigWrite (num : Nat) (value : DWord) (s : State) : Host.Outcome State Fault Refusal :=
  s.mgmtAnswer (if num < 4 then 0x20 + num else num) value

/-- THATCHST (18 R436). -/
def Thatch.status (t : Thatch) : Nat :=
  (if t.failed then 256 else 0) + (if t.lostStack.isSome then 128 else 0) + t.lostStack.getD 15

/-- The value of a management register; none for an unlisted number. -/
def State.mgmtRead (s : State) (num : Nat) : Option DWord :=
  let m := s.mgmt
  let w (v : Word) : Option DWord := some (v.zeroExtend 64)
  match num with
  | 0x01 => w m.devindex
  | 0x02 => w m.devstate
  | 0x10 => some m.qtbase
  | 0x11 => some m.ctxbase
  | 0x12 => some (m.fbufbase.getD 0 0)
  | 0x13 => some (m.fbufbase.getD 1 0)
  | 0x14 => some (m.fbufbase.getD 2 0)
  | 0x15 => some (m.fbufbase.getD 3 0)
  | 0x16 => some m.walkentry
  | 0x20 => some m.futbase
  | 0x21 => some m.fimgbase
  | 0x22 => some m.fsavebase
  | 0x23 => w m.futcap
  | 0x24 => some m.oxbase
  | 0x30 => w (m.schedclass.getD 0 0)
  | 0x31 => w (m.schedclass.getD 1 0)
  | 0x32 => w (m.schedclass.getD 2 0)
  | 0x33 => w (m.schedclass.getD 3 0)
  | 0x34 => w m.schedres
  | 0x35 => w m.pcap
  | 0x36 => some (BitVec.ofInt 64 (s.sched.reservoir / 18))
  | 0x40 => w m.gangtime
  | 0x41 => w m.gangwait
  | 0x50 => w m.rwctl
  | 0x51 => w m.oxbow
  | 0x52 => some (w64 s.thatch.status)
  | 0x60 => some s.sched.nrgPkg
  | 0x61 => some (s.sched.nrgDie.getD 0 0)
  | 0x62 => some (s.sched.nrgDie.getD 1 0)
  | 0x63 => some (s.sched.nrgDie.getD 2 0)
  | 0x64 => some (s.sched.nrgDie.getD 3 0)
  | 0x65 => w m.nrgctxsel
  | 0x66 => some (Cells.getD m.nrgctxsel.toNat 0 s.sched.nrgCtx)
  | 0x70 => some (w64 s.devTime)
  | 0x71 => some (w64 s.roofwalk.horizon)
  | 0x80 => w m.cmd
  | 0x81 => some (m.cmdarg.getD 0 0)
  | 0x82 => some (m.cmdarg.getD 1 0)
  | 0x83 => some (m.cmdarg.getD 2 0)
  | 0x84 => some (m.cmdarg.getD 3 0)
  | 0x85 => some m.cmdstat
  | n => (mgmtCoreCsr n).map fun e => w64 (s.csrValue { Block.absent with core := e.1 } e.2)

/-- A MGMT read inside the secure session: the register's value, in 8 bytes (R450). -/
def State.mgmtAsk (s : State) (num : Nat) : Host.Outcome State Fault Refusal :=
  .next (if !s.links.secure then s
    else
      match s.mgmtRead num with
      | some v => (s.mgmtWake num).reply 0 0 (leBytes 8 v.toNat)
      | none => s.reply 0 1 [])

/-- MGMT_WRITE: a MGMT message, which writes a register or, without a value, reads it. -/
def execMgmtWrite (num : Nat) (value : Option DWord) (s : State) : Host.Outcome State Fault Refusal :=
  match value with
  | some v => s.mgmtAnswer num v
  | none => s.mgmtAsk num

/-! RoCEv2 (R440). -/

/-- The region an operation may use: key, right and range (R451). -/
def State.rdmaRegion (s : State) (region : Nat) (key : Word) (addr n : Nat) (write : Bool) : Bool :=
  match Cells.get? region s.links.regions with
  | some r => r.key == key && (if write then r.wr else r.rd) && r.base ≤ addr && addr + n ≤ r.base + r.len
  | none => false

/-- A remote write is performed or refused (R440; 07 R201). -/
def takeRdmaWrite (qp region : Nat) (key : Word) (addr : Nat) (data : List Byte) : Try := fun s =>
  if qp ≥ 256 || !s.rdmaRegion region key addr data.length true then (true, s.send (.rdmaReply qp false []))
  else takeRange addr data.length (fun s => (s.hostWrite addr data).send (.rdmaReply qp true [])) s

/-- A remote read is answered or refused. -/
def takeRdmaRead (qp region : Nat) (key : Word) (addr len : Nat) : Try := fun s =>
  if qp ≥ 256 || !s.rdmaRegion region key addr len false then (true, s.send (.rdmaReply qp false []))
  else takeRange addr len (fun s => s.send (.rdmaReply qp true (s.rdBytes addr len))) s

/-- A SEND lands in the next entry of the queue pair's receive ring, or is refused. -/
def takeSend (qp : Nat) (data : List Byte) : Try := fun s =>
  match Cells.get? qp s.links.rings with
  | none => (true, s.send (.rdmaReply qp false []))
  | some r =>
    if data.length > r.entry then (true, s.send (.rdmaReply qp false []))
    else
      let addr := r.base + r.entry * (r.count % 2 ^ r.log2n)
      takeRange addr data.length (fun s =>
        let s1 := s.hostWrite addr data
        ({ s1 with links := { s1.links with rings := Cells.set qp { r with count := r.count + 1 } s1.links.rings } } : State).send
          (.rdmaReply qp true [])) s

/-- Has start-up completed, so that the port answers more than session 0 (R446)? -/
def State.portOpen (s : State) : Bool := s.mgmt.devstate.toNat % 32 == 6

/-- RDMA_WRITE. -/
def execRdmaWrite (qp region : Nat) (key : Word) (addr : Nat) (data : List Byte) (s : State) : Host.Outcome State Fault Refusal :=
  .next (if s.portOpen then s.take (.rdmaWrite qp region key addr data) (takeRdmaWrite qp region key addr data) else s)

/-- RDMA_READ: read at home. -/
def execRdmaRead (qp region : Nat) (key : Word) (addr len : Nat) (s : State) : Host.Outcome State Fault Refusal :=
  .next (if s.portOpen then s.take (.rdmaRead qp region key addr len) (takeRdmaRead qp region key addr len) else s)

/-- SEND: into the next entry of the queue pair's receive ring. -/
def execSend (qp : Nat) (data : List Byte) (s : State) : Host.Outcome State Fault Refusal :=
  .next (if s.portOpen then s.take (.send qp data) (takeSend qp data) else s)

/-- What a message that waits comes to now. -/
def takeAgain : Incoming → Try
  | .memwr session addr data => takeMemwr session addr data
  | .memrd session addr len => takeMemrd session addr len
  | .submit session q tail => fun s => (true, (s.noteTaken session).submit q tail)
  | .rdmaWrite qp region key addr data => takeRdmaWrite qp region key addr data
  | .rdmaRead qp region key addr len => takeRdmaRead qp region key addr len
  | .send qp data => takeSend qp data
  | .access peer target access => takeAccess peer target access
  | .coll sender ctx step op ea data => takeColl sender ctx step op ea data

/-- The waiting messages are tried again, of each session, queue pair and peer the oldest, until one is performed. -/
def State.retryInbox (s : State) : State :=
  (s.inbox.foldl (fun (p : Bool × State × List (Nat × Nat)) i =>
    if p.1 || p.2.2.contains i.stream then p
    else
      let q := takeAgain i p.2.1
      (q.1, if q.1 then { q.2 with inbox := q.2.inbox.erase i } else q.2, i.stream :: p.2.2)) (false, s, [])).2.1

/-- ROCE_UNSUPPORTED_OP: a NAK of kind invalid request. -/
def execRoceUnsupportedOp (qp : Nat) (s : State) : Host.Outcome State Fault Refusal := .next (if s.portOpen then s.send (.nak qp) else s)

/-! SPDM (R446, R447): what the answers hold beyond the measurements is the standard's, and free here (log entry 39). -/

/-- Answer a request with contents the manual does not give. -/
def State.spdmFree (s : State) (request : Nat) : State :=
  (({ s with fresh := s.fresh + 1 } : State).noteTaken 0).silaz 0 (.spdm request (Config.freeWord s.fresh).toNat)

/-- GET_VERSION. -/
def execGetVersion (s : State) : Host.Outcome State Fault Refusal := .next (s.spdmFree 0x84)
/-- GET_CAPABILITIES. -/
def execGetCapabilities (s : State) : Host.Outcome State Fault Refusal := .next (s.spdmFree 0xE1)
/-- The only algorithms offered (R447): ECDSA on the Brainpool curve of 384 bits with SHA-384, as the answer names them: curve size and hash size
in bits (DESIGN CHOICE; log entry 39). -/
def offeredAlgorithms : Nat := 384 + 384 * 2 ^ 16

/-- NEGOTIATE_ALGORITHMS (R447). -/
def execNegotiateAlgorithms (s : State) : Host.Outcome State Fault Refusal := .next ((s.noteTaken 0).silaz 0 (.spdm 0xE3 offeredAlgorithms))
/-- GET_DIGESTS. -/
def execGetDigests (s : State) : Host.Outcome State Fault Refusal := .next (s.spdmFree 0x81)
/-- GET_CERTIFICATE. -/
def execGetCertificate (s : State) : Host.Outcome State Fault Refusal := .next (s.spdmFree 0x82)
/-- CHALLENGE. -/
def execChallenge (_nonce : Nat) (s : State) : Host.Outcome State Fault Refusal := .next (s.spdmFree 0x83)
/-- The measurement log (R446): the measurements of the images once step 2 has recorded them, and the record of a failed step after them. -/
def State.measurementLog (s : State) : Nat :=
  let st := s.mgmt.devstate.toNat
  (if 2 ≤ st % 16 then Config.imageMeasurements * 2 ^ 64 else 0) + s.links.measured

/-- GET_MEASUREMENTS: the measurement log. -/
def execGetMeasurements (s : State) : Host.Outcome State Fault Refusal := .next ((s.noteTaken 0).silaz 0 (.spdm 0xE0 s.measurementLog))

/-- KEY_EXCHANGE: refused until step 6 of start-up has completed, or when a step failed (R446). -/
def execKeyExchange (nonce : Nat) (s : State) : Host.Outcome State Fault Refusal :=
  .next (if s.mgmt.devstate.toNat % 32 ≠ 6 then (s.noteTaken 0).silaz 0 (.spdm 0x7F 0)
    else ({ s with links := { s.links with keyExchange := some nonce } } : State).spdmFree 0xE4)

/-- FINISH (R439, R447): with the right proof of the keys the secure session stands; its key schedule is free (log entry 22). -/
def execFinish (mac : Nat) (s : State) : Host.Outcome State Fault Refusal :=
  .next (match s.links.keyExchange with
    | none => (s.noteTaken 0).silaz 0 (.spdm 0x7F 0)
    | some n =>
      let s1 : State := { s with links := { s.links with keyExchange := none } }
      if mac = Config.sessionKey n 0 then
        ({ s1 with links := { s1.links with secure := true } } : State).spdmFree 0xE5
      else (s1.noteTaken 0).silaz 0 (.spdm 0x7F 0))

/-- In-field test (R446 step 5): failing cores are withdrawn (00_scope.md R1), failing channels are RETIRED (10 R252). No register shows a core
withdrawn: its CHSTAT has no RETIRED bit set (DESIGN CHOICE; log entry 104). -/
def State.fieldTest (s : State) (n : Nat) : State :=
  (List.range 512).foldl (fun (s : State) c =>
    s.modCore c fun k =>
      match Config.inField n c with
      | none => { k with withdrawn := true }
      | some m => { k with chstat := k.chstat ||| (m.zeroExtend 32 <<< 16) }) s

/-- Start-up stays in a step that has failed (R446): DEVSTATE says which, a record of it is appended to the measurement log, and no walk is due. -/
def State.startUpFails (s : State) (step n : Nat) : State :=
  { s with
    mgmt := { s.mgmt with devstate := w32 (15 + step) }
    links := { s.links with measured := 2 ^ 32 * step + (Config.freeWord n).toNat }
    roofwalk := { s.roofwalk with nextAt := 2 ^ 200 } }

/-- Thatch after a package reset: degraded mode is cleared only in a repaired module, whose lost stack is healthy again, and FAILED in any (R449). -/
def Thatch.afterReset (t : Thatch) : Thatch :=
  if t.lostStack.isSome && !t.healthy then { State.reset.thatch with lostStack := t.lostStack } else State.reset.thatch

/-- PACKAGE_RESET (R446): reset values, then start-up, whose outcome is free (log entry 4); the serial of undefined values goes on, and what
happens next outside stays. -/
def execPackageReset (s : State) : Host.Outcome State Fault Refusal :=
  let n := s.fresh
  let s1 : State := { State.reset with agenda := s.agenda, fresh := n + 1, thatch := s.thatch.afterReset }
  let k := Config.startUp n % 7
  let s2 := if 1 ≤ k ∧ k ≤ 5 then s1 else s1.fieldTest n
  .next (if k = 0 then s2 else s2.startUpFails k n)

end Sys2Proof.Machine
end

