-- ==== Sys2Proof/Machine/Teams.lean ====
section
/-! DEFINITION. Teams: membership, barriers, exchanges (08_teams.md R209 to R229; RECONV's release, 03_control.md R103)
and their events. -/

namespace Sys2Proof.Machine

/-- The members of a team of a block, ascending by tid (R210). -/
def Block.members (x : Block) (n : Nat) : List Nat :=
  (List.range x.threads.length).filter fun t => (x.getThread t).any fun th => th.run != .exited && th.member n

/-- The wait a thread of a block is in. -/
def Block.waitOf (x : Block) (t : Nat) : Option Wait :=
  (x.getThread t).bind fun th => match th.run with | .stalled w => some w | _ => none

/-- Does a thread wait in some rendezvous of a team (R211; a TWAIT counts as waiting in the barrier, R214)? -/
def waitsIn (n : Nat) : Wait → Bool
  | .barrier m _ | .twait m _ | .reconv m | .exchange m _ _ _ _ _ => m == n
  | _ => false

/-- A waiting thread retires its instruction: it passes it and is ready (R212, R217). -/
def State.passWait (s : State) (b t : Nat) : State :=
  (s.modThread b t fun th => { th.advance 1 with run := .ready, since := s.now }).dropLatches b t

/-- Must a thread trap as NOTEAM (R209)? -/
def checkTeam (b t n : Nat) : M Unit := do
  let s ← getS
  if !s.inTeam b t n then trap .noTeam

/-! Barriers. -/

/-- Has every member arrived in the open phase (R217)? -/
def Block.barrierFull (x : Block) (n : Nat) : Bool :=
  let ms := x.members n
  !ms.isEmpty && ms.all fun t =>
    (x.getThread t).any (·.splitOf n == 1) || (match x.waitOf t with | some (.barrier m _) => m == n | _ => false)

/-- The release of a phase (R217), with the acquire part of every thread that leaves TBAR (R218). -/
def State.releaseBarrier (s : State) (b n : Nat) : State :=
  let x := s.block b
  let s1 := (x.members n).foldl (fun (s : State) t =>
    let s := s.modThread b t fun th => if th.splitOf n = 1 then th.setSplit n 2 else th
    match x.waitOf t with
    | some (.barrier m sc) => if m = n then (s.passWait b t).acquireFor b [t] x.padCore sc else s
    | _ => s) s
  s1.modBlock b fun x => { x with teams := x.teams.set n { x.team n with arrived := 0, phase := (x.team n).phase + 1 } }

/-- The release part of an arrival at a scope (R218): it holds the thread as FENCE does. -/
def arriveRelease (b t : Nat) (sc : Scope) : M Unit := do
  updS (·.beginRelease b [t] sc)
  let s ← getS
  if s.fenceWaits b t sc false then stall (.release sc false)

/-- TBAR (R223): arrives and waits; BARRIER_RELEASE retires it. -/
def execTbar (n : Fin 8) (scope : Scope) (s : State) : Host.Outcome State Fault Refusal :=
  laneExec (.tbar n scope) (fun b t => do
    checkTeam b t n.val
    if (← getT b t).splitOf n.val ≠ 0 then trap .barSeq
    arriveRelease b t scope
    return .stops (.stall (.barrier n.val scope))) s

/-- TARRIVE (R223). -/
def execTarrive (n : Fin 8) (scope : Scope) (s : State) : Host.Outcome State Fault Refusal :=
  laneExec (.tarrive n scope) (laneFall fun b t => do
    checkTeam b t n.val
    if (← getT b t).splitOf n.val ≠ 0 then trap .barSeq
    arriveRelease b t scope
    updT b t (·.setSplit n.val 1)
    updB b fun x => { x with teams := x.teams.set n.val { x.team n.val with arrived := (x.team n.val).arrived + 1 } }
    updS fun s => if (s.block b).barrierFull n.val then s.releaseBarrier b n.val else s) s

/-- TWAIT (R223). -/
def execTwait (n : Fin 8) (scope : Scope) (s : State) : Host.Outcome State Fault Refusal :=
  laneExec (.twait n scope) (laneFall fun b t => do
    checkTeam b t n.val
    let th ← getT b t
    if th.splitOf n.val = 0 then trap .barSeq
    if th.splitOf n.val ≠ 2 then stall (.twait n.val scope)
    let s ← getS
    if s.specPending b [t] s.seq then stall .acquirePart
    updT b t (·.setSplit n.val 0)
    updS fun s => s.acquireFor b [t] (s.block b).padCore scope) s

/-- TLEAVE (R222). -/
def execTleave (n : Fin 8) (s : State) : Host.Outcome State Fault Refusal :=
  laneExec (.tleave n) (laneFall fun b t => do
    checkTeam b t n.val
    if (← getT b t).splitOf n.val ≠ 0 then trap .barSeq
    updB b (·.leaveTeam t n.val)
    updS fun s => if (s.block b).barrierFull n.val then s.releaseBarrier b n.val else s) s

/-- BARRIER_RELEASE (R217). -/
def execBarrierRelease (blk team : Nat) (s : State) : Host.Outcome State Fault Refusal :=
  .next (if (s.block blk).inSlot && (s.block blk).barrierFull team then s.releaseBarrier blk team else s)

/-- RECONV_RELEASE (03 R103): every member waits at RECONV of the team; all retire it. -/
def execReconvRelease (blk team : Nat) (s : State) : Host.Outcome State Fault Refusal :=
  let x := s.block blk
  let ms := x.members team
  .next (if x.inSlot && !ms.isEmpty && ms.all (fun t => x.waitOf t == some (.reconv team)) then
    ms.foldl (fun (s : State) t => s.passWait blk t) s
  else s)

/-! Exchanges. -/

/-- The form of an exchange (R212): opcode and fn, or opcode and team for SHFL. -/
def formOf (op fn : Nat) : Nat := 32 * op + fn

/-- Code of a TRED or TSCAN operation (R227). -/
def redCode : RedOp → Nat
  | .add => 0
  | .addSat => 1
  | .minI => 2
  | .maxI => 3
  | .minW => 4
  | .maxW => 5
  | .and => 6
  | .or => 7
  | .xor => 8
  | .addF => 9
  | .minF => 10
  | .maxF => 11

/-- Code of a VOTE mode (R228). -/
def voteCode : VoteMode → Nat
  | .all => 0
  | .any => 1
  | .uni => 2
  | .maj => 3
  | .odd => 4

/-- Arrive at the exchange of team n (R212): a differing form traps, else the wait with the contribution. -/
def arriveExchange (i : Instr) (n form : Nat) (value ctl : Word) (pred : Bool) (b t : Nat) : M Wait := do
  checkTeam b t n
  let x ← getB b
  let other := (x.members n).any fun u =>
    match x.waitOf u with | some (.exchange m f _ _ _ _) => m == n && f != form | _ => false
  if other then trap .teamMix
  return .exchange n form value ctl pred i

/-- An exchange instruction: it arrives with the contribution its operands give; entries it takes from queues are popped then
(R220). -/
def arrival (i : Instr) (body : Nat → Nat → M Wait) : State → Host.Outcome State Fault Refusal :=
  laneExec i fun b t => do return .stops (.stall (← body b t))

/-- TJOIN (R221): the exchange of team m; the condition is the contribution. -/
def execTjoin (a : LReg) (n m : Fin 8) (s : State) : Host.Outcome State Fault Refusal :=
  arrival (.tjoin a n m) (fun b t => do
    checkTeam b t m.val
    let v ← src b t a
    arriveExchange (.tjoin a n m) m.val (formOf 0x70 m.val) v 0 false b t) s

/-- ELECT (R225). -/
def execElect (d : LReg) (n k : Fin 8) (s : State) : Host.Outcome State Fault Refusal :=
  arrival (.elect d n k) (fun b t =>
    arriveExchange (.elect d n k) n.val (formOf 0x75 k.val) 0 0 false b t) s

/-- SHFL (R226): the team stands in the control word. -/
def execShfl (d a b : LReg) (s : State) : Host.Outcome State Fault Refusal :=
  arrival (.shfl d a b) (fun k t => do
    let v ← src k t a
    let c ← src k t b
    let n := field c.toNat 10 3
    arriveExchange (.shfl d a b) n (formOf 0x76 n) v c false k t) s

/-- TRED (R227). -/
def execTred (d a : LReg) (n : Fin 8) (op : RedOp) (s : State) : Host.Outcome State Fault Refusal :=
  arrival (.tred d a n op) (fun b t => do
    checkTeam b t n.val
    let v ← src b t a
    arriveExchange (.tred d a n op) n.val (formOf 0x77 (redCode op)) v 0 false b t) s

/-- TSCAN (R227). -/
def execTscan (d a : LReg) (n : Fin 8) (excl : Bool) (op : RedOp) (s : State) : Host.Outcome State Fault Refusal :=
  arrival (.tscan d a n excl op) (fun b t => do
    checkTeam b t n.val
    let v ← src b t a
    arriveExchange (.tscan d a n excl op) n.val (formOf 0x78 (redCode op + if excl then 16 else 0)) v 0 false b t) s

/-- BALLOT (R228). -/
def execBallot (d : LReg) (k n : Fin 8) (s : State) : Host.Outcome State Fault Refusal :=
  arrival (.ballot d k n) (fun b t => do
    arriveExchange (.ballot d k n) n.val (formOf 0x79 0) 0 0 (← getPred b t k.val) b t) s

/-- VOTE (R228). -/
def execVote (j k n : Fin 8) (mode : VoteMode) (s : State) : Host.Outcome State Fault Refusal :=
  arrival (.vote j k n mode) (fun b t => do
    arriveExchange (.vote j k n mode) n.val (formOf 0x7A (voteCode mode)) 0 0 (← getPred b t k.val) b t) s

/-- MATCH (R228). -/
def execMatchT (d a : LReg) (n : Fin 8) (s : State) : Host.Outcome State Fault Refusal :=
  arrival (.matchT d a n) (fun b t => do
    checkTeam b t n.val
    let v ← src b t a
    arriveExchange (.matchT d a n) n.val (formOf 0x7B 0) v 0 false b t) s

/-- What a participant brought. -/
structure Contribution where
  tid : Nat
  value : Word
  ctl : Word
  pred : Bool
  instr : Instr
deriving DecidableEq, Repr

/-- A fold of a non-empty list of words with the flags of each step. -/
def foldWords (f : Nat → Nat → Nat × Nat) : List Word → Nat × Nat
  | [] => (0, 0)
  | w :: ws => ws.foldl (fun acc v => let r := f acc.1 v.toNat; (r.1, acc.2 ||| r.2)) (w.toNat, 0)

/-- A lone contribution stands as both operands, so that a NaN is made canonical and a signalling one sets NV (05_float.md R128,
R141). -/
def loneTwice : List Word → List Word
  | [w] => [w, w]
  | ws => ws

/-- The identity of an operation (R227). -/
def redIdentity : RedOp → Nat
  | .add | .addSat | .or | .xor | .maxW => 0
  | .minI => 0x7FFFFFFF
  | .maxI | .addF => 0x80000000
  | .minW | .and => 0xFFFFFFFF
  | .minF => 0x7F800000
  | .maxF => 0xFF800000

/-- The reduction of contributions in rank order, and the FPSTAT flags it sets (R227). -/
def reduceOp (op : RedOp) (ws : List Word) : Nat × Nat :=
  if ws.isEmpty then (redIdentity op, 0)
  else
    match op with
    | .add => ((ws.foldl (fun n w => n + w.toNat) 0) % 2 ^ 32, 0)
    | .addSat => ((wi (satS (ws.foldl (fun n w => n + w.toInt) 0) 32)).toNat, 0)
    | .minI => foldWords (fun a c => (if sextNat 32 a ≤ sextNat 32 c then a else c, 0)) ws
    | .maxI => foldWords (fun a c => (if sextNat 32 a ≥ sextNat 32 c then a else c, 0)) ws
    | .minW => foldWords (fun a c => (Nat.min a c, 0)) ws
    | .maxW => foldWords (fun a c => (Nat.max a c, 0)) ws
    | .and => foldWords (fun a c => (a &&& c, 0)) ws
    | .or => foldWords (fun a c => (a ||| c, 0)) ws
    | .xor => foldWords (fun a c => (a ^^^ c, 0)) ws
    | .addF => f32.sum .rn .plain (ws.map fun w => f32.value w.toNat)
    | .minF => foldWords (f32.minMax false) (loneTwice ws)
    | .maxF => foldWords (f32.minMax true) (loneTwice ws)

/-- SHFL's result for the participant of rank r (R226). -/
def shflResult (cs : List Contribution) (r : Nat) (c : Contribution) : Word :=
  let p := cs.length
  let k := field c.ctl.toNat 0 10
  let sk := sextNat 10 k
  let src : Int :=
    match field c.ctl.toNat 14 2 with
    | 0 => (k % p : Nat)
    | 1 => ((r : Int) + sk) % (p : Int)
    | 2 => (r : Int) + sk
    | _ => let g := if k ≤ 10 then 2 ^ k else 1024; ((g * (r / g) + (g - 1 - r % g) : Nat) : Int)
  if 0 ≤ src ∧ src < (p : Int) then ((cs[src.toNat]?).map (·.value)).getD 0
  else if c.ctl.getLsbD 13 then c.value
  else BitVec.ofInt 32 (sextNat 16 (field c.ctl.toNat 16 16))

/-- A mask of 32 bits. -/
def maskOf (f : Nat → Bool) : Word := w32 ((List.range 32).foldl (fun n i => n + if f i then 2 ^ i else 0) 0)

/-- VOTE's result over all participants (R228). -/
def voteResult (mode : VoteMode) (cs : List Contribution) : Bool :=
  let yes := (cs.filter (·.pred)).length
  match mode with
  | .all => yes == cs.length
  | .any => yes > 0
  | .uni => yes == 0 || yes == cs.length
  | .maj => 2 * yes > cs.length
  | .odd => yes % 2 == 1

/-- The result a participant of rank r receives: its register and value, its predicate, its flags, the team it joins. -/
structure Result where
  reg : Option (LReg × Word) := none
  pred : Option (Nat × Bool) := none
  flags : Nat := 0
  join : Option Nat := none
deriving DecidableEq, Repr

def resultOf (cs : List Contribution) (r : Nat) (c : Contribution) : Result :=
  match c.instr with
  | .tjoin _ n _ => { join := if c.value != 0 then some n.val else none }
  | .elect d _ k => let e := (cs.headD c).tid; { reg := some (d, w32 e), pred := some (k.val, c.tid == e) }
  | .shfl d _ _ => { reg := some (d, shflResult cs r c) }
  | .tred d _ _ op => let q := reduceOp op (cs.map (·.value)); { reg := some (d, w32 q.1), flags := q.2 }
  | .tscan d _ _ excl op =>
    let q := reduceOp op ((cs.take (if excl then r else r + 1)).map (·.value)); { reg := some (d, w32 q.1), flags := q.2 }
  | .ballot d _ _ =>
    let base := 32 * (r / 32); { reg := some (d, maskOf fun i => ((cs[base + i]?).map (·.pred)).getD false) }
  | .vote j _ _ mode => { pred := some (j.val, voteResult mode cs) }
  | .matchT d _ _ =>
    let e := (cs.zipIdx).filter fun q => q.1.value == c.value
    { reg := some (d, w32 (65536 * (e.length % 65536) + ((e.map (·.2)).headD 0) % 65536)) }
  | _ => {}

/-- Give a participant its result; it retires the instruction (R212). -/
def State.giveResult (s : State) (b t : Nat) (q : Result) : State :=
  let s1 := match q.reg with
    | some (d, w) => (s.clobber b t d).modThread b t (·.writeReg d w)
    | none => s
  let s2 := s1.modThread b t fun th =>
    let th := match q.pred with | some (p, v) => th.setP p v | none => th
    { th with fpstat := th.fpstat ||| w32 q.flags }
  let s3 := match q.join with
    | some n =>
      if (s2.thread b t).member n then s2
      else s2.modBlock b fun x =>
        match x.getThread t with
        | none => x
        | some th => { x.setThread t { th with teams := th.teams ||| ((1 : BitVec 8) <<< n) } with
            teams := x.teams.set n { x.team n with members := (x.team n).members + 1 } }
    | none => s2
  s3.passWait b t

/-- EXCHANGE_RELEASE (R212, R221, R225 to R228): every member of the team waits in its exchange; a TJOIN also needs the
joined teams free of arrivals. -/
def execExchangeRelease (blk team : Nat) (s : State) : Host.Outcome State Fault Refusal :=
  let x := s.block blk
  let ms := x.members team
  let cs : List Contribution := ms.filterMap fun t =>
    match x.waitOf t with
    | some (.exchange n _ value ctl pred instr) => if n = team then some { tid := t, value, ctl, pred, instr } else none
    | _ => none
  let free (n : Nat) : Bool := (x.team n).arrived == 0 && (List.range x.threads.length).all fun t =>
    match x.waitOf t with | some w => !waitsIn n w | none => true
  let ok := cs.all fun c => match c.instr with | .tjoin _ n _ => free n.val | _ => true
  .next (if x.inSlot && !ms.isEmpty && cs.length == ms.length && ok then
    let rs := (cs.zipIdx).map fun q => (q.1.tid, resultOf cs q.2 q.1)
    rs.foldl (fun (s : State) q => s.giveResult blk q.1 q.2) s
  else s)

/-- Which rendezvous of a team a thread waits in, for R214; a TWAIT whose phase has released passes and waits in none. -/
def rendezvous (n : Nat) (th : Thread) : Option Nat :=
  match th.run with
  | .stalled (.barrier m _) => if m = n then some 0 else none
  | .stalled (.twait m _) => if m = n ∧ th.splitOf n ≠ 2 then some 0 else none
  | .stalled (.reconv m) => if m = n then some 1 else none
  | .stalled (.exchange m _ _ _ _ _) => if m = n then some 2 else none
  | _ => none

/-- A member traps as TEAMDEAD at its waiting instruction, and its arrival is withdrawn (R214). -/
def State.trapDead (s : State) (b n t : Nat) : State :=
  match (s.block b).waitOf t with
  | some w =>
    if waitsIn n w then (s.modThread b t (·.withdraw w)).stopThread b t (.trap .teamDead 0 0) else s
  | none => s

/-- TEAMDEAD (R214): every member waits in a rendezvous of the team, not all in the same one, and none can release. -/
def execTeamdead (blk team : Nat) (s : State) : Host.Outcome State Fault Refusal :=
  let x := s.block blk
  let ms := x.members team
  let rs := ms.map fun t => (x.getThread t).bind (rendezvous team)
  .next (if x.inSlot && !ms.isEmpty && !x.barrierFull team && rs.all (·.isSome) && rs.any (· != rs.headD none) then
    ms.foldl (fun (s : State) t => s.trapDead blk team t) s
  else s)

end Sys2Proof.Machine
end

