-- ==== Sys2Proof/Machine/Dispatch.lean ====
section
/-! DEFINITION. The one match over the instructions and events: each arm calls its meaning. -/

namespace Sys2Proof.Machine

def exec (i : Instr) (s : State) : Host.Outcome State Fault Refusal :=
  match i with
  | .clauseHeader count wait seta setb point => Sys2Proof.Machine.execClauseHeader count wait seta setb point s
  | .clauseStart blk tid => Sys2Proof.Machine.execClauseStart blk tid s
  | .bra off => Sys2Proof.Machine.execBra off s
  | .brp p off => Sys2Proof.Machine.execBrp p off s
  | .brn p off => Sys2Proof.Machine.execBrn p off s
  | .brx a => Sys2Proof.Machine.execBrx a s
  | .call off => Sys2Proof.Machine.execCall off s
  | .callx a => Sys2Proof.Machine.execCallx a s
  | .ret => Sys2Proof.Machine.execRet s
  | .exit => Sys2Proof.Machine.execExit s
  | .reconv n => Sys2Proof.Machine.execReconv n s
  | .waitf mask => Sys2Proof.Machine.execWaitf mask s
  | .nop => Sys2Proof.Machine.execNop s
  | .bkpt imm => Sys2Proof.Machine.execBkpt imm s
  | .mov d a => Sys2Proof.Machine.execMov d a s
  | .neg d a => Sys2Proof.Machine.execNeg d a s
  | .negSatI32 d a => Sys2Proof.Machine.execNegSatI32 d a s
  | .abs d a => Sys2Proof.Machine.execAbs d a s
  | .absSatI32 d a => Sys2Proof.Machine.execAbsSatI32 d a s
  | .not d a => Sys2Proof.Machine.execNot d a s
  | .popc d a => Sys2Proof.Machine.execPopc d a s
  | .clz d a => Sys2Proof.Machine.execClz d a s
  | .ctz d a => Sys2Proof.Machine.execCtz d a s
  | .brev d a => Sys2Proof.Machine.execBrev d a s
  | .cvtiI8 d a => Sys2Proof.Machine.execCvtiI8 d a s
  | .cvtiW8 d a => Sys2Proof.Machine.execCvtiW8 d a s
  | .cvtiI16 d a => Sys2Proof.Machine.execCvtiI16 d a s
  | .cvtiW16 d a => Sys2Proof.Machine.execCvtiW16 d a s
  | .cvtiI64 d a => Sys2Proof.Machine.execCvtiI64 d a s
  | .cvtiW64 d a => Sys2Proof.Machine.execCvtiW64 d a s
  | .cvtiSatI8 d a => Sys2Proof.Machine.execCvtiSatI8 d a s
  | .cvtiSatW8 d a => Sys2Proof.Machine.execCvtiSatW8 d a s
  | .cvtiSatI16 d a => Sys2Proof.Machine.execCvtiSatI16 d a s
  | .cvtiSatW16 d a => Sys2Proof.Machine.execCvtiSatW16 d a s
  | .cvtiSatW32 d a => Sys2Proof.Machine.execCvtiSatW32 d a s
  | .cvtiSatI32 d a => Sys2Proof.Machine.execCvtiSatI32 d a s
  | .setv d p => Sys2Proof.Machine.execSetv d p s
  | .add d a b => Sys2Proof.Machine.execAdd d a b s
  | .addc d a b => Sys2Proof.Machine.execAddc d a b s
  | .sub d a b => Sys2Proof.Machine.execSub d a b s
  | .subb d a b => Sys2Proof.Machine.execSubb d a b s
  | .mullo d a b => Sys2Proof.Machine.execMullo d a b s
  | .mulhiI32 d a b => Sys2Proof.Machine.execMulhiI32 d a b s
  | .mulhiW32 d a b => Sys2Proof.Machine.execMulhiW32 d a b s
  | .mad d a b => Sys2Proof.Machine.execMad d a b s
  | .minI32 d a b => Sys2Proof.Machine.execMinI32 d a b s
  | .minW32 d a b => Sys2Proof.Machine.execMinW32 d a b s
  | .maxI32 d a b => Sys2Proof.Machine.execMaxI32 d a b s
  | .maxW32 d a b => Sys2Proof.Machine.execMaxW32 d a b s
  | .and d a b => Sys2Proof.Machine.execAnd d a b s
  | .or d a b => Sys2Proof.Machine.execOr d a b s
  | .xor d a b => Sys2Proof.Machine.execXor d a b s
  | .andn d a b => Sys2Proof.Machine.execAndn d a b s
  | .shl d a b => Sys2Proof.Machine.execShl d a b s
  | .shr d a b => Sys2Proof.Machine.execShr d a b s
  | .sar d a b => Sys2Proof.Machine.execSar d a b s
  | .fshl d a b => Sys2Proof.Machine.execFshl d a b s
  | .fshr d a b => Sys2Proof.Machine.execFshr d a b s
  | .rotl d a b => Sys2Proof.Machine.execRotl d a b s
  | .bfx d a b => Sys2Proof.Machine.execBfx d a b s
  | .bfi d a b => Sys2Proof.Machine.execBfi d a b s
  | .prmt d a b => Sys2Proof.Machine.execPrmt d a b s
  | .sel d a b => Sys2Proof.Machine.execSel d a b s
  | .setp p cond a b => Sys2Proof.Machine.execSetp p cond a b s
  | .movi d imm => Sys2Proof.Machine.execMovi d imm s
  | .lit d lit => Sys2Proof.Machine.execLit d lit s
  | .lea d a b => Sys2Proof.Machine.execLea d a b s
  | .sad d a b => Sys2Proof.Machine.execSad d a b s
  | .addI16x2 d a b => Sys2Proof.Machine.execAddI16x2 d a b s
  | .subI16x2 d a b => Sys2Proof.Machine.execSubI16x2 d a b s
  | .addSatI16x2 d a b => Sys2Proof.Machine.execAddSatI16x2 d a b s
  | .subSatI16x2 d a b => Sys2Proof.Machine.execSubSatI16x2 d a b s
  | .minI16x2 d a b => Sys2Proof.Machine.execMinI16x2 d a b s
  | .maxI16x2 d a b => Sys2Proof.Machine.execMaxI16x2 d a b s
  | .minW16x2 d a b => Sys2Proof.Machine.execMinW16x2 d a b s
  | .maxW16x2 d a b => Sys2Proof.Machine.execMaxW16x2 d a b s
  | .madI16x2 d a b => Sys2Proof.Machine.execMadI16x2 d a b s
  | .faddF32 d a b => Sys2Proof.Machine.execFaddF32 d a b s
  | .fsubF32 d a b => Sys2Proof.Machine.execFsubF32 d a b s
  | .fmulF32 d a b => Sys2Proof.Machine.execFmulF32 d a b s
  | .ffmaF32 d a b => Sys2Proof.Machine.execFfmaF32 d a b s
  | .frcp d a => Sys2Proof.Machine.execFrcp d a s
  | .frsq d a => Sys2Proof.Machine.execFrsq d a s
  | .fsqrt d a => Sys2Proof.Machine.execFsqrt d a s
  | .fexp2 d a => Sys2Proof.Machine.execFexp2 d a s
  | .flog2 d a => Sys2Proof.Machine.execFlog2 d a s
  | .fsin d a => Sys2Proof.Machine.execFsin d a s
  | .fcos d a => Sys2Proof.Machine.execFcos d a s
  | .frnd d a rnd => Sys2Proof.Machine.execFrnd d a rnd s
  | .fcvt d a n sat kind => Sys2Proof.Machine.execFcvt d a n sat kind s
  | .fcvti d a rnd ty => Sys2Proof.Machine.execFcvti d a rnd ty s
  | .icvtf d a rnd ty => Sys2Proof.Machine.execIcvtf d a rnd ty s
  | .faddH2 d a b => Sys2Proof.Machine.execFaddH2 d a b s
  | .fmulH2 d a b => Sys2Proof.Machine.execFmulH2 d a b s
  | .ffmaH2 d a b => Sys2Proof.Machine.execFfmaH2 d a b s
  | .faddB2 d a b => Sys2Proof.Machine.execFaddB2 d a b s
  | .fmulB2 d a b => Sys2Proof.Machine.execFmulB2 d a b s
  | .ffmaB2 d a b => Sys2Proof.Machine.execFfmaB2 d a b s
  | .fsubH2 d a => Sys2Proof.Machine.execFsubH2 d a s
  | .fsubB2 d a => Sys2Proof.Machine.execFsubB2 d a s
  | .fminF32 d a => Sys2Proof.Machine.execFminF32 d a s
  | .fmaxF32 d a => Sys2Proof.Machine.execFmaxF32 d a s
  | .fminH2 d a => Sys2Proof.Machine.execFminH2 d a s
  | .fmaxH2 d a => Sys2Proof.Machine.execFmaxH2 d a s
  | .fminB2 d a => Sys2Proof.Machine.execFminB2 d a s
  | .fmaxB2 d a => Sys2Proof.Machine.execFmaxB2 d a s
  | .dot2H2 d a b => Sys2Proof.Machine.execDot2H2 d a b s
  | .dot2B2 d a b => Sys2Proof.Machine.execDot2B2 d a b s
  | .dot4E4m3 d a b => Sys2Proof.Machine.execDot4E4m3 d a b s
  | .dot4E5m2 d a b => Sys2Proof.Machine.execDot4E5m2 d a b s
  | .bpx d a b => Sys2Proof.Machine.execBpx d a b s
  | .rencI32 d a => Sys2Proof.Machine.execRencI32 d a s
  | .rencI64 d a => Sys2Proof.Machine.execRencI64 d a s
  | .radd d a b => Sys2Proof.Machine.execRadd d a b s
  | .rmul d a b => Sys2Proof.Machine.execRmul d a b s
  | .rdec d a b => Sys2Proof.Machine.execRdec d a b s
  | .rchk d a b => Sys2Proof.Machine.execRchk d a b s
  | .ldW8 d a off f h => Sys2Proof.Machine.execLdW8 d a off f h s
  | .ldI8 d a off f h => Sys2Proof.Machine.execLdI8 d a off f h s
  | .ldW16 d a off f h => Sys2Proof.Machine.execLdW16 d a off f h s
  | .ldI16 d a off f h => Sys2Proof.Machine.execLdI16 d a off f h s
  | .ldW32 d a off f h => Sys2Proof.Machine.execLdW32 d a off f h s
  | .ldW64 d a off f h => Sys2Proof.Machine.execLdW64 d a off f h s
  | .ldW128 d a off f h => Sys2Proof.Machine.execLdW128 d a off f h s
  | .stW8 d a off f h => Sys2Proof.Machine.execStW8 d a off f h s
  | .stW16 d a off f h => Sys2Proof.Machine.execStW16 d a off f h s
  | .stW32 d a off f h => Sys2Proof.Machine.execStW32 d a off f h s
  | .stW64 d a off f h => Sys2Proof.Machine.execStW64 d a off f h s
  | .stW128 d a off f h => Sys2Proof.Machine.execStW128 d a off f h s
  | .ldxW32 d a off f => Sys2Proof.Machine.execLdxW32 d a off f s
  | .ldxW64 d a off f => Sys2Proof.Machine.execLdxW64 d a off f s
  | .stm d a m => Sys2Proof.Machine.execStm d a m s
  | .ldFeTake d a off f => Sys2Proof.Machine.execLdFeTake d a off f s
  | .ldFePeek d a off f => Sys2Proof.Machine.execLdFePeek d a off f s
  | .stFill d a off f h => Sys2Proof.Machine.execStFill d a off f h s
  | .pref a off h => Sys2Proof.Machine.execPref a off h s
  | .smap d a b => Sys2Proof.Machine.execSmap d a b s
  | .sunmap b => Sys2Proof.Machine.execSunmap b s
  | .swb d b => Sys2Proof.Machine.execSwb d b s
  | .sinv d a => Sys2Proof.Machine.execSinv d a s
  | .acquire => Sys2Proof.Machine.execAcquire s
  | .atom d a b ctl => Sys2Proof.Machine.execAtom d a b ctl s
  | .cas d a b ctl => Sys2Proof.Machine.execCas d a b ctl s
  | .ldAcq d a scope size f => Sys2Proof.Machine.execLdAcq d a scope size f s
  | .stRel d a scope size f => Sys2Proof.Machine.execStRel d a scope size f s
  | .fence scope => Sys2Proof.Machine.execFence scope s
  | .fenceDur => Sys2Proof.Machine.execFenceDur s
  | .tjoin a n m => Sys2Proof.Machine.execTjoin a n m s
  | .tleave n => Sys2Proof.Machine.execTleave n s
  | .tbar n scope => Sys2Proof.Machine.execTbar n scope s
  | .tarrive n scope => Sys2Proof.Machine.execTarrive n scope s
  | .twait n scope => Sys2Proof.Machine.execTwait n scope s
  | .elect d n k => Sys2Proof.Machine.execElect d n k s
  | .shfl d a b => Sys2Proof.Machine.execShfl d a b s
  | .tred d a n op => Sys2Proof.Machine.execTred d a n op s
  | .tscan d a n excl op => Sys2Proof.Machine.execTscan d a n excl op s
  | .ballot d k n => Sys2Proof.Machine.execBallot d k n s
  | .vote j k n mode => Sys2Proof.Machine.execVote j k n mode s
  | .matchT d a n => Sys2Proof.Machine.execMatchT d a n s
  | .sadd d a b w => Sys2Proof.Machine.execSadd d a b w s
  | .ssub d a b w => Sys2Proof.Machine.execSsub d a b w s
  | .smul d a b w => Sys2Proof.Machine.execSmul d a b w s
  | .sand d a b w => Sys2Proof.Machine.execSand d a b w s
  | .sor d a b w => Sys2Proof.Machine.execSor d a b w s
  | .sxor d a b w => Sys2Proof.Machine.execSxor d a b w s
  | .sshl d a b w => Sys2Proof.Machine.execSshl d a b w s
  | .sshr d a b w => Sys2Proof.Machine.execSshr d a b w s
  | .ssar d a b w => Sys2Proof.Machine.execSsar d a b w s
  | .smov d a w => Sys2Proof.Machine.execSmov d a w s
  | .smovi d imm w => Sys2Proof.Machine.execSmovi d imm w s
  | .slit d w lit => Sys2Proof.Machine.execSlit d w lit s
  | .scmp d a b cond => Sys2Proof.Machine.execScmp d a b cond s
  | .ssel d a b w => Sys2Proof.Machine.execSsel d a b w s
  | .sld d a off f size => Sys2Proof.Machine.execSld d a off f size s
  | .sst d a off f size => Sys2Proof.Machine.execSst d a off f size s
  | .mma d a b f => Sys2Proof.Machine.execMma d a b f s
  | .mmaQ d b f => Sys2Proof.Machine.execMmaQ d b f s
  | .mmaz d a b f => Sys2Proof.Machine.execMmaz d a b f s
  | .mmazQ d b f => Sys2Proof.Machine.execMmazQ d b f s
  | .bld d a f => Sys2Proof.Machine.execBld d a f s
  | .bldReed d a f => Sys2Proof.Machine.execBldReed d a f s
  | .bldConv d a f => Sys2Proof.Machine.execBldConv d a f s
  | .bldClr d => Sys2Proof.Machine.execBldClr d s
  | .oprdy => Sys2Proof.Machine.execOprdy s
  | .accld d a f => Sys2Proof.Machine.execAccld d a f s
  | .accz d f => Sys2Proof.Machine.execAccz d f s
  | .acczRows d a f => Sys2Proof.Machine.execAcczRows d a f s
  | .acczFree d f => Sys2Proof.Machine.execAcczFree d f s
  | .accq d a f => Sys2Proof.Machine.execAccq d a f s
  | .setrstAddr a => Sys2Proof.Machine.execSetrstAddr a s
  | .setrst => Sys2Proof.Machine.execSetrst s
  | .setrstClr => Sys2Proof.Machine.execSetrstClr s
  | .copy a f rel => Sys2Proof.Machine.execCopy a f rel s
  | .conv a f rel => Sys2Proof.Machine.execConv a f rel s
  | .gauge a f rel => Sys2Proof.Machine.execGauge a f rel s
  | .reed a f rel => Sys2Proof.Machine.execReed a f rel s
  | .alist a f rel => Sys2Proof.Machine.execAlist a f rel s
  | .coll a f rel => Sys2Proof.Machine.execColl a f rel s
  | .ecancel d a => Sys2Proof.Machine.execEcancel d a s
  | .ecancelAll d => Sys2Proof.Machine.execEcancelAll d s
  | .fspawn d a b f n => Sys2Proof.Machine.execFspawn d a b f n s
  | .fref d a f => Sys2Proof.Machine.execFref d a f s
  | .fdrop a f => Sys2Proof.Machine.execFdrop a f s
  | .fget d a b f => Sys2Proof.Machine.execFget d a b f s
  | .fgetD d a b f => Sys2Proof.Machine.execFgetD d a b f s
  | .fput a f => Sys2Proof.Machine.execFput a f s
  | .fpoll d a f => Sys2Proof.Machine.execFpoll d a f s
  | .fself d => Sys2Proof.Machine.execFself d s
  | .fordatt d f => Sys2Proof.Machine.execFordatt d f s
  | .forddet f => Sys2Proof.Machine.execForddet f s
  | .fordq d => Sys2Proof.Machine.execFordq d s
  | .fordqState d a => Sys2Proof.Machine.execFordqState d a s
  | .fordqCount d => Sys2Proof.Machine.execFordqCount d s
  | .gsync d f => Sys2Proof.Machine.execGsync d f s
  | .hstream d j => Sys2Proof.Machine.execHstream d j s
  | .hloop d lvl => Sys2Proof.Machine.execHloop d lvl s
  | .hpush a q => Sys2Proof.Machine.execHpush a q s
  | .hend f => Sys2Proof.Machine.execHend f s
  | .hsyncDrain a => Sys2Proof.Machine.execHsyncDrain a s
  | .hsyncKind a => Sys2Proof.Machine.execHsyncKind a s
  | .yield => Sys2Proof.Machine.execYield s
  | .budgetCyc d => Sys2Proof.Machine.execBudgetCyc d s
  | .budgetNrg d => Sys2Proof.Machine.execBudgetNrg d s
  | .budgetCtx d => Sys2Proof.Machine.execBudgetCtx d s
  | .budgetTime d => Sys2Proof.Machine.execBudgetTime d s
  | .launch d a f => Sys2Proof.Machine.execLaunch d a f s
  | .trap imm => Sys2Proof.Machine.execTrap imm s
  | .eret => Sys2Proof.Machine.execEret s
  | .csrr d csr => Sys2Proof.Machine.execCsrr d csr s
  | .csrrThread d csr => Sys2Proof.Machine.execCsrrThread d csr s
  | .csrw d csr => Sys2Proof.Machine.execCsrw d csr s
  | .csrwThread d csr => Sys2Proof.Machine.execCsrwThread d csr s
  | .tlbfill d a b => Sys2Proof.Machine.execTlbfill d a b s
  | .tlbinv d a => Sys2Proof.Machine.execTlbinv d a s
  | .walkdone d a => Sys2Proof.Machine.execWalkdone d a s
  | .errpop d a => Sys2Proof.Machine.execErrpop d a s
  | .hzwait d a f => Sys2Proof.Machine.execHzwait d a f s
  | .registerCacheFill blk row reg => Sys2Proof.Machine.execRegisterCacheFill blk row reg s
  | .acquireGrant blk => Sys2Proof.Machine.execAcquireGrant blk s
  | .loadCompletion id reply => Sys2Proof.Machine.execLoadCompletion id reply s
  | .writePerformed id reply => Sys2Proof.Machine.execWritePerformed id reply s
  | .uniformAccessCompletion id reply => Sys2Proof.Machine.execUniformAccessCompletion id reply s
  | .ldFeWake blk tid => Sys2Proof.Machine.execLdFeWake blk tid s
  | .fenceDone blk tid => Sys2Proof.Machine.execFenceDone blk tid s
  | .comMergeFlush id => Sys2Proof.Machine.execComMergeFlush id s
  | .specResolve id => Sys2Proof.Machine.execSpecResolve id s
  | .pinLimitBreak core line => Sys2Proof.Machine.execPinLimitBreak core line s
  | .barrierRelease blk team => Sys2Proof.Machine.execBarrierRelease blk team s
  | .reconvRelease blk team => Sys2Proof.Machine.execReconvRelease blk team s
  | .exchangeRelease blk team => Sys2Proof.Machine.execExchangeRelease blk team s
  | .teamdead blk team => Sys2Proof.Machine.execTeamdead blk team s
  | .sequencerStart core => Sys2Proof.Machine.execSequencerStart core s
  | .sequencerDone core => Sys2Proof.Machine.execSequencerDone core s
  | .bLoaderStart core => Sys2Proof.Machine.execBLoaderStart core s
  | .bLoaderDone core => Sys2Proof.Machine.execBLoaderDone core s
  | .reconstructionStart core => Sys2Proof.Machine.execReconstructionStart core s
  | .reconstructionDone core => Sys2Proof.Machine.execReconstructionDone core s
  | .hwStreamAccess blk => Sys2Proof.Machine.execHwStreamAccess blk s
  | .hwDelivery blk => Sys2Proof.Machine.execHwDelivery blk s
  | .hwNestDone blk => Sys2Proof.Machine.execHwNestDone blk s
  | .queuePopWake blk tid => Sys2Proof.Machine.execQueuePopWake blk tid s
  | .queuePushWake blk => Sys2Proof.Machine.execQueuePushWake blk s
  | .engineChainStart id peer => Sys2Proof.Machine.execEngineChainStart id peer s
  | .engineChainFinish id => Sys2Proof.Machine.execEngineChainFinish id s
  | .collAckTimeout id => Sys2Proof.Machine.execCollAckTimeout id s
  | .collStepRx sender ctx step op ea data => Sys2Proof.Machine.execCollStepRx sender ctx step op ea data s
  | .ualinkAccessRx peer target access => Sys2Proof.Machine.execUalinkAccessRx peer target access s
  | .submit q tail => Sys2Proof.Machine.execSubmit q tail s
  | .admissionCheck q => Sys2Proof.Machine.execAdmissionCheck q s
  | .dispatchOpportunity core lanebase => Sys2Proof.Machine.execDispatchOpportunity core lanebase s
  | .preemptionRequest blk cls => Sys2Proof.Machine.execPreemptionRequest blk cls s
  | .graceExpiry blk => Sys2Proof.Machine.execGraceExpiry blk s
  | .blockSave blk => Sys2Proof.Machine.execBlockSave blk s
  | .writeBackDone blk => Sys2Proof.Machine.execWriteBackDone blk s
  | .exitRelease blk => Sys2Proof.Machine.execExitRelease blk s
  | .budgetExhausted blk => Sys2Proof.Machine.execBudgetExhausted blk s
  | .budgetAllowanceExpiry blk => Sys2Proof.Machine.execBudgetAllowanceExpiry blk s
  | .launchStatus id => Sys2Proof.Machine.execLaunchStatus id s
  | .futureOpComplete id => Sys2Proof.Machine.execFutureOpComplete id s
  | .fgetResolve id => Sys2Proof.Machine.execFgetResolve id s
  | .markDelivery blk => Sys2Proof.Machine.execMarkDelivery blk s
  | .markGraceExpiry blk => Sys2Proof.Machine.execMarkGraceExpiry blk s
  | .reclaim blk => Sys2Proof.Machine.execReclaim blk s
  | .gangJoin gang gindex gmembers device ctx => Sys2Proof.Machine.execGangJoin gang gindex gmembers device ctx s
  | .gangReady gang gindex core => Sys2Proof.Machine.execGangReady gang gindex core s
  | .gangPropose gang => Sys2Proof.Machine.execGangPropose gang s
  | .prepare gang tt => Sys2Proof.Machine.execPrepare gang tt s
  | .accept gang gindex tt => Sys2Proof.Machine.execAccept gang gindex tt s
  | .refuse gang gindex tt => Sys2Proof.Machine.execRefuse gang gindex tt s
  | .acceptDeadline gang => Sys2Proof.Machine.execAcceptDeadline gang s
  | .commit gang tt devices => Sys2Proof.Machine.execCommit gang tt devices s
  | .abort gang tt => Sys2Proof.Machine.execAbort gang tt s
  | .gangStartTime gang tt => Sys2Proof.Machine.execGangStartTime gang tt s
  | .started gang gindex tt => Sys2Proof.Machine.execStarted gang gindex tt s
  | .startedTimeout gang => Sys2Proof.Machine.execStartedTimeout gang s
  | .gangWaitLimit blk => Sys2Proof.Machine.execGangWaitLimit blk s
  | .attach gang gindex len => Sys2Proof.Machine.execAttach gang gindex len s
  | .detach gang gindex => Sys2Proof.Machine.execDetach gang gindex s
  | .depart gang gindex => Sys2Proof.Machine.execDepart gang gindex s
  | .gsyncArrival gang gindex phase => Sys2Proof.Machine.execGsyncArrival gang gindex phase s
  | .gangStopRequest gang cls => Sys2Proof.Machine.execGangStopRequest gang cls s
  | .fordattComplete blk => Sys2Proof.Machine.execFordattComplete blk s
  | .walkRequest cluster => Sys2Proof.Machine.execWalkRequest cluster s
  | .replay ctx page size verdict cause => Sys2Proof.Machine.execReplay ctx page size verdict cause s
  | .hzwaitComplete id => Sys2Proof.Machine.execHzwaitComplete id s
  | .roofwalkWalk cluster => Sys2Proof.Machine.execRoofwalkWalk cluster s
  | .walkDrainTimeout cluster => Sys2Proof.Machine.execWalkDrainTimeout cluster s
  | .patternTestDone cluster result => Sys2Proof.Machine.execPatternTestDone cluster result s
  | .taintNotice ctx device start stop cluster cause image => Sys2Proof.Machine.execTaintNotice ctx device start stop cluster cause image s
  | .oxbowCompare run => Sys2Proof.Machine.execOxbowCompare run s
  | .oxbowThirdRun run => Sys2Proof.Machine.execOxbowThirdRun run s
  | .sramUe core kind slot bank syndrome => Sys2Proof.Machine.execSramUe core kind slot bank syndrome s
  | .l2Ue pa => Sys2Proof.Machine.execL2Ue pa s
  | .hbmUnitUe pa => Sys2Proof.Machine.execHbmUnitUe pa s
  | .parityUpdate stripe => Sys2Proof.Machine.execParityUpdate stripe s
  | .stackLoss stack => Sys2Proof.Machine.execStackLoss stack s
  | .parityRewriteDone stripe => Sys2Proof.Machine.execParityRewriteDone stripe s
  | .thatchRebuildDone => Sys2Proof.Machine.execThatchRebuildDone s
  | .coreGateEntry core => Sys2Proof.Machine.execCoreGateEntry core s
  | .gateCommit core wake => Sys2Proof.Machine.execGateCommit core wake s
  | .coreWake core => Sys2Proof.Machine.execCoreWake core s
  | .powerUpComplete core => Sys2Proof.Machine.execPowerUpComplete core s
  | .timeMessageSend => Sys2Proof.Machine.execTimeMessageSend s
  | .timeMessageRx peer time => Sys2Proof.Machine.execTimeMessageRx peer time s
  | .peerSilenceTimeout peer => Sys2Proof.Machine.execPeerSilenceTimeout peer s
  | .silazResendTimeout session seq => Sys2Proof.Machine.execSilazResendTimeout session seq s
  | .silazAck session seq => Sys2Proof.Machine.execSilazAck session seq s
  | .memwr session addr data => Sys2Proof.Machine.execMemwr session addr data s
  | .memrd session addr len => Sys2Proof.Machine.execMemrd session addr len s
  | .hostErrpop session ctx => Sys2Proof.Machine.execHostErrpop session ctx s
  | .hostReplay session ctx page size verdict cause => Sys2Proof.Machine.execHostReplay session ctx page size verdict cause s
  | .mgmtWrite num value => Sys2Proof.Machine.execMgmtWrite num value s
  | .rwctlWrite value => Sys2Proof.Machine.execRwctlWrite value s
  | .pcapWrite value => Sys2Proof.Machine.execPcapWrite value s
  | .futureConfigWrite num value => Sys2Proof.Machine.execFutureConfigWrite num value s
  | .openSession p => Sys2Proof.Machine.execOpenSession p s
  | .closeSession p => Sys2Proof.Machine.execCloseSession p s
  | .migDemote p => Sys2Proof.Machine.execMigDemote p s
  | .migPromote p => Sys2Proof.Machine.execMigPromote p s
  | .tlbInval p => Sys2Proof.Machine.execTlbInval p s
  | .mgmtReplay p => Sys2Proof.Machine.execMgmtReplay p s
  | .ctxKill p => Sys2Proof.Machine.execCtxKill p s
  | .keyLoad p => Sys2Proof.Machine.execKeyLoad p s
  | .coreReset p => Sys2Proof.Machine.execCoreReset p s
  | .clusterReadmit p => Sys2Proof.Machine.execClusterReadmit p s
  | .peerLost p => Sys2Proof.Machine.execPeerLost p s
  | .thatchRebuild => Sys2Proof.Machine.execThatchRebuild s
  | .mrRegister p => Sys2Proof.Machine.execMrRegister p s
  | .qpRing p => Sys2Proof.Machine.execQpRing p s
  | .mgmtCmdComplete => Sys2Proof.Machine.execMgmtCmdComplete s
  | .rdmaWrite qp region key addr data => Sys2Proof.Machine.execRdmaWrite qp region key addr data s
  | .rdmaRead qp region key addr len => Sys2Proof.Machine.execRdmaRead qp region key addr len s
  | .send qp data => Sys2Proof.Machine.execSend qp data s
  | .roceUnsupportedOp qp => Sys2Proof.Machine.execRoceUnsupportedOp qp s
  | .ethFrameDrop => Sys2Proof.Machine.execEthFrameDrop s
  | .getVersion => Sys2Proof.Machine.execGetVersion s
  | .getCapabilities => Sys2Proof.Machine.execGetCapabilities s
  | .negotiateAlgorithms => Sys2Proof.Machine.execNegotiateAlgorithms s
  | .getDigests => Sys2Proof.Machine.execGetDigests s
  | .getCertificate => Sys2Proof.Machine.execGetCertificate s
  | .challenge nonce => Sys2Proof.Machine.execChallenge nonce s
  | .getMeasurements => Sys2Proof.Machine.execGetMeasurements s
  | .keyExchange nonce => Sys2Proof.Machine.execKeyExchange nonce s
  | .finish mac => Sys2Proof.Machine.execFinish mac s
  | .packageReset => Sys2Proof.Machine.execPackageReset s
  | .instructionFetch blk tid => Sys2Proof.Machine.execInstructionFetch blk tid s
  | .viewCopyDrop core pa => Sys2Proof.Machine.execViewCopyDrop core pa s
  | .spatialPrefetch core ctx ea => Sys2Proof.Machine.execSpatialPrefetch core ctx ea s
  | .softError core target => Sys2Proof.Machine.execSoftError core target s
  | .forddetComplete blk => Sys2Proof.Machine.execForddetComplete blk s
  | .tlbinvComplete blk tid => Sys2Proof.Machine.execTlbinvComplete blk tid s
  | .gangConflict gang gindex => Sys2Proof.Machine.execGangConflict gang gindex s
  | .gangBroken gang => Sys2Proof.Machine.execGangBroken gang s
  | .stackHealthy => Sys2Proof.Machine.execStackHealthy s

end Sys2Proof.Machine
end

