-- ==== Sys2Proof/Machine/Picker.lean ====
section
/-! DEFINITION. When a wait is over (03_control.md R96 and the rules of each wait), and the picker: which bundle issues
next (03 R75 to R78). -/

namespace Sys2Proof.Machine

/-- Is a thread's wait over, so that it executes its instruction again (03 R90, R96)? Waits for a rendezvous or for a
translation end by their events alone. -/
def State.waitOver (s : State) (b t : Nat) (w : Wait) : Bool :=
  let x := s.block b
  let th := s.thread b t
  match w with
  | .flags mask => th.flagsZero mask
  | .flagFull f => x.liveTids.all fun u => (s.thread b u).flag f < 7
  | .line row reg => x.cached.contains (256 * row + reg)
  | .fetch _ _ => false
  | .xlate _ _ _ => false
  | .retry pa => s.reach x.padCore pa
  | .order id => !s.ops.any (·.id == id)
  | .sinv _ _ => false
  | .peer ea _ => th.fetched.any (·.1 == ea)
  | .acquire => x.allot == x.full
  | .release sc dur => !s.fenceWaits b t sc dur
  | .acquirePart => !s.acquireHolds b [t] s.seq && !s.specPending b [t] s.seq
  | .barrier _ _ | .reconv _ | .exchange _ _ _ _ _ _ | .tlbinv => false
  | .fget h => s.resolved h
  | .twait n _ => th.splitOf n == 2
  | .granule tg => s.granuleOver b t tg
  | .popQueue q => s.popWaitOver b t q
  | .pushQueue _ | .hsync _ | .nestRunning | .sliceExit => s.sliceWaitOver b w
  | .chainLimit => ((s.chains.filter (·.core == x.core)).length < 16 : Bool)

/-- Can a thread issue: it is ready (03 R96), and its member of a gang does not wait for its window? The walk slot of a cluster whose core 0 is
withdrawn issues all the same (00_scope.md R1 is silent on it: DESIGN CHOICE; log entry 104). -/
def State.canIssue (s : State) (b t : Nat) : Bool :=
  let x := s.block b
  (x.life == .resident || x.life == .stopping) && !(s.getCore x.core).halted && (s.getCore x.core).gate.isOn && !s.awaitsWindow x &&
    (s.getThread b t).any (·.run == .ready)

/-- Every thread whose wait is over becomes ready (03 R96; 06 R164: no later than the next cycle). -/
def State.endWaits (s : State) : State :=
  (s.blockIds.flatMap fun b =>
    let x := s.block b
    if x.inSlot then
      (List.range x.threads.length).filterMap fun t =>
        match (s.thread b t).run with
        | .stalled w => if s.waitOver b t w then some (b, t) else none
        | _ => none
    else []).foldl (fun (s : State) m => s.wake m.1 m.2) s

/-- The threads that can issue and stand in no bundle. -/
def State.pending (s : State) : List (Nat × Nat) :=
  s.blockIds.flatMap fun b =>
    let x := s.block b
    if x.inSlot then
      (List.range x.threads.length).filterMap fun t =>
        if s.canIssue b t && !(s.bundles.any fun u => u.members.contains (b, t)) then some (b, t) else none
    else []

/-- May a thread join a bundle led by another: same core, context, pc and clause, not a HEADWATER block (03 R75)? -/
def State.joins (s : State) (l m : Nat × Nat) : Bool :=
  l == m ||
    let x := s.block l.1
    let y := s.block m.1
    let a := s.thread l.1 l.2
    let c := s.thread m.1 m.2
    x.core == y.core && x.ctx == y.ctx && x.kind == y.kind && x.kind != .headwater &&
      a.pc == c.pc && a.clauseIdx == c.clauseIdx && a.clause == c.clause

/-- Keep at most 8 threads per home lane (03 R74, R75), in order. -/
def State.perLane (s : State) : List (Nat × Nat) → List (Nat × Nat) → List (Nat × Nat)
  | acc, [] => acc
  | acc, m :: ms =>
    let lane (m : Nat × Nat) : Nat := ((s.block m.1).lanebase + m.2) % 16
    if (acc.filter fun a => lane a == lane m).length < 8 then s.perLane (acc ++ [m]) ms else s.perLane acc ms

/-- Order of a bundle's members: block slot, then tid (03 R76). -/
def State.memberLe (s : State) (a c : Nat × Nat) : Bool :=
  let x := (s.block a.1).slot
  let y := (s.block c.1).slot
  x < y || (x == y && a.2 ≤ c.2)

/-- Insert a member in its place. -/
def State.placeMember (s : State) (m : Nat × Nat) : List (Nat × Nat) → List (Nat × Nat)
  | [] => [m]
  | a :: r => if s.memberLe m a then m :: a :: r else a :: s.placeMember m r

/-- Has something waited to issue since a cycle for half of the 4,096 cycles of the fairness rule (03 R96)? -/
def State.overdue (s : State) (since : Nat) : Bool := since + 2048 ≤ s.now

/-- Is a list of members the thread of a slice? The core's AAE runs it, not the lane pipe (03 R73; 12_headwater.md R278). -/
def State.aae (s : State) (ms : List (Nat × Nat)) : Bool := ms.any fun m => (s.block m.1).kind == .headwater

/-- Has a core room for one more bundle (03 R75)? Slices stand in none. -/
def State.hasRoom (s : State) (core : Nat) : Bool := (s.bundles.filter fun u => u.core == core && !s.aae u.members).length < 8

/-- Form one bundle from the pending pool, led by the longest-waiting thread of a core with room (03 R78); a slice's thread stands
for itself. -/
def State.formOne (s : State) : State :=
  let ps := s.pending.filter fun m => s.aae [m] || s.hasRoom (s.block m.1).core
  match ps with
  | [] => s
  | p :: _ =>
    let lead := ps.foldl (fun l m => if (s.thread m.1 m.2).since < (s.thread l.1 l.2).since then m else l) p
    let ms := s.perLane [] ((ps.filter (s.joins lead)).foldl (fun acc m => s.placeMember m acc) [])
    let s1 := ms.foldl (fun (s : State) m => s.modThread m.1 m.2 fun th => { th with run := .ready }) s
    { s1 with bundles := s1.bundles ++ [{ core := (s.block lead.1).core, members := ms, lastIssue := s.now }] }

/-- Priority of a bundle (03 R73, R78): its best member's role priority; a walk slot goes before every role (17 R407). -/
def State.prioOf (s : State) (u : Bundle) : Nat :=
  (u.members.map fun m =>
    let x := s.block m.1
    if x.kind == .walker then 4 else ((s.roleOf x).map (·.prio)).getD 0).foldl Nat.max 0

/-- The agent that issues a bundle: the lane pipe of its core, or the core's AAE for a slice. -/
def State.issuer (s : State) (u : Bundle) : Nat := 2 * u.core + if s.aae u.members then 1 else 0

/-- How far an agent's turn to issue is away. -/
def State.turnsTo (s : State) (agent : Nat) : Nat := (agent + 1023 - s.turn % 1024) % 1024

/-- Does a bundle issue before another: its agent's turn comes first; on one lane pipe, what the fairness rule calls for, oldest
first, then highest priority, then least recently issued (03 R78, R96)? Slices have no priority (R73). -/
def State.before (s : State) (u v : Bundle) : Bool :=
  let rank (u : Bundle) : Nat := if s.overdue u.lastIssue then 5 else if s.aae u.members then 0 else s.prioOf u
  let older := u.lastIssue < v.lastIssue
  if s.issuer u = s.issuer v then rank u > rank v || (rank u == rank v && older) else s.turnsTo (s.issuer u) < s.turnsTo (s.issuer v)

/-- The bundle that issues. Every core has a picker of its own (03 R78); the model lets the cores take turns. -/
def State.bestBundle (s : State) : Option Bundle :=
  let live := s.bundles.filter fun u => u.members.any fun m => s.canIssue m.1 m.2
  live.foldl (fun best u =>
    match best with
    | none => some u
    | some v => if s.before u v then some u else some v) none

/-- The picker's choice: the bundle becomes the one that issues now. -/
def State.pick (s : State) : Option State :=
  let s1 := s.formOne
  match s1.bestBundle with
  | none => none
  | some u =>
    let ms := u.members.filter fun m => s1.canIssue m.1 m.2
    some { s1 with
      cur := ms
      turn := s1.issuer u
      bundles := s1.bundles.map fun (v : Bundle) =>
        if v.members = u.members then { v with members := ms, lastIssue := s.now + 1 } else v }

/-- What the issuing bundle executes next: the header at its boundary, or its clause's next word (02 R45). -/
inductive Fetched where
  | instr (i : Instr)
  /-- a word that is no instruction: every thread of the bundle stops so -/
  | stops (st : Stop)
  /-- a thread that ERET put in the middle of a clause it has yet to fetch (17 R397) -/
  | resume
deriving DecidableEq, Repr

/-- Is body word idx of a clause a literal word (02 R43)? -/
def literalAt (idx : Nat) : Nat → List Word → Bool
  | _, [] => false
  | i, w :: ws =>
    let lit := match decodeWord w.toNat (ws.head?.map (·.toNat)) with
      | .ok ins => ins.takesLiteral
      | .error _ => false
    match lit, ws with
    | true, _ :: rest => i + 1 == idx || literalAt idx (i + 2) rest
    | _, ws => literalAt idx (i + 1) ws

/-- Fetch afresh the clause a thread resumes in (17 R397): its header at h, the word's index checked. -/
def State.resumeFetch (s : State) (b t : Nat) : Except Stop (List Word) :=
  let th := s.thread b t
  let h := th.pc - w64 (4 * th.clauseIdx)
  if h.toNat % 4 ≠ 0 then .error (.trap .badTarget h (faultInfo .fetch))
  else
    match s.codeWord b h with
    | .error e => .error e
    | .ok w =>
      if !isHeader w then .error (.trap .badTarget h (faultInfo .fetch))
      else if badSets w then .error (.trap .illegal 0 (faultInfo .fetch))
      else
        match s.codeWords b (h + 4) (clauseCount w) with
        | .error e => .error e
        | .ok ws =>
          if th.clauseIdx > clauseCount w || literalAt th.clauseIdx 1 ws then
            .error (.trap .badTarget th.pc (faultInfo .fetch))
          else .ok (w :: ws)

/-- The clause arrives for a thread that resumes, or the thread stops. -/
def State.resumeStep (s : State) (m : Nat × Nat) : State :=
  match s.resumeFetch m.1 m.2 with
  | .ok ws => s.modThread m.1 m.2 fun th => { th with clause := ws }
  | .error st => s.stopThread m.1 m.2 st

/-- Fetch and decode for the thread that leads the bundle; the others stand at the same word. -/
def State.fetch (s : State) (b t : Nat) : Fetched :=
  let th := s.thread b t
  if th.clauseIdx = 0 then
    if th.pc.toNat % 4 ≠ 0 then .stops (.trap .badTarget th.pc 0)
    else
    match s.codeWord b th.pc with
    | .error e => .stops e
    | .ok w =>
      if isHeader w then
        match decodeWord w.toNat none with
        | .ok i => .instr i
        | .error _ => .stops (.trap .illegal 0 0)
      else .stops (.trap .badTarget th.pc 0)
  else
    match th.clause[th.clauseIdx]? with
    | none => if th.clause.isEmpty then .resume else .stops (.trap .illegal 0 0)
    | some w =>
      match decodeWord w.toNat (th.clause[th.clauseIdx + 1]?.map (·.toNat)) with
      | .ok i => .instr i
      | .error _ => .stops (.trap .illegal 0 0)

end Sys2Proof.Machine
end

