-- ==== Sys2Proof/Machine/Internal.lean ====
section
/-! DEFINITION. What happens without an outside cause: the passing of time, messages the device sends to itself, and the next
event of the package's own agents (log entries 1 and 3). -/

namespace Sys2Proof.Machine

/-! Time and energy (14_scheduling.md R332, R333). -/

/-- What a slice has been charged beyond its debit, in nJ. -/
def Block.excess (x : Block) : Nat := x.charged - 1000 * x.debit

/-- Energy of a block, in nJ, goes to its launch, its context, a die and the package; what no debit covers, to the reservoir (R333). -/
def State.chargeTo (s : State) (x : Block) (die e beyond : Nat) : State :=
  { s with
    launches := s.launches.map fun (l : Launch) => if l.id = x.launch then { l with energy := l.energy + e } else l
    sched := { s.sched with
      reservoir := s.sched.reservoir - 18 * (beyond : Int)
      nrgPkg := s.sched.nrgPkg + w64 e
      nrgDie := s.sched.nrgDie.modify die (· + w64 e)
      nrgCtx := Cells.put 0 x.ctx (Cells.getD x.ctx 0 s.sched.nrgCtx + w64 e) s.sched.nrgCtx } }

/-- Charge a resident block for one cycle: its slice, launch, context, die and the package (R333). -/
def State.chargeBlock (s : State) (b : Nat) : State :=
  let x := s.block b
  let lead := x.pairOf.getD b
  let e := Config.charge b s.now
  let before := (s.block lead).excess
  let s1 := s.modBlock lead fun y => { y with charged := y.charged + e }
  s1.chargeTo x (dieOf x.core) e ((s1.block lead).excess - before)

/-- Charge a started chain whose block is in no slot, and so has no slice, for one cycle (R333; 13_engines.md R303). -/
def State.chargeChain (s : State) (c : Chain) : State :=
  let x := s.block c.blk
  if !c.started || x.inSlot then s
  else s.chargeTo x (dieOf c.core) (Config.charge c.id s.now) (Config.charge c.id s.now)

/-- The reservoir refills at CAP and pays the overhead, which goes to its die and to the package (R333). -/
def State.refill (s : State) : State :=
  let drawn (die : Nat) : Nat := Config.overhead (4 * s.now + die)
  let sum := ((List.range 4).map drawn).sum
  { s with sched := { s.sched with
    reservoir := min (s.sched.reservoir + 5 * (s.capW : Int) - 18 * (sum : Int)) (s.reservoirCap : Int)
    nrgPkg := s.sched.nrgPkg + w64 sum
    nrgDie := (s.sched.nrgDie.zipIdx).map fun e => e.1 + w64 (drawn e.2) } }

/-- Time passes by one core cycle. -/
def State.pass (s : State) : State :=
  let s1 : State := { s with now := s.now + 1 }
  (s1.chains.foldl (fun (s : State) c => s.chargeChain c)
    ((s1.blockIds.filter fun b => (s1.block b).inSlot).foldl (fun (s : State) b => s.chargeBlock b) s1)).refill

/-- Threads that have become ready take the BUDGET traps that are due (R334). -/
def State.takeDues (s : State) : State :=
  (s.blockIds.flatMap fun b => if (s.block b).inSlot then (List.range (s.block b).threads.length).map (b, ·) else []).foldl
    (fun (s : State) m => s.takeDue m.1 m.2) s

/-- Time passes, and what follows at once from the state follows: the end of the pins of a releasing block, commands of a gang whose
release part is over, tests of a drained cluster, a stack's rebuild, completion records that waited, waits that are over, BUDGET traps that were due. -/
def State.tick (s : State) : State := s.pass.endReleasing.settleGang.beginTests.rebuildOn.completeLaunches.endWaits.takeDues

/-! Messages to itself. -/

/-- A message of the device to itself arrives. -/
def State.receive (s : State) (m : Msg) : Host.Outcome State Fault Refusal :=
  match m with
  | .join _ gang gindex gmembers device ctx => execGangJoin gang gindex gmembers device ctx s
  | .joinRefused _ gang gindex => execGangConflict gang gindex s
  | .ready _ gang gindex => .next (s.noteReady gang gindex)
  | .prepare _ gang tt => execPrepare gang tt s
  | .accept _ gang gindex tt => execAccept gang gindex tt s
  | .refuse _ gang gindex tt => execRefuse gang gindex tt s
  | .commit _ gang tt devices => execCommit gang tt devices s
  | .abort _ gang tt => execAbort gang tt s
  | .started _ gang gindex tt => execStarted gang gindex tt s
  | .miss _ gang tt count indices => .next (s.gangMissed gang tt count indices)
  | .broken _ gang => execGangBroken gang s
  | .attach gang gindex len => execAttach gang gindex len s
  | .detach gang gindex => execDetach gang gindex s
  | .depart gang gindex => execDepart gang gindex s
  | .gsync gang gindex phase => execGsyncArrival gang gindex phase s
  | .gangStop gang cls => execGangStopRequest gang cls s
  | _ => .next s

/-! The package's own events. -/

/-- An outcome that changes the state. -/
def acts (s : State) (r : Host.Outcome State Fault Refusal) : Option (Host.Outcome State Fault Refusal) :=
  match r with
  | .next s' => if s' = s then none else some r
  | _ => none

/-- The first of a list of tries that acts. -/
def firstAct {α : Type} (s : State) (l : List α) (f : α → State → Host.Outcome State Fault Refusal) :
    Option (Host.Outcome State Fault Refusal) := l.findSome? fun a => acts s (f a s)

/-- Does an operation lie on a peer that is there to answer it? -/
def State.awaitsPeer (s : State) (o : MemOp) : Bool :=
  let gone := ((s.gangOf (s.block o.blk)).map (·.departed)).getD []
  o.tgts.any fun t => match t with | .ford _ m _ => !gone.contains m | _ => false

/-- An operation in flight completes. -/
def opEvent (o : MemOp) (s : State) : Host.Outcome State Fault Refusal :=
  if s.awaitsPeer o then .next s
  else if o.uniform then execUniformAccessCompletion o.id [] s
  else
    match o.kind with
    | .load _ | .fe => execLoadCompletion o.id [] s
    | .spec _ _ => execSpecResolve o.id s
    | _ => if o.isCom then execComMergeFlush o.id s else execWritePerformed o.id [] s

/-- A thread's wait for a line, for words of code, or for TLBINV ends. -/
def waitEvent (b : Nat) (e : Thread × Nat) (s : State) : Host.Outcome State Fault Refusal :=
  match e.1.run with
  | .stalled (.line row reg) => execRegisterCacheFill b row reg s
  | .stalled (.fetch _ _) => execInstructionFetch b e.2 s
  | .stalled .tlbinv => execTlbinvComplete b e.2 s
  | _ => .next s

/-- Rendezvous of a block's teams, and its grant of registers. -/
def teamEvent (b : Nat) (s : State) : Option (Host.Outcome State Fault Refusal) :=
  (firstAct s (List.range 8) fun n s => execBarrierRelease b n s).orElse fun _ =>
  (firstAct s (List.range 8) fun n s => execTeamdead b n s).orElse fun _ =>
  (firstAct s (List.range 8) fun n s => execReconvRelease b n s).orElse fun _ =>
  (firstAct s (List.range 8) fun n s => execExchangeRelease b n s).orElse fun _ =>
  (acts s (execAcquireGrant b s)).orElse fun _ =>
  firstAct s ((s.block b).threads.zipIdx) fun e s => waitEvent b e s

/-- The headwater part of a block. -/
def sliceEvent (b : Nat) (s : State) : Option (Host.Outcome State Fault Refusal) :=
  if (s.block b).slice.isNone then none
  else
    (acts s (execHwDelivery b s)).orElse fun _ =>
    (acts s (execHwStreamAccess b s)).orElse fun _ => acts s (execHwNestDone b s)

/-- The matrix units of a core. -/
def matrixEvent (core : Nat) (s : State) : Option (Host.Outcome State Fault Refusal) :=
  let c := s.getCore core
  (if c.sequencer.isEmpty then none else (acts s (execSequencerDone core s)).orElse fun _ => acts s (execSequencerStart core s)).orElse fun _ =>
  (if c.loader.isEmpty then none else (acts s (execBLoaderDone core s)).orElse fun _ => acts s (execBLoaderStart core s)).orElse fun _ =>
  if c.recon.isEmpty then none
  else (acts s (execReconstructionDone core s)).orElse fun _ => acts s (execReconstructionStart core s)

/-- An engine chain goes on; one that has asked a peer waits there for the answer. -/
def chainEvent (c : Chain) (s : State) : Option (Host.Outcome State Fault Refusal) :=
  (acts s (execEngineChainFinish c.id s)).orElse fun _ =>
  (acts s (execCollAckTimeout c.id s)).orElse fun _ => acts s (execEngineChainStart c.id [] s)

/-- Life of a block: stops, saves, exits, budgets, marks. -/
def lifeEvent (b : Nat) (s : State) : Option (Host.Outcome State Fault Refusal) :=
  let x := s.block b
  if x.life == .done then none
  else
    (acts s (execExitRelease b s)).orElse fun _ =>
    (acts s (execBlockSave b s)).orElse fun _ =>
    (acts s (execWriteBackDone b s)).orElse fun _ =>
    (acts s (execGraceExpiry b s)).orElse fun _ =>
    (acts s (execBudgetExhausted b s)).orElse fun _ =>
    (acts s (execBudgetAllowanceExpiry b s)).orElse fun _ =>
    (acts s (execMarkDelivery b s)).orElse fun _ =>
    (acts s (execMarkGraceExpiry b s)).orElse fun _ =>
    (acts s (execReclaim b s)).orElse fun _ =>
    match x.deferred with
    | some c => if s.mustDefer b || x.life != .resident then none else acts s (.next (s.requestStop b c))
    | none => none

/-- A member of a gang (16_gangs.md). -/
def memberEvent (b : Nat) (s : State) : Option (Host.Outcome State Fault Refusal) :=
  let x := s.block b
  match x.gang with
  | none => none
  | some g =>
    if x.life == .done then none
    else
      (if g.joined then none else acts s (execGangJoin g.gang g.index g.members s.device x.ctx s)).orElse fun _ =>
      (if g.phaseSt = 5 then acts s (execGangReady g.gang g.index x.core s) else none).orElse fun _ =>
      (acts s (execGangStartTime g.gang g.tt s)).orElse fun _ =>
      (acts s (execGangWaitLimit b s)).orElse fun _ =>
      (acts s (execFordattComplete b s)).orElse fun _ =>
      if (List.range g.members).all fun m => m == g.index || g.departed.contains m then acts s (execForddetComplete b s) else none

/-- The coordinator of a gang. -/
def coordEvent (r : Gang) (s : State) : Option (Host.Outcome State Fault Refusal) :=
  (acts s (execGangPropose r.gang s)).orElse fun _ =>
  (acts s (execAcceptDeadline r.gang s)).orElse fun _ => acts s (execStartedTimeout r.gang s)

/-- The blocks of a core that a class may have pre-empted (14 R329). -/
def State.victims (s : State) (core cls : Nat) : List Nat :=
  (s.onCore core).filter fun v => let x := s.block v; x.kind == .lane && x.life == .resident && s.clsOf v > cls

/-- The scheduler has blocks pre-empted for its best queued block that fits nowhere (14 R329). -/
def State.preemptFor (s : State) : Option (Host.Outcome State Fault Refusal) :=
  match bestBy s.dispatchKey s.queued with
  | none => none
  | some p =>
    let cls := s.clsOf p
    if (List.range 512).any fun c => (s.fitsOn p c []).isSome || (s.onCore c).any (fun b => (s.block b).life == .stopping || (s.block b).life == .saving)
      then none
    else
      match (List.range 512).find? fun c => !(s.victims c cls).isEmpty && (s.fitsOn p c ((s.victims c cls).flatMap s.group)).isSome with
      | none => none
      | some c => firstAct s (s.victims c cls) fun v s => execPreemptionRequest v cls s

/-- Queues with something to read (14 R325, R326). -/
def State.busyQueues (s : State) : List Nat := (s.sched.arrivals.map (·.1) ++ s.sched.holding.map (·.1)).dedup

/-- The scheduler: queues, launches, futures, dispatch. The lane base it chooses is free (03 R74). -/
def schedEvent (s : State) : Option (Host.Outcome State Fault Refusal) :=
  (firstAct s s.busyQueues fun q s => execAdmissionCheck q s).orElse fun _ =>
  (firstAct s s.launchOps fun o s => execLaunchStatus o.id s).orElse fun _ =>
  (firstAct s s.futOps fun o s => execFutureOpComplete o.id s).orElse fun _ =>
  (firstAct s s.futOps fun o s => execFgetResolve o.id s).orElse fun _ =>
  (acts s (.next s.mendTable)).orElse fun _ =>
  if s.queued.isEmpty then none
  else
    let s1 : State := { s with fresh := s.fresh + 1 }
    (firstAct s1 (List.range 512) fun c s1 => execDispatchOpportunity c ((Config.freeWord s.fresh).toNat % 16) s1).orElse fun _ => s.preemptFor

/-- Roofwalk, Oxbow and Thatch. A pattern test that nothing outside makes fail passes. -/
def healthEvent (s : State) : Option (Host.Outcome State Fault Refusal) :=
  (firstAct s s.hzOps fun o s => execHzwaitComplete o.id s).orElse fun _ =>
  (firstAct s s.walkDue.toList fun k s => execRoofwalkWalk k s).orElse fun _ =>
  (firstAct s s.clusters fun e s => execWalkDrainTimeout e.1 s).orElse fun _ =>
  (firstAct s s.clusters fun e s => execPatternTestDone e.1 .pass s).orElse fun _ =>
  (firstAct s s.oxRuns fun r s => execOxbowCompare r.id s).orElse fun _ =>
  (firstAct s s.oxRuns fun r s => execOxbowThirdRun r.id s).orElse fun _ =>
  (firstAct s s.thatch.stripes fun e s => execParityRewriteDone e.1 s).orElse fun _ =>
  (firstAct s (s.thatch.owed.take 1) fun o s => execParityUpdate (stripeOf o.pa) s).orElse fun _ => acts s (execThatchRebuildDone s)

/-- The peers this device has heard from, and those its gangs and chains name. -/
def State.peersKnown (s : State) : List Nat :=
  (s.links.heard.map (·.1) ++ (s.blocks.flatMap fun e => match e.2.gang with
    | some g => if e.2.life = .done then [] else (g.gang % 1024) :: g.devices
    | none => []) ++ s.gangs.flatMap (fun r => r.joined.map (·.2)) ++
    s.chains.flatMap fun c => (c.recs.flatMap fun r => [r.srcdev, r.dstdev]).filterMap fun d => if isRemote d then some (d % 1024) else none).dedup

/-- Links, power and the management interface. -/
def outerEvent (s : State) : Option (Host.Outcome State Fault Refusal) :=
  (acts s (.next s.retryInbox)).orElse fun _ =>
  (acts s (execMgmtCmdComplete s)).orElse fun _ =>
  (firstAct s s.pins fun p s => execPinLimitBreak p.core p.line s).orElse fun _ =>
  (firstAct s s.clusters fun e s => execWalkRequest e.1 s).orElse fun _ =>
  (acts s (execTimeMessageSend s)).orElse fun _ =>
  (firstAct s s.links.unacked fun u s => execSilazResendTimeout u.session u.seq s).orElse fun _ =>
  (firstAct s s.peersKnown fun p s => execPeerSilenceTimeout p s).orElse fun _ =>
  (firstAct s (List.range 512) fun c s => execPowerUpComplete c s).orElse fun _ =>
  (firstAct s (List.range 512) fun c s => execGateCommit c false s).orElse fun _ =>
  (firstAct s (List.range 512) fun c s => execCoreGateEntry c s)

/-- The package's own agents, by kind. -/
def agents : List (State → Option (Host.Outcome State Fault Refusal)) :=
  [fun s => firstAct s s.ops opEvent,
   fun s => s.blockIds.findSome? fun b => teamEvent b s,
   fun s => s.blockIds.findSome? fun b => sliceEvent b s,
   fun s => s.cores.findSome? fun e => matrixEvent e.1 s,
   fun s => s.chains.findSome? fun c => chainEvent c s,
   fun s => s.blockIds.findSome? fun b => memberEvent b s,
   fun s => s.gangs.findSome? fun r => coordEvent r s,
   fun s => s.blockIds.findSome? fun b => lifeEvent b s,
   schedEvent, healthEvent, outerEvent]

/-- The next event of the package's own agents, if one has something to do. Kinds of agents take turns, so that none keeps
another from acting. -/
def State.internal (s : State) : Option (Host.Outcome State Fault Refusal) :=
  (agents.rotateLeft (s.now / 2 % 11)).findSome? fun f => f s

end Sys2Proof.Machine
end

