-- ==== Sys2Proof/Machine/Step.lean ====
section
/-! DEFINITION. One step of the package: a core cycle passes, and the next event of the agenda happens, or a message of the device
to itself arrives, or the bundle the picker chooses executes its next word, or the package's own agents act (log entries 1
and 3). -/

namespace Sys2Proof.Machine

/-- The bundle chosen executes its next word; a word that is no instruction stops each of its threads. -/
def issueBundle (s : State) : Host.Outcome State Fault Refusal :=
  match s.cur with
  | [] => .next s
  | m :: _ =>
    match s.fetch m.1 m.2 with
    | .instr i => exec i s
    | .resume => .next (s.cur.foldl State.resumeStep s)
    | .stops st => .next (s.cur.foldl (fun (s : State) m => if s.cur.contains m then s.stopAt m.1 m.2 st else s) s)

/-- The chosen bundle of the picker issues, if a thread can. -/
def State.threads (s : State) : Option (Host.Outcome State Fault Refusal) := s.pick.map issueBundle

/-- What happens in a step without an outside cause: a message of the device to itself; else the threads and the package's own
agents take turns, and who has nothing to do leaves the step to the other. -/
def stepInside (s : State) : Host.Outcome State Fault Refusal :=
  match s.loop with
  | m :: ms => State.receive { s with loop := ms } m
  | [] =>
    if s.now % 2 = 1 then ((s.threads).orElse fun _ => s.internal).getD (.next s)
    else ((s.internal).orElse fun _ => s.threads).getD (.next s)

/-- One step. An instruction word in the agenda lets the inside of the package take this step; an event happens. -/
def step (s : State) : Host.Outcome State Fault Refusal :=
  match s.agenda with
  | [] => stepInside s.tick
  | e :: rest =>
    if e.isWord then stepInside { s.tick with agenda := rest } else exec e { s.tick with agenda := rest }

/-- The clause a word is placed in by withFetchWord: flags A and B are f0 and f1; the word is the last counted one, with
its literal when it takes one. -/
def fetchClause (w lit : Nat) : List Word :=
  match decodeWord w (some lit) with
  | .ok i =>
    if i.takesLiteral then [w32 (headerWord 2 0 0 1 0), w32 w, w32 lit] else [w32 (headerWord 1 0 0 1 0), w32 w]
  | .error _ => [w32 (headerWord 1 0 0 1 0), w32 w]

/-- A block of one thread in slot 0 of core 0, of context 1, that stands at address 0x1000, or one word into a clause. -/
def fetchBlock (s : State) (cl : List Word) : Block :=
  let th := Thread.init 0x1000 s.now
  { Block.absent with
    ctx := 1, life := .resident, placed := true, allot := 224, full := 224, pro := 224
    teams := ⟨1, 0, 0⟩ :: List.replicate 7 ⟨0, 0, 0⟩
    cached := List.range 224
    threads := [if cl.isEmpty then th else { th with pc := 0x1004, clauseIdx := 1, clause := cl }] }

/-- The state with an instruction placed where step executes its next word (log entry 12): a resident block of one
thread in the middle of a clause that holds the word, or, for a clause header, at a boundary whose words stand in
the instruction path; the coming cycle is the threads' turn. -/
def State.withFetchWord (s : State) (nbits w : Nat) : State :=
  let s : State := { s with now := s.now / 2 * 2 }
  let v := w % 2 ^ nbits
  let w0 := v % 4294967296
  let lit := v / 4294967296 % 4294967296
  if isHeader (w32 w0) then
    let s1 : State := { s with
      blocks := Cells.set 0 (fetchBlock s []) s.blocks
      bundles := [{ core := 0, members := [(0, 0)], lastIssue := 0 }], agenda := [], loop := []
      ipath := ((leBytes 4 w0 ++ List.replicate 64 0).zipIdx).foldl
        (fun m (e : Byte × Nat) => Cells.set (viewKey 0 (s.ctxKey 1) (0x1000 + e.2)) e.1 m) s.ipath }
    s1.modCluster 0 fun k =>
      { k with tlb := { ctx := 1, va := 0x1000, size := 0, frame := 0x1000, w := false, x := true, d := false
                        onchip := false } :: k.tlb }
  else
    { s with
      blocks := Cells.set 0 (fetchBlock s (fetchClause w0 lit)) s.blocks
      bundles := [{ core := 0, members := [(0, 0)], lastIssue := 0 }], agenda := [], loop := [] }

end Sys2Proof.Machine
end

