-- ==== Sys2Proof/Safety.lean ====
section
/-! DEFINITION. What the statements call safe: the canonical form of memory, a step that goes on, and what is left alone. -/

namespace Sys2Proof.Machine

/-- The canonical form of device memory: addresses rise strictly, no listed byte is the zero an unlisted one reads as
(19_outside.md R446), and every address is one device memory has (01_machine.md R20). -/
def Memory.wf (m : List Host.Cell) : Bool := Cells.wf (0 : Byte) m && m.all fun c => decide (c.1 < devSize)

/-- A state whose device memory is in canonical form. -/
def State.memWf (s : State) : Bool := Memory.wf s.mem

/-- Does an outcome go on? -/
def goesOn : Host.Outcome State Fault Refusal → Bool
  | .next _ => true
  | _ => false

/-- One byte of device memory at its home point, as stored. -/
def State.byteAtHome (s : State) (pa : Nat) : Byte := s.rd8 pa

/-- The same bytes of device memory, at every address. -/
def State.sameMemory (s t : State) : Prop := ∀ pa, t.rd8 pa = s.rd8 pa

/-- A state that differs from another only in one thread, in where threads stand in the bundles, and in what was to arrive
in the latches of a clause left behind (02 R41). -/
structure OnlyThread (s s' : State) (b t : Nat) (th : Thread) : Prop where
  thread : s'.getThread b t = some th
  others : ∀ b' t', ¬(b' = b ∧ t' = t) → s'.getThread b' t' = s.getThread b' t'
  blocks : ∀ b', { s'.block b' with threads := [] } = { s.block b' with threads := [] }
  rest : { s' with cur := [], bundles := [], blocks := [], ops := [] } = { s with cur := [], bundles := [], blocks := [], ops := [] }
  flight : s'.ops.map (fun o => { o with dst := .none }) = s.ops.map fun o => { o with dst := .none }
  memory : s.sameMemory s'

end Sys2Proof.Machine
end

