-- ==== Sys2Proof/Certificates/Slice0/Obligations.lean ====
section
/-! DEFINITION. The statements about the model, each a named proposition, with the tables and relations they use. -/

open Sys2Proof Sys2Proof.Machine

namespace Sys2Proof.Claims

/-! What the statements are about: one thread that issues, what it reads, where its results go. -/

/-- A thread of a block issues an instruction and no check of 02 R53 stops it: it is the whole bundle. -/
def Issues (i : Instr) (s : State) (b t : Nat) : Prop :=
  s.cur = [(b, t)] ∧ laneCheck i s b t = none ∧ (s.getThread b t).isSome = true

/-- Operands read in order: each a first register and how many registers; a single one may be a queue code, which pops. -/
def Reads (b t : Nat) : List (LReg × Nat) → List (List Word) → State → State → Prop
  | [], vs, s, s' => vs = [] ∧ s' = s
  | (r, n) :: os, vs, s, s' =>
    ∃ ws s1 rest, (if n = 1 then src b t r s = .ok (ws.headD 0, s1) ∧ ws.length = 1 else srcN b t r n s = .ok (ws, s1)) ∧
      Reads b t os rest s1 s' ∧ vs = ws :: rest

/-- Write a group of words to the registers from d on; what was in flight to a register is overwritten (06 R160). -/
def putRegs (b t : Nat) (d : LReg) (ws : List Word) (s : State) : State :=
  ws.zipIdx.foldl (fun (s : State) e => (s.clobber b t (d.plus e.2)).modThread b t (·.writeReg (d.plus e.2) e.1)) s

/-- A result in its registers: the words in d, the first in the x latch, sticky bits set in FPSTAT (02 R41, 05 R136). -/
def latched (b t : Nat) (d : LReg) (ws : List Word) (fp : Nat) (s : State) : State :=
  (putRegs b t d ws s).modThread b t fun th => { th with x := some (ws.headD 0), fpstat := th.fpstat ||| w32 fp }

/-- What a lane instruction of one result leaves: the result, and the thread past the instruction. -/
def laneDone (i : Instr) (b t : Nat) (d : LReg) (ws : List Word) (fp : Nat) (s : State) : State :=
  (latched b t d ws fp s).retire b t (wordsOf i) .fall

/-- A lane instruction that only computes: what it reads, where it writes, and the words with the FPSTAT bits. -/
structure LaneOp where
  reads : List (LReg × Nat)
  dest : LReg
  value : List (List Word) → List Word × Nat

/-- The first word of operand k. -/
def arg (vs : List (List Word)) (k : Nat) : Word := (vs.getD k []).headD 0

/-- The pair that operand k is. -/
def argPair (vs : List (List Word)) (k : Nat) : DWord := pairOf (arg vs k) ((vs.getD k []).getD 1 0)

/-- One source. -/
def op1 (d a : LReg) (f : Word → Word) : Option LaneOp := some ⟨[(a, 1)], d, fun vs => ([f (arg vs 0)], 0)⟩
/-- Two sources. -/
def op2 (d a b : LReg) (f : Word → Word → Word) : Option LaneOp :=
  some ⟨[(a, 1), (b, 1)], d, fun vs => ([f (arg vs 0) (arg vs 1)], 0)⟩
/-- Two sources and the old destination. -/
def op3 (d a b : LReg) (f : Word → Word → Word → Word) : Option LaneOp :=
  some ⟨[(a, 1), (b, 1), (d, 1)], d, fun vs => ([f (arg vs 0) (arg vs 1) (arg vs 2)], 0)⟩

/-- The words of a pair. -/
def pairList (v : DWord) : List Word := [loWord v, hiWord v]

/-- Does a rule of the family hold: every instruction of a table, issued with its operands readable, answers the state its
row gives. -/
def Computes (table : Instr → Option LaneOp) : Prop :=
  ∀ i o, table i = some o → ∀ s s1 b t vs, Issues i s b t → Reads b t o.reads vs s s1 →
    exec i s = .next (laneDone i b t o.dest (o.value vs).1 (o.value vs).2 s1)

/-- The low m bits. -/
def lowMask (m : Nat) : Word := w32 (2 ^ m - 1)

/-- The length a control word gives BFX and BFI: its bits [13:8], at most 32 (04 R114). -/
def ctlLen (b : Word) : Nat := min (b.toNat / 256 % 64) 32

/-- BFX: the field at the position, sign-extended where bit 15 of the control word is set and the field is not empty (04 R114). -/
def bitField (a b : Word) : Word :=
  let f := (a >>> (b.toNat % 32)) &&& lowMask (ctlLen b)
  if b.getLsbD 15 && decide (0 < ctlLen b) && f.getLsbD (ctlLen b - 1) then f ||| (lowMask (ctlLen b) ^^^ 0xFFFFFFFF) else f

/-- BFI: the low bits of a at the position, the bits of d elsewhere (04 R114). -/
def bitInsert (a b d : Word) : Word :=
  let mask := lowMask (ctlLen b) <<< (b.toNat % 32)
  (d &&& (mask ^^^ 0xFFFFFFFF)) ||| ((a <<< (b.toNat % 32)) &&& mask)

/-- PRMT: four result bytes, from byte 0 up, each from the eight bytes of {b, a}, a constant, or the byte below (04 R115). -/
def permuted (a b d : Word) : List Byte :=
  [0, 1, 2, 3].foldl (fun res i =>
    let c := (d >>> (4 * i)).toNat % 16
    res ++ [if c < 8 then ((b ++ a) >>> (8 * c)).truncate 8
            else if c = 9 then 0xFF
            else if c = 10 then (if (res.getLastD 0).msb then 0xFF else 0)
            else if c = 11 then res.getLastD 0
            else 0]) []

/-- The integer instructions (04_integer.md R110 to R118), by their formulas. -/
def integerOp : Instr → Option LaneOp
  | .mov d a => op1 d a fun x => x
  | .neg d a => op1 d a fun x => 0 - x
  | .negSatI32 d a => op1 d a fun x => if x = 0x80000000 then 0x7FFFFFFF else 0 - x
  | .abs d a => op1 d a fun x => if x.msb then 0 - x else x
  | .absSatI32 d a => op1 d a fun x => if x = 0x80000000 then 0x7FFFFFFF else if x.msb then 0 - x else x
  | .not d a => op1 d a fun x => x ^^^ 0xFFFFFFFF
  | .popc d a => op1 d a fun x => w32 ((List.range 32).filter fun k => x.getLsbD k).length
  | .clz d a => op1 d a fun x => w32 (if x = 0 then 32 else 31 - Nat.log2 x.toNat)
  | .ctz d a => op1 d a fun x => w32 (((List.range 32).find? fun k => x.getLsbD k).getD 32)
  | .brev d a => op1 d a fun x => x.reverse
  | .cvtiI8 d a => op1 d a fun x => (x.truncate 8 : BitVec 8).signExtend 32
  | .cvtiW8 d a => op1 d a fun x => x &&& 0xFF
  | .cvtiI16 d a => op1 d a fun x => (x.truncate 16 : BitVec 16).signExtend 32
  | .cvtiW16 d a => op1 d a fun x => x &&& 0xFFFF
  | .cvtiI64 d a => some ⟨[(a, 1)], d, fun vs => (pairList ((arg vs 0).signExtend 64), 0)⟩
  | .cvtiW64 d a => some ⟨[(a, 1)], d, fun vs => ([arg vs 0, 0], 0)⟩
  | .cvtiSatI8 d a => op1 d a fun x => wi (max (-128) (min 127 x.toInt))
  | .cvtiSatW8 d a => op1 d a fun x => wi (max 0 (min 255 x.toInt))
  | .cvtiSatI16 d a => op1 d a fun x => wi (max (-32768) (min 32767 x.toInt))
  | .cvtiSatW16 d a => op1 d a fun x => wi (max 0 (min 65535 x.toInt))
  | .cvtiSatW32 d a => op1 d a fun x => if x.msb then 0 else x
  | .cvtiSatI32 d a => some ⟨[(a, 2)], d, fun vs => ([wi (max (-2147483648) (min 2147483647 (argPair vs 0).toInt))], 0)⟩
  | .add d a b => op2 d a b fun x y => x + y
  | .sub d a b => op2 d a b fun x y => x - y
  | .mullo d a b => op2 d a b fun x y => x * y
  | .mulhiI32 d a b => op2 d a b fun x y => wi ((x.toInt * y.toInt) / 2 ^ 32)
  | .mulhiW32 d a b => op2 d a b fun x y => w32 ((x.toNat * y.toNat) / 2 ^ 32)
  | .mad d a b => op3 d a b fun x y z => x * y + z
  | .minI32 d a b => op2 d a b fun x y => wi (min x.toInt y.toInt)
  | .minW32 d a b => op2 d a b fun x y => w32 (min x.toNat y.toNat)
  | .maxI32 d a b => op2 d a b fun x y => wi (max x.toInt y.toInt)
  | .maxW32 d a b => op2 d a b fun x y => w32 (max x.toNat y.toNat)
  | .and d a b => op2 d a b fun x y => x &&& y
  | .or d a b => op2 d a b fun x y => x ||| y
  | .xor d a b => op2 d a b fun x y => x ^^^ y
  | .andn d a b => op2 d a b fun x y => x &&& (y ^^^ 0xFFFFFFFF)
  | .shl d a b => op2 d a b fun x y => x <<< y.toNat
  | .shr d a b => op2 d a b fun x y => x >>> y.toNat
  | .sar d a b => op2 d a b fun x y => x.sshiftRight y.toNat
  | .fshl d a b => op3 d a b fun x y z => hiWord (pairOf x z <<< (y.toNat % 64))
  | .fshr d a b => op3 d a b fun x y z => loWord (pairOf z x >>> (y.toNat % 64))
  | .rotl d a b => op2 d a b fun x y => x.rotateLeft (y.toNat % 32)
  | .bfx d a b => op2 d a b bitField
  | .bfi d a b => op3 d a b bitInsert
  | .prmt d a b => op3 d a b fun x y z => w32 (leNat (permuted x y z))
  | .sel d a b => op3 d a b fun x y z => if z = 0 then y else x
  | .movi d imm => some ⟨[], d, fun _ => ([imm.signExtend 32], 0)⟩
  | .lit d w => some ⟨[], d, fun _ => ([w], 0)⟩
  | .lea d a b => some ⟨[(a, 2), (b, 1)], d, fun vs => (pairList (argPair vs 0 + (arg vs 1).signExtend 64), 0)⟩
  | .sad d a b => op3 d a b fun x y z => z + w32 ((List.range 4).map fun k =>
      (((x >>> (8 * k)).truncate 8 : BitVec 8).toNat - ((y >>> (8 * k)).truncate 8 : BitVec 8).toNat : Int).natAbs).sum
  | _ => none

/-- Both halfwords of two words (04 R119). -/
def byHalves (f : BitVec 16 → BitVec 16 → BitVec 16) (x y : Word) : Word := f (halfHi x) (halfHi y) ++ f (halfLo x) (halfLo y)

/-- A halfword of an integer clipped to its signed range. -/
def clip16 (v : Int) : BitVec 16 := BitVec.ofInt 16 (max (-32768) (min 32767 v))

/-- The packed halfword instructions (04 R119). -/
def packedOp : Instr → Option LaneOp
  | .addI16x2 d a b => op2 d a b (byHalves fun x y => x + y)
  | .subI16x2 d a b => op2 d a b (byHalves fun x y => x - y)
  | .addSatI16x2 d a b => op2 d a b (byHalves fun x y => clip16 (x.toInt + y.toInt))
  | .subSatI16x2 d a b => op2 d a b (byHalves fun x y => clip16 (x.toInt - y.toInt))
  | .minI16x2 d a b => op2 d a b (byHalves fun x y => if x.slt y then x else y)
  | .maxI16x2 d a b => op2 d a b (byHalves fun x y => if x.slt y then y else x)
  | .minW16x2 d a b => op2 d a b (byHalves fun x y => if x.ult y then x else y)
  | .maxW16x2 d a b => op2 d a b (byHalves fun x y => if x.ult y then y else x)
  | .madI16x2 d a b => op3 d a b fun x y z =>
      (halfHi x * halfHi y + halfHi z) ++ (halfLo x * halfLo y + halfLo z)
  | _ => none

/-! Floating point (05_float.md R137 to R147): the number functions are those of FloatNum, where the formats are laid down. -/

/-- A float instruction of one source. -/
def fop1 (d a : LReg) (f : Nat → Nat × Nat) : Option LaneOp :=
  some ⟨[(a, 1)], d, fun vs => ([w32 (f (arg vs 0).toNat).1], (f (arg vs 0).toNat).2)⟩
/-- A float instruction of two sources. -/
def fop2 (d a b : LReg) (f : Nat → Nat → Nat × Nat) : Option LaneOp :=
  some ⟨[(a, 1), (b, 1)], d, fun vs =>
    let r := f (arg vs 0).toNat (arg vs 1).toNat
    ([w32 r.1], r.2)⟩
/-- A float instruction of two sources and the old destination. -/
def fop3 (d a b : LReg) (f : Nat → Nat → Nat → Nat × Nat) : Option LaneOp :=
  some ⟨[(a, 1), (b, 1), (d, 1)], d, fun vs =>
    let r := f (arg vs 0).toNat (arg vs 1).toNat (arg vs 2).toNat
    ([w32 r.1], r.2)⟩
/-- A two-address float instruction: d is the first operand, a the second (05 R138). -/
def fopTwo (d a : LReg) (f : Nat → Nat → Nat × Nat) : Option LaneOp :=
  some ⟨[(a, 1), (d, 1)], d, fun vs =>
    let r := f (arg vs 1).toNat (arg vs 0).toNat
    ([w32 r.1], r.2)⟩

/-- Two halfword results side by side, with the union of their flags. -/
def pack2 (lo hi : Nat × Nat) : Nat × Nat := (lo.1 + 65536 * hi.1, lo.2 ||| hi.2)

/-- A binary float operation on both halfwords. -/
def both2 (f : Nat → Nat → Nat × Nat) (x y : Nat) : Nat × Nat :=
  pack2 (f (x % 65536) (y % 65536)) (f (x / 65536 % 65536) (y / 65536 % 65536))

/-- A ternary float operation on both halfwords. -/
def both3 (f : Nat → Nat → Nat → Nat × Nat) (x y z : Nat) : Nat × Nat :=
  pack2 (f (x % 65536) (y % 65536) (z % 65536)) (f (x / 65536 % 65536) (y / 65536 % 65536) (z / 65536 % 65536))

/-- The element pairs of a dot product. -/
def pairs2 (f : Fmt) (x y : Nat) : List (FpVal × FpVal) :=
  [(f.value (x % 65536), f.value (y % 65536)), (f.value (x / 65536 % 65536), f.value (y / 65536 % 65536))]

/-- The element pairs of a four-element dot product. -/
def pairs4 (f : Fmt) (x y : Nat) : List (FpVal × FpVal) :=
  [0, 1, 2, 3].map fun k => (f.value (x / 256 ^ k % 256), f.value (y / 256 ^ k % 256))

/-- The arithmetic float instructions (05 R139 to R141). -/
def floatOp : Instr → Option LaneOp
  | .faddF32 d a b => fop2 d a b f32.add
  | .fsubF32 d a b => fop2 d a b f32.sub
  | .fmulF32 d a b => fop2 d a b f32.mul
  | .ffmaF32 d a b => fop3 d a b (f32.fma .acc)
  | .faddH2 d a b => fop2 d a b (both2 f16.add)
  | .fmulH2 d a b => fop2 d a b (both2 f16.mul)
  | .ffmaH2 d a b => fop3 d a b (both3 (f16.fma .sat))
  | .faddB2 d a b => fop2 d a b (both2 bf16.add)
  | .fmulB2 d a b => fop2 d a b (both2 bf16.mul)
  | .ffmaB2 d a b => fop3 d a b (both3 (bf16.fma .acc))
  | .fsubH2 d a => fopTwo d a (both2 f16.sub)
  | .fsubB2 d a => fopTwo d a (both2 bf16.sub)
  | .fminF32 d a => fopTwo d a (f32.minMax false)
  | .fmaxF32 d a => fopTwo d a (f32.minMax true)
  | .fminH2 d a => fopTwo d a (both2 (f16.minMax false))
  | .fmaxH2 d a => fopTwo d a (both2 (f16.minMax true))
  | .fminB2 d a => fopTwo d a (both2 (bf16.minMax false))
  | .fmaxB2 d a => fopTwo d a (both2 (bf16.minMax true))
  | .dot2H2 d a b => fop3 d a b fun x y z => f32.dot .acc (f32.value z) (pairs2 f16 x y)
  | .dot2B2 d a b => fop3 d a b fun x y z => f32.dot .acc (f32.value z) (pairs2 bf16 x y)
  | .dot4E4m3 d a b => fop3 d a b fun x y z => f32.dot .acc (f32.value z) (pairs4 e4m3 x y)
  | .dot4E5m2 d a b => fop3 d a b fun x y z => f32.dot .acc (f32.value z) (pairs4 e5m2 x y)
  | _ => none

/-- The unary float functions and the conversions (05 R142 to R147). -/
def convertOp : Instr → Option LaneOp
  | .frcp d a => fop1 d a frcp32
  | .frsq d a => fop1 d a frsq32
  | .fsqrt d a => fop1 d a fsqrt32
  | .fexp2 d a => fop1 d a fexp232
  | .flog2 d a => fop1 d a flog232
  | .fsin d a => fop1 d a fsin32
  | .fcos d a => fop1 d a fcos32
  | .frnd d a rnd => fop1 d a (frnd32 (dirOf rnd))
  | .fcvt d a n sat kind => some ⟨[(a, kind.srcGrp.size)], d, fun vs =>
      let r := fcvtWords n sat kind (vs.getD 0 [])
      ([w32 r.1], r.2)⟩
  | .fcvti d a rnd ty => some ⟨[(a, 1)], d, fun vs =>
      let r := toIntType (dirOf rnd) (intRange ty).1 (intRange ty).2 (arg vs 0).toNat
      (if ty = .i64 ∨ ty = .w64 then pairList (BitVec.ofInt 64 r.1) else [wi r.1], r.2)⟩
  | .icvtf d a rnd .i32 => some ⟨[(a, 1)], d, fun vs =>
      let r := ofInteger (dirOf rnd) (arg vs 0).toInt
      ([w32 r.1], r.2)⟩
  | .icvtf d a rnd .w32 => some ⟨[(a, 1)], d, fun vs =>
      let r := ofInteger (dirOf rnd) ((arg vs 0).toNat : Int)
      ([w32 r.1], r.2)⟩
  | .icvtf d a rnd .i64 => some ⟨[(a, 2)], d, fun vs =>
      let r := ofInteger (dirOf rnd) (argPair vs 0).toInt
      ([w32 r.1], r.2)⟩
  | .icvtf d a rnd .w64 => some ⟨[(a, 2)], d, fun vs =>
      let r := ofInteger (dirOf rnd) ((argPair vs 0).toNat : Int)
      ([w32 r.1], r.2)⟩
  | .bpx d a b => some ⟨[(a, 8), (b, 1)], d, fun vs => ([bpxWord (vs.getD 0 []) (arg vs 1)], 0)⟩
  | _ => none

/-- The residue instructions (10_residue.md R255, R256): a triple of ten residues, and the decode of R248. -/
def residueOp : Instr → Option LaneOp
  | .rencI32 d a => some ⟨[(a, 1)], d, fun vs => (tripleOf (moduli.map fun (m : Nat) => ((arg vs 0).toInt % (m : Int)).toNat), 0)⟩
  | .rencI64 d a => some ⟨[(a, 2)], d, fun vs => (tripleOf (moduli.map fun (m : Nat) => ((argPair vs 0).toInt % (m : Int)).toNat), 0)⟩
  | .radd d a b => some ⟨[(a, 3), (b, 3)], d, fun vs =>
      (tripleOf ((List.range 10).map fun k =>
        ((residuesOf (vs.getD 0 [])).getD k 0 + (residuesOf (vs.getD 1 [])).getD k 0) % modulus k), 0)⟩
  | .rmul d a b => some ⟨[(a, 3), (b, 3)], d, fun vs =>
      (tripleOf ((List.range 10).map fun k =>
        ((residuesOf (vs.getD 0 [])).getD k 0 * (residuesOf (vs.getD 1 [])).getD k 0) % modulus k), 0)⟩
  | .rdec d a b => some ⟨[(a, 3), (b, 1)], d, fun vs =>
      (pairList (BitVec.ofInt 64 (decodeCtl (residuesOf (vs.getD 0 [])) (arg vs 1)).out), 0)⟩
  | .rchk d a b => some ⟨[(a, 3), (b, 1)], d, fun vs =>
      let r := decodeCtl (residuesOf (vs.getD 0 [])) (arg vs 1)
      ([w32 (r.cls.code + (if r.clamp then 8 else 0) + 16 * r.ch)], 0)⟩
  | _ => none

end Sys2Proof.Claims

open Sys2Proof.Claims

/-- R110 to R116 and R118: every lane integer instruction, issued with its operands readable, writes the result its formula
gives to d and x, and the thread moves on. -/
def Sys2Proof.Claims.IntegerInstructionsComputeTheirFormulas : Prop := Computes integerOp

/-- R119: the packed halfword instructions work on each halfword alone. -/
def Sys2Proof.Claims.PackedInstructionsWorkByHalfword : Prop := Computes packedOp

/-- R110 to R116, R118 and R119: every lane integer instruction and every packed halfword instruction, issued with its operands readable, writes
the result its formula gives to d and x, and the thread moves on. -/
def Obligations.IntegerAndPackedInstructionsComputeTheirFormulas : Prop := Claims.IntegerInstructionsComputeTheirFormulas ∧ Claims.PackedInstructionsWorkByHalfword


/-- R138 to R141: the arithmetic float instructions write the rounded result and set its FPSTAT bits. -/
def Sys2Proof.Claims.FloatArithmeticWritesResultAndFlags : Prop := Computes floatOp

/-- R142 to R147: the unary float functions and the conversions write their result and set its FPSTAT bits. -/
def Sys2Proof.Claims.FloatFunctionsAndConversionsWriteResultAndFlags : Prop := Computes convertOp

/-- R139 to R147: every float instruction, function and conversion writes its result to d and x and sets its sticky bits in FPSTAT. -/
def Obligations.FloatInstructionsWriteResultAndFlags : Prop := Claims.FloatArithmeticWritesResultAndFlags ∧ Claims.FloatFunctionsAndConversionsWriteResultAndFlags


/-- R255, R256: the residue instructions work channel by channel, and decode; so the sum or product of two encoded integers is the encoding of
their sum or product. -/
def Obligations.ResidueInstructionsWorkByChannel : Prop :=
  Computes residueOp ∧
  ∀ (u w : Int) (k : Nat), k < 10 →
    let enc (v : Int) : Nat := (v % (modulus k : Int)).toNat
    (enc u + enc w) % modulus k = enc (u + w) ∧ (enc u * enc w) % modulus k = enc (u * w)

namespace Sys2Proof.Claims

/-! Predicates (04_integer.md R111, R116, R117). -/

/-- Is a word a binary32 NaN? -/
def wordNan (x : Word) : Bool := (0xFF000000 : Word).ult (x <<< 1)

/-- Is a binary32 number less than another, neither a NaN? Zeros of either sign are equal. -/
def wordLess (x y : Word) : Bool :=
  if x <<< 1 = 0 ∧ y <<< 1 = 0 then false
  else if x.msb then (if y.msb then y.ult x else true)
  else if y.msb then false
  else x.ult y

/-- Are two binary32 numbers equal, neither a NaN? -/
def wordSame (x y : Word) : Bool := x == y || (x <<< 1 == 0 && y <<< 1 == 0)

/-- A condition on halves, low and high. -/
def halvesBoth (f : BitVec 16 → BitVec 16 → Bool) (x y : Word) : Bool × Option Bool :=
  (f (halfLo x) (halfLo y), some (f (halfHi x) (halfHi y)))

/-- What a SETP condition gives: the predicate it names, and for a packed one the next too (02 R56; 04 R117). -/
def condRule (c : Cond) (x y : Word) : Bool × Option Bool :=
  let nan := wordNan x || wordNan y
  match c with
  | .eq => (x == y, none)
  | .ne => (x != y, none)
  | .ltI => (x.slt y, none)
  | .leI => (!y.slt x, none)
  | .gtI => (y.slt x, none)
  | .geI => (!x.slt y, none)
  | .ltW => (x.ult y, none)
  | .leW => (!y.ult x, none)
  | .gtW => (y.ult x, none)
  | .geW => (!x.ult y, none)
  | .eqP => halvesBoth (fun a b => a == b) x y
  | .neP => halvesBoth (fun a b => a != b) x y
  | .ltP => halvesBoth (fun a b => a.slt b) x y
  | .leP => halvesBoth (fun a b => !b.slt a) x y
  | .gtP => halvesBoth (fun a b => b.slt a) x y
  | .geP => halvesBoth (fun a b => !a.slt b) x y
  | .ltPW => halvesBoth (fun a b => a.ult b) x y
  | .lePW => halvesBoth (fun a b => !b.ult a) x y
  | .gtPW => halvesBoth (fun a b => b.ult a) x y
  | .gePW => halvesBoth (fun a b => !a.ult b) x y
  | .eqF => (!nan && wordSame x y, none)
  | .neF => (nan || !wordSame x y, none)
  | .ltF => (!nan && wordLess x y, none)
  | .leF => (!nan && !wordLess y x, none)
  | .gtF => (!nan && wordLess y x, none)
  | .geF => (!nan && !wordLess x y, none)
  | .nanF => (nan, none)

/-- A change of a thread, and the thread past the instruction. -/
def threadDone (i : Instr) (b t : Nat) (f : Thread → Thread) (s : State) : State :=
  (s.modThread b t f).retire b t (wordsOf i) .fall

end Sys2Proof.Claims

/-- R111, R116, R117: ADDC and SUBB take and leave p7, SETP sets the predicates its condition names, SETV reads one. That ADDC and SUBB write x for a
destination of zero too, where R111 also says that only p7 changes, is the model's choice (log entry 51). -/
def Obligations.PredicateInstructionsReadAndSetPredicates : Prop :=
  (∀ d a c s s1 b t vs, Issues (.addc d a c) s b t → Reads b t [(a, 1), (c, 1)] vs s s1 →
    exec (.addc d a c) s = .next (threadDone (.addc d a c) b t
      (·.setP 7 (decide (2 ^ 32 ≤ (arg vs 0).toNat + (arg vs 1).toNat + ((s1.thread b t).getP 7).toNat)))
      (latched b t d [arg vs 0 + arg vs 1 + (if (s1.thread b t).getP 7 then 1 else 0)] 0 s1))) ∧
  (∀ d a c s s1 b t vs, Issues (.subb d a c) s b t → Reads b t [(a, 1), (c, 1)] vs s s1 →
    exec (.subb d a c) s = .next (threadDone (.subb d a c) b t
      (·.setP 7 (decide ((arg vs 0).toNat < (arg vs 1).toNat + ((s1.thread b t).getP 7).toNat)))
      (latched b t d [arg vs 0 - arg vs 1 - (if (s1.thread b t).getP 7 then 1 else 0)] 0 s1))) ∧
  (∀ p c u w s s1 b t vs, Issues (.setp p c u w) s b t → Reads b t [(u, 1), (w, 1)] vs s s1 →
    exec (.setp p c u w) s = .next (threadDone (.setp p c u w) b t
      (fun th =>
        let th1 := th.setP p.val (condRule c (arg vs 0) (arg vs 1)).1
        match (condRule c (arg vs 0) (arg vs 1)).2 with
        | some v => th1.setP (p.val + 1) v
        | none => th1) s1)) ∧
  (∀ d p s b t, Issues (.setv d p) s b t →
    exec (.setv d p) s = .next (laneDone (.setv d p) b t d [if (s.thread b t).getP p.val then 0xFFFFFFFF else 0] 0 s))

namespace Sys2Proof.Claims

/-! Frames: what an instruction leaves alone. -/

/-- Every lane instruction that only computes. -/
def laneTable (i : Instr) : Option LaneOp :=
  integerOp i <|> packedOp i <|> floatOp i <|> convertOp i <|> residueOp i

/-- A predicate instruction: what it reads, the registers it writes, and the predicates it may write. -/
def predTable : Instr → Option (List (LReg × Nat) × List LReg × List Nat)
  | .addc d a c => some ([(a, 1), (c, 1)], [d], [7])
  | .subb d a c => some ([(a, 1), (c, 1)], [d], [7])
  | .setp p _ u w => some ([(u, 1), (w, 1)], [], [p.val, p.val + 1])
  | .setv d _ => some ([], [d], [])
  | _ => none

/-- What is left of a thread without the registers, latches, flags of a computation and its place in the code. -/
def threadRest (th : Thread) : Thread :=
  { th with pc := 0, run := .ready, clauseIdx := 0, clause := [], v := [], x := none, o := [], fpstat := 0, pred := 0, since := 0 }

/-- What is left of the package without its threads, bundles and the bookkeeping of overwritten destinations. -/
def stateRest (s : State) : State := { s with cur := [], bundles := [], ops := [], cores := [], blocks := [] }

/-- The frame of a lane instruction that only computes (04 R107; 05 R136): registers outside `ds`, predicates outside
`ps`, every other thread, every block's own state, every operation in flight, every core's memories and every byte of
memory stay; o registers stay while the clause goes on. -/
structure LaneFrame (s s' : State) (b t : Nat) (ds : List LReg) (ps : List Nat) : Prop where
  others : ∀ b' t', ¬(b' = b ∧ t' = t) → s'.getThread b' t' = s.getThread b' t'
  vregs : ∀ n, .v n ∉ ds → (s'.thread b t).getV n.val = (s.thread b t).getV n.val
  oregs : ∀ n, .o n ∉ ds → (s'.thread b t).clauseIdx ≠ 0 →
    Cells.get? n.val (s'.thread b t).o = Cells.get? n.val (s.thread b t).o
  preds : ∀ p, p ∉ ps → (s'.thread b t).getP p = (s.thread b t).getP p
  status : (s'.thread b t).fpstat &&& (s.thread b t).fpstat = (s.thread b t).fpstat
  rest : threadRest (s'.thread b t) = threadRest (s.thread b t)
  blocks : ∀ b', { s'.block b' with threads := [] } = { s.block b' with threads := [] }
  flight : s'.ops.map (fun o => { o with clob := false, dst := .none }) = s.ops.map fun o => { o with clob := false, dst := .none }
  cores : ∀ c, { s'.getCore c with recon := [] } = { s.getCore c with recon := [] }
  package : stateRest s' = stateRest s
  memory : s.sameMemory s'

/-- The registers of a group. -/
def groupOf (d : LReg) (n : Nat) : List LReg := (List.range n).map d.plus

end Sys2Proof.Claims

/-- R107, R136: after its operands are read, a computing lane instruction changes its destination, x, its predicates and
FPSTAT bits, its thread's place, and nothing else. -/
def Obligations.ComputingInstructionsLeaveTheRestAlone : Prop :=
  (∀ i o s s1 s2 b t vs, laneTable i = some o → Issues i s b t → Reads b t o.reads vs s s1 → exec i s = .next s2 →
    LaneFrame s1 s2 b t (groupOf o.dest (o.value vs).1.length) []) ∧
  (∀ i rs ds ps s s1 s2 b t vs, predTable i = some (rs, ds, ps) → Issues i s b t → Reads b t rs vs s s1 → exec i s = .next s2 →
    LaneFrame s1 s2 b t ds ps) ∧
  (∀ i o s s1 b t vs, laneTable i = some o → (∀ e ∈ o.reads, isQueue e.1 = false) → Reads b t o.reads vs s s1 →
    ∃ n, s1 = { s with fresh := n })

/-- R38, R41 and 06 R160: what a lane operand reads: a v register, the x latch or an o register (an undefined value where it
holds none), the thread's number, a uniform register of its block, zero; an undefined value while an operation in
flight is to write it. -/
def Sys2Proof.Claims.LaneOperandsReadTheirRegister : Prop :=
  ∀ (s : State) (b t : Nat),
    (∀ n, s.lanePending b t (.v n) = false → src b t (.v n) s = .ok (Cells.getD n.val 0 (s.thread b t).v, s)) ∧
    (∀ w, s.lanePending b t .x = false → (s.thread b t).x = some w → src b t .x s = .ok (w, s)) ∧
    (s.lanePending b t .x = false → (s.thread b t).x = none → src b t .x s = .ok (Config.freeWord s.fresh, { s with fresh := s.fresh + 1 })) ∧
    (∀ n w, s.lanePending b t (.o n) = false → Cells.get? n.val (s.thread b t).o = some w → src b t (.o n) s = .ok (w, s)) ∧
    (∀ n, s.lanePending b t (.o n) = false → Cells.get? n.val (s.thread b t).o = none →
      src b t (.o n) s = .ok (Config.freeWord s.fresh, { s with fresh := s.fresh + 1 })) ∧
    (s.lanePending b t .tid = false → src b t .tid s = .ok (w32 t, s)) ∧
    (∀ n, s.lanePending b t (.s n) = false → s.uniPending b n.val = false →
      src b t (.s n) s = .ok (Cells.getD n.val 0 (s.block b).s, s)) ∧
    (s.lanePending b t .zero = false → src b t .zero s = .ok (0, s)) ∧
    (∀ r, isQueue r = false → s.lanePending b t r = true →
      src b t r s = .ok (Config.freeWord s.fresh, { s with fresh := s.fresh + 1 }))

/-- R36, R38, R107: zero discards a result; the x latch and the sticky bits still take theirs. -/
def Sys2Proof.Claims.ZeroDiscardsAResult : Prop :=
  (∀ (s : State) (b t : Nat) (th : Thread) w fp, s.getThread b t = some th →
    (latched b t .zero [w] fp s).getThread b t = some { th with x := some w, fpstat := th.fpstat ||| w32 fp }) ∧
  (∀ (s : State) (b : Nat) w (x : Block), s.getBlock b = some x → ∃ s', writeU b .zero w s = .ok ((), s') ∧ s'.getBlock b = some x ∧ s'.mem = s.mem)

/-- 12 R282, R288: an operand that names a queue of the block's slices pops its head entry; a block queue traps, an empty
queue waits, and one whose slice has ended traps. An entry that a withdrawn arrival had popped is taken first (08 R213). -/
def Sys2Proof.Claims.QueueOperandsPop : Prop :=
  (∀ (s : State) (b t : Nat) (i : Fin 8) (th : Thread) (w : Word) (ws : List Word), s.getThread b t = some th → th.taken = some (th.pc, w :: ws) →
    ∃ s', src b t (.q i) s = .ok (w, s') ∧ s'.getThread b t = some { th with taken := if ws = [] then none else some (th.pc, ws) } ∧
      (∀ b' t', ¬(b' = b ∧ t' = t) → s'.getThread b' t' = s.getThread b' t') ∧ s.sameMemory s') ∧
  ∀ (s : State) (b t : Nat) (i : Fin 8) (p : Nat) (sl : Slice) (th : Thread), s.queueSlice (s.block b) i.val = some (p, sl) → s.getThread b t = some th →
    th.taken = none →
    let q := sl.queue i.val
    let h := Cells.getD i.val 0 th.qhead
    (q.block = true → src b t (.q i) s = .error (.trap .qKind 0 0)) ∧
    (q.block = false → h = q.tail → sl.ended = true → src b t (.q i) s = .error (.trap .hwDead 0 0)) ∧
    (q.block = false → h = q.tail → sl.ended = false → src b t (.q i) s = .error (.stall (.popQueue i.val))) ∧
    (q.block = false → h ≠ q.tail → sl.inFlight i.val h = true → src b t (.q i) s = .error (.stall (.popQueue i.val))) ∧
    (q.block = false → h ≠ q.tail → sl.inFlight i.val h = false → sl.markOf i.val (h % 3) = none →
      ∃ s', src b t (.q i) s = .ok (Cells.getD (3 * i.val + h % 3) 0 th.qslot, s') ∧
        s'.getThread b t = some { th with qhead := Cells.put 0 i.val ((h + 1) % 6) th.qhead } ∧
        (∀ b' t', ¬(b' = b ∧ t' = t) → s'.getThread b' t' = s.getThread b' t') ∧ s.sameMemory s')

/-- R36 to R41, 12 R282, 08 R213: a lane operand reads the register its code names, zero reads 0 and discards a result, a queue code pops. That an entry a
withdrawn arrival had popped is taken first, until when a register in flight reads as undefined, and that a uniform write is seen at once
are the model's choices (log entries 55, 41 and 42). -/
def Obligations.OperandCodesSayWhatIsReadAndWritten : Prop := Claims.LaneOperandsReadTheirRegister ∧ Claims.ZeroDiscardsAResult ∧ Claims.QueueOperandsPop


namespace Sys2Proof.Claims

/-! Traps and transfers. -/

/-- A thread as trap entry leaves it (17_system.md R395): saved resume address, address, information, cause and word index,
the interrupted bank, and the handler's address. -/
def handled (s : State) (x : Block) (th : Thread) (c : Cause) (addr : DWord) (info : Word) (r : DWord) (idx : Nat) : Thread :=
  { th with
    tpc := r, taddr := addr, tinfo := info, tcause := 0x80000000 ||| w32 (idx * 2 ^ 24) ||| w32 c.code
    bankX := th.x, bankO := th.o, x := none, o := [], clause := [], clauseIdx := 0, pc := x.tvec, run := .ready
    since := s.now, twinBad := th.twinBad && c != .pairMis }

/-- A lane block whose thread may take a trap in a handler (17 R395): it is not in one, and the handler's address stands. -/
structure CanTrap (s : State) (b t : Nat) (x : Block) (th : Thread) : Prop where
  block : s.getBlock b = some x
  thread : x.getThread t = some th
  kind : x.kind = .lane
  free : th.tcause.msb = false
  vector : x.tvec ≠ 0 ∧ x.tvec.toNat % 4 = 0 ∧ canonical x.tvec = true
  index : th.clauseIdx < 32
  running : x.life = .resident ∧ x.mark = none

/-- A thread's trap is recorded (18 R419): the record goes to the context's queue with the core, thread and word, and what the trap leaves differs in
memory from its state by nothing else. -/
def TrapRecorded (s s' : State) (ctx : Nat) (x : Block) (t kind : Nat) (w : DWord) (P : ErrRec → Prop) : Prop :=
  ∃ e : ErrRec, e.kind = kind ∧ e.core = x.core ∧ e.tid = t ∧ e.pc = some w ∧ P e ∧ (s.record ctx e).sameMemory s'

/-- The lane instructions whose checks these statements are about. -/
def isLaneOp (i : Instr) : Bool := (laneTable i).isSome || (predTable i).isSome

end Sys2Proof.Claims

/-- R395: trap entry of a thread of a lane block with a handler saves the resume address, the address, the information, the
cause with the word index and the interrupted bank, and the thread stands at the handler. -/
def Sys2Proof.Claims.TrapEntrySavesAndGoesToTheHandler : Prop :=
  ∀ (s : State) (b t : Nat) (x : Block) (th : Thread) c addr info w r idx, CanTrap s b t x th → idx < 32 →
    OnlyThread s (s.trapEntry b t c addr info w r idx) b t (handled s x th c addr info r idx)

/-- R395, R407, 12 R280, 18 R419: without a handler, or in its handler, a thread's trap kills its block with a TRAP_FATAL record; a slice's trap ends the
slice with an HW_TRAP record, and a walk slot's restarts its threads at WALKENTRY with a WALKER_FAULT record. -/
def Sys2Proof.Claims.TrapsWithoutAHandlerEndTheBlock : Prop :=
  (∀ (s : State) (b t : Nat) (x : Block) (th : Thread) c addr info w r idx, s.getBlock b = some x → x.getThread t = some th → x.kind = .lane → x.life ≠ .done → b ∈ s.killSet b →
    (th.tcause.msb = true ∨ x.tvec = 0 ∨ x.tvec.toNat % 4 ≠ 0 ∨ canonical x.tvec = false) →
    ((s.trapEntry b t c addr info w r idx).block b).life = .done) ∧
  (∀ (s : State) (b t : Nat) (x : Block) (th : Thread) c addr info w r idx, s.getBlock b = some x → x.getThread t = some th → x.kind = .lane →
    (th.tcause.msb = true ∨ x.tvec = 0 ∨ x.tvec.toNat % 4 ≠ 0 ∨ canonical x.tvec = false) →
    ∃ e : ErrRec, e.kind = 0x0C ∧ e.core = x.core ∧ e.slot = x.slot ∧ e.tid = t ∧ e.pc = some w ∧ e.addr = 0 ∧ e.detail = leBytes 1 c.code ∧
      s.trapEntry b t c addr info w r idx = (s.record x.ctx e).kill b) ∧
  (∀ (s : State) (b t : Nat) (x : Block) (th : Thread) c addr info w r idx, s.getBlock b = some x → x.getThread t = some th → x.kind = .headwater →
    TrapRecorded s (s.trapEntry b t c addr info w r idx) x.ctx x t 0x07 w (fun e => e.slot = x.slot ∧ e.addr = addr.toNat ∧ e.detail = leBytes 1 c.code) ∧
      ((s.trapEntry b t c addr info w r idx).thread b t).run = .exited ∧
      ∀ sl, x.slice = some sl → (((s.trapEntry b t c addr info w r idx).block b).slice.map (·.ended)) = some true) ∧
  (∀ (s : State) (b t : Nat) (x : Block) c addr info w r idx, s.getBlock b = some x → x.kind = .walker →
    TrapRecorded s (s.trapEntry b t c addr info w r idx) 0 x t 0x0E w
        (fun e => e.addr = addr.toNat ∧ e.detail = leBytes 1 c.code ++ leBytes 1 (x.core / 8)) ∧
      ((s.trapEntry b t c addr info w r idx).block b).threads = List.replicate 16 (Thread.init s.mgmt.walkentry s.now))

/-- R395, R407, 12 R280, 18 R419: trap entry saves what the rule says and stands at the handler; without one, or in one, the block ends with a TRAP_FATAL
record; a slice ends with an HW_TRAP record, and a walk slot restarts with a WALKER_FAULT record. That the slot's threads restart with registers of zero
is the model's choice (log entry 14). -/
def Obligations.TrapsEnterTheHandlerOrEndTheBlock : Prop := Claims.TrapEntrySavesAndGoesToTheHandler ∧ Claims.TrapsWithoutAHandlerEndTheBlock


/-- R53, R42, R82: before it executes, a computing or predicate instruction of a lane block is checked for its words and operands (ILLEGAL), then for
the allotment (ALLOTMENT, with the operand code); the first check that fails is the trap, at the instruction; then a register line that
is not in the cache holds the thread. -/
def Obligations.ChecksComeBeforeExecutionInOrder : Prop :=
  ∀ i (s : State) (b t : Nat) (x : Block) (th : Thread), isLaneOp i = true → s.cur = [(b, t)] → CanTrap s b t x th →
    ((i.wellFormed = false ∨ (x.hasPair = false ∧ ∃ o ∈ i.laneOps, isQueue o.reg = true) ∨
        (i.takesLiteral = true ∧ th.clauseIdx = clauseCount (th.clause.headD 0))) →
      ∃ s', exec i s = .next s' ∧ OnlyThread s s' b t (handled s x th .illegal 0 0 th.pc th.clauseIdx)) ∧
    (i.wellFormed = true → (x.hasPair = true ∨ ∀ o ∈ i.laneOps, isQueue o.reg = false) →
        ¬(i.takesLiteral = true ∧ th.clauseIdx = clauseCount (th.clause.headD 0)) →
      ∀ o, beyondAllot i x = some o →
        ∃ s', exec i s = .next s' ∧ OnlyThread s s' b t (handled s x th .allotment 0 (w32 o.reg.code) th.pc th.clauseIdx)) ∧
    (i.wellFormed = true → (x.hasPair = true ∨ ∀ o ∈ i.laneOps, isQueue o.reg = false) →
        ¬(i.takesLiteral = true ∧ th.clauseIdx = clauseCount (th.clause.headD 0)) → beyondAllot i x = none →
      ∀ v, lineMissing i x t = some v →
        ∃ s', exec i s = .next s' ∧ OnlyThread s s' b t { th with run := .stalled (.line (t / 16) v), since := s.now })

/-- R414, 03 R105: TRAP and BKPT retire and then trap with their code, resuming at the next word. -/
def Sys2Proof.Claims.TrapAndBkptRetireThenTrap : Prop :=
  (∀ imm (s : State) (b t : Nat) (x : Block) (th : Thread), s.cur = [(b, t)] → CanTrap s b t x th → laneCheck (.bkpt imm) s b t = none →
    ∃ s', exec (.bkpt imm) s = .next s' ∧ OnlyThread s s' b t
      (handled s x th .brk 0 (imm.zeroExtend 32) (th.pc + 4)
        (if clauseCount (th.clause.headD 0) < th.clauseIdx + 1 then 0 else th.clauseIdx + 1))) ∧
  (∀ imm (s : State) (b t : Nat) (x : Block) (th : Thread), s.cur = [(b, t)] → CanTrap s b t x th → uniCheck (.trap imm) s b [t] = none →
    ∃ s', exec (.trap imm) s = .next s' ∧ OnlyThread s s' b t
      (handled s x th .user 0 (imm.zeroExtend 32) (th.pc + 4)
        (if clauseCount (th.clause.headD 0) < th.clauseIdx + 1 then 0 else th.clauseIdx + 1)))

/-- R397: ERET clears INTRAP and resumes at TPC: at a header afresh, else in the middle of its clause with the interrupted
bank; outside a handler it traps as ERETSEQ. -/
def Sys2Proof.Claims.EretReturnsFromTheHandler : Prop :=
  ∀ (s : State) (b t : Nat) (x : Block) (th : Thread), s.cur = [(b, t)] → s.getBlock b = some x → x.getThread t = some th → x.life = .resident → x.mark = none →
    uniCheck .eret s b [t] = none →
    (th.tcause.msb = true → ∃ s', exec .eret s = .next s' ∧
      OnlyThread s s' b t
        (if th.tcause.toNat / 2 ^ 24 % 32 = 0 then
          { th with tcause := th.tcause &&& 0x7FFFFFFF, bankX := none, bankO := [], pc := th.tpc, clauseIdx := 0, clause := []
                    x := none, o := [], since := s.now }
         else
          { th with tcause := th.tcause &&& 0x7FFFFFFF, bankX := none, bankO := [], pc := th.tpc
                    clauseIdx := th.tcause.toNat / 2 ^ 24 % 32, clause := [], x := th.bankX, o := th.bankO, since := s.now })) ∧
    (CanTrap s b t x th → ∃ s', exec .eret s = .next s' ∧ OnlyThread s s' b t (handled s x th .eretSeq 0 0 th.pc th.clauseIdx))

/-- R397, R414, 03 R105: TRAP and BKPT retire and then trap; ERET returns from the handler, and traps outside one. -/
def Obligations.TrapBkptAndEretFollowTheirRules : Prop := Claims.TrapAndBkptRetireThenTrap ∧ Claims.EretReturnsFromTheHandler


namespace Sys2Proof.Claims

/-- The thread that takes a transfer: at the boundary of the target clause (03 R100). -/
def landed (s : State) (th : Thread) (tgt : DWord) (stack : List DWord) : Thread :=
  { th with pc := tgt, clauseIdx := 0, clause := [], x := none, o := [], stack, since := s.now }

/-- The thread that goes on to the next word of its clause, or to the boundary after it (02 R45). -/
def gone (th : Thread) (words : Nat) : Thread :=
  if clauseCount (th.clause.headD 0) < th.clauseIdx + words then
    { th with pc := th.pc + w64 (4 * words), clauseIdx := 0, clause := [], x := none, o := [] }
  else { th with pc := th.pc + w64 (4 * words), clauseIdx := th.clauseIdx + words }

/-- A thread of a resident block issues alone and its checks pass. -/
structure Runs (i : Instr) (s : State) (b t : Nat) (x : Block) (th : Thread) : Prop where
  issues : Issues i s b t
  block : s.getBlock b = some x
  thread : x.getThread t = some th
  resident : x.life = .resident ∧ x.mark = none
  twin : th.twinBad = false

/-- A target a transfer may take (03 R100): 4-aligned, and its word in the instruction path is a header. -/
def GoodTarget (s : State) (b : Nat) (tgt : DWord) : Prop :=
  tgt.toNat % 4 = 0 ∧ ∃ w, s.codeWord b tgt = .ok w ∧ w.toNat / 2 ^ 25 = 127

/-- A signed offset of n bits, in words, from a word (02 R34). -/
def offsetFrom {n : Nat} (pc : DWord) (off : BitVec n) : DWord := pc + BitVec.ofInt 64 (4 * off.toInt)

/-- The transfers: where each goes, with the thread's stack afterwards; none: it falls through. A target read from registers
is given. -/
def transfer (i : Instr) (th : Thread) (reg : DWord) : Option (Option (DWord × List DWord)) :=
  match i with
  | .bra off => some (some (offsetFrom th.pc off, th.stack))
  | .brp p off => some (if th.getP p.val then some (offsetFrom th.pc off, th.stack) else none)
  | .brn p off => some (if th.getP p.val then none else some (offsetFrom th.pc off, th.stack))
  | .brx _ => some (some (reg, th.stack))
  | .call off => some (some (offsetFrom th.pc off, (th.pc + 4) :: th.stack))
  | .callx _ => some (some (reg, (th.pc + 4) :: th.stack))
  | .ret => some (some (th.stack.headD 0, th.stack.drop 1))
  | _ => none

/-- The register target of a transfer, read as a pair; others read none. -/
def readsTarget (i : Instr) (s s1 : State) (b t : Nat) (reg : DWord) : Prop :=
  match i with
  | .brx a | .callx a => src2 b t a s = .ok (reg, s1)
  | _ => s1 = s

/-- The call stack has room for a call and an entry for a return (03 R101). -/
def stackFits (i : Instr) (th : Thread) : Prop :=
  match i with
  | .call _ | .callx _ => th.stack.length < 64
  | .ret => th.stack ≠ []
  | _ => True

end Sys2Proof.Claims

/-- R100, R101: a taken BRA, BRP, BRN, BRX, CALL, CALLX or RET puts the thread at its target's boundary, a call with the
address of the next word on its stack; BRP and BRN not taken go on. -/
def Sys2Proof.Claims.TransfersGoToTheirTarget : Prop :=
  ∀ i (s s1 : State) (b t : Nat) (x : Block) (th : Thread) reg o, Runs i s b t x th → transfer i th reg = some o → readsTarget i s s1 b t reg → stackFits i th →
    match o with
    | some (tgt, stack) => GoodTarget s1 b tgt → ∃ s', exec i s = .next s' ∧ OnlyThread s1 s' b t (landed s th tgt stack)
    | none => ∃ s', exec i s = .next s' ∧ OnlyThread s1 s' b t (gone th 1)

/-- R100, R101: a target that is not aligned, or whose word is no header, traps as BADTARGET; a call on a stack of 64 as
STACKOVF, a return on an empty one as STACKUNF. -/
def Sys2Proof.Claims.BadTransfersTrap : Prop :=
  ∀ i (s s1 : State) (b t : Nat) (x : Block) (th : Thread) reg, Runs i s b t x th → CanTrap s b t x th → readsTarget i s s1 b t reg →
    (∀ tgt stack, transfer i th reg = some (some (tgt, stack)) → stackFits i th →
      (tgt.toNat % 4 ≠ 0 ∨ ∃ w, s1.codeWord b tgt = .ok w ∧ w.toNat / 2 ^ 25 ≠ 127) →
      ∃ s', exec i s = .next s' ∧ OnlyThread s s' b t (handled s x th .badTarget tgt 0 th.pc th.clauseIdx)) ∧
    (∀ tgt stack, (∃ off, i = .call off) ∨ (∃ a, i = .callx a) → transfer i th reg = some (some (tgt, stack)) →
      GoodTarget s1 b tgt → 64 ≤ th.stack.length →
      ∃ s', exec i s = .next s' ∧ OnlyThread s s' b t (handled s x th .stackOvf 0 0 th.pc th.clauseIdx)) ∧
    (i = .ret → th.stack = [] →
      ∃ s', exec i s = .next s' ∧ OnlyThread s s' b t (handled s x th .stackUnf 0 0 th.pc th.clauseIdx))

/-- R100, R101: a taken transfer puts the thread at its target; a bad target, a full or an empty call stack traps. -/
def Obligations.TransfersGoToTheirTargetOrTrap : Prop := Claims.TransfersGoToTheirTarget ∧ Claims.BadTransfersTrap


namespace Sys2Proof.Claims

/-! Clauses and waits. -/

/-- The thread at the first word of a clause (02 R45). -/
def begun (th : Thread) (w : Word) (ws : List Word) : Thread :=
  { th with clause := w :: ws, clauseIdx := 1, pc := th.pc + 4, x := none, o := [] }

/-- A thread alone in the bundle that issues, its block resident. -/
structure Stands (s : State) (b t : Nat) (x : Block) (th : Thread) : Prop where
  alone : s.cur = [(b, t)]
  block : s.getBlock b = some x
  thread : x.getThread t = some th
  resident : x.life = .resident ∧ x.mark = none

/-- A thread of a resident block, as it stands once the operands are read. -/
structure Resides (s : State) (b t : Nat) (x : Block) (th : Thread) : Prop where
  block : s.getBlock b = some x
  thread : x.getThread t = some th
  resident : x.life = .resident ∧ x.mark = none

/-- A uniform instruction of one thread's bundle whose checks pass, and whose twin agrees. -/
structure RunsU (i : Instr) (s : State) (b t : Nat) (x : Block) (th : Thread) : Prop extends Stands s b t x th where
  checked : uniCheck i s b [t] = none
  twin : th.twinBad = false

/-- A thread's counts of the flags of a mask are all zero. -/
def countsZero (th : Thread) (mask : BitVec 12) : Prop := ∀ f, f < 12 → mask.getLsbD f = true → th.flag f = 0

/-- SETA or SETB may name a flag or none (02 R44). -/
def setOk (k : BitVec 4) : Prop := k.toNat < 12 ∨ k.toNat = 15

end Sys2Proof.Claims

/-- R44, R45, R50: at a boundary a header whose words are at hand and whose WAIT flags are zero starts its clause: COUNT body
words (16 for 0) stand in it, the thread at the first, the latches undefined. Flags that are not zero hold the thread. -/
def Sys2Proof.Claims.HeadersStartTheirClause : Prop :=
  ∀ (count : BitVec 4) (wait : BitVec 12) (seta setb : BitVec 4) (point : Bool) (s : State) (b t : Nat) (x : Block) (th : Thread)
    (ws : List Word), Stands s b t x th → th.clauseIdx = 0 → setOk seta → setOk setb →
    (countsZero th wait → s.codeWords b (th.pc + 4) (if count = 0 then 16 else count.toNat) = .ok ws →
      (∀ e ∈ th.cmds, wait.getLsbD e.1 = false) →
      ∃ s', exec (.clauseHeader count wait seta setb point) s = .next s' ∧
        OnlyThread s s' b t (begun th (w32 (headerWord count.toNat wait.toNat seta.toNat setb.toNat point.toNat)) ws)) ∧
    (countsZero th wait → s.codeWords b (th.pc + 4) (if count = 0 then 16 else count.toNat) = .ok ws →
      s.specPending b [t] s.seq = false →
      ∃ s', exec (.clauseHeader count wait seta setb point) s = .next s' ∧ (s'.thread b t).clauseIdx = 1 ∧
        (s'.thread b t).clause = w32 (headerWord count.toNat wait.toNat seta.toNat setb.toNat point.toNat) :: ws ∧
        (s'.thread b t).pc = th.pc + 4 ∧ ∀ e ∈ (s'.thread b t).cmds, wait.getLsbD e.1 = false) ∧
    (¬countsZero th wait → ∃ s', exec (.clauseHeader count wait seta setb point) s = .next s' ∧
      OnlyThread s s' b t { th with run := .stalled (.flags wait), since := s.now })

/-- R44, R46: a header inside a clause body, or one whose SETA or SETB is 12 to 14, traps as ILLEGAL. -/
def Sys2Proof.Claims.MisplacedHeadersTrap : Prop :=
  ∀ (count : BitVec 4) (wait : BitVec 12) (seta setb : BitVec 4) (point : Bool) (s : State) (b t : Nat) (x : Block) (th : Thread),
    s.cur = [(b, t)] → CanTrap s b t x th → (th.clauseIdx ≠ 0 ∨ ¬setOk seta ∨ ¬setOk setb) →
    ∃ s', exec (.clauseHeader count wait seta setb point) s = .next s' ∧
      OnlyThread s s' b t (handled s x th .illegal 0 0 th.pc th.clauseIdx)

/-- R44 to R46, R50: a header at a boundary starts its clause or waits for its flags; anywhere else, or with a bad field, it traps. -/
def Obligations.HeadersStartTheirClauseOrTrap : Prop := Claims.HeadersStartTheirClause ∧ Claims.MisplacedHeadersTrap


/-- R84, R102, R103, R104, R105: NOP goes on; WAITF goes on once its flags are zero and waits else, and a bad WAITF word
traps as ILLEGAL; ACQUIRE goes on with the full
allotment and waits else; RECONV arrives at its team and waits; EXIT ends the thread, and with the last one its block
goes to EXITING. -/
def Sys2Proof.Claims.WaitsAndExit : Prop :=
  (∀ (s : State) (b t : Nat) (x : Block) (th : Thread), Runs .nop s b t x th →
    ∃ s', exec .nop s = .next s' ∧ OnlyThread s s' b t (gone th 1)) ∧
  (∀ (mask : BitVec 12) (s : State) (b t : Nat) (x : Block) (th : Thread), Runs (.waitf mask) s b t x th →
    (countsZero th mask → (∀ e ∈ th.cmds, mask.getLsbD e.1 = false) →
      ∃ s', exec (.waitf mask) s = .next s' ∧ OnlyThread s s' b t (gone th 1)) ∧
    (countsZero th mask → s.specPending b [t] s.seq = false →
      ∃ s', exec (.waitf mask) s = .next s' ∧ (s'.thread b t).pc = th.pc + 4 ∧ ∀ e ∈ (s'.thread b t).cmds, mask.getLsbD e.1 = false) ∧
    (¬countsZero th mask → ∃ s', exec (.waitf mask) s = .next s' ∧
      OnlyThread s s' b t { th with run := .stalled (.flags mask), since := s.now })) ∧
  decodeWord 0x0AF10009 none = .ok (.waitf 0b1001) ∧
  (∀ (s : State) (b t : Nat) (th : Thread) (w : Word), s.cur = [(b, t)] → s.getThread b t = some th → th.clauseIdx ≠ 0 →
    th.clause[th.clauseIdx]? = some w → w.toNat / 2 ^ 24 = 0x0A → (w.toNat / 2 ^ 16 % 2 ^ 8 ≠ 0xF1 ∨ w.toNat / 2 ^ 12 % 2 ^ 4 ≠ 0) →
    issueBundle s = .next (s.stopAt b t (.trap .illegal 0 0))) ∧
  (∀ (s : State) (b t : Nat) (x : Block) (th : Thread), Runs .acquire s b t x th →
    (x.allot = x.full → ∃ s', exec .acquire s = .next s' ∧ OnlyThread s s' b t (gone th 1)) ∧
    (x.allot ≠ x.full → ∃ s', exec .acquire s = .next s' ∧ (s'.block b).acqpend = true ∧
      s'.getThread b t = some { th with run := .stalled .acquire, since := s.now } ∧ s.sameMemory s')) ∧
  (∀ (n : Fin 8) (s : State) (b t : Nat) (x : Block) (th : Thread), Runs (.reconv n) s b t x th →
    th.teams.getLsbD n.val = true → (x.teams.getD n.val ⟨0, 0, 0⟩).members ≠ 0 →
    ∃ s', exec (.reconv n) s = .next s' ∧ OnlyThread s s' b t { th with run := .stalled (.reconv n.val), since := s.now }) ∧
  (∀ (s : State) (b t : Nat) (x : Block) (th : Thread), Runs .exit s b t x th → countsZero th 0xFFF → x.slice = none →
    x.partners = [] →
    ∃ s', exec .exit s = .next s' ∧ (s'.thread b t).run = .exited ∧ (s'.thread b t).stack = [] ∧ s.sameMemory s' ∧
      (∀ b' t', ¬(b' = b ∧ t' = t) → s'.getThread b' t' = s.getThread b' t') ∧
      (s'.block b).life = (if ∀ u ∈ x.liveTids, u = t then .exiting else .resident))

/-- R50, R82, R84, R106: a held clause starts once its flags allow; a register line arrives in the cache with the words of the image,
for which a full cache writes another line back; a grant gives a resident block the full allotment, and one that is stopped keeps its
request; a fetched line stands in the core's instruction path as home holds it; whoever waited for it is ready. -/
def Sys2Proof.Claims.ControlEventsEndTheirWait : Prop :=
  (∀ (b t : Nat) (s : State) (th : Thread), s.getThread b t = some th →
    ((∃ mask, th.run = .stalled (.flags mask) ∧ countsZero th mask) ∨ (∃ f, th.run = .stalled (.flagFull f) ∧ th.flag f < 7)) →
    ∃ s', exec (.clauseStart b t) s = .next s' ∧ OnlyThread s s' b t { th with run := .ready, since := s.now }) ∧
  (∀ (b row reg : Nat) (s : State) (x : Block), s.getBlock b = some x → x.inSlot = true → x.kind = .lane → reg < 224 → row < 64 →
    s.held (x.lineWord (16 * row) reg) = false →
    ∃ s', exec (.registerCacheFill b row reg) s = .next s' ∧ 256 * row + reg ∈ (s'.block b).cached ∧
      (∀ t th, x.getThread t = some th → th.run = .stalled (.line row reg) → (s'.thread b t).run = .ready) ∧
      (s.cacheLines x.core < 8192 → s.sameMemory s' ∧
        ∀ t th, x.getThread t = some th → t / 16 = row →
          (s'.thread b t).getV reg = if 256 * row + reg ∈ x.cached then th.getV reg else w32 (s.rdNat (x.lineWord t reg) 4))) ∧
  (∀ (s : State) (b row line : Nat) (x : Block), s.getBlock b = some x → row < 64 → line < 224 → x.image + 0x100000 ≤ devSize →
    ∃ s', s.spillLine b row line = s' ∧ 256 * row + line ∉ (s'.block b).cached ∧
      (∀ i, i < 16 → s'.rdNat (x.lineWord (16 * row + i) line) 4 = (s.lineWordIn b (16 * row + i) line).toNat) ∧
      ∀ pa, (pa < x.lineWord (16 * row) line ∨ x.lineWord (16 * row) line + 64 ≤ pa) → s'.rd8 pa = s.rd8 pa) ∧
  (∀ (b : Nat) (s : State) (x : Block), s.getBlock b = some x → x.life ≠ .resident → exec (.acquireGrant b) s = .next s) ∧
  (∀ (b : Nat) (s : State) (x : Block), s.getBlock b = some x → x.life = .resident → x.acqpend = true →
    ∃ s', exec (.acquireGrant b) s = .next s' ∧ (s'.block b).allot = x.full ∧ (s'.block b).acqpend = false ∧
      (∀ t th, x.getThread t = some th → th.run = .stalled .acquire → (s'.thread b t).run = .ready) ∧ s.sameMemory s') ∧
  (∀ (b t : Nat) (s : State) (x : Block) (th : Thread) (pa : Nat) (key : Option Nat), s.getBlock b = some x → x.getThread t = some th →
    x.inSlot = true → th.run = .stalled (.fetch pa key) → s.reach noCore (pa / 64 * 64) = true →
    ∃ s', exec (.instructionFetch b t) s = .next s' ∧ (s'.thread b t).run = .ready ∧ s.sameMemory s' ∧
      ∀ i, i < 64 → Cells.get? (viewKey x.core key (pa / 64 * 64 + i)) s'.ipath = some (s.homeByte (pa / 64 * 64 + i) key))

/-- R50, R82, R84, R102 to R106: NOP, WAITF, ACQUIRE, RECONV and EXIT, and the events that end a wait. -/
def Obligations.WaitsAndExitAndTheirEvents : Prop := Claims.WaitsAndExit ∧ Claims.ControlEventsEndTheirWait


namespace Sys2Proof.Claims

/-! Loads and stores (06_memory.md R157 to R165). -/

/-- The form of a load: destination, address pair, offset in bytes, bytes, alignment, sign extension, .nol1. -/
structure LoadForm where
  dest : LReg
  addr : LReg
  off : Int
  bytes : Nat
  align : Nat
  signed : Bool
  nol1 : Bool

/-- The loads and their forms (06 R157, R162). -/
def loadForm : Instr → Option LoadForm
  | .ldW8 d a off _ h => some ⟨d, a, off.toInt, 1, 1, false, h == .nol1⟩
  | .ldI8 d a off _ h => some ⟨d, a, off.toInt, 1, 1, true, h == .nol1⟩
  | .ldW16 d a off _ h => some ⟨d, a, 2 * off.toInt, 2, 2, false, h == .nol1⟩
  | .ldI16 d a off _ h => some ⟨d, a, 2 * off.toInt, 2, 2, true, h == .nol1⟩
  | .ldW32 d a off _ h => some ⟨d, a, 4 * off.toInt, 4, 4, false, h == .nol1⟩
  | .ldW64 d a off _ h => some ⟨d, a, 8 * off.toInt, 8, 8, false, h == .nol1⟩
  | .ldW128 d a off _ h => some ⟨d, a, 16 * off.toInt, 16, 16, false, h == .nol1⟩
  | .ldxW32 d a off _ => some ⟨d, a, off.toInt, 4, 1, false, false⟩
  | .ldxW64 d a off _ => some ⟨d, a, off.toInt, 8, 1, false, false⟩
  | _ => none

/-- The form of a store: source, address pair, offset in bytes, bytes, whether it fills its granule, .nol1. -/
structure StoreForm where
  source : LReg
  addr : LReg
  off : Int
  bytes : Nat
  fill : Bool
  nol1 : Bool

/-- The stores and their forms (06 R157, R165). -/
def storeForm : Instr → Option StoreForm
  | .stW8 d a off _ h => some ⟨d, a, off.toInt, 1, false, h == .nol1⟩
  | .stW16 d a off _ h => some ⟨d, a, 2 * off.toInt, 2, false, h == .nol1⟩
  | .stW32 d a off _ h => some ⟨d, a, 4 * off.toInt, 4, false, h == .nol1⟩
  | .stW64 d a off _ h => some ⟨d, a, 8 * off.toInt, 8, false, h == .nol1⟩
  | .stW128 d a off _ h => some ⟨d, a, 16 * off.toInt, 16, false, h == .nol1⟩
  | .stFill d a off _ h => some ⟨d, a, 16 * off.toInt, 16, true, h == .nol1⟩
  | _ => none

/-- An operation as a lane instruction issues it, before it has its serial number: what every kind shares. -/
def laneOp (s : State) (b t : Nat) (kind : OpKind) (ea : DWord) (ts : List Tgt) (flag : Option Nat) : MemOp :=
  { id := 0, blk := b, tids := [t], uniform := false, core := (s.block b).padCore, kind, flag, dst := .none, tgts := ts, data := []
    ea, nol1 := false, scope := .core, acq := false, rel := false, inView := none, clob := false, after := [] }

/-- The n bytes from an address on, as an access names them. -/
def accessOf (kind : AccKind) (fe : Bool) (align : Nat) (ea : DWord) (n : Nat) : Access :=
  { kind, fe, align, eas := (List.range n).map fun i => ea + BitVec.ofNat 64 i }

/-- An operation is issued: it stands last in flight under the next serial number, its flag counts one more in its thread,
and memory is as it was. -/
def IssuedLast (o : MemOp) (b t : Nat) (s s' : State) : Prop :=
  s'.ops.getLast? = some { o with id := s.seq } ∧ s'.ops.length = s.ops.length + 1 ∧ s'.seq = s.seq + 1 ∧ s.sameMemory s' ∧
    ∀ f, o.flag = some f → (s'.thread b t).flag f = (s.thread b t).flag f + 1

/-- How an operation's issue ends (01 R24, R30): one with no byte in the on-chip map stands last in flight; one that lies in that map is
performed as it issues, or its thread waits for what comes before it. -/
def IssueEnds (i : Instr) (o : MemOp) (b t : Nat) (s s1 : State) : Prop :=
  ((∀ u ∈ o.tgts, s1.onChip b u = false) →
    ∃ s2, exec i s = .next (s2.retire b t (wordsOf i) .fall) ∧ IssuedLast o b t s1 s2) ∧
  ((∃ u ∈ o.tgts, s1.onChip b u = true) → (∀ u ∈ o.tgts, ∀ g m k, u ≠ .ford g m k) →
    (s1.chipWait { o with id := s1.seq } = none →
      ∃ s2, exec i s = .next ((s2.performOp { o with id := s1.seq } []).retire b t (wordsOf i) .fall) ∧ IssuedLast o b t s1 s2) ∧
    ∀ w, s1.chipWait { o with id := s1.seq } = some w → exec i s = .next (s.stopAt b t (.stall w)))

/-- The words of a store's data, read from its register or group, as bytes (00_scope.md R4). -/
def ReadsData (b t : Nat) (d : LReg) (n : Nat) (bs : List Byte) (s s' : State) : Prop :=
  if n ≤ 4 then ∃ w, src b t d s = .ok (w, s') ∧ bs = leBytes n w.toNat
  else ∃ ws, srcN b t d (n / 4) s = .ok (ws, s') ∧ bs = ws.flatMap fun w => leBytes 4 w.toNat

end Sys2Proof.Claims

/-- R157, R160, R162: a load whose checks pass issues one operation that names its bytes, its destination and its flag, and the
thread goes on. -/
def Sys2Proof.Claims.LoadsIssueOneOperation : Prop :=
  ∀ i F s s1 s2 b t base ts th, loadForm i = some F → Issues i s b t → src2 b t F.addr s = .ok (base, s1) →
    checkAccess b [t] (accessOf .read false F.align (base + BitVec.ofInt 64 F.off) F.bytes) s1 = .ok (ts, s2) →
    s2.getThread b t = some th →
    IssueEnds i { laneOp s2 b t (.load F.signed) (base + BitVec.ofInt 64 F.off) ts (flagOf i s2 b t) with
      dst := .lane F.dest ((F.bytes + 3) / 4), nol1 := F.nol1 } b t s s2

/-- R157, R160, R163, R165: a store whose checks pass issues one operation with its bytes; STM those its mask selects, and none for
an empty mask. -/
def Sys2Proof.Claims.StoresIssueOneOperation : Prop :=
  (∀ i F s s1 s2 s3 b t base bs ts th, storeForm i = some F → Issues i s b t → src2 b t F.addr s = .ok (base, s1) →
    ReadsData b t F.source F.bytes bs s1 s2 →
    checkAccess b [t] (accessOf .write F.fill F.bytes (base + BitVec.ofInt 64 F.off) F.bytes) s2 = .ok (ts, s3) →
    s3.getThread b t = some th → th.twinBad = false → (s3.block b).oxbow = none →
    IssueEnds i { laneOp s3 b t (if F.fill then .fill else .store) (base + BitVec.ofInt 64 F.off) ts (flagOf i s3 b t) with
      data := bs, nol1 := F.nol1 } b t s s3) ∧
  (∀ d a m s s1 s2 s3 s4 b t base mk bs ts th, Issues (.stm d a m) s b t → src2 b t a s = .ok (base, s1) →
    src b t m s1 = .ok (mk, s2) → ReadsData b t d 16 bs s2 s3 →
    (mk.toNat % 65536 = 0 → exec (.stm d a m) s = .next (s3.retire b t 1 .fall)) ∧
    (mk.toNat % 65536 ≠ 0 →
      checkAccess b [t] { kind := .write, fe := false, align := 1
                          eas := ((List.range 16).filter fun i => mk.getLsbD i).map fun i => base + BitVec.ofNat 64 i } s3 = .ok (ts, s4) →
      s4.getThread b t = some th → th.twinBad = false → (s4.block b).oxbow = none →
      IssueEnds (.stm d a m) { laneOp s4 b t .store base ts (flagOf (.stm d a m) s4 b t) with
        data := ((List.range 16).filter fun i => mk.getLsbD i).map fun i => bs.getD i 0 } b t s s4))

/-- R164: LD.FE takes the data of a full granule no other access of the thread is on, a take empties it, and the operation carries
them to four registers; an empty one holds the thread. -/
def Sys2Proof.Claims.GranuleLoadsTakeFullGranules : Prop :=
  ∀ (take : Bool) d a off f (s s1 s2 : State) (b t : Nat) (base : DWord) (tg : Tgt) (ts : List Tgt) (x : Block) (th : Thread),
    let i : Instr := if take then .ldFeTake d a off f else .ldFePeek d a off f
    Runs i s b t x th → src2 b t a s = .ok (base, s1) →
    checkAccess b [t] (accessOf .read true 16 (base + BitVec.ofInt 64 (16 * off.toInt)) 16) s1 = .ok (tg :: ts, s2) →
    (s2.isFull tg = true → s2.ownPending b t tg = false → s2.acquireHolds b [t] s2.seq = false → s2.granMark tg = none →
      (tg.granKey.bind fun k => Cells.get? k s2.doneGrans) = none → (s2.block b).oxbow = none →
      (∀ u ∈ tg :: ts, (s2.tgtByte u).isSome = true) → (s2.getThread b t).isSome = true →
      ∃ s3, exec i s = .next (s3.retire b t 1 .fall) ∧
        IssuedLast { laneOp s2 b t .fe (base + BitVec.ofInt 64 (16 * off.toInt)) [] (flagOf i s2 b t) with
          dst := .lane d 4, data := (tg :: ts).map fun u => (s2.tgtByte u).getD 0 } b t (if take then s2.setFull tg false else s2) s3) ∧
    (s2.isFull tg = false → ∃ s', exec i s = .next s' ∧
      OnlyThread s s' b t { th with run := .stalled (.granule tg), since := s.now })

/-- R160 to R165: a load or a store issues one operation on the bytes it names; LD.FE takes a full granule and waits on an empty one. That an access through
the on-chip map is performed as it issues is the model's choice (log entry 48). -/
def Obligations.LoadsAndStoresIssueOneOperation : Prop := Claims.LoadsIssueOneOperation ∧ Claims.StoresIssueOneOperation ∧ Claims.GranuleLoadsTakeFullGranules


/-- R148, R159, 17 R405: an access by a load or store at an address that is not canonical traps as NONCANON, at one not a multiple of
its size as ALIGN, on a page it may not touch as XLATE_PROT; a page without a translation holds the thread and asks for
a walk. Later checks wait for earlier ones. -/
def Obligations.AccessChecksComeInOrder : Prop :=
  ∀ i (s s1 : State) (b t : Nat) (x : Block) (th : Thread) (base : DWord) (addr : LReg) (off : Int) (align n : Nat) (kind : AccKind),
    ((∃ F, loadForm i = some F ∧ addr = F.addr ∧ off = F.off ∧ align = F.align ∧ n = F.bytes ∧ kind = .read ∧ s1 = s) ∨
     (∃ F bs, storeForm i = some F ∧ addr = F.addr ∧ off = F.off ∧ align = F.bytes ∧ n = F.bytes ∧ kind = .write ∧
        ReadsData b t F.source F.bytes bs s s1)) →
    Runs i s b t x th → CanTrap s b t x th → src2 b t addr s = .ok (base, s) → s1.blocks = s.blocks → s1.clusters = s.clusters →
    let ea := base + BitVec.ofInt 64 off
    let info : Word := if kind = .read then 0 else 1
    (canonical ea = false → ∃ s', exec i s = .next s' ∧ OnlyThread s s' b t (handled s x th .nonCanon ea info th.pc th.clauseIdx)) ∧
    (canonical ea = true → ea.toNat % align ≠ 0 →
      ∃ s', exec i s = .next s' ∧ OnlyThread s s' b t (handled s x th .align ea info th.pc th.clauseIdx)) ∧
    (canonical ea = true → ea.toNat % align = 0 → inPadWindow ea = false → x.gang = none → x.pairOf = none →
      s.translate (clusterOf x.core) x.ctx ea.toNat kind = .prot →
      ∃ s', exec i s = .next s' ∧ OnlyThread s s' b t (handled s x th .xlateProt ea info th.pc th.clauseIdx)) ∧
    (canonical ea = true → ea.toNat % align = 0 → inPadWindow ea = false → x.gang = none → x.pairOf = none →
      s.translate (clusterOf x.core) x.ctx ea.toNat kind = .miss →
      ∃ s', exec i s = .next s' ∧ s'.getThread b t = some { th with run := .stalled (.xlate x.ctx ea kind), since := s.now } ∧
        s.sameMemory s' ∧ ∃ r ∈ (s'.getCluster (clusterOf x.core)).reqs, r.ctx = x.ctx ∧ r.page = ea.toNat / 4096 ∧ r.spec = false)

namespace Sys2Proof.Claims

/-- What a lane register of a thread holds when a value arrives in it: in its handler the latches of the interrupted clause. -/
def holds (th : Thread) (r : LReg) : Option Word :=
  match r with
  | .v n => some (th.getV n.val)
  | .x => if th.inTrap then th.bankX else th.x
  | .o n => if th.inTrap then Cells.get? n.val th.bankO else Cells.get? n.val th.o
  | _ => none

/-- May a register take a result (02 R38)? -/
def canHold (r : LReg) : Prop :=
  match r with
  | .v _ | .x | .o _ => True
  | _ => False

/-- The lines of the registers that a result of an operation goes to are in the register cache (03 R82); a line outside is written in
the image. -/
def LinesIn (o : MemOp) (x : Block) (t : Nat) : Prop :=
  ∀ d n k m, o.dst = .lane d n → k < 4 → d.plus k = .v m → x.lineIn (t / 16) m.val = true

/-- The words loaded bytes make (06 R160): a short value is extended, a long one taken word by word, low byte first. -/
def loadedWords (signed : Bool) (bs : List Byte) : List Word :=
  match bs with
  | [p] => [if signed then p.signExtend 32 else p.zeroExtend 32]
  | [p, q] => [if signed then (q ++ p : BitVec 16).signExtend 32 else (q ++ p : BitVec 16).zeroExtend 32]
  | _ => (List.range (bs.length / 4)).map fun i =>
      (bs.getD (4 * i + 3) 0 ++ bs.getD (4 * i + 2) 0 ++ bs.getD (4 * i + 1) 0 ++ bs.getD (4 * i) 0 : BitVec 32)

/-- Does a write to a target touch a byte of device memory? Under a key its 16-byte unit is written anew (17 R403). -/
def touches (tg : Tgt) (pa : Nat) : Prop :=
  match tg with
  | .dev p none => p = pa
  | .dev p (some _) => p / 16 = pa / 16
  | _ => False

/-- The byte a list of targets and bytes leaves at a plain device address: the last written there. -/
def lastWritten (ts : List (Tgt × Byte)) (pa : Nat) : Option Byte :=
  ((ts.filter fun e => e.1 == .dev pa none).getLast?).map (·.2)

end Sys2Proof.Claims

/-- R160, R48: a load that completes delivers the words its bytes make to its destination, counts its flag down, and is gone; no
byte of memory changes. -/
def Sys2Proof.Claims.LoadsDeliverTheirWords : Prop :=
  ∀ (s : State) (o : MemOp) (sg : Bool) (reply : List Byte) (t n : Nat) (d : LReg) (x : Block) (th : Thread) (bs : List Byte),
    s.opOf o.id = some o → o.uniform = false → o.kind = .load sg → o.tgts ≠ [] → s.ready o = true → s.loadReach o = none →
    o.tids = [t] → o.dst = .lane d n → o.clob = false → o.acq = false → s.getBlock o.blk = some x → x.getThread t = some th →
    x.inImage = false → canHold d → LinesIn o x t →
    (o.tgts.zipIdx.map fun e => (s.loadByte o reply[e.2]? e.1).1) = bs.map some → n = (bs.length + 3) / 4 →
    (bs.length < 3 ∨ 4 ∣ bs.length) → bs.length ≤ 16 → (d = .x → n = 1) →
    ∃ s', exec (.loadCompletion o.id reply) s = .next s' ∧
      (∀ k w, (loadedWords sg bs)[k]? = some w → holds (s'.thread o.blk t) (d.plus k) = some w) ∧
      (∀ f, o.flag = some f → (s'.thread o.blk t).flag f = th.flag f - 1) ∧
      (∀ p ∈ s'.ops, p.id ≠ o.id) ∧ s.sameMemory s' ∧ s'.pads = s.pads

/-- R160, R164: the data of an LD.FE arrive in its registers, and a thread held on a granule wakes once it is full. -/
def Sys2Proof.Claims.GranuleDataArrive : Prop :=
  (∀ (s : State) (o : MemOp) (reply : List Byte) (t n : Nat) (d : LReg) (x : Block) (th : Thread),
    s.opOf o.id = some o → o.uniform = false → o.kind = .fe → s.ready o = true → o.tids = [t] → o.dst = .lane d n → o.clob = false →
    s.getBlock o.blk = some x → x.getThread t = some th → x.inImage = false → canHold d → LinesIn o x t → d ≠ .x → o.data.length = 16 →
    ∃ s', exec (.loadCompletion o.id reply) s = .next s' ∧
      (∀ k w, (loadedWords false o.data)[k]? = some w → holds (s'.thread o.blk t) (d.plus k) = some w) ∧
      (∀ f, o.flag = some f → (s'.thread o.blk t).flag f = th.flag f - 1) ∧
      (∀ p ∈ s'.ops, p.id ≠ o.id) ∧ s.sameMemory s') ∧
  (∀ (s : State) (b t : Nat) (th : Thread) (tg : Tgt), s.getThread b t = some th → th.run = .stalled (.granule tg) →
    s.isFull tg = true → s.ownPending b t tg = false →
    ∃ s', exec (.ldFeWake b t) s = .next s' ∧ OnlyThread s s' b t { th with run := .ready, since := s.now })

/-- R160, R164, R48: a completed load, or the data of an LD.FE that arrive, write the words their bytes make and count the flag down; a thread held on a granule
wakes once it is full. -/
def Obligations.LoadsAndGranuleLoadsDeliverTheirWords : Prop := Claims.LoadsDeliverTheirWords ∧ Claims.GranuleDataArrive


/-- R173, R160, R165, R183, R48: a store that is performed leaves its bytes at home, in order, touches no other byte of device memory, counts its flag
down, changes no thread but its own (or those whose registers it stores to through the window), and is gone; on lines its core has pinned it leaves
them in the pinned copy; ST.FILL sets its granule full. -/
def Obligations.StoresArePerformedAtHome : Prop :=
  ∀ (s : State) (o : MemOp) (reply : List Byte) (x : Block), s.opOf o.id = some o → o.uniform = false →
    (o.kind = .store ∨ o.kind = .fill) → s.ready o = true → s.outOfReach o = none → s.getBlock o.blk = some x → x.inImage = false →
    ∃ s', exec (.writePerformed o.id reply) s = .next s' ∧ (∀ p ∈ s'.ops, p.id ≠ o.id) ∧
      ((o.rel = true → o.scope = .core) → (∀ blk row line byte, .win blk row line byte ∈ o.tgts → (s.block blk).lineIn row line = true) →
        ∀ pa, (∀ tg ∈ o.tgts, ¬touches tg pa) → s'.rd8 pa = s.rd8 pa) ∧
      ((∀ tg ∈ o.tgts, ∃ pa, tg = .dev pa none ∧ pa < 704 * 2 ^ 30 ∧ s.pinAt pa = none) → o.rel = false →
        ∀ pa, s'.rd8 pa = (lastWritten (o.tgts.zip o.data) pa).getD (s.rd8 pa)) ∧
      ((∀ tg ∈ o.tgts, ∃ pa p, tg = .dev pa none ∧ s.pinAt pa = some p) → o.rel = false → s.sameMemory s' ∧
        ∀ pa p, s.pinAt pa = some p → p.bytes.length = 64 → ∃ q, s'.pinAt pa = some q ∧ q.core = p.core ∧
          q.bytes[pa % 64]? = some ((lastWritten (o.tgts.zip o.data) pa).getD (p.bytes.getD (pa % 64) 0))) ∧
      (∀ core off ts c, o.kind = .fill → o.tgts = .sp core off :: ts → s.padOwner core (off / 16) = some c → s'.isFull (.sp core off) = true) ∧
      (∀ t th f, o.tids = [t] → x.getThread t = some th → o.flag = some f → (s'.thread o.blk t).flag f = th.flag f - 1) ∧
      ((∀ blk row line byte, .win blk row line byte ∉ o.tgts) → (o.rel = true → o.scope = .core) →
        ∀ b' t', ¬(b' = o.blk ∧ t' ∈ o.tids) → s'.getThread b' t' = s.getThread b' t')

namespace Sys2Proof.Claims

/-! Atomics and ordered accesses (07_ordering.md R172 to R195). -/

/-- The new value of an atomic on n bytes (07 R186). -/
def atomResult (op : AtomOp) (n old x : Nat) : Nat :=
  let m := 2 ^ (8 * n)
  let sgn (v : Nat) : Int := (BitVec.ofNat (8 * n) v).toInt
  match op with
  | .add => (old + x) % m
  | .sub => (old + (m - x)) % m
  | .and => old &&& x
  | .or => old ||| x
  | .xor => old ^^^ x
  | .minI => if sgn x < sgn old then x else old
  | .maxI => if sgn old < sgn x then x else old
  | .minW => min old x
  | .maxW => max old x
  | .xchg => x
  | .inc => if x ≤ old then 0 else old + 1
  | .dec => if old = 0 ∨ x < old then x else old - 1

/-- Bytes of a width. -/
def bytesOf : Width → Nat
  | .w32 => 4
  | .w64 => 8

/-- An operand of a width as a number. -/
def ReadsNumber (b t : Nat) (r : LReg) (w : Width) (v : Nat) (s s' : State) : Prop :=
  match w with
  | .w32 => ∃ x, src b t r s = .ok (x, s') ∧ v = x.toNat
  | .w64 => ∃ x, src2 b t r s = .ok (x, s') ∧ v = x.toNat

/-- The use an atomic is issued under: .spec elsewhere than on NORMAL memory, and .com on a peer, act as .unp (07 R192; 16
R374). -/
def useOf (ctl : AtomCtl) (ts : List Tgt) : AtomUse :=
  if ctl.use = .spec then .unp
  else if ctl.use = .com ∧ ∃ t ∈ ts, (match t with | .ford _ _ _ => true | _ => false) = true then .unp
  else ctl.use

/-- Has an atomic a release part, an acquire part? -/
def releases (o : AtomOrder) : Bool := o == .rel || o == .acqrel
def acquires (o : AtomOrder) : Bool := o == .acq || o == .acqrel

/-- The operation of an atomic (07 R186). -/
def atomIssue (s : State) (b t : Nat) (d : LReg) (ctl : AtomCtl) (kind : OpKind) (ea : DWord) (ts : List Tgt) (x : Nat)
    (flag : Option Nat) : MemOp :=
  { laneOp s b t kind ea ts flag with
    data := leBytes (bytesOf ctl.size) x, scope := ctl.scope, acq := acquires ctl.order, rel := releases ctl.order
    dst := if d = .zero then .none else .lane d (bytesOf ctl.size / 4)
    after := if releases ctl.order then (s.thread b t).observed else [] }

/-- A release part has begun, if there is one. -/
def releaseBegun (s : State) (b t : Nat) (rel : Bool) (sc : Scope) : State := if rel then s.beginRelease b [t] sc else s

/-- Is an atomic performed against the core's view (07 R192)? -/
def onView (ctl : AtomCtl) (ts : List Tgt) : Prop := ctl.use = .spec ∧ ∀ t ∈ ts, ∃ pa key, t = .dev pa key

/-- A thread that may store: its twin's signature agrees, and its block is no Oxbow run. -/
def mayStore (s : State) (b t : Nat) : Prop :=
  (∃ th, s.getThread b t = some th ∧ th.twinBad = false) ∧ (s.block b).oxbow = none

end Sys2Proof.Claims

/-- R185, R186, R188: an ATOM or CAS whose checks pass issues one operation with its operation, use, order, scope and operand,
after its release part has begun; zero discards the old value. -/
def Sys2Proof.Claims.AtomicsIssueOneOperation : Prop :=
  (∀ d a c ctl s s1 s2 s3 b t base x ts, Issues (.atom d a c ctl) s b t → src2 b t a s = .ok (base, s1) →
    ReadsNumber b t c ctl.size x s1 s2 →
    checkAccess b [t] (accessOf .atomic false (bytesOf ctl.size) base (bytesOf ctl.size)) s2 = .ok (ts, s3) →
    mayStore s3 b t → ctl.use ≠ .spec →
    IssueEnds (.atom d a c ctl) (atomIssue s3 b t d ctl (.atom ctl.op (useOf ctl ts)) base ts x (flagOf (.atom d a c ctl) s3 b t)) b t s
      (releaseBegun s3 b t (releases ctl.order) ctl.scope)) ∧
  (∀ d a c ctl s s1 s2 s3 s4 b t base x e ts, Issues (.cas d a c ctl) s b t → src2 b t a s = .ok (base, s1) →
    ReadsNumber b t c ctl.size x s1 s2 → ReadsNumber b t d ctl.size e s2 s3 →
    checkAccess b [t] (accessOf .atomic false (bytesOf ctl.size) base (bytesOf ctl.size)) s3 = .ok (ts, s4) →
    mayStore s4 b t → ctl.use ≠ .spec →
    IssueEnds (.cas d a c ctl) (atomIssue s4 b t d ctl (.cas e (useOf ctl ts)) base ts x (flagOf (.cas d a c ctl) s4 b t)) b t s
      (releaseBegun s4 b t (releases ctl.order) ctl.scope))

/-- R192: a .spec atomic on NORMAL memory takes the old value from the core's view and sends home a conditional update; on another
target it is performed as .unp and counts as a success. -/
def Sys2Proof.Claims.SpecAtomicsUseTheView : Prop :=
  (∀ d a c ctl s s1 s2 s3 b t base x ts bs, Issues (.atom d a c ctl) s b t → src2 b t a s = .ok (base, s1) →
    ReadsNumber b t c ctl.size x s1 s2 →
    checkAccess b [t] (accessOf .atomic false (bytesOf ctl.size) base (bytesOf ctl.size)) s2 = .ok (ts, s3) →
    mayStore s3 b t → onView ctl ts → s3.acquireHolds b [t] s3.seq = false →
    let o := { atomIssue s3 b t d ctl (.atom ctl.op .unp) base ts x (flagOf (.atom d a c ctl) s3 b t) with id := s3.seq }
    s3.orderHolds { o with kind := .load false } = false → s3.loadReach o = none → (ts.map fun u => (s3.loadByte o none u).1) = bs.map some →
    ∃ (s4 : State) (p : MemOp), exec (.atom d a c ctl) s = .next (s4.retire b t 2 .fall) ∧ s4.ops.getLast? = some p ∧
      p.kind = .spec (leNat bs) true ∧ p.tgts = ts ∧ p.data = leBytes (bytesOf ctl.size) (atomResult ctl.op (bytesOf ctl.size) (leNat bs) x) ∧
      p.dst = (if d = .zero then .none else .lane d (bytesOf ctl.size / 4)) ∧ p.inView.isSome = true ∧ s3.sameMemory s4) ∧
  (∀ d a c ctl s s1 s2 s3 s4 b t base x e ts bs, Issues (.cas d a c ctl) s b t → src2 b t a s = .ok (base, s1) →
    ReadsNumber b t c ctl.size x s1 s2 → ReadsNumber b t d ctl.size e s2 s3 →
    checkAccess b [t] (accessOf .atomic false (bytesOf ctl.size) base (bytesOf ctl.size)) s3 = .ok (ts, s4) →
    mayStore s4 b t → onView ctl ts → s4.acquireHolds b [t] s4.seq = false →
    let o := { atomIssue s4 b t d ctl (.cas e .unp) base ts x (flagOf (.cas d a c ctl) s4 b t) with id := s4.seq }
    s4.orderHolds { o with kind := .load false } = false → s4.loadReach o = none → (ts.map fun u => (s4.loadByte o none u).1) = bs.map some →
    ∃ (s5 : State) (p : MemOp), exec (.cas d a c ctl) s = .next (s5.retire b t 2 .fall) ∧ s5.ops.getLast? = some p ∧
      p.kind = .spec (leNat bs) (decide (leNat bs = e)) ∧ p.tgts = ts ∧ p.data = leBytes (bytesOf ctl.size) x ∧ s4.sameMemory s5) ∧
  (∀ d a c ctl s s1 s2 s3 b t base x ts, Issues (.atom d a c ctl) s b t → src2 b t a s = .ok (base, s1) →
    ReadsNumber b t c ctl.size x s1 s2 →
    checkAccess b [t] (accessOf .atomic false (bytesOf ctl.size) base (bytesOf ctl.size)) s2 = .ok (ts, s3) →
    mayStore s3 b t → ctl.use = .spec → ¬onView ctl ts → ctl.order = .relaxed → (∀ u ∈ ts, s3.onChip b u = false) →
    ∃ (s4 : State) (p : MemOp), exec (.atom d a c ctl) s = .next (s4.retire b t 2 .fall) ∧ s4.ops.getLast? = some p ∧
      p.kind = .atom ctl.op .unp ∧ p.tgts = ts ∧ (s4.thread b t).spec = (s3.thread b t).spec ++ [(ctl.scope, true)])

/-- R185, R186, R188 to R192: an atomic or a compare-and-swap issues one operation; a .spec one takes its old value from the view. That one through the
on-chip map is performed as it issues is the model's choice (log entry 48). -/
def Obligations.AtomicsIssueOrUseTheView : Prop := Claims.AtomicsIssueOneOperation ∧ Claims.SpecAtomicsUseTheView


/-- R178, R193: LD.ACQ issues a load that acquires at its scope, ST.REL a store that releases at it, once the release part has
begun. -/
def Sys2Proof.Claims.OrderedLoadsAndStoresIssue : Prop :=
  (∀ d a sc w f s s1 s2 b t base ts, Issues (.ldAcq d a sc w f) s b t → src2 b t a s = .ok (base, s1) →
    checkAccess b [t] (accessOf .read false (bytesOf w) base (bytesOf w)) s1 = .ok (ts, s2) → (s2.getThread b t).isSome = true →
    IssueEnds (.ldAcq d a sc w f) { laneOp s2 b t (.load false) base ts (flagOf (.ldAcq d a sc w f) s2 b t) with
      dst := .lane d (bytesOf w / 4), scope := sc, acq := true } b t s s2) ∧
  (∀ d a sc w f s s1 s2 s3 b t base x ts, Issues (.stRel d a sc w f) s b t → src2 b t a s = .ok (base, s1) →
    ReadsNumber b t d w x s1 s2 → checkAccess b [t] (accessOf .write false (bytesOf w) base (bytesOf w)) s2 = .ok (ts, s3) →
    mayStore s3 b t →
    IssueEnds (.stRel d a sc w f) { laneOp s3 b t .store base ts (flagOf (.stRel d a sc w f) s3 b t) with
      data := leBytes (bytesOf w) x, scope := sc, rel := true, after := (s3.thread b t).observed } b t s (s3.beginRelease b [t] sc))

/-- R178, R181, R194, R195: a FENCE begins its release part; it holds the thread while that waits, and then drops the core's view at a scope wider
than the core. At such a scope it waits while an earlier store of its thread to NORMAL memory is not performed; FENCE.DUR waits too while a parity
update is owed that a write of its thread made. -/
def Obligations.FencesWaitAndDropTheView : Prop :=
  ∀ (dur : Bool) (sc : Scope) (s : State) (b t : Nat) (x : Block) (th : Thread),
    let i : Instr := if dur then .fenceDur else .fence sc
    let sc' : Scope := if dur then .pkg else sc
    Runs i s b t x th →
    (∀ p ∈ s.ops, p.kind = .store → p.blk = b → t ∈ p.tids → p.id < s.seq → (∃ pa key, .dev pa key ∈ p.tgts) → sc' ≠ .core →
      ∃ s', exec i s = .next s' ∧ (s'.thread b t).run = .stalled (.release sc' dur) ∧ (s'.thread b t).pc = th.pc) ∧
    (∀ o ∈ s.thatch.owed, dur = true → obsWrite o.id ∈ th.observed →
      ∃ s', exec i s = .next s' ∧ (s'.thread b t).run = .stalled (.release sc' dur) ∧ (s'.thread b t).pc = th.pc) ∧
    ((s.beginRelease b [t] sc').fenceWaits b t sc' dur = true →
      ∃ s', exec i s = .next s' ∧ (s'.thread b t).run = .stalled (.release sc' dur) ∧ (s'.thread b t).pc = th.pc) ∧
    ((s.beginRelease b [t] sc').fenceWaits b t sc' dur = false →
      ∃ s', exec i s = .next s' ∧ (s'.thread b t).pc = th.pc + 4 ∧
        (sc' ≠ .core → ∀ key pa, pa < 2 ^ 52 → Cells.get? (viewKey x.padCore key pa) s'.views = none)) ∧
    (∀ s2 : State, s2.getThread b t = some { th with run := .stalled (.release sc' dur) } → s2.fenceWaits b t sc' dur = false →
      ∃ s', exec (.fenceDone b t) s2 = .next s' ∧ OnlyThread s2 s' b t { th with run := .ready, since := s2.now })

/-- R178, R179: a release is not performed while an earlier store of its thread to NORMAL memory is not performed at home, except
at .core for a store in the core's view; no access but a .nord one is performed behind a pending acquire of its thread. -/
def Sys2Proof.Claims.ReleasesAndAcquiresHoldAccessesBack : Prop :=
  (∀ (s : State) (o p : MemOp) reply, s.opOf o.id = some o → o.rel = true → p ∈ s.ops → p.kind = .store → p.id < o.id → p.blk = o.blk →
    (∃ t, t ∈ p.tids ∧ t ∈ o.tids) → (∃ pa key, .dev pa key ∈ p.tgts) → (o.scope ≠ .core ∨ p.inView = none) →
    exec (.writePerformed o.id reply) s = .next s) ∧
  (∀ (s : State) (o p : MemOp) reply, s.opOf o.id = some o → o.isNord = false → p ∈ s.ops → p.acq = true → p.id < o.id → p.blk = o.blk →
    (∃ t, t ∈ p.tids ∧ t ∈ o.tids) →
    exec (.writePerformed o.id reply) s = .next s ∧ exec (.loadCompletion o.id reply) s = .next s)

/-- R178 to R181, R193: ordered loads and stores issue one operation, and what a release or an acquire holds back is held. That one through the on-chip map
is performed as it issues is the model's choice (log entry 48). -/
def Obligations.OrderedAccessesIssueAndAreHeldBack : Prop := Claims.OrderedLoadsAndStoresIssue ∧ Claims.ReleasesAndAcquiresHoldAccessesBack


/-- R186, R187: an atomic performed on plain NORMAL memory reads the old value at home, leaves the new one there, delivers the old
one, and touches nothing else in memory; a CAS whose value differs writes nothing. -/
def Obligations.AtomicsArePerformedAtHome : Prop :=
  ∀ (s : State) (o : MemOp) (t : Nat) (x : Block) (th : Thread) (new : Nat → Option Nat),
    s.opOf o.id = some o → o.uniform = false → o.tids = [t] → s.ready o = true → s.outOfReach o = none →
    s.getBlock o.blk = some x → x.getThread t = some th → x.inImage = false → o.clob = false → o.acq = false → o.rel = false → o.scope ≠ .core → LinesIn o x t →
    (o.tgts.length = 4 ∨ o.tgts.length = 8) → (∀ tg ∈ o.tgts, ∃ pa, tg = .dev pa none ∧ pa < 704 * 2 ^ 30 ∧ s.pinAt pa = none) →
    ((∃ op u, u ≠ .com ∧ o.kind = .atom op u ∧ new = fun old => some (atomResult op o.tgts.length old (leNat o.data))) ∨
     (∃ e u, o.kind = .cas e u ∧ new = fun old => if old = e then some (leNat o.data) else none)) →
    leNat o.data < 2 ^ (8 * o.tgts.length) →
    let bs := o.tgts.map fun tg => match tg with | .dev pa _ => s.rd8 pa | _ => 0
    ∃ s', exec (.writePerformed o.id []) s = .next s' ∧ (∀ p ∈ s'.ops, p.id ≠ o.id) ∧
      (∀ pa, s'.rd8 pa = match new (leNat bs) with
        | some v => (lastWritten (o.tgts.zip (leBytes o.tgts.length v)) pa).getD (s.rd8 pa)
        | none => s.rd8 pa) ∧
      (∀ d n, o.dst = .lane d n → canHold d → (d = .x → o.tgts.length = 4) → ∀ k w, (loadedWords false bs)[k]? = some w →
        holds (s'.thread o.blk t) (d.plus k) = some w) ∧
      (∀ f, o.flag = some f → (s'.thread o.blk t).flag f = th.flag f - 1)

/-- R182, R183, R189, R192, 18 R419: an atomic at .core pins its NORMAL line; a broken pin is gone, its line stands at home and the record says how long it was held; a .com atomic
alone in its group is performed; a .spec update is performed when home still holds the old value, and its outcome noted. -/
def Obligations.PinsMergesAndSpeculation : Prop :=
  (∀ (s : State) (o : MemOp) op u (pa : Nat) key ts, s.opOf o.id = some o → o.uniform = false → s.ready o = true → s.outOfReach o = none →
    o.kind = .atom op u → u ≠ .com → o.scope = .core → o.tgts = .dev pa key :: ts → s.pinAt pa = none →
    (s.block o.blk).inSlot = true → (s.block o.blk).core = o.core → o.core < 512 →
    (s.pins.filter fun p => p.core == o.core).length < 32 → (s.getCore o.core).pinlim.toNat % 2 ^ 24 ≠ 0 →
    ∃ (s' : State) (p : Pin), exec (.writePerformed o.id []) s = .next s' ∧ p ∈ s'.pins ∧ p.core = o.core ∧ p.line = pa / 64 * 64 ∧ p.blk = o.blk) ∧
  (∀ (s : State) (core line : Nat) (p : Pin) (c : Nat), s.pins.find? (fun q => q.core == core && q.line == line) = some p →
    p.firstRetry = some c → c + (s.getCore core).pinlim.toNat % 2 ^ 24 ≤ s.now → p.key = none → p.bytes.length = 64 → line + 64 ≤ 704 * 2 ^ 30 →
    p.later = [] →
    ∃ s1 : State, exec (.pinLimitBreak core line) s = .next (s1.record (s.block p.blk).ctx
        { kind := 0x01, core, slot := (s.block p.blk).slot, addr := line, detail := leBytes 4 (s.now - p.since) }) ∧
      p ∉ s1.pins ∧ ∀ i, i < 64 → s1.rd8 (line + i) = p.bytes.getD i 0) ∧
  (∀ (s : State) (o : MemOp) op, s.opOf o.id = some o → o.kind = .atom op .com → s.ready o = true → s.outOfReach o = none →
    s.comGroup o = [o] → (s.block o.blk).inImage = false → o.rel = false → o.dst = .none → (o.tgts.length = 4 ∨ o.tgts.length = 8) →
    leNat o.data < 2 ^ (8 * o.tgts.length) → (∀ tg ∈ o.tgts, ∃ pa, tg = .dev pa none ∧ pa < 704 * 2 ^ 30 ∧ s.pinAt pa = none) →
    let bs := o.tgts.map fun tg => match tg with | .dev pa _ => s.rd8 pa | _ => 0
    ∃ s', exec (.comMergeFlush o.id) s = .next s' ∧ (∀ p ∈ s'.ops, p.id ≠ o.id) ∧
      ∀ pa, s'.rd8 pa = (lastWritten (o.tgts.zip (leBytes o.tgts.length (atomResult op o.tgts.length (leNat bs) (leNat o.data)))) pa).getD
        (s.rd8 pa)) ∧
  (∀ (s : State) (o : MemOp) (t : Nat) (th : Thread) (x : Block) old upd pa, s.opOf o.id = some o → o.kind = .spec old upd →
    s.ready o = true → s.outOfReach o = none → o.tids = [t] → s.getBlock o.blk = some x → x.getThread t = some th → x.inImage = false → LinesIn o x t →
    o.tgts = [.dev pa none, .dev (pa + 1) none, .dev (pa + 2) none, .dev (pa + 3) none] → o.data.length = 4 → pa + 4 ≤ 704 * 2 ^ 30 →
    (∀ k, k < 4 → s.pinAt (pa + k) = none) →
    let good := decide (s.rdNat pa 4 = old)
    ∃ s', exec (.specResolve o.id) s = .next s' ∧ (s'.thread o.blk t).spec = th.spec ++ [(o.scope, good)] ∧
      (∀ k, k < 4 → s'.rd8 (pa + k) = if good && upd then o.data.getD k 0 else s.rd8 (pa + k)) ∧ ∀ p ∈ s'.ops, p.id ≠ o.id)

namespace Sys2Proof.Claims

/-! Shadow regions and prefetches (06_memory.md R153 to R170). -/

/-- What a SMAP asks for meets the conditions of 06 R168. -/
def regionOk (x : Block) (off len : Nat) (g : DWord) : Prop :=
  len ≠ 0 ∧ len % 256 = 0 ∧ off % 256 = 0 ∧ g.toNat % 256 = 0 ∧ off + len ≤ 16 * x.spLen ∧ canonical g = true ∧
    (∀ r ∈ x.regions, off + len ≤ r.off ∨ r.off + r.len ≤ off) ∧ x.regions.length < 8

/-- A state that differs from another in the regions of a block, in one thread of it, and in where threads stand. -/
structure RegionsOnly (s s' : State) (b t : Nat) (th : Thread) (regions : List Region) : Prop where
  thread : s'.getThread b t = some th
  regions : (s'.block b).regions = regions
  others : ∀ b' t', ¬(b' = b ∧ t' = t) → s'.getThread b' t' = s.getThread b' t'
  blocks : ∀ b', { s'.block b' with threads := [], regions := [] } = { s.block b' with threads := [], regions := [] }
  memory : s.sameMemory s'
  views : s'.views = s.views

end Sys2Proof.Claims

/-- R168: SMAP adds a region that meets its conditions, with no unit present; one that stands already is left; any other traps as
SMAPARG. -/
def Sys2Proof.Claims.SmapAddsARegion : Prop :=
  ∀ d a c (s s1 s2 s3 : State) (b t : Nat) (x y : Block) (th u : Thread) (g : DWord) (off len : Word),
    Runs (.smap d a c) s b t x th → src2 b t a s = .ok (g, s1) → src b t c s1 = .ok (off, s2) → src b t d s2 = .ok (len, s3) →
    Resides s3 b t y u →
    let same (r : Region) : Prop := r.off = off.toNat ∧ r.len = len.toNat ∧ r.global = g
    ((∃ r ∈ y.regions, same r) ∨ regionOk y off.toNat len.toNat g →
      ∃ s', exec (.smap d a c) s = .next s' ∧ s'.getThread b t = some (gone u 1)) ∧
    ((∃ r ∈ y.regions, same r) → ∃ s', exec (.smap d a c) s = .next s' ∧ RegionsOnly s3 s' b t (gone u 1) y.regions) ∧
    ((∀ r ∈ y.regions, ¬same r) → regionOk y off.toNat len.toNat g →
      ∃ s' rs, exec (.smap d a c) s = .next s' ∧ RegionsOnly s3 s' b t (gone u 1) rs ∧
        ∀ r, r ∈ rs ↔ r ∈ y.regions ∨ r = { off := off.toNat, len := len.toNat, global := g, present := [], dirty := [] }) ∧
    ((∀ r ∈ y.regions, ¬same r) → ¬regionOk y off.toNat len.toNat g → CanTrap s b t x th →
      ∃ s', exec (.smap d a c) s = .next s' ∧ OnlyThread s s' b t (handled s x th .smapArg 0 0 th.pc th.clauseIdx))

/-- R154, R169: SUNMAP and SWB retire when every unit they write back is written, and else stop with what they have written; SUNMAP of a
clean region removes it and zeroes the units that were never filled; SWB with nothing dirty goes on; SUNMAP of an offset without a region
does nothing; a unit whose global range can be written is written back, stands there and is clean; that of an Oxbow copy writes nothing (18 R430). -/
def Sys2Proof.Claims.SunmapAndSwbWriteBack : Prop :=
  (∀ c (s s1 s2 : State) (b t : Nat) (x : Block) (th : Thread) (off : Word), Runs (.sunmap c) s b t x th → src b t c s = .ok (off, s1) →
    (s.unmapRegion b t off.toNat = (s2, none) →
      exec (.sunmap c) s = .next ((match src b t c s2 with | .ok q => q.2 | .error _ => s2).retire b t 1 .fall)) ∧
    (∀ st, s.unmapRegion b t off.toNat = (s2, some st) → exec (.sunmap c) s = .next (s2.retire b t 1 (.stops st)))) ∧
  (∀ d c (s s1 s2 s3 : State) (b t : Nat) (x : Block) (th : Thread) (off len : Word), Runs (.swb d c) s b t x th →
    src b t c s = .ok (off, s1) → src b t d s1 = .ok (len, s2) →
    (s.writeBackRange b t off.toNat len.toNat = (s3, none) → isQueue c = false → isQueue d = false →
      ∃ n, exec (.swb d c) s = .next (State.retire { s3 with fresh := n } b t 1 .fall)) ∧
    (∀ st, s.writeBackRange b t off.toNat len.toNat = (s3, some st) → exec (.swb d c) s = .next (s3.retire b t 1 (.stops st)))) ∧
  (∀ c (s s1 : State) (b t : Nat) (x y : Block) (th w : Thread) (off : Word), Runs (.sunmap c) s b t x th → src b t c s = .ok (off, s1) →
    isQueue c = false → Resides s1 b t y w →
    ((∀ r ∈ y.regions, r.off ≠ off.toNat) → ∃ s', exec (.sunmap c) s = .next s' ∧ RegionsOnly s1 s' b t (gone w 1) y.regions) ∧
    (∀ r, y.regions.find? (·.off == off.toNat) = some r → r.dirty = [] → s.regionWait b t r.off (r.off + r.len) = none →
      ∃ s', exec (.sunmap c) s = .next s' ∧ RegionsOnly s1 s' b t (gone w 1) (y.regions.filter fun q => q.off != off.toNat) ∧
        ∀ k, Cells.getD k 0 s'.pads =
          if ∃ u, u < r.len / 256 ∧ u ∉ r.present ∧ padKey y.padCore (16 * y.spBase + r.off) + 256 * u ≤ k ∧
              k < padKey y.padCore (16 * y.spBase + r.off) + 256 * u + 256
          then 0 else Cells.getD k 0 s1.pads)) ∧
  (∀ d c (s s1 s2 : State) (b t : Nat) (x y : Block) (th w : Thread) (off len : Word), Runs (.swb d c) s b t x th →
    src b t c s = .ok (off, s1) → src b t d s1 = .ok (len, s2) → isQueue c = false → isQueue d = false → Resides s2 b t y w →
    (∀ r ∈ y.regions, r.dirty = [] ∧ s.regionWait b t r.off (r.off + r.len) = none) →
    ∃ s', exec (.swb d c) s = .next s' ∧ RegionsOnly s2 s' b t (gone w 1) y.regions) ∧
  (∀ (s : State) (owner u cluster core pa : Nat) (tids : List Nat) (r : Region) (x : Block), s.getBlock owner = some x →
    s.unitPhys cluster x.ctx (r.global + BitVec.ofNat 64 (256 * u)) .write = .ok pa → (∀ i, i < 4 → s.reach core (pa + 64 * i) = true) →
    s.atOnce owner tids core true (unitTgts pa (s.ctxKey x.ctx) ++ x.unitPad r u) = none →
    ∃ s', s.writeBackUnit owner r u tids cluster core = .ok s' ∧ (∀ q ∈ (s'.block owner).regions, q.off = r.off → u ∉ q.dirty) ∧
      (x.isCopy = true → s.sameMemory s') ∧
      (x.isCopy = false → s.ctxKey x.ctx = none → pa + 256 ≤ 704 * 2 ^ 30 → (∀ i, i < 256 → s.pinAt (pa + i) = none) →
        ∀ i, i < 256 → s'.rd8 (pa + i) = Cells.getD (padKey x.padCore (16 * x.spBase + r.off + 256 * u + i)) 0 s.pads))

/-- R154, R168, R169, 18 R430: SMAP adds a region; SUNMAP and SWB write dirty units back, those of an Oxbow copy nowhere. -/
def Obligations.RegionsAreMappedAndWrittenBack : Prop := Claims.SmapAddsARegion ∧ Claims.SunmapAndSwbWriteBack


/-- R170: SINV of no bytes goes on; over the scratchpad window it discards the units it meets, dirty or not; over translated
NORMAL memory it drops the core's copies of the range; it waits for a page without a translation; a range that does not start and end
canonically traps as SMAPARG. -/
def Sys2Proof.Claims.SinvDropsCopiesAndUnits : Prop :=
  ∀ d a (s s1 s2 : State) (b t : Nat) (x y : Block) (th w : Thread) (g : DWord) (len : Word), Runs (.sinv d a) s b t x th →
    src2 b t a s = .ok (g, s1) → src b t d s1 = .ok (len, s2) → Resides s2 b t y w → s2.pins = [] → y.kind = .lane →
    (len = 0 → ∃ s', exec (.sinv d a) s = .next s' ∧ RegionsOnly s2 s' b t (gone w 1) y.regions) ∧
    (len ≠ 0 → (canonical g = false ∨ canonical (g + BitVec.ofNat 64 (len.toNat - 1)) = false) → CanTrap s b t x th →
      ∃ s', exec (.sinv d a) s = .next s' ∧ OnlyThread s s' b t (handled s x th .smapArg 0 0 th.pc th.clauseIdx)) ∧
    (len ≠ 0 → canonical g = true → canonical (g + BitVec.ofNat 64 (len.toNat - 1)) = true →
      (inPadWindow g = true → g.toNat + len.toNat ≤ 2 ^ 64 → s2.invalWait b (g.toNat - padWindow) (g.toNat + len.toNat - padWindow) = none →
        ∃ s', exec (.sinv d a) s = .next s' ∧ s'.getThread b t = some (gone { w with skipped := [] } 1) ∧ s2.sameMemory s' ∧ s'.pads = s2.pads ∧
          ∀ r' ∈ (s'.block b).regions, ∀ u, u ∈ r'.present ∨ u ∈ r'.dirty →
            r'.off + 256 * u + 256 ≤ g.toNat - padWindow ∨ g.toNat - padWindow + len.toNat ≤ r'.off + 256 * u) ∧
      (∀ e, g.toNat + len.toNat ≤ padWindow → (s2.getCluster (clusterOf y.core)).tlb = [e] → e.ctx = y.ctx → e.onchip = false →
        e.va ≤ g.toNat → g.toNat + len.toNat ≤ e.va + sizeBytes e.size →
        ∃ s', exec (.sinv d a) s = .next s' ∧ s'.getThread b t = some (gone { w with skipped := [] } 1) ∧ s2.sameMemory s' ∧ s'.pads = s2.pads ∧
          ∀ key i, i < len.toNat → e.frame + (g.toNat - e.va) + i < 2 ^ 52 →
            Cells.get? (viewKey y.core key (e.frame + (g.toNat - e.va) + i)) s'.views = none) ∧
      (g.toNat + len.toNat ≤ padWindow → s2.tlbFind (clusterOf y.core) y.ctx g.toNat = none → g.toNat / 4096 ∉ w.skipped →
        x.ctx = y.ctx → x.core = y.core →
        ∃ s', exec (.sinv d a) s = .next s' ∧ s'.getThread b t = some { th with run := .stalled (.sinv y.ctx (g.toNat / 4096)), since := s.now } ∧
          ∃ r ∈ (s'.getCluster (clusterOf x.core)).reqs, r.ctx = y.ctx ∧ r.page = g.toNat / 4096))

/-- R166, R174: PREF and the predictor's prefetch change no memory and no register, and never fault; a miss asks for a speculative
walk, a failed translation counts in SPECDROP; a hit fills an L1 that has room, but for .nol1; a copy that is dropped is gone. -/
def Sys2Proof.Claims.PrefetchesOnlyFillViews : Prop :=
  (∀ a off h (s s1 : State) (b t : Nat) (x : Block) (th w : Thread) (base : DWord), Runs (.pref a off h) s b t x th → x.kind = .lane →
    x.gang = none → x.pairOf = none → src2 b t a s = .ok (base, s1) → Resides s1 b t x w →
    let ea := base + BitVec.ofInt 64 (64 * off.toInt)
    ∃ s', exec (.pref a off h) s = .next s' ∧ s'.getThread b t = some (gone w 1) ∧ s1.sameMemory s' ∧ s'.pads = s1.pads ∧
      (canonical ea = true → inPadWindow ea = false →
        (s1.translate (clusterOf x.core) x.ctx ea.toNat .read = .miss →
          ∃ r ∈ (s'.getCluster (clusterOf x.core)).reqs, r.ctx = x.ctx ∧ r.page = ea.toNat / 4096 ∧ (x.core, ea, h != .nol1) ∈ r.prefs) ∧
        (s1.translate (clusterOf x.core) x.ctx ea.toNat .read = .prot → (s'.getCore x.core).specdrop = (s1.getCore x.core).specdrop + 1) ∧
        (∀ pa, s1.translate (clusterOf x.core) x.ctx ea.toNat .read = .hit pa false → pa < 704 * 2 ^ 30 →
          s1.reach x.core (pa / 64 * 64) = true → s1.pinAt (pa / 64 * 64) = none → h ≠ .nol1 → x.core < 512 →
          s1.l1Bytes x.core + 64 ≤ 131072 →
          ∀ i, i < 64 → (Cells.get? (viewKey x.core (s1.ctxKey x.ctx) (pa / 64 * 64 + i)) s'.views).isSome = true))) ∧
  (∀ core ctx ea (s : State), ∃ s', exec (.spatialPrefetch core ctx ea) s = .next s' ∧ s.sameMemory s' ∧ s'.blocks = s.blocks ∧
    s'.pads = s.pads) ∧
  (∀ core pa (s : State), pa < 2 ^ 52 → ∃ s', exec (.viewCopyDrop core pa) s = .next s' ∧ s.sameMemory s' ∧ s'.blocks = s.blocks ∧
    ∀ key, Cells.get? (viewKey core key pa) s'.views = none)

/-- R166, R170, R174: SINV drops copies of its range and discards units, dirty or not; a prefetch only fills views. That SINV asks for the pages it has no
translation of and waits is the model's choice (log entry 25). -/
def Obligations.CopiesAreDroppedAndFilled : Prop := Claims.SinvDropsCopiesAndUnits ∧ Claims.PrefetchesOnlyFillViews


namespace Sys2Proof.Claims

/-! Teams (08_teams.md R209 to R229). -/

/-- Has a member arrived in the open phase of a team's barrier (08 R217)? -/
def AtBarrier (x : Block) (n u : Nat) : Prop :=
  (∃ th, x.getThread u = some th ∧ th.splitOf n = 1) ∨ ∃ sc, x.waitOf u = some (.barrier n sc)

/-- A phase of a team's barrier is over: every split arrival reads 2, every waiting member is past its TBAR, the team's
record counts the phase, and no other thread and no byte of memory changed. -/
structure PhaseOver (s s' : State) (b n : Nat) (x : Block) : Prop where
  team : (s'.block b).team n = { x.team n with arrived := 0, phase := (x.team n).phase + 1 }
  split : ∀ u th, u ∈ x.members n → x.getThread u = some th → th.splitOf n = 1 → (s'.thread b u).splitOf n = 2
  passed : ∀ u th sc, u ∈ x.members n → x.getThread u = some th → th.run = .stalled (.barrier n sc) →
    (s'.thread b u).run = .ready ∧ (s'.thread b u).pc = th.pc + 4
  others : ∀ b' u, ¬(b' = b ∧ u ∈ x.members n) → s'.getThread b' u = s.getThread b' u
  memory : s.sameMemory s'

/-- The team an instruction of a team names, where the word names one. -/
def teamOf : Instr → Option Nat
  | .tbar n _ | .tarrive n _ | .twait n _ | .tleave n | .reconv n => some n.val
  | .tjoin _ _ m => some m.val
  | .elect _ n _ | .tred _ _ n _ | .tscan _ _ n _ _ | .ballot _ _ n | .vote _ _ n _ | .matchT _ _ n => some n.val
  | _ => none

end Sys2Proof.Claims

/-- R217, R218, R222, R223: TBAR arrives and waits once its release part is over; TARRIVE arrives, and its arrival or a TLEAVE that is the
last missing one ends the phase; TWAIT passes once its phase is over and waits before. -/
def Sys2Proof.Claims.BarriersArriveAndRelease : Prop :=
  (∀ (n : Fin 8) (sc : Scope) (s : State) (b t : Nat) (x y : Block) (th u : Thread), Runs (.tbar n sc) s b t x th →
    Resides (s.beginRelease b [t] sc) b t y u → s.inTeam b t n.val = true → th.splitOf n.val = 0 →
    (s.beginRelease b [t] sc).fenceWaits b t sc false = false →
    ∃ s', exec (.tbar n sc) s = .next s' ∧
      OnlyThread (s.beginRelease b [t] sc) s' b t { u with run := .stalled (.barrier n.val sc), since := s.now }) ∧
  (∀ (n : Fin 8) (sc : Scope) (s : State) (b t : Nat) (x y : Block) (th u : Thread), Runs (.tarrive n sc) s b t x th →
    Resides (s.beginRelease b [t] sc) b t y u → s.inTeam b t n.val = true → th.splitOf n.val = 0 → y.teams.length = 8 →
    u.run = .ready → u.member n.val = true → (s.beginRelease b [t] sc).fenceWaits b t sc false = false →
    ((∀ v ∈ y.members n.val, v ≠ t → AtBarrier y n.val v) → ∃ s', exec (.tarrive n sc) s = .next s' ∧
      (s'.thread b t).splitOf n.val = 2 ∧ (s'.thread b t).pc = u.pc + 4 ∧ ((s'.block b).team n.val).arrived = 0 ∧
      ((s'.block b).team n.val).phase = (y.team n.val).phase + 1 ∧
      ∀ v tv sc', v ∈ y.members n.val → v ≠ t → y.getThread v = some tv → tv.run = .stalled (.barrier n.val sc') →
        (s'.thread b v).run = .ready ∧ (s'.thread b v).pc = tv.pc + 4) ∧
    ((∃ v ∈ y.members n.val, v ≠ t ∧ ¬AtBarrier y n.val v) → ∃ s', exec (.tarrive n sc) s = .next s' ∧
      (s'.thread b t).splitOf n.val = 1 ∧ (s'.thread b t).pc = u.pc + 4 ∧
      (s'.block b).team n.val = { y.team n.val with arrived := (y.team n.val).arrived + 1 } ∧
      ∀ b' v, ¬(b' = b ∧ v = t) → s'.getThread b' v = (s.beginRelease b [t] sc).getThread b' v)) ∧
  (∀ (n : Fin 8) (sc : Scope) (s : State) (b t : Nat) (x : Block) (th : Thread), Runs (.twait n sc) s b t x th →
    s.inTeam b t n.val = true →
    (th.splitOf n.val = 2 → s.specPending b [t] s.seq = false → ∃ s', exec (.twait n sc) s = .next s' ∧
      (s'.thread b t).splitOf n.val = 0 ∧ (s'.thread b t).pc = th.pc + 4 ∧ (s'.thread b t).run = th.run ∧ s.sameMemory s' ∧
      (sc ≠ .core → ∀ key pa, pa < 2 ^ 52 → Cells.get? (viewKey x.padCore key pa) s'.views = none) ∧
      ∀ b' v, ¬(b' = b ∧ v = t) → s'.getThread b' v = s.getThread b' v) ∧
    (th.splitOf n.val = 1 → ∃ s', exec (.twait n sc) s = .next s' ∧
      OnlyThread s s' b t { th with run := .stalled (.twait n.val sc), since := s.now })) ∧
  (∀ (n : Fin 8) (s : State) (b t : Nat) (x : Block) (th : Thread), Runs (.tleave n) s b t x th → s.inTeam b t n.val = true →
    th.splitOf n.val = 0 → x.teams.length = 8 →
    ∃ s', exec (.tleave n) s = .next s' ∧ (s'.thread b t).teams.getLsbD n.val = false ∧ (s'.thread b t).pc = th.pc + 4 ∧
      ((s'.block b).team n.val).members = (x.team n.val).members - 1 ∧ s.sameMemory s' ∧
      (∀ k, k ≠ n.val → (s'.block b).team k = x.team k ∧ ((s'.thread b t).teams.getLsbD k = th.teams.getLsbD k))) ∧
  (∀ (blk team : Nat) (s : State) (x : Block), s.getBlock blk = some x → x.inSlot = true → team < 8 → x.teams.length = 8 →
    x.members team ≠ [] → (∀ u ∈ x.members team, AtBarrier x team u) →
    ∃ s', exec (.barrierRelease blk team) s = .next s' ∧ PhaseOver s s' blk team x)

/-- R209, R217, R223: an instruction of a team its thread is not in traps as NOTEAM; TBAR, TARRIVE and TLEAVE over a split arrival, and
TWAIT without one, trap as BARSEQ. -/
def Sys2Proof.Claims.TeamInstructionsTrap : Prop :=
  (∀ i n (s : State) (b t : Nat) (x : Block) (th : Thread), teamOf i = some n → Runs i s b t x th → CanTrap s b t x th →
    s.inTeam b t n = false →
    ∃ s', exec i s = .next s' ∧ OnlyThread s s' b t (handled s x th .noTeam 0 0 th.pc th.clauseIdx)) ∧
  (∀ i (n : Fin 8) (s : State) (b t : Nat) (x : Block) (th : Thread),
    ((∃ sc, i = .tbar n sc ∨ i = .tarrive n sc) ∨ i = .tleave n) → Runs i s b t x th → CanTrap s b t x th →
    s.inTeam b t n.val = true → th.splitOf n.val ≠ 0 →
    ∃ s', exec i s = .next s' ∧ OnlyThread s s' b t (handled s x th .barSeq 0 0 th.pc th.clauseIdx)) ∧
  (∀ (n : Fin 8) sc (s : State) (b t : Nat) (x : Block) (th : Thread), Runs (.twait n sc) s b t x th → CanTrap s b t x th →
    s.inTeam b t n.val = true → th.splitOf n.val = 0 →
    ∃ s', exec (.twait n sc) s = .next s' ∧ OnlyThread s s' b t (handled s x th .barSeq 0 0 th.pc th.clauseIdx))

/-- R211, R214, R215, R217, R218, R220 to R223: barrier instructions arrive, wait, leave and are released together; without a team, or out of sequence, they trap. -/
def Obligations.BarriersArriveReleaseAndTrap : Prop := Claims.BarriersArriveAndRelease ∧ Claims.TeamInstructionsTrap


namespace Sys2Proof.Claims

/-- The operands an exchange reads at arrival. -/
def exchangeReads : Instr → List (LReg × Nat)
  | .tjoin a _ _ | .tred _ a _ _ | .tscan _ a _ _ _ | .matchT _ a _ => [(a, 1)]
  | .shfl _ a b => [(a, 1), (b, 1)]
  | _ => []

/-- What an arrival brings (08 R212): team, form (opcode and fn; for SHFL the team), value, control word, predicate. -/
def brings (i : Instr) (th : Thread) (vs : List (List Word)) : Option (Nat × Nat × Word × Word × Bool) :=
  match i with
  | .tjoin _ _ m => some (m.val, 32 * 0x70 + m.val, arg vs 0, 0, false)
  | .elect _ n k => some (n.val, 32 * 0x75 + k.val, 0, 0, false)
  | .shfl _ _ _ =>
    let n := (arg vs 1).toNat / 2 ^ 10 % 8
    some (n, 32 * 0x76 + n, arg vs 0, arg vs 1, false)
  | .tred _ _ n op => some (n.val, 32 * 0x77 + redCode op, arg vs 0, 0, false)
  | .tscan _ _ n excl op => some (n.val, 32 * 0x78 + (redCode op + if excl then 16 else 0), arg vs 0, 0, false)
  | .ballot _ k n => some (n.val, 32 * 0x79, 0, 0, th.getP k.val)
  | .vote _ k n mode => some (n.val, 32 * 0x7A + voteCode mode, 0, 0, th.getP k.val)
  | .matchT _ _ n => some (n.val, 32 * 0x7B, arg vs 0, 0, false)
  | _ => none

/-- No thread of a block stands in an arrival of a team (08 R221). -/
def TeamFree (x : Block) (n : Nat) : Prop :=
  (x.team n).arrived = 0 ∧ ∀ u < x.threads.length, ∀ w, x.waitOf u = some w → waitsIn n w = false

/-- Another member waits in the team's exchange with a different form. -/
def MixedForm (x : Block) (n form : Nat) : Prop :=
  ∃ u f v c p j, u ∈ x.members n ∧ x.waitOf u = some (.exchange n f v c p j) ∧ f ≠ form

end Sys2Proof.Claims

/-- R212, R220: ELECT, SHFL, TRED, TSCAN, BALLOT, VOTE, MATCH and TJOIN arrive at their team's exchange, pop the queues they read, and wait
there with their contribution; the last member to arrive completes its instruction by the release that follows; a form that differs from
the rendezvous's traps as TEAMMIX. -/
def Obligations.ExchangesArriveWithTheirContribution : Prop :=
  ∀ i (s s1 : State) (b t : Nat) (x : Block) (th : Thread) vs n form v c p, Runs i s b t x th → Reads b t (exchangeReads i) vs s s1 →
    brings i th vs = some (n, form, v, c, p) → s.inTeam b t n = true →
    (∀ y u, Resides s1 b t y u → ¬MixedForm y n form → ∃ s', exec i s = .next s' ∧
      OnlyThread s1 s' b t { u with run := .stalled (.exchange n form v c p i), since := s.now } ∧
      ((∀ k ∈ y.members n, k ≠ t → ∃ v' c' p' j, y.waitOf k = some (.exchange n form v' c' p' j)) →
        (∀ a m q, (i = .tjoin a m q ∨ ∃ k v' c' p', y.waitOf k = some (.exchange n form v' c' p' (.tjoin a m q))) → TeamFree y m.val ∧ m.val ≠ n) →
        ∃ s'', exec (.exchangeRelease b n) s' = .next s'' ∧ (s''.thread b t).run = .ready ∧ (s''.thread b t).pc = u.pc + 4)) ∧
    (MixedForm (s1.block b) n form → CanTrap s b t x th → ∃ s', exec i s = .next s' ∧
      OnlyThread s s' b t (handled s x th .teamMix 0 0 th.pc th.clauseIdx))

namespace Sys2Proof.Claims

/-- A reduction over the values in rank order, and its FPSTAT bits (08 R227); the identity for none. -/
def reduced (op : RedOp) (ws : List Word) : Word × Nat :=
  match ws with
  | [] => (match op with
    | .minI => 0x7FFFFFFF | .maxI | .addF => 0x80000000 | .minW | .and => 0xFFFFFFFF | .minF => 0x7F800000 | .maxF => 0xFF800000
    | .add | .addSat | .maxW | .or | .xor => 0, 0)
  | w :: rest =>
    let pick (f : Word → Word → Bool) : Word := rest.foldl (fun a c => if f c a then c else a) w
    match op with
    | .add => ((w :: rest).sum, 0)
    | .addSat => (wi (max (-2147483648) (min 2147483647 ((w :: rest).map BitVec.toInt).sum)), 0)
    | .minI => (pick fun c a => c.slt a, 0)
    | .maxI => (pick fun c a => a.slt c, 0)
    | .minW => (pick fun c a => c.ult a, 0)
    | .maxW => (pick fun c a => a.ult c, 0)
    | .and => (rest.foldl (· &&& ·) w, 0)
    | .or => (rest.foldl (· ||| ·) w, 0)
    | .xor => (rest.foldl (· ^^^ ·) w, 0)
    | .addF => let r := f32.sum .rn .plain ((w :: rest).map fun w => f32.value w.toNat); (w32 r.1, r.2)
    | .minF => (if rest = [] then [w] else rest).foldl (fun a c => let r := f32.minMax false a.1.toNat c.toNat; (w32 r.1, a.2 ||| r.2)) (w, 0)
    | .maxF => (if rest = [] then [w] else rest).foldl (fun a c => let r := f32.minMax true a.1.toNat c.toNat; (w32 r.1, a.2 ||| r.2)) (w, 0)

/-- The rank a SHFL reads from, of r among p participants (08 R226). -/
def shflRank (c : Word) (r p : Nat) : Int :=
  let k := c.toNat % 2 ^ 10
  match c.toNat / 2 ^ 14 % 4 with
  | 0 => (k % p : Nat)
  | 1 => ((r : Int) + (BitVec.ofNat 10 k).toInt) % (p : Int)
  | 2 => (r : Int) + (BitVec.ofNat 10 k).toInt
  | _ => let g := 2 ^ min k 10; ((g * (r / g) + (g - 1 - r % g) : Nat) : Int)

/-- The register and predicate results of the participant of rank r (08 R225 to R228), with FPSTAT bits. -/
def exchanged (cs : List Contribution) (r : Nat) (c : Contribution) : Option Word × Option Bool × Nat :=
  let vals := cs.map (·.value)
  match c.instr with
  | .elect _ _ _ => (some (w32 ((cs.map (·.tid)).headD 0)), some (c.tid == (cs.map (·.tid)).headD 0), 0)
  | .shfl _ _ _ =>
    let q := shflRank c.ctl r cs.length
    (some (if 0 ≤ q ∧ q < cs.length then vals.getD q.toNat 0
      else if c.ctl.getLsbD 13 then c.value else (c.ctl.extractLsb' 16 16).signExtend 32), none, 0)
  | .tred _ _ _ op => (some (reduced op vals).1, none, (reduced op vals).2)
  | .tscan _ _ _ excl op =>
    let q := reduced op (vals.take (if excl then r else r + 1))
    (some q.1, none, q.2)
  | .ballot _ _ _ => (some (w32 ((List.range 32).map fun i =>
      if ((cs[32 * (r / 32) + i]?).map (·.pred)).getD false then 2 ^ i else 0).sum), none, 0)
  | .vote _ _ _ mode =>
    let yes := (cs.filter (·.pred)).length
    (none, some (match mode with
      | .all => yes == cs.length
      | .any => 0 < yes
      | .uni => yes == 0 || yes == cs.length
      | .maj => decide (cs.length < 2 * yes)
      | .odd => yes % 2 == 1), 0)
  | .matchT _ _ _ =>
    let same := (List.range cs.length).filter fun k => vals[k]? == some c.value
    (some (w32 (65536 * (same.length % 65536) + same.headD 0 % 65536)), none, 0)
  | _ => (none, none, 0)

/-- Where an exchange writes: its register and its predicate. -/
def exchangeDest : Instr → Option LReg × Option Nat
  | .elect d _ k => (some d, some k.val)
  | .shfl d _ _ | .tred d _ _ _ | .tscan d _ _ _ _ | .ballot d _ _ | .matchT d _ _ => (some d, none)
  | .vote j _ _ _ => (none, some j.val)
  | _ => (none, none)

/-- Every member of a team waits in its exchange: the contributions by rank. -/
def AllBrought (x : Block) (n : Nat) (cs : List Contribution) : Prop :=
  cs ≠ [] ∧ cs.map (·.tid) = x.members n ∧
    ∀ c ∈ cs, ∃ f, x.waitOf c.tid = some (.exchange n f c.value c.ctl c.pred c.instr)

end Sys2Proof.Claims

/-- R103, R212, R214, R221, R225 to R228: when every member waits in the exchange each gets its result and is past the instruction, and TJOIN's willing
ones join; when every member waits at RECONV all go on; when they wait apart, each traps as TEAMDEAD. -/
def Obligations.RendezvousReleaseTogether : Prop :=
  (∀ (blk team : Nat) (s : State) (x : Block) (cs : List Contribution), s.getBlock blk = some x → x.inSlot = true →
    AllBrought x team cs → (∀ c ∈ cs, ∀ a n m, c.instr ≠ .tjoin a n m) →
    ∃ s', exec (.exchangeRelease blk team) s = .next s' ∧ s.sameMemory s' ∧
      (∀ b' u, ¬(b' = blk ∧ u ∈ x.members team) → s'.getThread b' u = s.getThread b' u) ∧
      ∀ r c th, cs[r]? = some c → x.getThread c.tid = some th →
        (s'.thread blk c.tid).run = .ready ∧ (s'.thread blk c.tid).pc = th.pc + 4 ∧
        (s'.thread blk c.tid).fpstat = th.fpstat ||| w32 (exchanged cs r c).2.2 ∧
        (∀ n w, (exchangeDest c.instr).1 = some (.v n) → (exchanged cs r c).1 = some w → (s'.thread blk c.tid).getV n.val = w) ∧
        (∀ k v, (exchangeDest c.instr).2 = some k → k < 8 → (exchanged cs r c).2.1 = some v → (s'.thread blk c.tid).getP k = v)) ∧
  (∀ (blk team : Nat) (s : State) (x : Block) (cs : List Contribution), s.getBlock blk = some x → x.inSlot = true → x.teams.length = 8 →
    AllBrought x team cs →
    (∀ c ∈ cs, ∃ (a : LReg) (n m : Fin 8), c.instr = .tjoin a n m ∧ TeamFree x n.val) →
    ∃ s', exec (.exchangeRelease blk team) s = .next s' ∧ s.sameMemory s' ∧
      ∀ c th a n m, c ∈ cs → c.instr = .tjoin a n m → x.getThread c.tid = some th →
        (s'.thread blk c.tid).run = .ready ∧ (s'.thread blk c.tid).pc = th.pc + 4 ∧
        (s'.thread blk c.tid).teams.getLsbD n.val = (th.teams.getLsbD n.val || c.value != 0)) ∧
  (∀ (blk team : Nat) (s : State) (x : Block), s.getBlock blk = some x → x.inSlot = true → x.members team ≠ [] →
    (∀ u ∈ x.members team, x.waitOf u = some (.reconv team)) →
    ∃ s', exec (.reconvRelease blk team) s = .next s' ∧ s.sameMemory s' ∧
      (∀ b' u, ¬(b' = blk ∧ u ∈ x.members team) → s'.getThread b' u = s.getThread b' u) ∧
      ∀ u th, u ∈ x.members team → x.getThread u = some th → (s'.thread blk u).run = .ready ∧ (s'.thread blk u).pc = th.pc + 4) ∧
  (∀ (blk team u v : Nat) (s : State) (x : Block), s.getBlock blk = some x → x.inSlot = true → x.kind = .lane →
    (x.tvec ≠ 0 ∧ x.tvec.toNat % 4 = 0 ∧ canonical x.tvec = true) →
    x.barrierFull team = false → (∀ k ∈ x.members team, ((x.getThread k).bind (rendezvous team)).isSome = true) →
    u ∈ x.members team → v ∈ x.members team → (x.getThread u).bind (rendezvous team) ≠ (x.getThread v).bind (rendezvous team) →
    (∀ k th, x.getThread k = some th → th.tcause.msb = false ∧ th.clauseIdx < 32) →
    ∃ s', exec (.teamdead blk team) s = .next s' ∧ s.sameMemory s' ∧
      (∀ k th w, k ∈ x.members team → x.getThread k = some th → x.waitOf k = some w →
        s'.getThread blk k = some (handled s x (th.withdraw w) .teamDead 0 0 th.pc th.clauseIdx)) ∧
      ∀ b' k, ¬(b' = blk ∧ k ∈ x.members team) → s'.getThread b' k = s.getThread b' k)

namespace Sys2Proof.Claims

/-! Uniform instructions (04_integer.md R120 to R125). -/

/-- A uniform operand of a width, zero-extended: one register or a pair. -/
def ReadsU (b : Nat) : List (UReg × Bool) → List DWord → State → State → Prop
  | [], vs, s, s' => vs = [] ∧ s' = s
  | (r, w) :: os, vs, s, s' =>
    ∃ v s1 rest, (if w then readU2 b r s = .ok (v, s1) else ∃ u : Word, readU b r s = .ok (u, s1) ∧ v = u.zeroExtend 64) ∧
      ReadsU b os rest s1 s' ∧ vs = v :: rest

/-- A block with a uniform result: zero discards it; a pair takes the low word in its even register. -/
def putU (d : UReg) (wide : Bool) (v : DWord) (x : Block) : Block :=
  match d with
  | .s n => if wide then (x.setS n.val (loWord v)).setS (n.val + 1) (hiWord v) else x.setS n.val (loWord v)
  | _ => x

/-- A state that differs from another in the uniform registers of a block and in one thread of it: a uniform result. -/
structure UniformDone (s s' : State) (b t : Nat) (th : Thread) (f : Block → Block) : Prop where
  thread : s'.getThread b t = some th
  others : ∀ b' t', ¬(b' = b ∧ t' = t) → s'.getThread b' t' = s.getThread b' t'
  block : { s'.block b with threads := [] } = { f (s.block b) with threads := [] }
  blocks : ∀ b', b' ≠ b → { s'.block b' with threads := [] } = { s.block b' with threads := [] }
  rest : { s' with cur := [], bundles := [], blocks := [], ops := [] } = { s with cur := [], bundles := [], blocks := [], ops := [] }
  flight : s'.ops.map (fun o => { o with dst := .none }) = s.ops.map fun o => { o with dst := .none }
  memory : s.sameMemory s'

/-- A uniform scalar instruction: what it reads, where it writes and in which width, and the value. -/
structure UniOp where
  reads : List (UReg × Bool)
  dest : UReg
  wide : Bool
  value : List DWord → DWord

/-- A function of the form's width on zero-extended values. -/
def byWidth (w : Bool) (f64 : DWord → DWord → DWord) (f32 : Word → Word → Word) (x y : DWord) : DWord :=
  if w then f64 x y else (f32 (loWord x) (loWord y)).zeroExtend 64

/-- Two sources of the form's width. -/
def uop2 (d a b : UReg) (w : Bool) (f64 : DWord → DWord → DWord) (f32 : Word → Word → Word) : Option UniOp :=
  some ⟨[(a, w), (b, w)], d, w, fun vs => byWidth w f64 f32 (vs.getD 0 0) (vs.getD 1 0)⟩

/-- A shift: the count is a single register. -/
def ushift (d a b : UReg) (w : Bool) (f64 : DWord → Nat → DWord) (f32 : Word → Nat → Word) : Option UniOp :=
  some ⟨[(a, w), (b, false)], d, w, fun vs =>
    byWidth w (fun x y => f64 x y.toNat) (fun x y => f32 x y.toNat) (vs.getD 0 0) (vs.getD 1 0)⟩

/-- The conditions of SCMP (04 R124): is it wide, and the relation. -/
def scondRule (c : SCond) (x y : DWord) : Bool :=
  match c with
  | .eq => loWord x == loWord y
  | .ne => loWord x != loWord y
  | .ltI => (loWord x).slt (loWord y)
  | .leI => !(loWord y).slt (loWord x)
  | .ltW => (loWord x).ult (loWord y)
  | .leW => !(loWord y).ult (loWord x)
  | .eq64 => x == y
  | .ne64 => x != y
  | .ltI64 => x.slt y
  | .leI64 => !y.slt x
  | .ltW64 => x.ult y
  | .leW64 => !y.ult x

/-- Is a condition on pairs? -/
def scondWide : SCond → Bool
  | .eq64 | .ne64 | .ltI64 | .leI64 | .ltW64 | .leW64 => true
  | _ => false

/-- The uniform scalar instructions (04 R123). -/
def uniformOp : Instr → Option UniOp
  | .sadd d a b w => uop2 d a b w (· + ·) (· + ·)
  | .ssub d a b w => uop2 d a b w (· - ·) (· - ·)
  | .smul d a b w => uop2 d a b w (· * ·) (· * ·)
  | .sand d a b w => uop2 d a b w (· &&& ·) (· &&& ·)
  | .sor d a b w => uop2 d a b w (· ||| ·) (· ||| ·)
  | .sxor d a b w => uop2 d a b w (· ^^^ ·) (· ^^^ ·)
  | .sshl d a b w => ushift d a b w (fun x n => x <<< n) fun x n => x <<< n
  | .sshr d a b w => ushift d a b w (fun x n => x >>> n) fun x n => x >>> n
  | .ssar d a b w => ushift d a b w (fun x n => x.sshiftRight n) fun x n => x.sshiftRight n
  | .smov d a w => some ⟨[(a, w)], d, w, fun vs => vs.getD 0 0⟩
  | .smovi d imm w => some ⟨[], d, w, fun _ => imm.signExtend 64⟩
  | .slit d w lit => some ⟨[], d, w, fun _ => lit.signExtend 64⟩
  | .scmp d a b c => some ⟨[(a, scondWide c), (b, scondWide c)], d, false, fun vs => if scondRule c (vs.getD 0 0) (vs.getD 1 0) then 1 else 0⟩
  | .ssel d a b w => some ⟨[(a, w), (b, w), (d, w)], d, w, fun vs => if vs.getD 2 0 = 0 then vs.getD 1 0 else vs.getD 0 0⟩
  | _ => none

/-- Bytes of an SLD or SST (04 R125), and whether a load extends the sign. -/
def unitBytes : USize → Nat × Bool
  | .w8 => (1, false)
  | .i8 => (1, true)
  | .w16 => (2, false)
  | .i16 => (2, true)
  | .w32 => (4, false)
  | .w64 => (8, false)

end Sys2Proof.Claims

/-- R120, R122 to R124: a uniform scalar instruction, its operands readable, writes the value its row gives to its register or even
pair, zero discards it, the thread goes on, and nothing else changes. -/
def Obligations.UniformInstructionsWriteTheirResult : Prop :=
  ∀ i o (s s1 : State) (b t : Nat) (x y : Block) (th u : Thread) vs, uniformOp i = some o → RunsU i s b t x th →
    ReadsU b o.reads vs s s1 → Resides s1 b t y u →
    ∃ s', exec i s = .next s' ∧ UniformDone s1 s' b t (gone u (wordsOf i)) (putU o.dest o.wide (o.value vs))

/-- R125: SLD and SST issue one access for the block, counted in every live thread; it completes with the words its bytes make in
the destination, or its bytes at home. That an access through the on-chip map is performed as it issues is the model's choice (log entry 48). -/
def Obligations.UniformAccessesIssueAndComplete : Prop :=
  (∀ d a off f size (s s1 s2 : State) (b t : Nat) (x y : Block) (th u : Thread) base ts, RunsU (.sld d a off f size) s b t x th →
    readU2 b a s = .ok (base, s1) →
    let n := (unitBytes size).1
    let ea := base + BitVec.ofInt 64 (n * off.toInt)
    checkAccess b [t] (accessOf .read false n ea n) s1 = .ok (ts, s2) → Resides s2 b t y u → u.run = .ready →
    IssueEnds (.sld d a off f size) { laneOp s2 b t (.load (unitBytes size).2) ea ts (flagOf (.sld d a off f size) s2 b t) with
      uniform := true, dst := .uni d (if n = 8 then 2 else 1) } b t s s2 ∧
    ((∀ v ∈ ts, s2.onChip b v = false) → ∃ s3 s', exec (.sld d a off f size) s = .next s' ∧
      IssuedLast { laneOp s2 b t (.load (unitBytes size).2) ea ts (flagOf (.sld d a off f size) s2 b t) with
        uniform := true, dst := .uni d (if n = 8 then 2 else 1) } b t s2 s3 ∧ OnlyThread s3 s' b t (gone (s3.thread b t) 1) ∧
      ∀ fl v tv, flagOf (.sld d a off f size) s2 b t = some fl → y.getThread v = some tv → tv.run ≠ .exited →
        (s'.thread b v).flag fl = tv.flag fl + 1)) ∧
  (∀ d a off f size (s s1 s2 s3 : State) (b t : Nat) (x y : Block) (th u : Thread) base v ts, RunsU (.sst d a off f size) s b t x th →
    readU2 b a s = .ok (base, s1) → ReadsU b [(d, (unitBytes size).1 == 8)] [v] s1 s2 →
    let n := (unitBytes size).1
    let ea := base + BitVec.ofInt 64 (n * off.toInt)
    checkAccess b [t] (accessOf .write false n ea n) s2 = .ok (ts, s3) → Resides s3 b t y u → u.run = .ready → u.twinBad = false →
    y.oxbow = none →
    IssueEnds (.sst d a off f size) { laneOp s3 b t .store ea ts (flagOf (.sst d a off f size) s3 b t) with
      uniform := true, data := leBytes n v.toNat } b t s s3 ∧
    ((∀ v ∈ ts, s3.onChip b v = false) → ∃ s4 s', exec (.sst d a off f size) s = .next s' ∧
      IssuedLast { laneOp s3 b t .store ea ts (flagOf (.sst d a off f size) s3 b t) with uniform := true, data := leBytes n v.toNat } b t s3 s4 ∧
      OnlyThread s4 s' b t (gone (s4.thread b t) 1))) ∧
  (∀ (s : State) (o : MemOp) (sg : Bool) (reply : List Byte) (n : Nat) (d : Nat) (hd : d < 64) (x : Block) (bs : List Byte),
    s.opOf o.id = some o → o.uniform = true → o.kind = .load sg → o.tgts ≠ [] → s.ready o = true → s.loadReach o = none →
    o.dst = .uni (.s ⟨d, hd⟩) n → o.clob = false → o.acq = false → s.getBlock o.blk = some x → x.inImage = false →
    (o.tgts.zipIdx.map fun e => (s.loadByte o reply[e.2]? e.1).1) = bs.map some → n = (bs.length + 3) / 4 → d + n ≤ 64 →
    (bs.length < 3 ∨ 4 ∣ bs.length) → bs.length ≤ 8 →
    ∃ s', exec (.uniformAccessCompletion o.id reply) s = .next s' ∧
      (∀ k w, (loadedWords sg bs)[k]? = some w → (s'.block o.blk).getS (d + k) = w) ∧
      (∀ fl t th, o.flag = some fl → x.getThread t = some th → th.run ≠ .exited → (s'.thread o.blk t).flag fl = th.flag fl - 1) ∧
      (∀ p ∈ s'.ops, p.id ≠ o.id) ∧ s.sameMemory s') ∧
  (∀ (s : State) (o : MemOp) (reply : List Byte) (x : Block), s.opOf o.id = some o → o.uniform = true → o.kind = .store →
    s.ready o = true → s.outOfReach o = none → s.getBlock o.blk = some x → x.inImage = false → o.rel = false →
    (∀ tg ∈ o.tgts, ∃ pa, tg = .dev pa none ∧ pa < 704 * 2 ^ 30 ∧ s.pinAt pa = none) →
    ∃ s', exec (.uniformAccessCompletion o.id reply) s = .next s' ∧ (∀ p ∈ s'.ops, p.id ≠ o.id) ∧
      ∀ pa, s'.rd8 pa = (lastWritten (o.tgts.zip o.data) pa).getD (s.rd8 pa))

namespace Sys2Proof.Claims

/-! The matrix unit (11_matrix.md R258 to R274; 10_residue.md R241 to R244). -/

/-- The instructions of the matrix unit that check 1 of 11 R266 stops in a block without a span. -/
def isMatrix : Instr → Bool
  | .mma _ _ _ _ | .mmaQ _ _ _ | .mmaz _ _ _ _ | .mmazQ _ _ _ | .bld _ _ _ | .bldReed _ _ _ | .bldConv _ _ _ | .bldClr _ | .oprdy
  | .accld _ _ _ | .accq _ _ _ | .accz _ _ | .acczRows _ _ _ | .acczFree _ _ => true
  | _ => false

/-- A command stands last on a unit of a core under the next serial number, its flag counts one more in every live thread,
and its thread is past the instruction; memory is as it was. -/
structure QueuedLast (unit : CoreState → List MCmd) (m : MCmd) (b t core : Nat) (s s' : State) : Prop where
  last : (unit (s'.getCore core)).getLast? = some { m with id := s.seq, after := (s.getCore core).oprdy }
  length : (unit (s'.getCore core)).length = (unit (s.getCore core)).length + 1
  counted : ∀ fl v tv, m.flag = some fl → s.getThread b v = some tv → tv.run ≠ .exited → (s'.thread b v).flag fl = tv.flag fl + 1
  goes : (s'.thread b t).pc = (s.thread b t).pc + 4
  memory : s.sameMemory s'

/-- A thread of a lane block whose launch has a span, about to issue a uniform instruction that leaves the core. -/
structure RunsM (i : Instr) (s : State) (b t : Nat) (x : Block) (th : Thread) : Prop extends RunsU i s b t x th where
  lane : x.kind = .lane
  span : s.spanOf x ≠ 0

/-- The control word of an MMA or MMAZ and its offset pass check 2 of 11 R266: tile [2:0], slot [6:3], K [14:7], mode [17:15], bit widths
[25:18], queue [28:26]. -/
def mmaWordOk (s : State) (x : Block) (zeroing queue : Bool) (ctl off : Nat) : Prop :=
  ctl < 2 ^ 29 ∧ ctl / 2 ^ 18 % 16 ≠ 0 ∧ ctl / 2 ^ 22 % 16 ≠ 0 ∧ (1 ≤ ctl / 2 ^ 15 % 8 ∧ ctl / 2 ^ 15 % 8 ≤ 5) ∧
    (∀ ch ∈ modeChannels (ctl / 2 ^ 15 % 8), ch ∈ modeChannels (s.spanOf x)) ∧ off % 32 = 0 ∧
    (∃ row k, x.slots.getD (ctl / 8 % 16) none = some (row, k) ∧ off + 32 * (ctl / 2 ^ 7 % 256 + 1) ≤ k) ∧
    (zeroing = true ∨ (x.tile (ctl % 8)).live = false ∨ (x.tile (ctl % 8)).mode = 0 ∨ (x.tile (ctl % 8)).mode = ctl / 2 ^ 15 % 8) ∧
    (if queue then x.hasPair = true else ctl / 2 ^ 26 % 8 = 0)

/-- The four MMA forms: is it an MMAZ, the control register, the address pair (none: from a queue), the offset register. -/
def mmaForm : Instr → Option (Bool × UReg × Option UReg × UReg)
  | .mma d a o _ => some (false, d, some a, o)
  | .mmaz d a o _ => some (true, d, some a, o)
  | .mmaQ d o _ => some (false, d, none, o)
  | .mmazQ d o _ => some (true, d, none, o)
  | _ => none

/-- Where the operand tile of an MMA lies: the address pair, or the scratchpad offset a queue entry gives. -/
def mmaSource (b t ctl : Nat) (a : Option UReg) (ea : DWord) (s s' : State) : Prop :=
  match a with
  | some r => readU2 b r s = .ok (ea, s')
  | none => ∃ w : Word, popForMma b t (ctl / 2 ^ 26 % 8) s = .ok (w, s') ∧ ea = BitVec.ofNat 64 (padWindow + w.toNat)

/-- An accumulator zeroing of a tile is queued (11 R271). -/
def zeroesTile (tile : Nat) (m : MCmd) : Bool :=
  m.ctl / 2 ^ 29 % 8 == tile && (match m.instr with | .accz _ _ | .acczRows _ _ _ | .acczFree _ _ => true | _ => false)

/-- A BLD of some rows is queued (11 R264). -/
def loadsRows (row0 k : Nat) (m : MCmd) : Bool := rangesMeet (m.ctl / 2 ^ 16 % 2 ^ 14) (32 * (m.ctl / 256 % 256 + 1)) row0 k

/-- A tile of planes stands in a block's scratchpad, its header as 10 R243 has it, where the thread can read it at once (11 R266). -/
structure TileThere (s : State) (b t : Nat) (x : Block) (ea : DWord) (elems : Nat) (need : List Nat) (mask : Nat) : Prop where
  window : inPadWindow ea = true
  aligned : ea.toNat % 16 = 0
  header : ∀ k, k < 16 → Cells.getD (padKey x.padCore (16 * x.spBase + (ea.toNat - padWindow) + k)) 0 s.pads =
    (leBytes 2 mask ++ leBytes 2 0 ++ leBytes 4 elems ++ leBytes 8 0).getD k 0
  small : mask < 1024 ∧ elems < 2 ^ 32
  needed : ∀ ch ∈ need, mask.testBit ch = true
  fits : ea.toNat - padWindow + 16 + ((List.range 10).filter mask.testBit).length * elems ≤ 16 * x.spLen
  plain : ∀ o, s.unitAt x.padCore o = none
  quiet : s.acquireHolds b [t] s.seq = false ∧ ∀ o ∈ s.ops, o.blk ≠ b

/-- The control word of a BLD (11 R264): slot [3:0], K [15:8], first row [29:16]. -/
def bldWordOk (ctl : Nat) : Prop :=
  ctl < 2 ^ 30 ∧ ctl / 16 % 16 = 0 ∧ ctl / 2 ^ 16 % 32 = 0 ∧ ctl / 2 ^ 16 + 32 * (ctl / 256 % 256 + 1) ≤ 8192

/-- The three BLD forms: plain or not, control register, address pair. -/
def bldForm : Instr → Option (Bool × UReg × UReg)
  | .bld d a _ => some (true, d, a)
  | .bldReed d a _ => some (false, d, a)
  | .bldConv d a _ => some (false, d, a)
  | _ => none

end Sys2Proof.Claims

/-- R258, R263, R264, R266 to R268: an MMA or MMAZ whose checks pass queues on the sequencer and its tile is live in its mode; a BLD
queues on the B loader and its slot is in force; the checks pass for a tile that stands in the block's scratchpad. In a block without a
span either traps as NOMATRIX. What a command's operands become where a write may not have reached them in time (its stale and early fields) is
the model's choice (log entry 67). -/
def Obligations.MatrixCommandsQueueOnTheirUnit : Prop :=
  (∀ i z d a o (s s1 s2 s3 s4 : State) (b t : Nat) (x y : Block) (th u : Thread) (ctl offw : Word) ea base len mask row k,
    mmaForm i = some (z, d, a, o) → RunsM i s b t x th → readU b d s = .ok (ctl, s1) → readU b o s1 = .ok (offw, s2) →
    mmaWordOk s2 x z a.isNone ctl.toNat offw.toNat → mmaSource b t ctl.toNat a ea s2 s3 →
    let kk := 32 * (ctl.toNat / 2 ^ 7 % 256 + 1)
    let mode := ctl.toNat / 2 ^ 15 % 8
    checkTile b t ea (32 * kk) (modeChannels mode) s3 = .ok ((base, len, mask), s4) → Resides s4 b t y u → y.core = x.core →
    y.tiles.length = 8 → x.slots.getD (ctl.toNat / 8 % 16) none = some (row, k) → s2.block b = x →
    ∃ s', exec i s = .next s' ∧ (s'.block b).tile (ctl.toNat % 8) = ⟨true, mode⟩ ∧
      QueuedLast (·.sequencer) { MCmd.mk' b [t] i ctl.toNat mask (flagOf i s4 b t) with
        addr := BitVec.ofNat 64 base, len := len, row0 := row + offw.toNat
        poison := (s4.getCore x.core).recon.any (zeroesTile (ctl.toNat % 8)) ||
          (s4.getCore x.core).loader.any (loadsRows (row + offw.toNat) kk)
        stale := s4.staleRange x.padCore (planeRanges base mask (32 * kk) (modeChannels mode)) (s4.getCore x.core).oprdy } b t x.core s4 s') ∧
  (∀ i z d a o (s s1 s2 s3 : State) (b t : Nat) (x y : Block) (th u : Thread) (ctl offw : Word) ea mask row k,
    mmaForm i = some (z, d, a, o) → RunsM i s b t x th → readU b d s = .ok (ctl, s1) → readU b o s1 = .ok (offw, s2) → s2.block b = x →
    mmaWordOk s2 x z a.isNone ctl.toNat offw.toNat → mmaSource b t ctl.toNat a ea s2 s3 → Resides s3 b t y u → y.tiles.length = 8 →
    x.slots.getD (ctl.toNat / 8 % 16) none = some (row, k) →
    TileThere s3 b t y ea (1024 * (ctl.toNat / 2 ^ 7 % 256 + 1)) (modeChannels (ctl.toNat / 2 ^ 15 % 8)) mask →
    ∃ s', exec i s = .next s' ∧ (s'.block b).tile (ctl.toNat % 8) = ⟨true, ctl.toNat / 2 ^ 15 % 8⟩ ∧ (s'.thread b t).pc = u.pc + 4) ∧
  (∀ i plain d a (s s1 s2 : State) (b t : Nat) (x y : Block) (th u : Thread) (ctl : Word) ea, bldForm i = some (plain, d, a) →
    RunsM i s b t x th → readU b d s = .ok (ctl, s1) → readU2 b a s1 = .ok (ea, s2) → bldWordOk ctl.toNat →
    (plain = false ∨ canonical ea = false ∨ inPadWindow ea = false) → Resides s2 b t y u → y.slots.length = 16 →
    ∃ s', exec i s = .next s' ∧
      (s'.block b).slots.getD (ctl.toNat % 16) none = some (ctl.toNat / 2 ^ 16, 32 * (ctl.toNat / 256 % 256 + 1)) ∧
      QueuedLast (·.loader) { MCmd.mk' b [t] i ctl.toNat 0 (flagOf i s2 b t) with
        addr := ea, early := s2.earlyWrites b (s2.getCore y.core).oprdy } b t y.core s2 s') ∧
  (∀ d a f (s s1 s2 s3 : State) (b t : Nat) (x y : Block) (th u : Thread) (ctl : Word) ea base len mask,
    RunsM (.bld d a f) s b t x th → readU b d s = .ok (ctl, s1) → readU2 b a s1 = .ok (ea, s2) → bldWordOk ctl.toNat →
    canonical ea = true → inPadWindow ea = true →
    checkTile b t ea (2048 * (ctl.toNat / 256 % 256 + 1)) (modeChannels (s2.spanOf (s2.block b))) s2 = .ok ((base, len, mask), s3) →
    Resides s3 b t y u → y.slots.length = 16 → (s2.block b).padCore = y.padCore → (s2.block b).core = y.core →
    ∃ s', exec (.bld d a f) s = .next s' ∧
      (s'.block b).slots.getD (ctl.toNat % 16) none = some (ctl.toNat / 2 ^ 16, 32 * (ctl.toNat / 256 % 256 + 1)) ∧
      QueuedLast (·.loader) { MCmd.mk' b [t] (.bld d a f) ctl.toNat mask (flagOf (.bld d a f) s3 b t) with
        addr := BitVec.ofNat 64 base, len := len, stale := s3.staleRange y.padCore
          (planeRanges base mask (2048 * (ctl.toNat / 256 % 256 + 1)) (modeChannels (s3.spanOf (s2.block b)))) (s3.getCore y.core).oprdy }
        b t y.core s3 s') ∧
  (∀ d a f (s s1 s2 : State) (b t : Nat) (x y : Block) (th u : Thread) (ctl : Word) ea mask,
    RunsM (.bld d a f) s b t x th → readU b d s = .ok (ctl, s1) → readU2 b a s1 = .ok (ea, s2) → bldWordOk ctl.toNat →
    Resides s2 b t y u → y.slots.length = 16 → TileThere s2 b t y ea (2048 * (ctl.toNat / 256 % 256 + 1)) (modeChannels (s2.spanOf y)) mask →
    ∃ s', exec (.bld d a f) s = .next s' ∧
      (s'.block b).slots.getD (ctl.toNat % 16) none = some (ctl.toNat / 2 ^ 16, 32 * (ctl.toNat / 256 % 256 + 1)) ∧
      (s'.thread b t).pc = u.pc + 4) ∧
  (∀ i (s : State) (b t : Nat) (x : Block) (th : Thread), isMatrix i = true → RunsU i s b t x th → CanTrap s b t x th → s.spanOf x = 0 →
    ∃ s', exec i s = .next s' ∧ OnlyThread s s' b t (handled s x th .noMatrix 0 0 th.pc th.clauseIdx))

namespace Sys2Proof.Claims

/-- The words of a drain pass its checks (11 R270): set [28:27], width [9:8], rounding [7:6], arg with rows [12:8], first row [17:13], thread
group [23:18], first register [31:24]. -/
def drainWordsOk (x : Block) (ld : Bool) (ctl arg : Nat) : Prop :=
  let tile := x.tile (ctl / 2 ^ 29)
  let rows := arg / 2 ^ 8 % 32 + 1
  let wide := ld = true ∧ ctl / 2 ^ 8 % 4 = 2
  ctl / 2 ^ 16 % 2 ^ 11 = 0 ∧ ctl / 2 ^ 10 % 32 = 0 ∧ ctl / 2 ^ 8 % 4 ≠ 3 ∧ ctl / 2 ^ 6 % 4 ≠ 3 ∧ arg % 256 = 0 ∧
    (if tile.mode = 0 then ctl / 2 ^ 27 % 4 = 0 else ctl / 2 ^ 27 % 4 < (modeSets tile.mode).length) ∧
    arg / 2 ^ 13 % 32 + rows ≤ 32 ∧ 16 * (arg / 2 ^ 18 % 64) + 64 ≤ x.threads.length ∧ (wide → arg / 2 ^ 24 % 2 = 0) ∧
    (if ld && ctl / 2 ^ 8 % 4 == 2 then arg / 2 ^ 24 + 2 * rows ≤ min x.allot 224 else arg / 2 ^ 24 + rows ≤ min x.allot 224)

/-- The drains: ACCLD or not, control register, argument register. -/
def drainForm : Instr → Option (Bool × UReg × UReg)
  | .accld d a _ => some (true, d, a)
  | .accq d a _ => some (false, d, a)
  | _ => none

/-- What ACCZ and its forms make of a tile's state (11 R271), with the row mask register. -/
def zeroForm : Instr → Option (UReg × Option UReg × (TileState → TileState))
  | .accz d _ => some (d, none, fun _ => ⟨true, 0⟩)
  | .acczRows d a _ => some (d, some a, fun t => ⟨true, if t.live then t.mode else 0⟩)
  | .acczFree d _ => some (d, none, fun _ => ⟨false, 0⟩)
  | _ => none

end Sys2Proof.Claims

/-- R268 to R272: ACCLD and ACCQ queue on the reconstruction engine; ACCZ and its forms change the tile's state at once and queue;
BLD.clr frees a slot; OPRDY notes the writes to wait for; SETRST sets, takes from the role, or clears the restart label. -/
def Obligations.DrainsZeroingAndLabels : Prop :=
  (∀ i ld d a (s s1 s2 : State) (b t : Nat) (x y : Block) (th u : Thread) (ctl ar : Word), drainForm i = some (ld, d, a) →
    RunsM i s b t x th → readU b d s = .ok (ctl, s1) → readU b a s1 = .ok (ar, s2) → Resides s2 b t y u →
    drainWordsOk y ld ctl.toNat ar.toNat →
    let tile := y.tile (ctl.toNat / 2 ^ 29)
    ∃ s', exec i s = .next s' ∧ QueuedLast (·.recon) { MCmd.mk' b [t] i ctl.toNat ar.toNat (flagOf i s2 b t) with
      addr := BitVec.ofNat 64 (tile.mode + if tile.live then 8 else 0)
      poison := (s2.getCore y.core).mmaOn (ctl.toNat / 2 ^ 29) } b t y.core s2 s') ∧
  (∀ i d mask f (s s1 s2 : State) (b t : Nat) (x y : Block) (th u : Thread) (ctl rows : Word), zeroForm i = some (d, mask, f) →
    RunsM i s b t x th → readU b d s = .ok (ctl, s1) →
    (match mask with
     | some r => readU b r s1 = .ok (rows, s2)
     | none => rows = 0 ∧ s2 = s1) → ctl.toNat % 2 ^ 29 = 0 → Resides s2 b t y u → y.tiles.length = 8 →
    let tile := y.tile (ctl.toNat / 2 ^ 29)
    ∃ s', exec i s = .next s' ∧ (s'.block b).tile (ctl.toNat / 2 ^ 29) = f tile ∧
      QueuedLast (·.recon) { MCmd.mk' b [t] i ctl.toNat rows.toNat (flagOf i s2 b t) with
        addr := BitVec.ofNat 64 (tile.mode + if tile.live then 8 else 0)
        poison := (s2.getCore y.core).mmaOn (ctl.toNat / 2 ^ 29) } b t y.core s2 s') ∧
  (∀ d (s s1 : State) (b t : Nat) (x y : Block) (th u : Thread) (ctl : Word), RunsM (.bldClr d) s b t x th →
    readU b d s = .ok (ctl, s1) → ctl.toNat < 16 → Resides s1 b t y u →
    ∃ s', exec (.bldClr d) s = .next s' ∧ UniformDone s1 s' b t (gone u 1) fun x => { x with slots := x.slots.set ctl.toNat none }) ∧
  (∀ (s : State) (b t : Nat) (x : Block) (th : Thread), RunsM .oprdy s b t x th →
    ∃ s', exec .oprdy s = .next s' ∧ s'.getThread b t = some (gone th 1) ∧ s.sameMemory s' ∧ s'.pads = s.pads ∧
      (∀ o ∈ s.ops, o.blk = b → t ∈ o.tids → o.isLoad = false → o.id ∈ (s'.getCore x.core).oprdy) ∧
      ∀ w ∈ th.observed, w ∈ (s'.getCore x.core).oprdy) ∧
  (∀ a (s s1 : State) (b t : Nat) (x y : Block) (th u : Thread) v, RunsU (.setrstAddr a) s b t x th → readU2 b a s = .ok (v, s1) →
    Resides s1 b t y u → GoodTarget s1 b v →
    ∃ s', exec (.setrstAddr a) s = .next s' ∧ UniformDone s1 s' b t (gone u 1) fun x => { x with restart := v }) ∧
  (∀ (s : State) (b t : Nat) (x : Block) (th : Thread) (r : Role) (rec : LaunchRec), RunsU .setrst s b t x th → s.roleOf x = some r →
    s.recOf x = some rec → r.off ≠ 0 →
    ∃ s', exec .setrst s = .next s' ∧ UniformDone s s' b t (gone th 1) fun x =>
      { x with restart := rec.entry + BitVec.ofNat 64 (4 * (r.off - 1)) }) ∧
  (∀ (s : State) (b t : Nat) (x : Block) (th : Thread), RunsU .setrstClr s b t x th →
    ∃ s', exec .setrstClr s = .next s' ∧ UniformDone s s' b t (gone th 1) fun x => { x with restart := 0 })

namespace Sys2Proof.Claims

/-- The residue an MMA leaves (11 R267): the old one, unless zeroing, plus the sum of products, in the channel. -/
def mmaResidue (ch old : Nat) (as bs : List Nat) : Nat := (old + (as.zip bs).foldl (fun n e => n + e.1 * e.2) 0) % modulus ch

/-- A command's flag is counted down in every live thread of its block. -/
def CountedDown (s s' : State) (m : MCmd) : Prop :=
  ∀ fl t th, m.flag = some fl → s.getThread m.blk t = some th → th.run ≠ .exited → (s'.thread m.blk t).flag fl = th.flag fl - 1

end Sys2Proof.Claims

/-- R241, R244, R261, R262, R267, R268, R270, R271: what the units of a core do: the sequencer works its tile's residues and bounds, the B
loader fills a slot's rows from the scratchpad, the reconstruction engine delivers a drain and zeroes a tile; at its end a
command is gone and its flag counted down. -/
def Obligations.MatrixUnitsCarryTheirCommandsOut : Prop :=
  (∀ (core : Nat) (s : State) (m : MCmd) (ch r j : Nat) (old : Nat) (bs : List Nat), (s.getCore core).sequencer.find? (!·.started) = some m →
    s.cmdHeld m = false → (s.getCore core).tiles.length = 8 → (s.getCore core).bounds.length = 8 → ch < 10 → r < 32 → j < 64 →
    ch ∈ modeChannels (m.ctl / 2 ^ 15 % 8) →
    let tile := m.ctl % 8
    let k := 32 * (m.ctl / 2 ^ 7 % 256 + 1)
    (if m.zeroing then old = 0 else ((s.getCore core).residue tile ch r j) = some old) →
    ((List.range k).map fun c => (s.getCore core).bAt ch (m.row0 + c) j) = bs.map some →
    let as := (List.range k).map fun c =>
      (Cells.getD (padKey core (m.addr.toNat + 16 + planeRank m.arg ch * (32 * k) + (32 * c + r))) 0 s.pads).toNat
    ∃ s', exec (.sequencerStart core) s = .next s' ∧ s.sameMemory s' ∧ s'.pads = s.pads ∧ s'.blocks = s.blocks ∧
      (s'.getCore core).residue tile ch r j = some (mmaResidue ch old as bs) ∧
      (∀ beta, (s.getCore core).boundAt tile r j = some beta →
        (s'.getCore core).boundAt tile r j =
          some ((let w := (m.ctl / 2 ^ 18 % 16 + 1) + (m.ctl / 2 ^ 22 % 16 + 1) - 2 + ceilLog2 k
            if m.zeroing || beta = 0 then w else min (max beta w + 1) 255) % 256)) ∧
      ∀ q ∈ (s'.getCore core).sequencer, q.id = m.id → q.started = true) ∧
  (∀ (core : Nat) (s : State) (m : MCmd) (rest : List MCmd), (s.getCore core).sequencer = m :: rest → m.started = true →
    (s.block m.blk).inImage = false →
    ∃ s', exec (.sequencerDone core) s = .next s' ∧ (s'.getCore core).sequencer = rest ∧ CountedDown s s' m ∧ s.sameMemory s' ∧
      (m.poison = false → m.stale = false → (s'.getCore core).tiles = (s.getCore core).tiles)) ∧
  (∀ (core : Nat) (s : State) (m : MCmd) (rest : List MCmd), (s.getCore core).loader = m :: rest → m.started = false → s.cmdHeld m = false →
    ∃ s', exec (.bLoaderStart core) s = .next s' ∧ (s'.getCore core).loader = { m with started := true } :: rest ∧ s.sameMemory s') ∧
  (∀ (core : Nat) (s : State) (m : MCmd) (rest : List MCmd), (s.getCore core).loader = m :: rest → m.started = true → m.len ≠ 0 →
    m.poison = false → m.stale = false → (s.block m.blk).inImage = false → bldWordOk m.ctl →
    let k := 32 * (m.ctl / 256 % 256 + 1)
    ∃ s', exec (.bLoaderDone core) s = .next s' ∧ (s'.getCore core).loader = rest ∧ CountedDown s s' m ∧ s.sameMemory s' ∧
      ∀ ch e, ch ∈ modeChannels (s.spanOf (s.block m.blk)) → e < 64 * k →
        (s'.getCore core).bAt ch (m.ctl / 2 ^ 16 + e / 64) (e % 64) =
          some (Cells.getD (padKey core (m.addr.toNat + 16 + planeRank m.arg ch * (64 * k) + e)) 0 s.pads).toNat) ∧
  (∀ (core : Nat) (s : State) (m : MCmd) (rest : List MCmd), (s.getCore core).recon = m :: rest → m.started = false →
    ∃ s', exec (.reconstructionStart core) s = .next s' ∧ (s'.getCore core).recon = { m with started := true } :: rest ∧ s.sameMemory s') ∧
  (∀ (core : Nat) (s : State) (m : MCmd) (rest : List MCmd) d f, (s.getCore core).recon = m :: rest → m.started = true → m.poison = false →
    m.instr = .accz d f → (s.getCore core).tiles.length = 8 → (s.getCore core).bounds.length = 8 → m.ctl < 2 ^ 32 → (s.block m.blk).inImage = false →
    ∃ s', exec (.reconstructionDone core) s = .next s' ∧ (s'.getCore core).recon = rest ∧ CountedDown s s' m ∧ s.sameMemory s' ∧
      ∀ ch r j, (s'.getCore core).residue (m.ctl / 2 ^ 29) ch r j = some 0 ∧ (s'.getCore core).boundAt (m.ctl / 2 ^ 29) r j = some 0) ∧
  (∀ (core : Nat) (s : State) (m : MCmd) (rest : List MCmd) (x : Block) (ld : Bool) (rr j : Nat) (r : Decoded) (set : Nat),
    (s.getCore core).recon = m :: rest → m.started = true → (ld = true ↔ ∃ d a f, m.instr = .accld d a f) →
    (ld = false ↔ ∃ d a f, m.instr = .accq d a f) → s.getBlock m.blk = some x → drainWordsOk x ld m.ctl m.arg → m.ctl < 2 ^ 32 → m.arg < 2 ^ 32 →
    rr ≤ m.arg / 2 ^ 8 % 32 → j < 64 → m.clob = [] → (ld = true → m.ctl / 2 ^ 8 % 4 ≠ 2) →
    s.drainElem core m (m.arg / 2 ^ 13 % 32 + rr) j (if m.ctl / 2 ^ 8 % 4 = 0 then 16 else if m.ctl / 2 ^ 8 % 4 = 1 then 32 else 64) = some (r, set) →
    ∃ s', exec (.reconstructionDone core) s = .next s' ∧ (s'.getCore core).recon = rest ∧
      (s'.thread m.blk (16 * (m.arg / 2 ^ 18 % 64) + j)).getV (m.arg / 2 ^ 24 + rr) = if ld then wi r.out else r.report)

namespace Sys2Proof.Claims

/-! Engine chains (13_engines.md R292 to R313; peers: R311, R312, 19_outside.md R441). -/

/-- The engine commands: kind, chain register, release. -/
def engineForm : Instr → Option (Nat × UReg × Bool)
  | .copy a _ rel => some (0, a, rel)
  | .conv a _ rel => some (1, a, rel)
  | .gauge a _ rel => some (2, a, rel)
  | .reed a _ rel => some (3, a, rel)
  | .alist a _ rel => some (4, a, rel)
  | .coll a _ rel => some (5, a, rel)
  | _ => none

/-- A little-endian number in a list of bytes. -/
def numberAt (bs : List Byte) (off n : Nat) : Nat := leNat ((bs.drop off).take n)

/-- Does ECANCEL end a chain: the block's own, not started, with the tag, if one is named (13 R313)? -/
def cancels (b : Nat) (tag : Option Nat) (c : Chain) : Prop :=
  c.blk = b ∧ c.started = false ∧ c.outcome = none ∧ ∀ k, tag = some k → c.tag = k

/-- The ECANCEL forms: destination, tag register. -/
def cancelForm : Instr → Option (UReg × Option UReg)
  | .ecancel d a => some (d, some a)
  | .ecancelAll d => some (d, none)
  | _ => none

/-- The state in which a unit has taken a chain (13 R293). -/
def chainTaken (s : State) (c : Chain) : State :=
  (s.modChain c.id fun d => { d with started := true }).modCluster (clusterOf c.core) fun k =>
    { k with served := Cells.set (unitOf c.kind) (c.core % 8) k.served }

/-- Has the device of a field left the domain (13 R296)? -/
def deviceGone (s : State) (dev : Nat) : Prop := dev % 1024 ∈ s.links.lostPeers

end Sys2Proof.Claims

/-- R297, R298, R313: an engine command over a record of its kind in the block's scratchpad adds an unstarted chain and the thread
goes on; a record misplaced or of another kind traps as ENGARG, a core with 16 chains holds the thread; ECANCEL ends the
block's unstarted chains that it names, as cancelled, and gives their number. -/
def Obligations.EngineCommandsAddChains : Prop :=
  (∀ i kind a rel (s s1 s2 : State) (b t : Nat) (x y : Block) (th u : Thread) (w : Word) bs, engineForm i = some (kind, a, rel) →
    RunsU i s b t x th → readU b a s = .ok (w, s1) → s1.block b = x → w.toNat % 64 = 0 → w.toNat + 64 ≤ 16 * x.spLen →
    plainRead b t (BitVec.ofNat 64 (padWindow + w.toNat)) 48 1 s1 = .ok (bs, s2) → bs.length = 48 → numberAt bs 0 1 = kind → Resides s2 b t y u →
    u.run = .ready →
    ((s2.chains.filter fun c => c.core == x.core).length < 16 →
      ∃ (s' : State) (c : Chain), exec i s = .next s' ∧ s'.chains = s2.chains ++ [c] ∧ c.blk = b ∧ c.ctx = x.ctx ∧ c.core = x.core ∧ c.kind = kind ∧
        c.off = w.toNat ∧ c.rel = rel ∧ c.scope = numberAt bs 2 1 ∧ c.tag = numberAt bs 44 2 ∧ c.flag = flagOf i s2 b t ∧ c.started = false ∧
        c.outcome = none ∧ (s'.thread b t).pc = u.pc + 4 ∧ (∀ fl, c.flag = some fl → (s'.thread b t).flag fl = u.flag fl + 1) ∧
        (rel = false → s2.sameMemory s')) ∧
    (16 ≤ (s2.chains.filter fun c => c.core == x.core).length →
      ∃ s', exec i s = .next s' ∧ OnlyThread s s' b t { th with run := .stalled .chainLimit, since := s.now })) ∧
  (∀ i kind a rel (s s1 : State) (b t : Nat) (x : Block) (th : Thread) (w : Word), engineForm i = some (kind, a, rel) → RunsU i s b t x th →
    CanTrap s b t x th → readU b a s = .ok (w, s1) → s1.block b = x →
    (w.toNat % 64 ≠ 0 ∨ 16 * x.spLen < w.toNat + 64 ∨
      ∃ bs s2, plainRead b t (BitVec.ofNat 64 (padWindow + w.toNat)) 48 1 s1 = .ok (bs, s2) ∧ numberAt bs 0 1 ≠ kind) →
    ∃ s', exec i s = .next s' ∧ OnlyThread s s' b t (handled s x th .engArg 0 0 th.pc th.clauseIdx)) ∧
  (∀ i d a (s s1 : State) (b t : Nat) (x y : Block) (th u : Thread) (tag : Option Nat), cancelForm i = some (d, a) → RunsU i s b t x th →
    (match a with
     | some r => ∃ w : Word, readU b r s = .ok (w, s1) ∧ tag = some (w.toNat % 65536)
     | none => s1 = s ∧ tag = none) → Resides s1 b t y u →
    ∃ (s' : State) (cs : List Chain), exec i s = .next s' ∧ (∀ c, c ∈ cs ↔ c ∈ s1.chains ∧ cancels b tag c) ∧ cs.Sublist s1.chains ∧
      (∀ n, d = .s n → (s'.block b).getS n.val = w32 cs.length) ∧ s'.getThread b t = some (gone u 1) ∧ s1.sameMemory s' ∧
      (∀ c ∈ cs, ∃ c' ∈ s'.chains, c'.id = c.id ∧ c'.started = true ∧ c'.outcome.map (·.1) = some 1) ∧
      ∀ c ∈ s1.chains, ¬cancels b tag c → c ∈ s'.chains)

/-- R293, R298, R300, R301, R311, R312: the oldest released chain of its core whose turn it is at a free unit starts with its records read,
and otherwise waits; each step of its run carries the record at hand on, ends the chain where it fails, or asks a peer; a
COPY's next bytes land in the scratchpad and in RESULT and the CRC; at the finish the chain is gone, its flag counted
down, its completion granule written, an error recorded; a COLL step not answered in time is sent again or ends the
chain, one to a lost device is refused at once; a peer's step or access is performed once and answered. That a chain that failed still writes its
completion granule, with one ENG_ERROR record, and that an access waits behind an earlier one of its peer that waits, are the model's choices (log
entries 70 and 94). -/
def Obligations.ChainsRunAndFinish : Prop :=
  (∀ (id : Nat) (answer : List Byte) (s : State) (c : Chain), s.chains.find? (·.id == id) = some c → c.outcome = none → c.waiting = none →
    c.started = false →
    (∀ recs bad s2, (∀ d ∈ s.chains, d.core = c.core → d.id < c.id → d.started = true) → (s.block c.blk).inSlot = true →
      (s.block c.blk).life ≠ .saving → s.chainReleased c = true →
      (s.chains.filter fun d => d.running && clusterOf d.core == clusterOf c.core && unitOf d.kind == unitOf c.kind).length <
        (if c.kind = 2 ∨ c.kind = 3 then 1 else 2) →
      (∀ d ∈ s.chains, clusterOf d.core = clusterOf c.core → unitOf d.kind = unitOf c.kind → s.startable d = true → s.unitTurn c ≤ s.unitTurn d) →
      (chainTaken s c).readChain { c with started := true } none c.off 0 64 = .ok (recs, bad, s2) → s2.chains = (chainTaken s c).chains →
      ∃ s', exec (.engineChainStart id answer) s = .next s' ∧ s2.sameMemory s' ∧ s'.clusters = s2.clusters ∧
        s'.chains.find? (·.id == id) = some { c with started := true, recs, outcome :=
          (bad.or (if recs.head?.any (fun r => r.scope == c.scope && r.tag == c.tag) then none else some 0)).map fun k => (2, 0, 0, 0, k, 0) }) ∧
    ((s.startable c && s.unitFree c && s.chainsTurn c) = false → exec (.engineChainStart id answer) s = .next s)) ∧
  (∀ (id : Nat) (answer : List Byte) (s : State) (c : Chain) (r : EngRec) (g : Eng), s.chains.find? (·.id == id) = some c → c.outcome = none →
    c.waiting = none → c.started = true → c.kind ≠ 5 → c.recs[c.pos]? = some r → c.sentAt = none →
    (c.step r answer).run (c.eng s) = .ok ((), g) → g.s.chains = s.chains →
    ∃ s', exec (.engineChainStart id answer) s = .next s' ∧ g.s.sameMemory s' ∧
      match g.fail, g.asks with
      | some (st, a), _ => s'.chains.find? (·.id == id) =
          some { c with outcome := some ({ c with run := g.run }.outcomeOf st c.pos a), run := { g.run with late := [] } }
      | none, some (dev, tg, acc) => s'.outbox = g.s.outbox ++ [.remote dev tg acc] ∧
          s'.chains.find? (·.id == id) = some { c with run := g.run, sentAt := some s.now }
      | none, none => s'.pads = g.s.pads ∧ s'.chains.find? (·.id == id) = some
          (if g.ended then { c with run := { g.run with done := 0, outs := none, got := none }, pos := c.pos + 1 } else { c with run := g.run })) ∧
  (∀ (id : Nat) (s : State) (c : Chain) (r : EngRec) (x : Block) bs (o : Nat), s.chains.find? (·.id == id) = some c → c.outcome = none →
    c.waiting = none → c.started = true → c.kind = 0 → c.recs[c.pos]? = some r → r.kind = 0 → c.sentAt = none → c.struck = [] →
    r.srcdev.testBit 15 = false → r.dstdev.testBit 15 = false → r.overlaps = false → r.done = true ∨ c.pos + 1 < c.recs.length →
    c.run.got = some bs → bs ≠ [] → c.run.done + bs.length ≤ r.len → s.block c.blk = x → 16 * x.spLen ≤ 0x40000 → o + bs.length ≤ 16 * x.spLen →
    r.dst + BitVec.ofNat 64 c.run.done = BitVec.ofNat 64 (padWindow + o) → o % 64 + bs.length ≤ 64 →
    (∀ k, k < bs.length → s.unitAt x.padCore (16 * x.spBase + o + k) = none) →
    ∃ s' c', exec (.engineChainStart id []) s = .next s' ∧ s.sameMemory s' ∧ s'.chains.find? (·.id == id) = some c' ∧ c'.outcome = none ∧
      c'.pos = c.pos ∧ c'.run.got = none ∧ c'.run.done = c.run.done + bs.length ∧ c'.run.result = c.run.result + bs.length ∧
      c'.run.crc = (if r.crc then crc32cFrom c.run.crc bs else 0) ∧
      ∀ k, k < bs.length → Cells.getD (padKey x.padCore (16 * x.spBase + o + k)) 0 s'.pads = bs.getD k 0) ∧
  (∀ (id : Nat) (s : State) (c : Chain) (r : EngRec), s.chains.find? (·.id == id) = some c → c.outcome = none → c.waiting = none →
    c.started = true → c.kind = 5 → c.recs[c.pos]? = some r →
    (∀ bs (g : Eng), c.sentAt = none → ¬deviceGone s r.dstdev → (readBytes r.src r.len).run (c.eng s) = .ok (bs, g) → g.fail = none →
      ∃ s', exec (.engineChainStart id []) s = .next s' ∧ g.s.sameMemory s' ∧
        s'.outbox = g.s.outbox ++ [.collStep (r.dstdev % 1024) c.ctx (r.par 52 4) (r.par 48 1) r.dst bs]) ∧
    (∀ answer, deviceGone s r.dstdev →
      ∃ s', exec (.engineChainStart id answer) s = .next s' ∧ s.sameMemory s' ∧ s'.outbox = s.outbox ∧
        (s'.chains.find? (·.id == id)).bind (·.outcome) = some (6, c.collTries, 0, lenSum (c.recs.take c.pos), c.pos, r.dst))) ∧
  (∀ (id : Nat) (s : State) (c : Chain) (l : EngRec) o, s.chains.find? (·.id == id) = some c → c.outcome = some o → o.1 ≠ 1 →
    c.recs.getLast? = some l → l.done = false → c.run.held = [] → (s.block c.blk).inImage = false →
    ∃ s', exec (.engineChainFinish id) s = .next s' ∧ (∀ d ∈ s'.chains, d.id ≠ id) ∧
      (∀ fl t th, c.flag = some fl → s.getThread c.blk t = some th → th.run ≠ .exited → (s'.thread c.blk t).flag fl = th.flag fl - 1) ∧
      ∀ pa, s'.rd8 pa = (if 2 ≤ o.1 ∧ o.1 ≤ 7 then s.record c.ctx { kind := 0x05, core := c.core, slot := (s.block c.blk).slot, addr := o.2.2.2.2.2.toNat, detail := leBytes 1 o.1 ++ leBytes 1 o.2.1 ++ leBytes 2 c.tag ++ leBytes 4 o.2.2.2.2.1 }
                         else s).rd8 pa) ∧
  (∀ (id : Nat) (s : State) (c : Chain) (l : EngRec) (x : Block) status retries crc result idx addr off, s.chains.find? (·.id == id) = some c →
    c.outcome = some (status, retries, crc, result, idx, addr) → status ≠ 1 → c.recs.getLast? = some l → l.hasNext = false → l.done = true →
    l.doneaddr = BitVec.ofNat 64 (padWindow + off) → off % 16 = 0 → s.block c.blk = x → 16 * x.spLen ≤ 0x40000 → off + 16 ≤ 16 * x.spLen →
    (∀ k, k < 16 → s.unitAt x.padCore (16 * x.spBase + off + k) = none) →
    ∃ s', exec (.engineChainFinish id) s = .next s' ∧ (∀ d ∈ s'.chains, d.id ≠ id) ∧
      ∀ k, k < 16 → Cells.getD (padKey x.padCore (16 * x.spBase + off + k)) 0 s'.pads =
        (leBytes 4 (status + 256 * retries) ++ leBytes 4 crc ++ leBytes 4 result ++ leBytes 4 idx).getD k 0) ∧
  (∀ (id : Nat) (s : State) (c : Chain) (r : EngRec) (t0 : Nat), s.chains.find? (·.id == id) = some c → c.kind = 5 → c.sentAt = some t0 →
    c.outcome = none → t0 + 360000 ≤ s.now → c.recs[c.pos]? = some r → ¬deviceGone s r.dstdev →
    ∃ s', exec (.collAckTimeout id) s = .next s' ∧ s.sameMemory s' ∧ s'.blocks = s.blocks ∧
      ∃ c', s'.chains.find? (·.id == id) = some c' ∧
        if c.collTries < (c.recs.getLast?.map (·.retry)).getD 0 then c' = { c with collTries := c.collTries + 1, sentAt := none }
        else c'.outcome.map (·.1) = some 7) ∧
  (∀ (sender ctx step op : Nat) ea data (s : State), sender ∉ s.links.lostPeers → (∀ j ∈ s.inbox, j.stream ≠ (3, sender)) →
    (step ∈ s.stepsOf sender ctx → ∃ s', exec (.collStepRx sender ctx step op ea data) s = .next s' ∧ s.sameMemory s' ∧ s'.pads = s.pads ∧
      s'.outbox = s.outbox ++ [.collAck sender true]) ∧
    (∀ o (g : Eng), step ∉ s.stepsOf sender ctx → s.ctxValid ctx = true → collOp op = some o →
      (collApply o (if op = 1 then 8 else 4) ea data).run ((s.hear sender).schedRun ctx false) = .ok ((), g) → g.fail = none →
      ∃ s', exec (.collStepRx sender ctx step op ea data) s = .next s' ∧ g.s.sameMemory s' ∧ s'.pads = g.s.pads ∧
        s'.outbox = g.s.outbox ++ [.collAck sender true] ∧ step ∈ s'.stepsOf sender ctx)) ∧
  (∀ (peer : Nat) (access : PeerAccess) (s : State), peer ∉ s.links.lostPeers → (∀ j ∈ s.inbox, j.stream ≠ (2, peer)) →
    (∀ ctx ea bs (g : Eng), s.ctxValid ctx = true → (genericAccess ea access).run ((s.hear peer).schedRun ctx false) = .ok (bs, g) →
      g.fail = none →
      ∃ s', exec (.ualinkAccessRx peer (.generic ctx ea) access) s = .next s' ∧ g.s.sameMemory s' ∧ s'.pads = g.s.pads ∧
        s'.outbox = g.s.outbox ++ [.peerReply peer true bs]) ∧
    (∀ gang b off q, s.member gang = some b → (s.hear peer).fordAccess b off access = .ok (some q) →
      ∃ s', exec (.ualinkAccessRx peer (.ford gang off) access) s = .next s' ∧ q.2.sameMemory s' ∧ s'.pads = q.2.pads ∧
        s'.outbox = q.2.outbox ++ [.peerReply peer true q.1])) ∧
  ∀ (peer : Nat) (target : PeerTarget) (access : PeerAccess) (s : State), peer ∉ s.links.lostPeers → (∃ j ∈ s.inbox, j.stream = (2, peer)) →
    ∃ s', exec (.ualinkAccessRx peer target access) s = .next s' ∧ s.sameMemory s' ∧ s'.outbox = s.outbox ∧
      s'.inbox = s.inbox ++ [.access peer target access]

namespace Sys2Proof.Claims

/-! Futures (15_futures.md R341 to R361). -/

/-- An operation stands last at the future unit, its flag counts one more in the issuing thread, and the thread is past the
instruction. -/
structure FutIssued (i : Instr) (kind : FutKind) (h : Word) (d : UReg) (b t : Nat) (u : Thread) (s s' : State) : Prop where
  last : ∃ o, s'.futOps = s.futOps ++ [o] ∧ o.blk = b ∧ o.tids = [t] ∧ o.kind = kind ∧ o.handle = h ∧ o.dst = d ∧ o.flag = flagOf i s b t
  counted : ∀ fl, flagOf i s b t = some fl → (s'.thread b t).flag fl = u.flag fl + 1
  goes : (s'.thread b t).pc = u.pc + 4

/-- A thread, ready, of a block as it stands once the operands of an instruction are read. -/
structure ReadyAt (s : State) (b t : Nat) (x : Block) (th : Thread) : Prop extends Resides s b t x th where
  ready : th.run = .ready

/-- What FSELF and FORDQ do in their block: their own change, and the Oxbow comparison that the block is part of is abandoned (18 R430). -/
def andAbandon (f : Block → Block) (x : Block) : Block := if x.oxbow.isSome then { f x with sigAbandon := true } else f x

/-- The futures instructions that take a handle: its register, and whether the block must hold a reference, with the trap if not. -/
def handleForm : Instr → Option (UReg × Option Cause)
  | .fref _ a _ => some (a, none)
  | .fdrop a _ => some (a, some .futCount)
  | .fpoll _ a _ | .fget _ a _ _ | .fgetD _ a _ _ => some (a, some .futNoRef)
  | _ => none

end Sys2Proof.Claims

/-- R355 to R358: FREF, FDROP, FPOLL, FPUT and FSPAWN, their checks passed, stand at the future unit and their thread goes on; FGET and FGET.D do
once the future is resolved and wait before; FSELF reads the own handle, and abandons an Oxbow comparison (18 R430). -/
def Sys2Proof.Claims.FutureInstructionsIssue : Prop :=
  (∀ d a f (s s1 : State) (b t : Nat) (x y : Block) (th u : Thread) (h : Word), RunsU (.fref d a f) s b t x th → readU b a s = .ok (h, s1) →
    ReadyAt s1 b t y u → s1.malformed h = false → (y.refs h ≠ 0 ∨ y.setRoom = true) →
    y.refs h + (s1.futOps.filter fun o => o.blk == b && o.handle == h && (match o.kind with | .fref _ => true | _ => false)).length < 255 →
    ∃ s', exec (.fref d a f) s = .next s' ∧ FutIssued (.fref d a f) (.fref (y.refs h == 0)) h d b t u s1 s' ∧ s1.sameMemory s' ∧
      (s'.block b).reserved = y.reserved + (if y.refs h = 0 then 1 else 0)) ∧
  (∀ a f (s s1 : State) (b t : Nat) (x y : Block) (th u : Thread) (h : Word), RunsU (.fdrop a f) s b t x th → readU b a s = .ok (h, s1) →
    ReadyAt s1 b t y u → s1.malformed h = false → y.refs h ≠ 0 → (y.held.map (·.1)).Nodup →
    ∃ s', exec (.fdrop a f) s = .next s' ∧ FutIssued (.fdrop a f) .fdrop h .zero b t u s1 s' ∧ s1.sameMemory s' ∧
      (s'.block b).refs h = y.refs h - 1 ∧ ∀ k, k ≠ h → (s'.block b).refs k = y.refs k) ∧
  (∀ d a f (s s1 : State) (b t : Nat) (x y : Block) (th u : Thread) (h : Word), RunsU (.fpoll d a f) s b t x th → readU b a s = .ok (h, s1) →
    ReadyAt s1 b t y u → s1.malformed h = false → y.refs h ≠ 0 →
    ∃ s', exec (.fpoll d a f) s = .next s' ∧ FutIssued (.fpoll d a f) .fpoll h d b t u s1 s' ∧ s1.sameMemory s') ∧
  (∀ a f (s s1 : State) (b t : Nat) (x y : Block) (th u : Thread) (v : DWord), RunsU (.fput a f) s b t x th → readU2 b a s = .ok (v, s1) →
    ReadyAt s1 b t y u → y.own ≠ 0 → y.put = false →
    ∃ s', exec (.fput a f) s = .next s' ∧ FutIssued (.fput a f) (.fput v) y.own .zero b t u s1 s' ∧ (s'.block b).put = true) ∧
  (∀ d a g f (n : Fin 8) (s s1 s2 s3 : State) (b t : Nat) (x y : Block) (th u : Thread) (ea : DWord) (group : List Word) (pa : Nat),
    RunsU (.fspawn d a g f n) s b t x th → readU2 b a s = .ok (ea, s1) →
    (((List.range 8).mapM fun i => if g == .zero then (pure 0 : M Word) else readU b (g.plus i)) s1 = .ok (group, s2)) →
    (∀ h ∈ group.take n.val, s2.malformed h = false) → (s2.block b).setRoom = true → templatePlace b [t] ea s2 = .ok (pa, s3) → ReadyAt s3 b t y u →
    ∃ s', exec (.fspawn d a g f n) s = .next s' ∧ FutIssued (.fspawn d a g f n) (.spawn (BitVec.ofNat 64 pa) group n.val) 0 d b t u s3 s' ∧
      (s'.block b).reserved = y.reserved + 1) ∧
  (∀ d (s : State) (b t : Nat) (x : Block) (th : Thread), RunsU (.fself d) s b t x th →
    ∃ s', exec (.fself d) s = .next s' ∧ UniformDone s s' b t (gone th 1) (andAbandon (putU d false (x.own.zeroExtend 64)))) ∧
  (∀ (drop : Bool) d a v f (s s1 : State) (b t : Nat) (x y : Block) (th u : Thread) (h : Word),
    let i : Instr := if drop then .fgetD d a v f else .fget d a v f
    RunsU i s b t x th → readU b a s = .ok (h, s1) → ReadyAt s1 b t y u → s1.malformed h = false → y.refs h ≠ 0 →
    (s1.resolved h = true → ∃ s', exec i s = .next s' ∧ FutIssued i (.fget drop v) h d b t u s1 s' ∧ s1.sameMemory s') ∧
    (s1.resolved h = false → ∃ s', exec i s = .next s' ∧ OnlyThread s s' b t { th with run := .stalled (.fget h), since := s.now }))

/-- R355: a handle that is not well formed traps as FUTHANDLE; a block without a reference as FUTCOUNT for FDROP and FUTNOREF for FPOLL and
FGET; FPUT outside a task as NOTTASK and a second one as PUTTWICE. -/
def Sys2Proof.Claims.FutureChecksTrap : Prop :=
  (∀ i a c (s s1 : State) (b t : Nat) (x : Block) (th : Thread) (h : Word), handleForm i = some (a, c) → RunsU i s b t x th → CanTrap s b t x th →
    readU b a s = .ok (h, s1) → s1.block b = x →
    (s1.malformed h = true → ∃ s', exec i s = .next s' ∧ OnlyThread s s' b t (handled s x th .futHandle 0 0 th.pc th.clauseIdx)) ∧
    (∀ k, c = some k → s1.malformed h = false → x.refs h = 0 →
      ∃ s', exec i s = .next s' ∧ OnlyThread s s' b t (handled s x th k 0 0 th.pc th.clauseIdx))) ∧
  (∀ a f (s s1 : State) (b t : Nat) (x : Block) (th : Thread) (v : DWord), RunsU (.fput a f) s b t x th → CanTrap s b t x th →
    readU2 b a s = .ok (v, s1) → s1.block b = x →
    (x.own = 0 → ∃ s', exec (.fput a f) s = .next s' ∧ OnlyThread s s' b t (handled s x th .notTask 0 0 th.pc th.clauseIdx)) ∧
    (x.own ≠ 0 → x.put = true → ∃ s', exec (.fput a f) s = .next s' ∧ OnlyThread s s' b t (handled s x th .putTwice 0 0 th.pc th.clauseIdx)))

/-- R341, R345, R346, R355 to R358: a future instruction that passes its checks issues one operation; one that fails traps with its cause. -/
def Obligations.FutureInstructionsIssueOrTrap : Prop := Claims.FutureInstructionsIssue ∧ Claims.FutureChecksTrap


namespace Sys2Proof.Claims

/-- An operation of the future unit is over: gone, its flag counted down in every live thread of its block. -/
structure FutOver (o : FutOp) (s s' : State) : Prop where
  gone : ∀ p ∈ s'.futOps, p.id ≠ o.id
  counted : ∀ fl t th, o.flag = some fl → s.getThread o.blk t = some th → th.run ≠ .exited → (s'.thread o.blk t).flag fl = th.flag fl - 1

/-- An operation of a block whose registers are in its core stands at the unit and has its turn. -/
structure FutTurn (s : State) (o : FutOp) : Prop where
  found : s.futOps.find? (·.id == o.id) = some o
  turn : s.futReady o = true
  present : ∃ x, s.getBlock o.blk = some x ∧ x.inImage = false

end Sys2Proof.Claims

/-- R345, R347, R356 to R358: the unit counts a reference for FREF, gives back the set entry it reserved, and drops one for FDROP, a live future
takes FPUT's value, FPOLL and FGET read status and value, FGET.D drops a reference, FSPAWN gives status and handle; each ends
with its flag counted down. -/
def Obligations.FutureUnitAppliesItsOperations : Prop :=
  (∀ (s : State) (o : FutOp) (n : Fin 64) (took : Bool), FutTurn s o → o.kind = .fref took → o.dst = .s n →
    ∃ s', exec (.futureOpComplete o.id) s = .next s' ∧ FutOver o s s' ∧
      (s'.block o.blk).reserved = (s.block o.blk).reserved - (if took then 1 else 0) ∧
      (s.handleLive o.handle (s.block o.blk).ctx = true → (∀ e ∈ (s.block o.blk).held, e.2 ≠ 0) → (s.future (handleIndex o.handle)).count < 2 ^ 32 - 1 →
        (s'.block o.blk).getS n.val = 0 ∧ (s'.block o.blk).refs o.handle = (s.block o.blk).refs o.handle + 1 ∧
        (s'.future (handleIndex o.handle)).count = (s.future (handleIndex o.handle)).count + 1) ∧
      (s.handleLive o.handle (s.block o.blk).ctx = true → 2 ^ 32 - 1 ≤ (s.future (handleIndex o.handle)).count →
        (s'.block o.blk).getS n.val = 7 ∧ s'.futures = s.futures) ∧
      (s.handleLive o.handle (s.block o.blk).ctx = false → (s'.block o.blk).getS n.val = 5 ∧ s'.futures = s.futures)) ∧
  (∀ (s : State) (o : FutOp), FutTurn s o → o.kind = .fdrop →
    let f := s.future (handleIndex o.handle)
    f.gen = handleGen o.handle → (f.st = .live ∨ f.st = .put ∨ f.st = .done) →
    ∃ s', exec (.futureOpComplete o.id) s = .next s' ∧ FutOver o s s' ∧
      s'.future (handleIndex o.handle) =
        if 1 < f.count then { f with count := f.count - 1 } else if f.st = .done then f.freed else { f with st := .marked, count := 0 }) ∧
  (∀ (s : State) (o : FutOp) (v : DWord), FutTurn s o → o.kind = .fput v →
    let f := s.future (handleIndex o.handle)
    f.st = .live → f.gen = handleGen o.handle →
    ∃ s', exec (.futureOpComplete o.id) s = .next s' ∧ FutOver o s s' ∧
      s'.future (handleIndex o.handle) = { f with st := .put, result := v }) ∧
  (∀ (s : State) (o : FutOp) (n : Fin 64), FutTurn s o → o.kind = .fpoll → o.dst = .s n →
    let f := s.future (handleIndex o.handle)
    s.futHeld o = false ∨ (f.st ≠ .put ∧ f.st ≠ .done) →
    ∃ s', exec (.futureOpComplete o.id) s = .next s' ∧ FutOver o s s' ∧ s.sameMemory s' ∧ s'.futures = s.futures ∧
      (s'.block o.blk).getS n.val = w32 (if f.st = .put then 1 else if f.st = .done then f.status else 0)) ∧
  (∀ (s s1 : State) (o : FutOp) (n : Nat) (hn : n < 64) pa group sub st h, FutTurn s o → o.kind = .spawn pa group sub → o.dst = .s ⟨n, hn⟩ → n + 1 < 64 →
    s.spawn o pa.toNat group sub = .ok (s1, st, h) → (∃ y, s1.getBlock o.blk = some y ∧ y.inImage = false ∧ ∀ e ∈ y.held, e.2 ≠ 0) →
    ∃ s', exec (.futureOpComplete o.id) s = .next s' ∧ (∀ p ∈ s'.futOps, p.id ≠ o.id) ∧ s1.sameMemory s' ∧
      (s'.block o.blk).getS n = h ∧ (s'.block o.blk).getS (n + 1) = w32 st ∧ s'.futures = s1.futures ∧
      (st = 0 → (s'.block o.blk).refs h = (s1.block o.blk).refs h + 1)) ∧
  (∀ (s : State) (o : FutOp) (drop : Bool) (n m : Nat) (hn : n < 64) (hm : m < 64), FutTurn s o → o.kind = .fget drop (.s ⟨m, hm⟩) →
    o.dst = .s ⟨n, hn⟩ → m + 1 < 64 → n ≠ m → n ≠ m + 1 → s.resolved o.handle = true → s.futHeld o = false →
    let f := s.future (handleIndex o.handle)
    let st := if f.st = .put then 1 else f.status
    let v : DWord := if st = 1 then f.result else 0
    ∃ s', exec (.fgetResolve o.id) s = .next s' ∧ FutOver o s s' ∧ (s'.block o.blk).getS n = w32 st ∧
      (s'.block o.blk).getS m = loWord v ∧ (s'.block o.blk).getS (m + 1) = hiWord v ∧
      (drop = false → s'.futures = s.futures ∧ s.sameMemory s') ∧
      (drop = true → (s.block o.blk).refs o.handle ≠ 0 → ((s.block o.blk).held.map (·.1)).Nodup →
        (s'.block o.blk).refs o.handle = (s.block o.blk).refs o.handle - 1))

/-- R347, R351, R352: a mark reaches a resident task, whose waiting threads stop at once and whose others stop after the grace period;
a marked task that is queued, which the scheduler places no more, or whose threads have all stopped, has its unstarted chains
cancelled, and once nothing of it is in flight ends as killed and its future is free. -/
def Obligations.MarkedTasksAreReclaimed : Prop :=
  (∀ (blk : Nat) (s : State) (x : Block), s.getBlock blk = some x → s.markedTask blk = true → x.mark = none → x.life = .resident →
    ∃ s', exec (.markDelivery blk) s = .next s' ∧ s.sameMemory s' ∧ (s'.block blk).mark = some s.devTime ∧ (s'.block blk).life = .resident ∧
      ∀ t th, x.getThread t = some th →
        (((∃ w, th.run = .stalled w) ∨ ∃ a k, th.run = .parked a k) → s'.getThread blk t = some { th with run := .stopped none true }) ∧
        (th.run = .ready → s'.getThread blk t = some th)) ∧
  (∀ (blk : Nat) (s : State) (x : Block), s.getBlock blk = some x → x.mark ≠ none → x.inSlot = true → s.graceOver x = true →
    ∃ s', exec (.markGraceExpiry blk) s = .next s' ∧ s.sameMemory s' ∧
      ∀ t th, x.getThread t = some th → (th.run = .ready ∨ ∃ w, th.run = .stalled w) → ∃ w, (s'.thread blk t).run = .stopped none w) ∧
  (∀ (blk : Nat) (s : State), s.markedTask blk = true → s.placeableBlock blk = false) ∧
  (∀ (blk : Nat) (s : State) (x : Block), s.getBlock blk = some x → s.markedTask blk = true →
    (x.life = .queued ∨ (x.life = .resident ∧ x.mark ≠ none ∧ x.allStopped = true ∧ x.liveTids ≠ [])) →
    ((s.cancelChains blk fun _ => true).1.reclaimWaits blk = true → exec (.reclaim blk) s = .next (s.cancelChains blk fun _ => true).1) ∧
    ((s.cancelChains blk fun _ => true).1.reclaimWaits blk = false →
      ∃ s', exec (.reclaim blk) s = .next s' ∧ (s'.block blk).life = .done ∧ (s'.future (handleIndex x.own)).st = .free))

namespace Sys2Proof.Claims

/-! Gangs and the Ford window (16_gangs.md R364 to R388). -/

/-- A gang command stands in flight, its flag counts one more in the issuing thread, and the thread is past it. -/
def GangIssued (i : Instr) (kind phase : Nat) (d : UReg) (sent : Bool) (b t : Nat) (th : Thread) (s s' : State) : Prop :=
  (∃ o, s'.gangOps = s.gangOps ++ [o] ∧ o.blk = b ∧ o.tids = [t] ∧ o.kind = kind ∧ o.phase = phase ∧ o.dst = d ∧ o.sent = sent ∧
    o.flag = flagOf i s b t) ∧
  (∀ fl, flagOf i s b t = some fl → (s'.thread b t).flag fl = th.flag fl + 1) ∧ (s'.thread b t).pc = th.pc + 4

/-- Has a member executed a FORDDET (16 R382)? It stays attached until that one's release is over (16 R384). -/
def Detaching (s : State) (b : Nat) (g : GangMember) : Prop := g.detached = true ∨ ∃ o ∈ s.gangOps, o.blk = b ∧ o.kind = 1

/-- The state of a member (16 R385): 4 beyond the gang, 3 departed, 2 detached, 1 attached, 0 not. -/
def memberState (g : GangMember) (m : Nat) : Nat :=
  if g.members ≤ m then 4
  else if m ∈ g.departed then 3
  else if m ∈ g.detachedSet then 2
  else if (if m = g.index then g.attached else (Cells.get? m g.lens).isSome) then 1
  else 0

/-- A gang message of a member comes from another device that counts as lost (19 R442): by the coordinator's record here, or by the list COMMIT
brought. -/
def FromLost (s : State) (gang gindex : Nat) : Prop := ∃ d, s.memberDevice gang gindex = some d ∧ d ≠ s.device ∧ d ∈ s.links.lostPeers

/-- The gang instructions. -/
def isGangInstr : Instr → Bool
  | .fordatt _ _ | .forddet _ | .fordq _ | .fordqState _ _ | .fordqCount _ | .gsync _ _ => true
  | _ => false

end Sys2Proof.Claims

/-- R381 to R386, 18 R430: FORDATT, FORDDET and GSYNC of a gang member are put in flight; FORDQ and its forms read the gang and its members' states, and
abandon an Oxbow comparison; outside a gang each traps as NOGANG, out of order as FORDSEQ. That FORDDET and GSYNC still issue while a FORDDET's
release is pending is the model's choice (log entry 87). -/
def Obligations.GangInstructionsIssueOrRead : Prop :=
  (∀ d f (s : State) (b t : Nat) (x : Block) (th : Thread) (g : GangMember), RunsU (.fordatt d f) s b t x th → th.run = .ready →
    x.gang = some g → ¬Detaching s b g →
    ∃ s', exec (.fordatt d f) s = .next s' ∧ GangIssued (.fordatt d f) 0 0 d g.attached b t th s s') ∧
  (∀ f (s : State) (b t : Nat) (x : Block) (th : Thread) (g : GangMember), RunsU (.forddet f) s b t x th → th.run = .ready →
    x.gang = some g → g.attached = true → g.detached = false →
    ∃ s', exec (.forddet f) s = .next s' ∧ GangIssued (.forddet f) 1 0 .zero false b t th s s') ∧
  (∀ d f (s : State) (b t : Nat) (x : Block) (th : Thread) (g : GangMember), RunsU (.gsync d f) s b t x th → th.run = .ready →
    x.gang = some g → g.attached = true → g.detached = false →
    ∃ s', exec (.gsync d f) s = .next s' ∧ GangIssued (.gsync d f) 2
      (Cells.getD g.index 0 g.gsync + (s.gangOps.filter fun o => o.blk == b && o.kind == 2 && !o.sent).length + 1) d false b t th s s') ∧
  (∀ d (s : State) (b t : Nat) (x : Block) (th : Thread) (g : GangMember), x.gang = some g →
    (RunsU (.fordq d) s b t x th → ∃ s', exec (.fordq d) s = .next s' ∧
      UniformDone s s' b t (gone th 1) (andAbandon (putU d false ((w32 (65536 * g.members + g.index)).zeroExtend 64)))) ∧
    (RunsU (.fordqCount d) s b t x th → ∃ s', exec (.fordqCount d) s = .next s' ∧
      UniformDone s s' b t (gone th 1) (andAbandon (putU d false ((w32 ((List.range g.members).filter fun m => memberState g m = 1).length).zeroExtend 64)))) ∧
    (∀ a (s1 : State) (u : Thread) (m : Word), RunsU (.fordqState d a) s b t x th → readU b a s = .ok (m, s1) → Resides s1 b t x u →
      ∃ s', exec (.fordqState d a) s = .next s' ∧ UniformDone s1 s' b t (gone u 1) (andAbandon (putU d false ((w32 (memberState g m.toNat)).zeroExtend 64))))) ∧
  (∀ i (s : State) (b t : Nat) (x : Block) (th : Thread), isGangInstr i = true → RunsU i s b t x th → CanTrap s b t x th → x.gang = none →
    ∃ s', exec i s = .next s' ∧ OnlyThread s s' b t (handled s x th .noGang 0 0 th.pc th.clauseIdx)) ∧
  (∀ i (s : State) (b t : Nat) (x : Block) (th : Thread) (g : GangMember), RunsU i s b t x th → CanTrap s b t x th → x.gang = some g →
    (((∃ d f, i = .fordatt d f) ∧ Detaching s b g) ∨
      ((∃ f, i = .forddet f) ∨ ∃ d f, i = .gsync d f) ∧ (g.attached = false ∨ g.detached = true)) →
    ∃ s', exec i s = .next s' ∧ OnlyThread s s' b t (handled s x th .fordSeq 0 0 th.pc th.clauseIdx))

/-- R365 to R370, 19 R442: the coordinator drops a join, or another message, of a lost device, records joins and READY, refuses a conflicting join, which breaks a gang that has not started, proposes a
start time when every member is ready, commits when all accept, misses the start when not, and runs the gang when all have
started; a waiting member that a core fits reserves it and says READY. That a refused join breaks the gang, and that each member's device is told of
a GANG_MISS by a message, are the model's choices (log entries 80 and 86). -/
def Obligations.CoordinatorsFormTheGang : Prop :=
  (∀ (gang gindex gmembers device ctx : Nat) (s : State), device ≠ s.device → device ∈ s.links.lostPeers →
    exec (.gangJoin gang gindex gmembers device ctx) s = .next s) ∧
  (∀ (gang gindex gmembers device ctx : Nat) (s : State), gang % 1024 = s.device → (device ≠ s.device → device ∉ s.links.lostPeers) →
    (s.gangRec gang = none → s.gangs.length < 64 → ∃ s' r, exec (.gangJoin gang gindex gmembers device ctx) s = .next s' ∧ s.sameMemory s' ∧
      s'.gangs = s.gangs ++ [r] ∧ r.gang = gang ∧ r.gmembers = gmembers ∧ r.ctx = ctx ∧ r.joined = [(gindex, device)] ∧ r.everStarted = false) ∧
    (∀ r, s.gangRec gang = some r → r.over = false → r.gmembers = gmembers → (∀ e ∈ r.joined, e.1 ≠ gindex ∧ e.2 ≠ device) →
      s.gangs.length < 64 → ∃ s' r', exec (.gangJoin gang gindex gmembers device ctx) s = .next s' ∧ s.sameMemory s' ∧
        s'.gangRec gang = some r' ∧ Cells.get? gindex r'.joined = some device) ∧
    (∀ r, s.gangRec gang = some r → r.over = false → (r.gmembers ≠ gmembers ∨ ∃ e ∈ r.joined, e.1 = gindex ∨ e.2 = device) →
      s.gangs.length < 64 → device ≠ s.device → ∃ s', exec (.gangJoin gang gindex gmembers device ctx) s = .next s' ∧ s.sameMemory s' ∧
        .joinRefused device gang gindex ∈ s'.outbox ∧ (r.everStarted = true → s'.gangs = s.gangs) ∧
        (r.everStarted = false → s'.gangRec gang = none ∧ ∀ e ∈ r.live, e.2 ≠ s.device → .broken e.2 gang ∈ s'.outbox))) ∧
  (∀ (gang gindex gmembers ctx b : Nat) (s : State) (g : GangMember), gang % 1024 = s.device → s.gangRec gang = none → s.gangs.length < 64 →
    s.unplaced gang gindex = [b] → (s.block b).gang = some g →
    ∃ s', exec (.gangJoin gang gindex gmembers s.device ctx) s = .next s' ∧ (s'.block b).gang = some { g with joined := true }) ∧
  (∀ (gang gindex core : Nat) (s : State) (r : Gang), s.member gang = none → s.gangRec gang = some r → (∃ e ∈ r.live, e.1 = gindex) → ¬FromLost s gang gindex →
    ∃ s' r', exec (.gangReady gang gindex core) s = .next s' ∧ s'.gangRec gang = some r' ∧ gindex ∈ r'.ready ∧ s.sameMemory s') ∧
  (∀ (gang core b : Nat) (s : State) (x : Block) (g : GangMember), s.member gang = some b → s.getBlock b = some x → x.gang = some g →
    x.life = .exiting → g.phaseSt = 5 → ∃ s', exec (.gangReady gang g.index core) s = .next s' ∧ (s'.block b).gang = some { g with phaseSt := 1 } ∧
      s.sameMemory s') ∧
  (∀ (gang core b : Nat) (s : State) (x : Block) (g : GangMember), s.member gang = some b → s.getBlock b = some x → x.gang = some g →
    x.life = .queued → g.phaseSt = 0 → core < 512 → s.sched.due = [] → s.queued = [b] → x.moveTo = none → s.group b = [b] → s.isCoop b = false →
    s.placeable core b = true → s.admits (s.clsOf b) (s.nrgOf b) = true → s.coordHere gang = false →
    ∃ s', exec (.gangReady gang g.index core) s = .next s' ∧ s.sameMemory s' ∧ (s'.block b).gang = some { g with phaseSt := 1 } ∧
      (s'.block b).core = core ∧ (s'.block b).life = .queued ∧ s'.outbox = s.outbox ++ [.ready (s.coordOf g) gang g.index]) ∧
  (∀ (gang : Nat) (s : State) (r : Gang), s.gangRec gang = some r → r.gmembers ≤ r.joined.length → r.live ≠ [] → r.tt = none →
    r.running = false → r.next ≤ s.devTime → (∀ e ∈ r.live, e.1 ∈ r.ready) →
    ∃ s', exec (.gangPropose gang) s = .next s' ∧ s.sameMemory s' ∧
      s'.gangRec gang = some { r with tt := some (s.devTime + 1000 * max 4 (s.mgmt.gangtime.toNat / 2 ^ 24 % 256)), accepted := [], started := [], committed := false } ∧
      ∀ e ∈ r.live, e.2 ≠ s.device → Msg.prepare e.2 gang (s.devTime + 1000 * max 4 (s.mgmt.gangtime.toNat / 2 ^ 24 % 256)) ∈ s'.outbox) ∧
  (∀ (gang gindex core tt : Nat) (s : State), FromLost s gang gindex → exec (.accept gang gindex tt) s = .next s ∧ exec (.refuse gang gindex tt) s = .next s ∧
    exec (.started gang gindex tt) s = .next s ∧ (s.member gang = none → exec (.gangReady gang gindex core) s = .next s)) ∧
  (∀ (gang gindex tt : Nat) (s : State) (r : Gang), s.gangRec gang = some r → r.tt = some tt → r.committed = false → ¬FromLost s gang gindex →
    (2 * s.devTime + s.gangLead ≤ 2 * tt → ∃ s' r', exec (.accept gang gindex tt) s = .next s' ∧ s'.gangRec gang = some r' ∧ gindex ∈ r'.accepted ∧ s.sameMemory s') ∧
    ∃ s' r', exec (.refuse gang gindex tt) s = .next s' ∧ s'.gangRec gang = some r' ∧ (r.accepted.Nodup → gindex ∉ r'.accepted) ∧ s.sameMemory s') ∧
  (∀ (gang tt : Nat) (s : State) (r : Gang), s.gangRec gang = some r → r.tt = some tt → r.committed = false →
    ((∀ e ∈ r.live, e.1 ∈ r.accepted) → ∃ s', exec (.acceptDeadline gang) s = .next s' ∧ s.sameMemory s' ∧
      s'.gangRec gang = some { r with committed := true, everStarted := true, misses := 0 } ∧
      ∀ e ∈ r.live, e.2 ≠ s.device → Msg.commit e.2 gang tt ((List.range r.gmembers).map fun m => Cells.getD m 0 r.joined) ∈ s'.outbox) ∧
    ((∃ e ∈ r.live, e.1 ∉ r.accepted) → 2 * tt ≤ 2 * s.devTime + s.gangLead → ∃ s' r', exec (.acceptDeadline gang) s = .next s' ∧
      s'.gangRec gang = some r' ∧ r'.tt = none ∧ r'.ready = [] ∧ r'.misses = (if r.misses = 2 then 0 else r.misses + 1) ∧
      ∀ e ∈ r.live, e.2 ≠ s.device → Msg.abort e.2 gang tt ∈ s'.outbox ∧ (r.misses = 2 →
        let ms := (r.live.map (·.1)).filter fun m => !r.accepted.contains m
        Msg.miss e.2 gang tt ms.length (ms.take 4) ∈ s'.outbox))) ∧
  (∀ (gang gindex tt : Nat) (s : State) (r : Gang), s.gangRec gang = some r → r.tt = some tt → r.committed = true → ¬FromLost s gang gindex →
    ∃ s' r', exec (.started gang gindex tt) s = .next s' ∧ s'.gangRec gang = some r' ∧ gindex ∈ r'.started ∧ s.sameMemory s' ∧
      (r'.running = true ↔ (r.running = true ∨ ∀ e ∈ r.live, e.1 = gindex ∨ e.1 ∈ r.started))) ∧
  (∀ (gang tt : Nat) (s : State) (r : Gang), s.gangRec gang = some r → r.tt = some tt → r.committed = true →
    2 * tt + s.gangLead ≤ 2 * s.devTime →
    ∃ s' r', exec (.startedTimeout gang) s = .next s' ∧ s'.gangRec gang = some r' ∧ r'.running = true ∧ r'.tt = none ∧ s.sameMemory s' ∧
      ∀ e ∈ r.live, e.1 ∉ r.started → Msg.depart gang e.1 ∈ s'.outbox)

namespace Sys2Proof.Claims

/-- The member of a gang on this device: its block and its gang state. -/
structure Member (s : State) (gang b : Nat) (x : Block) (g : GangMember) : Prop where
  found : s.member gang = some b
  block : s.getBlock b = some x
  gang : x.gang = some g

/-- A gang command whose release part is over and whose message is sent. -/
structure GangFlight (s : State) (o : GangOp) (x : Block) (g : GangMember) : Prop where
  alone : s.gangOps = [o]
  sent : o.sent = true
  block : s.getBlock o.blk = some x
  gang : x.gang = some g
  present : x.inImage = false

/-- A gang command is over: gone, its flag counted down in every live thread of its block. -/
def GangOver (o : GangOp) (s s' : State) : Prop :=
  s'.gangOps = [] ∧ ∀ fl t th, o.flag = some fl → s.getThread o.blk t = some th → th.run ≠ .exited → (s'.thread o.blk t).flag fl = th.flag fl - 1

/-- A member's window opens if it is attached, placed, and every attached member has been placed (16 R380); else it stays. -/
def Reopens (g g' : GangMember) : Prop :=
  g' = { g with windowOpen := g'.windowOpen } ∧ (g'.windowOpen = true ↔ g.windowOpen = true ∨ (g.phaseSt = 4 ∧ g.attached = true ∧
    g.detached = false ∧ ∀ m, m < g.members → Cells.get? m g.lens = none ∨ m ∈ g.detachedSet ∨ m ∈ g.departed ∨ m ∈ g.started))

end Sys2Proof.Claims

/-- R367 to R371, R378 to R380, 19 R445: a member accepts a proposal it holds its reservation for and refuses another, is committed before the time,
is placed at it on its reserved core, once that is ON, or goes on if it is there, says STARTED, and is released by ABORT; its window opens once every attached member has been placed; a joined member refused,
or one of a broken gang, is killed; one that waits too long for a core takes one; a gang stop stops a running member, at
once or when its accumulators are free, and closes its window; a device answers for its member that is done; the
coordinator is COORD, or once that is lost the surviving member device of lowest index. What EXITING and DONE members answer and a COMMIT at its time does, to
whom STARTED is said, what a takeover tells, and the core that a member takes at the end of GANGWAIT are the model's choices (log entries 83, 84, 85 and 88). -/
def Obligations.MembersFollowTheirCoordinator : Prop :=
  (∀ (s : State) (g : GangMember), (g.gang % 1024 ∉ s.links.lostPeers → s.coordOf g = g.gang % 1024) ∧
    (g.gang % 1024 ∈ s.links.lostPeers → (s.coordOf g = s.device ∨ ∃ m, g.devices[m]? = some (s.coordOf g) ∧ m ∉ g.departed ∧
        s.coordOf g ∉ s.links.lostPeers) ∧ s.coordOf g ≤ s.device ∧
      ∀ m d, g.devices[m]? = some d → m ∉ g.departed → d ∉ s.links.lostPeers → s.coordOf g ≤ d)) ∧
  (∀ (gang tt b : Nat) (s : State) (x : Block) (g : GangMember), Member s gang b x g → s.coordHere gang = false →
    (g.phaseSt = 1 → ∃ s', exec (.prepare gang tt) s = .next s' ∧ (s'.block b).gang = some { g with phaseSt := 2, tt := tt, started := [] } ∧
      s'.outbox = s.outbox ++ [.accept (s.coordOf g) gang g.index tt] ∧ s.sameMemory s') ∧
    (g.phaseSt ≠ 1 → ∃ s', exec (.prepare gang tt) s = .next s' ∧ s'.blocks = s.blocks ∧
      s'.outbox = s.outbox ++ [.refuse (s.coordOf g) gang g.index tt] ∧ s.sameMemory s')) ∧
  (∀ (gang tt b : Nat) (devices : List Nat) (s : State) (x : Block) (g : GangMember), Member s gang b x g → g.tt = tt → g.phaseSt = 2 →
    (s.devTime < tt → ∃ s', exec (.commit gang tt devices) s = .next s' ∧
      (s'.block b).gang = some { g with phaseSt := 3, devices := devices } ∧ s.sameMemory s') ∧
    (tt ≤ s.devTime → b ∈ s.killSet b → ∃ s', exec (.commit gang tt devices) s = .next s' ∧ (s'.block b).life = .done)) ∧
  (∀ (gang tt b : Nat) (s : State) (x : Block) (g : GangMember), Member s gang b x g → (g.phaseSt = 1 ∨ (g.phaseSt = 2 ∧ g.tt = tt)) →
    ∃ s', exec (.abort gang tt) s = .next s' ∧ s.sameMemory s' ∧
      (s'.block b).gang = some { g with phaseSt := if x.life = .exiting then 5 else 0, tt := 0 }) ∧
  (∀ (gang tt b : Nat) (s : State) (x : Block) (g : GangMember), Member s gang b x g → g.tt = tt → tt ≤ s.devTime →
    (g.phaseSt = 2 → ∃ s', exec (.gangStartTime gang tt) s = .next s' ∧ s.sameMemory s' ∧
      (s'.block b).gang = some { g with phaseSt := if x.life = .exiting then 5 else 0 }) ∧
    (g.phaseSt = 3 → x.life ≠ .queued → ∃ s' g', exec (.gangStartTime gang tt) s = .next s' ∧
      (s'.block b).gang = some g' ∧ Reopens { g with phaseSt := 4 } g' ∧ s.sameMemory s' ∧
      s'.outbox = s.outbox ++ [.started (s.coordOf g) gang g.index tt] ∧ s'.loop = s.loop ++ [.started (s.coordOf g) gang g.index tt]) ∧
    (∀ k, g.phaseSt = 3 → x.life = .queued → s.group b = [b] → x.kind = .lane → x.oxbow = none → (∀ l, s.recOf x = some l → l.oxbow = false) →
      (∀ th ∈ x.threads, th.budgetDue = false) → (s.getCore x.core).gate = .on k → s.mayStart b = true →
      (if x.placed then s else s.firstImage b).placeFail b = none →
      ∃ s' y g', exec (.gangStartTime gang tt) s = .next s' ∧ s'.getBlock b = some y ∧ y.life = (if y.liveTids = [] then .exiting else .resident) ∧
        y.core = x.core ∧ y.placed = true ∧ y.sliceStart = s.now ∧ y.gang = some g' ∧ Reopens { g with phaseSt := 4 } g' ∧
        (∀ e ∈ s'.sched.gangCores, e.2 ≠ b) ∧ s'.outbox = s.outbox ++ [.started (s.coordOf g) gang g.index tt] ∧
        s'.loop = s.loop ++ [.started (s.coordOf g) gang g.index tt]) ∧
    (g.phaseSt = 3 → x.life = .queued → x.core < 512 → (s.getCore x.core).gate = .gated → ∃ s', exec (.gangStartTime gang tt) s = .next s' ∧ s.sameMemory s' ∧
      s'.blocks = s.blocks ∧ s'.outbox = s.outbox ∧ (s'.getCore x.core).gate = .waking)) ∧
  (∀ (gang gindex tt b : Nat) (s : State) (x : Block) (g : GangMember), Member s gang b x g → g.tt = tt → ¬FromLost s gang gindex →
    ∃ s' g', exec (.started gang gindex tt) s = .next s' ∧ s.sameMemory s' ∧ (s'.block b).gang = some g' ∧
      Reopens { g with started := Cells.insert gindex g.started } g') ∧
  (∀ (gang b : Nat) (s : State) (x : Block) (g : GangMember), s.getBlock b = some x → x.gang = some g → b ∈ s.killSet b →
    ((s.unplaced gang g.index).getLast? = some b → ∃ s', exec (.gangConflict gang g.index) s = .next s' ∧ (s'.block b).life = .done) ∧
    (s.member gang = some b → x.placed = false → ∃ s', exec (.gangBroken gang) s = .next s' ∧ (s'.block b).life = .done)) ∧
  (∀ (blk c : Nat) (s : State) (x : Block) (g : GangMember), s.getBlock blk = some x → x.gang = some g → s.gangLimit ≠ 0 → x.life = .queued →
    g.phaseSt = 0 → g.queuedSince + s.gangLimit ≤ s.now → s.sched.gangCores.find? (·.2 == blk) = none → s.markCore blk = some c →
    ∃ s', exec (.gangWaitLimit blk) s = .next s' ∧ s.sameMemory s' ∧ s'.blocks = s.blocks ∧ s'.sched.gangCores = s.sched.gangCores ++ [(c, blk)]) ∧
  (∀ (gang cls b : Nat) (s : State) (x : Block) (g : GangMember), Member s gang b x g → s.gangRec gang = none → g.phaseSt = 4 →
    s.group b = [b] → (x.life = .resident ∨ x.life = .exiting) →
    ∃ s' g', exec (.gangStopRequest gang cls) s = .next s' ∧ s.sameMemory s' ∧ (s'.block b).gang = some g' ∧ g'.phaseSt = 5 ∧
      g'.windowOpen = false ∧
      if x.life = .resident ∧ s.mustDefer b = false then (s'.block b).life = .stopping
      else (s'.block b).life = x.life ∧ (x.life = .resident → (s'.block b).deferred = some (cls % 4))) ∧
  (∀ (gang cls : Nat) (s : State) (r : Gang), s.gangRec gang = some r → r.running = true → s.member gang = none → s.doneMember gang = none →
    ∃ s' r', exec (.gangStopRequest gang cls) s = .next s' ∧ s.sameMemory s' ∧ s'.gangRec gang = some r' ∧ r'.running = false ∧ r'.ready = [] ∧
      s'.outbox = s.outbox ++ [.gangStop gang (cls % 4)]) ∧
  ∀ (gang cls tt : Nat) (devices : List Nat) (s : State) (g : GangMember), s.member gang = none → s.doneMember gang = some g → s.gangRec gang = none →
    s.coordHere gang = false →
    (∃ s', exec (.gangStopRequest gang cls) s = .next s' ∧ s'.outbox = s.outbox ++ [.ready (s.coordOf g) gang g.index]) ∧
    (∃ s', exec (.prepare gang tt) s = .next s' ∧ s'.outbox = s.outbox ++ [.accept (s.coordOf g) gang g.index tt]) ∧
    ∃ s', exec (.commit gang tt devices) s = .next s' ∧ s'.outbox = s.outbox ++ [.started (s.coordOf g) gang g.index tt]

/-- R370, R377, R379, R383 to R388, 19 R442: those of a lost device are dropped; attachments, detachments, departures and GSYNC arrivals are recorded, and may open a window; a departure
before the first start breaks the gang; FORDATT ends once every member is attached, with the departed member's index if one
is gone; FORDDET ends; GSYNC ends once the phase is over. That a departure before the start breaks the gang, that FORDATT names the lowest departed
index, and that a member's own LEN counts from its ATTACH on are the model's choices (log entries 81, 86 and 90). -/
def Obligations.GangMessagesAndCompletions : Prop :=
  (∀ (gang gindex n : Nat) (s : State), FromLost s gang gindex → exec (.attach gang gindex n) s = .next s ∧ exec (.detach gang gindex) s = .next s ∧
    exec (.gsyncArrival gang gindex n) s = .next s) ∧
  (∀ (gang gindex len b : Nat) (s : State) (x : Block) (g : GangMember), Member s gang b x g → ¬FromLost s gang gindex →
    ∃ s', exec (.attach gang gindex len) s = .next s' ∧ (s'.block b).gang = some { g with lens := Cells.set gindex len g.lens } ∧ s.sameMemory s') ∧
  (∀ (gang gindex b : Nat) (s : State) (x : Block) (g : GangMember), Member s gang b x g → s.gangOps = [] → ¬FromLost s gang gindex →
    ∃ s' g', exec (.detach gang gindex) s = .next s' ∧ s.sameMemory s' ∧ (s'.block b).gang = some g' ∧
      Reopens { g with detachedSet := Cells.insert gindex g.detachedSet } g') ∧
  (∀ (gang gindex b : Nat) (s : State) (x : Block) (g : GangMember), Member s gang b x g → gindex ≠ g.index → s.gangRec gang = none →
    (∀ o ∈ s.ops, o.fordAt gindex = none) → s.gangOps = [] →
    ∃ s' g', exec (.depart gang gindex) s = .next s' ∧ s.sameMemory s' ∧ (s'.block b).gang = some g' ∧
      Reopens { g with departed := Cells.insert gindex g.departed } g') ∧
  (∀ (gang gindex : Nat) (s : State) (r : Gang), s.gangRec gang = some r → s.member gang = none →
    (r.everStarted = true →
      ∃ s' r', exec (.depart gang gindex) s = .next s' ∧ s'.gangRec gang = some r' ∧ gindex ∈ r'.gone ∧ s.sameMemory s') ∧
    (r.everStarted = false →
      ∃ s', exec (.depart gang gindex) s = .next s' ∧ s'.gangRec gang = none ∧ s.sameMemory s' ∧
        ∀ e ∈ r.live, e.1 ≠ gindex → e.2 ≠ s.device → .broken e.2 gang ∈ s'.outbox)) ∧
  (∀ (gang gindex phase b : Nat) (s : State) (x : Block) (g : GangMember), Member s gang b x g → s.gangOps = [] → ¬FromLost s gang gindex →
    ∃ s', exec (.gsyncArrival gang gindex phase) s = .next s' ∧ s.sameMemory s' ∧
      (s'.block b).gang = some { g with gsync := Cells.set gindex (max phase (Cells.getD gindex 0 g.gsync)) g.gsync }) ∧
  (∀ (gang gindex phase : Nat) (s : State) (o : GangOp) (x : Block) (g : GangMember) (n : Fin 64), GangFlight s o x g → Member s gang o.blk x g →
    ¬FromLost s gang gindex → o.kind = 2 → o.dst = .s n →
    let g' := { g with gsync := Cells.set gindex (max phase (Cells.getD gindex 0 g.gsync)) g.gsync }
    (∀ m, m < g.members → o.phase ≤ Cells.getD m 0 g'.gsync ∨ m ∈ g.detachedSet ∨ m ∈ g.departed) →
    ∃ s', exec (.gsyncArrival gang gindex phase) s = .next s' ∧ GangOver o s s' ∧ s.sameMemory s' ∧
      (s'.block o.blk).getS n.val = if g.departed = [] then 0 else 1) ∧
  (∀ (s : State) (o : GangOp) (x : Block) (g : GangMember) (n : Fin 64), GangFlight s o x g → o.kind = 0 → o.dst = .s n →
    (g.attached = true → ∃ s', exec (.fordattComplete o.blk) s = .next s' ∧ GangOver o s s' ∧ s.sameMemory s' ∧
      (s'.block o.blk).getS n.val = 0 ∧ (s'.block o.blk).gang = some g) ∧
    (g.attached = false → g.departed = [] → (∀ m, m < g.members → (Cells.get? m g.lens).isSome = true) →
      ∃ s', exec (.fordattComplete o.blk) s = .next s' ∧ GangOver o s s' ∧ s.sameMemory s' ∧ (s'.block o.blk).getS n.val = 0 ∧
        (s'.block o.blk).gang = some { g with attached := true, windowOpen := x.inSlot && g.phaseSt == 4 && !g.detached }) ∧
    (∀ m ms, g.attached = false → g.departed = m :: ms → ∃ s', exec (.fordattComplete o.blk) s = .next s' ∧ GangOver o s s' ∧ s.sameMemory s' ∧
      (s'.block o.blk).getS n.val = w32 (1 + 65536 * m) ∧ (s'.block o.blk).gang = some g)) ∧
  (∀ (s : State) (o : GangOp) (x : Block) (g : GangMember), GangFlight s o x g → o.kind = 1 →
    ∃ s', exec (.forddetComplete o.blk) s = .next s' ∧ GangOver o s s' ∧ s.sameMemory s')

namespace Sys2Proof.Claims

/-! Headwater slices (12_headwater.md R278 to R291). -/

/-- A slice and its compute block. -/
structure SliceAt (s : State) (b c : Nat) (x y : Block) (sl : Slice) : Prop where
  block : s.getBlock b = some x
  compute : s.getBlock c = some y
  pair : x.pairOf = some c
  slice : x.slice = some sl
  apart : c ≠ b

/-- A state that differs from another in the slice part of a block and in one thread of it. -/
structure SliceDone (s s' : State) (b t : Nat) (th : Thread) (sl : Slice) : Prop where
  thread : s'.getThread b t = some th
  slice : (s'.block b).slice = some sl
  others : ∀ b' t', ¬(b' = b ∧ t' = t) → s'.getThread b' t' = s.getThread b' t'
  blocks : ∀ b', { s'.block b' with threads := [], slice := none } = { s.block b' with threads := [], slice := none }
  memory : s.sameMemory s'

/-- Is a descriptor one HSTREAM takes (12 R284): reserved fields zero; a granule stream's ring inside the compute block's allocation; an
entry stream's queue an owned thread queue. -/
def streamOk (s : State) (b : Nat) (y : Block) (sl : Slice) (st : Stream) : Prop :=
  let c := st.ctl.toNat
  let r := st.third.toNat
  c / 2 ^ 16 = 0 ∧ c % 256 = 0 ∧ c / 2 ^ 10 % 4 ≠ 3 ∧
    if st.granules then c / 2 ^ 10 % 4 = 0 ∧ r / 2 ^ 14 % 4 = 0 ∧ r / 2 ^ 16 ≠ 0 ∧ r / 2 ^ 16 ≤ 16384 ∧ r % 2 ^ 14 + r / 2 ^ 16 ≤ y.spLen
    else s.ownsQueue b st.queue = true ∧ (sl.queue st.queue).block = false

/-- An entry in a queue: the words stand in its slot, for each thread of the compute block or in the slice, and the queue counts it. -/
def Pushed (s s' : State) (b c : Nat) (y : Block) (sl : Slice) (q : Nat) (f : Nat → Word) : Prop :=
  (∀ sl', (s'.block b).slice = some sl' → (sl'.queue q).tail = ((sl.queue q).tail + 1) % 6 ∧
    ((sl.queue q).block = true → Cells.getD ((sl.queue q).tail % 3) 0 (sl'.queue q).bval = f 0)) ∧
  ((sl.queue q).block = false → ∀ u, u < y.threads.length → Cells.getD (3 * q + (sl.queue q).tail % 3) 0 (s'.thread c u).qslot = f u) ∧
  s.sameMemory s'

end Sys2Proof.Claims

/-- R282, R284 to R286, R291: HSTREAM captures a descriptor or disables its stream, HLOOP sets a count, HPUSH pushes a value, behind what is in
flight, or waits on a full queue, HEND starts a nest or waits for the running one, HSYNC.drain waits until its queues are
empty, HSYNC.kind sets kinds, and a queue that changes its kind is empty for those that pop it then. -/
def Obligations.SliceInstructionsShapeTheNest : Prop :=
  (∀ (j : Fin 8) (s : State) (b t c : Nat) (x y : Block) (th : Thread) (sl : Slice), RunsU (.hstream .zero j) s b t x th → SliceAt s b c x y sl →
    ∃ s', exec (.hstream .zero j) s = .next s' ∧ SliceDone s s' b t (gone th 1) { sl with streams := Cells.erase j.val sl.streams }) ∧
  (∀ (d : Fin 64) (j : Fin 8) (s s1 s2 s3 s4 : State) (b t c : Nat) (x y : Block) (th u : Thread) (sl : Slice) (st : Stream),
    RunsU (.hstream (.s d) j) s b t x th → readU2 b (.s d) s = .ok (st.base, s1) → readU b (UReg.plus (.s d) 2) s1 = .ok (st.ctl, s2) →
    readU b (UReg.plus (.s d) 3) s2 = .ok (st.third, s3) →
    ((List.range 4).mapM fun k => readU b (UReg.plus (.s d) (4 + k))) s3 = .ok (st.strides, s4) →
    Resides s4 b t x u → SliceAt s4 b c x y sl →
    (streamOk s4 b y sl st → ∃ s', exec (.hstream (.s d) j) s = .next s' ∧
      SliceDone s4 s' b t (gone u 1) { sl with streams := Cells.set j.val st sl.streams }) ∧
    (¬streamOk s4 b y sl st → x.kind = .headwater → ∃ s', exec (.hstream (.s d) j) s = .next s' ∧ (s'.thread b t).run = .exited ∧
      (s'.block b).slice.map (·.ended) = some true)) ∧
  (∀ d (l : Fin 8) (s s1 : State) (b t c : Nat) (x y : Block) (th u : Thread) (sl : Slice) (v : Word), RunsU (.hloop d l) s b t x th →
    readU b d s = .ok (v, s1) → Resides s1 b t x u → SliceAt s1 b c x y sl →
    ∃ s', exec (.hloop d l) s = .next s' ∧ SliceDone s1 s' b t (gone u 1) { sl with counts := sl.counts.set l.val v }) ∧
  (∀ a (q : Fin 8) (s s1 : State) (b t c : Nat) (x y : Block) (th u : Thread) (sl : Slice) (v : Word), RunsU (.hpush a q) s b t x th →
    readU b a s = .ok (v, s1) → Resides s1 b t x u → SliceAt s1 b c x y sl → s1.ownsQueue b q.val = true →
    (y.liveTids ≠ [] → s1.queueFull b q.val = false → sl.flight = [] →
      ∃ s', exec (.hpush a q) s = .next s' ∧ (s'.thread b t).pc = u.pc + 4 ∧ Pushed s1 s' b c y sl q.val fun _ => v) ∧
    (y.liveTids ≠ [] → s1.queueFull b q.val = false → sl.flight ≠ [] →
      ∃ s' sl' f, exec (.hpush a q) s = .next s' ∧ (s'.thread b t).pc = u.pc + 4 ∧ s1.sameMemory s' ∧ (s'.block b).slice = some sl' ∧
        sl'.flight = sl.flight ++ [f] ∧ f.kind = .entry q.val (sl.queue q.val).tail ∧
        f.words = (List.range y.threads.length).map (fun k => (k, v)) ∧ (sl'.queue q.val).tail = ((sl.queue q.val).tail + 1) % 6) ∧
    (y.liveTids ≠ [] → s1.queueFull b q.val = true →
      ∃ s', exec (.hpush a q) s = .next s' ∧ OnlyThread s s' b t { th with run := .stalled (.pushQueue q.val), since := s.now }) ∧
    (y.liveTids = [] → ∃ s', exec (.hpush a q) s = .next s' ∧ OnlyThread s1 s' b t (gone u 1))) ∧
  (∀ f (s : State) (b t c : Nat) (x y : Block) (th : Thread) (sl : Slice), RunsU (.hend f) s b t x th → SliceAt s b c x y sl → th.run = .ready →
    (sl.nest = none → ∃ s' sl', exec (.hend f) s = .next s' ∧ (s'.block b).slice = some sl' ∧ (s'.thread b t).pc = th.pc + 4 ∧ s.sameMemory s' ∧
      (∀ fl, flagOf (.hend f) s b t = some fl → (s'.thread b t).flag fl = th.flag fl + 1) ∧
      if 0 ∈ sl.counts ∨ sl.streams = [] then
        sl' = { sl with flight := sl.flight ++ [{ kind := .nestEnd (flagOf (.hend f) s b t), words := [] }] }
      else sl' = { sl with nest := some { counts := sl.counts, idx := [0, 0, 0, 0], streams := sl.streams, next := 0, delivered := [],
                                           flag := flagOf (.hend f) s b t, walk := [] } }) ∧
    (sl.nest ≠ none → ∃ s', exec (.hend f) s = .next s' ∧ OnlyThread s s' b t { th with run := .stalled .nestRunning, since := s.now })) ∧
  (∀ a (s s1 : State) (b t c : Nat) (x y : Block) (th u : Thread) (sl : Slice) (m : Word), RunsU (.hsyncDrain a) s b t x th →
    readU b a s = .ok (m, s1) → Resides s1 b t x u → SliceAt s1 b c x y sl → m.toNat < 256 →
    (∀ q, q < 8 → m.toNat.testBit q = true → s1.ownsQueue b q = true) →
    ((∀ q, q < 8 → m.toNat.testBit q = true → s1.queueEmpty b q = true) →
      ∃ s', exec (.hsyncDrain a) s = .next s' ∧ OnlyThread s1 s' b t (gone u 1)) ∧
    ((∃ q, q < 8 ∧ m.toNat.testBit q = true ∧ s1.queueEmpty b q = false) →
      ∃ s', exec (.hsyncDrain a) s = .next s' ∧ OnlyThread s s' b t { th with run := .stalled (.hsync m.toNat), since := s.now })) ∧
  (∀ a (s s1 : State) (b t c : Nat) (x y : Block) (th u : Thread) (sl : Slice) (m : Word), RunsU (.hsyncKind a) s b t x th →
    readU b a s = .ok (m, s1) → Resides s1 b t x u → SliceAt s1 b c x y sl → m.toNat < 256 → sl.streams = [] → sl.nest = none →
    (∀ q, q < 8 → m.toNat.testBit q = true → s1.ownsQueue b q = true) →
    (∀ q, q < 8 → s1.ownsQueue b q = true → (sl.queue q).block ≠ m.toNat.testBit q → s1.queueEmpty b q = true) →
    ∃ s' sl', exec (.hsyncKind a) s = .next s' ∧ s'.getThread b t = some (gone u 1) ∧ (s'.block b).slice = some sl' ∧ s1.sameMemory s' ∧
      (∀ b' t', b' ≠ c → ¬(b' = b ∧ t' = t) → s'.getThread b' t' = s1.getThread b' t') ∧
      (∀ t' v, y.getThread t' = some v → ∃ h, s'.getThread c t' = some { v with qhead := h } ∧ ∀ q, q < 8 →
        Cells.getD q 0 h = if s1.ownsQueue b q = true ∧ (sl.queue q).block = true ∧ m.toNat.testBit q = false then (sl.queue q).tail else Cells.getD q 0 v.qhead) ∧
      ∀ q, q < 8 → s1.ownsQueue b q = true → (sl'.queue q).block = m.toNat.testBit q ∧ (sl'.queue q).tail = (sl.queue q).tail ∧
        ((sl.queue q).block ≠ m.toNat.testBit q → m.toNat.testBit q = true → (sl'.queue q).bhead = (sl.queue q).tail))

namespace Sys2Proof.Claims

/-- A nest has issued an access: it stands in flight, and the nest goes on, or stops behind its last access (12 R285). -/
def NestWentOn (sl sl' : Slice) (n : Nest) (f : Flight) : Prop :=
  match n.advance with
  | some n' => sl'.nest = some n' ∧ sl'.flight = sl.flight ++ [f]
  | none => sl'.nest = none ∧ sl'.flight = sl.flight ++ [f, { kind := .nestEnd n.flag, words := [] }]

end Sys2Proof.Claims

/-- R282, R285 to R287, R291: the running nest issues its next entry with a read for each live thread; where a read fails the entry is
marked, and SPECDROP counts one; an access in flight is delivered to its queue slot or its granule, which becomes full; once
the last access of a nest is delivered its flag counts down; waiting pops and pushes wake. That SPECDROP counts one for each marked entry, however
many of its reads fail, is the model's choice (log entry 26). -/
def Obligations.NestsIssueDeliverAndEnd : Prop :=
  (∀ (b c j : Nat) (s s1 : State) (x y : Block) (sl : Slice) (n : Nest) (st : Stream) (rs : List (Nat × StreamRead)), SliceAt s b c x y sl →
    sl.nest = some n → x.life = .resident → sl.ended = false → n.walk = [] →
    n.streams.find? (fun e => n.next ≤ e.1) = some (j, st) → st.granules = false → s.queueFull b st.queue = false →
    s.entryReads b st (st.addr n.idx) [] y.liveTids = (rs, s1) →
    let q := st.queue
    let pos := (sl.queue q).tail
    (∀ bytes : Nat → List Byte, rs = y.liveTids.map (fun t => (t, .value (bytes t))) → (s1.block b).slice = some sl →
      ∃ s' sl' f, exec (.hwStreamAccess b) s = .next s' ∧ (s'.block b).slice = some sl' ∧ s1.sameMemory s' ∧ NestWentOn sl sl' { n with next := j } f ∧
        f.kind = .entry q pos ∧ f.words = y.liveTids.map (fun t => (t, w32 (leNat (bytes t)))) ∧ (sl'.queue q).tail = (pos + 1) % 6) ∧
    (∀ m, (∀ e ∈ rs, e.2 = .fails ∨ ∃ bs, e.2 = .value bs) → (∃ e ∈ rs, e.2 = .fails) → sl.freeRec = some m →
      ∃ s' sl' f, exec (.hwStreamAccess b) s = .next s' ∧ (s'.block b).slice = some sl' ∧ s.sameMemory s' ∧ NestWentOn sl sl' { n with next := j } f ∧
        f.kind = .entry q pos ∧ (sl'.queue q).tail = (pos + 1) % 6 ∧ pos % 3 ∈ (sl'.queue q).mark ∧
        (s'.getCore x.core).specdrop = (s.getCore x.core).specdrop + 1 ∧
        Cells.get? m sl'.marks = some { addr := st.addr n.idx, granule := false, gran := 0, queue := q, slot := pos % 3, tstride := st.third, size := st.size })) ∧
  (∀ (b c q pos : Nat) (f : Flight) (rest : List Flight) (s : State) (x y : Block) (sl : Slice), SliceAt s b c x y sl →
    sl.flight = f :: rest → f.kind = .entry q pos → (f.words.map (·.1)).Nodup →
    ∃ s' sl', exec (.hwDelivery b) s = .next s' ∧ (s'.block b).slice = some sl' ∧ sl'.flight = rest ∧ sl'.nest = sl.nest ∧ s.sameMemory s' ∧
      ((sl.queue q).block = true → Cells.getD (pos % 3) 0 (sl'.queue q).bval = (f.words.headD (0, 0)).2) ∧
      ((sl.queue q).block = false → ∀ e ∈ f.words, e.1 < y.threads.length → Cells.getD (3 * q + pos % 3) 0 (s'.thread c e.1).qslot = e.2)) ∧
  (∀ (b c g : Nat) (f : Flight) (rest : List Flight) (s : State) (x y : Block) (sl : Slice), SliceAt s b c x y sl →
    sl.flight = f :: rest → f.kind = .granule g → f.words.length = 4 →
    s.padOwner y.padCore (y.spBase + g) = some c → y.regions = [] →
    ∃ s', exec (.hwDelivery b) s = .next s' ∧ s.sameMemory s' ∧ s'.isFull (.sp y.padCore (16 * (y.spBase + g))) = true ∧
      ∀ k, k < 16 → Cells.getD (padKey y.padCore (16 * (y.spBase + g) + k)) 0 s'.pads = (f.words.flatMap fun w => leBytes 4 w.2.toNat).getD k 0) ∧
  (∀ (b c : Nat) (f : Flight) (rest : List Flight) (flag : Option Nat) (s : State) (x y : Block) (sl : Slice), SliceAt s b c x y sl →
    sl.flight = f :: rest → f.kind = .nestEnd flag → x.inImage = false →
    ∃ s', exec (.hwNestDone b) s = .next s' ∧ (s'.block b).slice = some { sl with flight := rest } ∧ s.sameMemory s' ∧
      ∀ fl t th, flag = some fl → x.getThread t = some th → th.run ≠ .exited → (s'.thread b t).flag fl = th.flag fl - 1) ∧
  (∀ (b t q : Nat) (s : State) (th : Thread), s.getThread b t = some th → th.run = .stalled (.popQueue q) → s.popWaitOver b t q = true →
    ∃ s', exec (.queuePopWake b t) s = .next s' ∧ OnlyThread s s' b t { th with run := .ready, since := s.now }) ∧
  (∀ (b : Nat) (w : Wait) (s : State) (th : Thread), s.getThread b 0 = some th → th.run = .stalled w → s.sliceWaitOver b w = true →
    ∃ s', exec (.queuePushWake b) s = .next s' ∧ OnlyThread s s' b 0 { th with run := .ready, since := s.now })

namespace Sys2Proof.Claims

/-! Scheduling (14_scheduling.md R318 to R340; 03_control.md R90 to R98). -/

/-- A block starts its next slice (14 R332, R333): what the last debit left over goes back to the reservoir and NRGBUD is debited. -/
structure NewSlice (s s' : State) (b t : Nat) (th : Thread) (nrgbud : Nat) : Prop where
  thread : s'.getThread b t = some th
  others : ∀ b' t', ¬(b' = b ∧ t' = t) → s'.getThread b' t' = s.getThread b' t'
  block : { s'.block b with threads := [] } =
    { s.block b with threads := [], sliceStart := s.now, charged := 0, debit := nrgbud, allowance := none }
  reservoir : s'.sched.reservoir = s.sched.reservoir + max 0 (18000 * ((s.block b).debit : Int) - 18 * ((s.block b).charged : Int)) - 18000 * (nrgbud : Int)
  memory : s.sameMemory s'

/-- A lane block alone in its group, of an accepted launch that is not cooperative. -/
structure LoneLane (s : State) (b : Nat) (x : Block) (l : Launch) : Prop where
  block : s.getBlock b = some x
  launch : s.launchOf x = some l
  kind : x.kind = .lane
  alone : x.pairOf = none ∧ x.partners = []
  single : l.record.coop = false ∧ x.gang = none

/-- The address of a work queue's descriptor lies in device memory. -/
def queueAt (s : State) (q : Nat) : Prop := q < 4096 ∧ s.queueDesc q + 32 ≤ devSize

end Sys2Proof.Claims

/-- R332 to R338: YIELD goes on with a new slice while nothing else wants the room or accumulators are live, and else stops its block after it
or saves it for another core; BUDGET reads what is left of the slice, the context's energy or device time; LAUNCH hands its
record, read once, to the scheduler, and at LAUNCH_STATUS the code of the first check that fails, or 0, arrives and the flag is
counted down. What BUDGET.nrg reads of an overdrawn budget, and when a YIELD moves a block, are the model's choices (log entries 76 and 100). -/
def Obligations.SchedulingInstructionsDoWhatTheySay : Prop :=
  (∀ (s : State) (b t : Nat) (x : Block) (th : Thread) (l : Launch), RunsU .yield s b t x th → LoneLane s b x l →
    ((s.mustDefer b = true ∨ ((s.creditSlice b).yieldStop b = false ∧ (s.creditSlice b).yieldMove b = none ∧
        (s.creditSlice b).admits l.record.cls l.record.nrgbud = true)) →
      ∃ s', exec .yield s = .next s' ∧ NewSlice s s' b t (gone th 1) l.record.nrgbud) ∧
    (s.mustDefer b = false → ((s.creditSlice b).yieldStop b = true ∨ ((s.creditSlice b).yieldMove b = none ∧
        (s.creditSlice b).admits l.record.cls l.record.nrgbud = false)) → th.run = .ready →
      ∃ s', exec .yield s = .next s' ∧ (s'.block b).life = .stopping ∧ (s'.block b).stopBy = some s.now ∧ s.sameMemory s' ∧
        s'.getThread b t = some { gone th 1 with run := .stopped none false, since := s.now } ∧
        ∀ t' u, t' ≠ t → x.getThread t' = some u → u.run = .ready → s'.getThread b t' = some { u with run := .stopped none false }) ∧
    (∀ c, s.mustDefer b = false → (s.creditSlice b).yieldStop b = false → (s.creditSlice b).yieldMove b = some c → th.run = .ready →
      ∃ s', exec .yield s = .next s' ∧ (s'.block b).life = .saving ∧ (s'.block b).moveTo = some c ∧ s.sameMemory s')) ∧
  (∀ d (s : State) (b t : Nat) (x : Block) (th : Thread) (l : Launch), s.launchOf x = some l →
    (RunsU (.budgetCyc d) s b t x th → ∃ s', exec (.budgetCyc d) s = .next s' ∧ UniformDone s s' b t (gone th 1)
      (putU d true (if l.record.cycbud = 0 then 0xFFFFFFFFFFFFFFFF else w64 (l.record.cycbud - (s.now - x.sliceStart))))) ∧
    (RunsU (.budgetNrg d) s b t x th → ∃ s', exec (.budgetNrg d) s = .next s' ∧ UniformDone s s' b t (gone th 1)
      (putU d false (w64 ((l.record.nrgbud - x.charged / 1000) % 2 ^ 32)))) ∧
    (RunsU (.budgetCtx d) s b t x th → ∃ s', exec (.budgetCtx d) s = .next s' ∧ UniformDone s s' b t (gone th 1)
      (putU d true (Cells.getD x.ctx 0 s.sched.nrgCtx))) ∧
    (RunsU (.budgetTime d) s b t x th → ∃ s', exec (.budgetTime d) s = .next s' ∧ UniformDone s s' b t (gone th 1)
      (putU d true (w64 s.devTime)))) ∧
  (∀ d a f (s s1 s2 : State) (b t : Nat) (x y : Block) (th u : Thread) (ea : DWord) (pa : Nat), RunsU (.launch d a f) s b t x th →
    readU2 b a s = .ok (ea, s1) → recordPlace b [t] ea s1 = .ok (pa, s2) → ReadyAt s2 b t y u → (∀ p ∈ s2.pins, p.blk ≠ b) →
    ∃ (s' : State) (o : LaunchOp), exec (.launch d a f) s = .next s' ∧ s'.launchOps = s2.launchOps ++ [o] ∧ o.blk = b ∧ o.tids = [t] ∧ o.ea = ea ∧ o.recPa = pa ∧
      o.arrival = s2.devTime ∧ o.dst = d ∧ o.flag = flagOf (.launch d a f) s2 b t ∧ (s'.thread b t).pc = u.pc + 4 ∧ s2.sameMemory s' ∧
      ∀ fl, o.flag = some fl → (s'.thread b t).flag fl = u.flag fl + 1) ∧
  (∀ (s : State) (o : LaunchOp) (x : Block), s.launchOps.find? (·.id == o.id) = some o → s.getBlock o.blk = some x → x.inImage = false → x.life ≠ .done →
    (o.bytes = [] → s.releaseWaits o.blk o.tids o.id .pkg (s.obsBefore o.blk o.tids o.id) = false ∧ s.reach noCore o.recPa = true ∧
      s.reach noCore (o.recPa + 64) = true) →
    let bs := if o.bytes = [] then s.recordAt128 x.ctx o.recPa else o.bytes
    let r0 := parseLaunch bs
    let r := { r0 with ctx := if r0.ctx = 0 then x.ctx else r0.ctx, cls := Nat.max r0.cls (s.clsOf o.blk) }
    (∀ c, s.checkRecord bs r x.ctx 0 true = .reject c → 1 < c → ∃ (s' : State) (l : Launch), exec (.launchStatus o.id) s = .next s'.completeLaunches ∧
      s'.launches = s.launches ++ [l] ∧ l.code = c ∧ l.undone = 0 ∧ (∀ p ∈ s'.launchOps, p.id ≠ o.id) ∧
      (∀ n, o.dst = .s n → (s'.block o.blk).getS n.val = w32 c) ∧
      ∀ fl t th, o.flag = some fl → x.getThread t = some th → th.run ≠ .exited → (s'.thread o.blk t).flag fl = th.flag fl - 1) ∧
    (∀ args n, s.checkRecord bs r x.ctx 0 true = .accept args n → o.blk ≤ s.seq → r.gang = 0 → ∃ (s' : State) (l : Launch), exec (.launchStatus o.id) s = .next s'.completeLaunches ∧
      l ∈ s'.launches ∧ l.record = r ∧ l.argWords = args ∧ l.count = n ∧ l.queue = none ∧ l.code = 0 ∧ (∀ p ∈ s'.launchOps, p.id ≠ o.id) ∧
      (∀ n, o.dst = .s n → (s'.block o.blk).getS n.val = 0) ∧
      ∀ fl t th, o.flag = some fl → x.getThread t = some th → th.run ≠ .exited → (s'.thread o.blk t).flag fl = th.flag fl - 1))

/-- R321 to R330, R334; 03 R90 to R98: a submit moves its queue's tail; an admission check rejects or accepts the head record; a dispatch
opportunity places the block that comes first; a pre-emption for a class with a block queued stops threads at once or after
the grace period; a stopped block is saved, unless it holds live accumulators it could not restart from, and then queued; the
last exit ends a block; a used-up budget traps every thread, and its allowance over kills the block. That a stopping block whose accumulators go live
runs on, and that a message is performed in its session's order, are the model's choices (log entries 75 and 94). -/
def Obligations.TheSchedulerMovesBlocksAsTheRulesSay : Prop :=
  (∀ (k q tail : Nat) (s : State), queueAt s q → s.sessionOpen k = true → (∀ j ∈ s.inbox, j.stream ≠ (0, k)) →
    let d := s.queueDesc q
    let t := tail % 2 ^ 32
    (s.rdNat (d + 0x0C) 4 % 2 = 0 → exec (.submit ⟨k, q⟩ tail) s = .next ((s.noteTaken k).record (s.queueCtx q) { kind := 0x0F, detail := leBytes 2 q ++ leBytes 4 t })) ∧
    (s.rdNat (d + 0x0C) 4 % 2 = 1 → (t + 2 ^ 32 - s.rdNat (d + 0x14) 4) % 2 ^ 32 ≤ 2 ^ 31 →
      (2 ^ s.rdNat (d + 8) 1 < (t + 2 ^ 32 - s.rdNat (d + 0x10) 4) % 2 ^ 32 →
        exec (.submit ⟨k, q⟩ tail) s = .next ((s.noteTaken k).record (s.queueCtx q) { kind := 0x10, detail := leBytes 2 q ++ leBytes 4 t })) ∧
      ((t + 2 ^ 32 - s.rdNat (d + 0x10) 4) % 2 ^ 32 ≤ 2 ^ s.rdNat (d + 8) 1 →
        ∃ s', exec (.submit ⟨k, q⟩ tail) s = .next s' ∧ s'.rdNat (d + 0x14) 4 = t ∧ s'.sched.arrivals = s.sched.arrivals ++ [(q, t, s.devTime)] ∧
          ∀ pa, ¬(d + 0x14 ≤ pa ∧ pa < d + 0x18) → s'.rd8 pa = s.rd8 pa))) ∧
  (∀ (q : Nat) (s : State), queueAt s q → s.pendingLaunches < 65536 → s.heldReady q = none →
    let d := s.queueDesc q
    let head := s.rdNat (d + 0x10) 4
    let addr := s.rdNat d 8 + 128 * (head % 2 ^ s.rdNat (d + 8) 1)
    let bs := s.rdBytes addr 128
    head ≠ s.rdNat (d + 0x14) 4 → s.reach noCore addr = true → s.reach noCore (addr + 64) = true →
    (∀ c, s.checkQueued q bs = .reject c → 1 < c → ∃ (s' : State) (l : Launch), exec (.admissionCheck q) s = .next s'.completeLaunches ∧ s'.launches = s.launches ++ [l] ∧
      l.code = c ∧ l.undone = 0 ∧ l.recAddr = addr ∧ s'.rdNat (d + 0x10) 4 = (head + 1) % 2 ^ 32) ∧
    (∀ args n, s.checkQueued q bs = .accept args n → ∃ (s' : State) (l : Launch), exec (.admissionCheck q) s = .next s'.completeLaunches ∧ l ∈ s'.launches ∧
      l.record = parseLaunch bs ∧ l.argWords = args ∧ l.count = n ∧ l.queue = some q ∧ l.code = 0 ∧
      l.deadline = max (parseLaunch bs).deadline (s.arrivalOf q head) ∧ s'.rdNat (d + 0x10) 4 = (head + 1) % 2 ^ 32 ∧
      ∀ b ∈ l.blocks, (s'.block b).life = .queued ∧ (s'.block b).placed = false)) ∧
  (∀ (core lanebase b base k : Nat) (s : State) (x : Block) (l : Launch), core < 512 → s.sched.due = [] → (∀ c ∈ s.queued, (s.block c).moveTo = none) →
    bestBy s.dispatchKey (s.queued.filter fun b => s.placeable core b) = some b → (∀ c ∈ s.queued, s.clsOf c ≤ s.clsOf b) →
    LoneLane s b x l → l.record.list = 0 → x.life = .queued → (s.getCore core).gate = .on k → s.fitsOn b core [] = some base →
    s.admits l.record.cls l.record.nrgbud = true →
    exec (.dispatchOpportunity core lanebase) s = .next (s.placeGroup b core lanebase base) ∧
    (l.record.oxbow = false → (∀ th ∈ x.threads, th.budgetDue = false) →
      (if x.placed || x.isCopy then s.assign b core lanebase base else (s.assign b core lanebase base).firstImage b).placeFail b = none →
      ∃ y, (s.placeGroup b core lanebase base).getBlock b = some y ∧ y.life = (if y.liveTids = [] then .exiting else .resident) ∧
        y.core = core ∧ y.lanebase = lanebase % 16 ∧ y.spBase = base ∧ y.placed = true ∧ y.debit = l.record.nrgbud ∧ y.sliceStart = s.now ∧
        (s.placeGroup b core lanebase base).sched.reservoir = s.sched.reservoir - 18000 * (l.record.nrgbud : Int))) ∧
  (∀ (blk cls q : Nat) (s : State) (x y : Block) (l : Launch), LoneLane s blk x l → x.life = .resident → x.mark = none → s.getBlock q = some y →
    y.kind = .lane → y.life = .queued → y.reserves = false → s.clsOf q = cls → cls < s.clsOf blk →
    (s.mustDefer blk = true → ∃ s', exec (.preemptionRequest blk cls) s = .next s' ∧ s'.block blk = { x with deferred := some cls } ∧ s.sameMemory s') ∧
    (s.mustDefer blk = false → ∃ s', exec (.preemptionRequest blk cls) s = .next s' ∧ s.sameMemory s' ∧ (s'.block blk).life = .stopping ∧
      (s'.block blk).stopBy = some (s.now + s.graceOf cls) ∧
      ∀ t th, x.getThread t = some th →
        (∀ w, th.run = .stalled w → s'.getThread blk t = some { th.withdraw w with run := .stopped none true }) ∧
        (th.run = .ready → s'.getThread blk t = some (if s.graceOf cls = 0 then { th with run := .stopped none false } else th)))) ∧
  (∀ (blk cls : Nat) (s : State), s.clsOf blk ≤ cls ∨ (∀ q y, s.getBlock q = some y → y.life = .queued → s.clsOf q ≠ cls) →
    exec (.preemptionRequest blk cls) s = .next s) ∧
  (∀ (blk : Nat) (s : State) (x : Block), s.getBlock blk = some x → x.life = .stopping → s.graceOver x = true →
    ∃ s', exec (.graceExpiry blk) s = .next s' ∧ s.sameMemory s' ∧ ∀ t th, x.getThread t = some th →
      (th.run = .ready → s'.getThread blk t = some { th with run := .stopped none false }) ∧
      (∀ w, th.run = .stalled w → s'.getThread blk t = some { th.withdraw w with run := .stopped none true })) ∧
  (∀ (blk : Nat) (s : State) (x : Block) (l : Launch), LoneLane s blk x l → x.life = .stopping → x.mark = none → x.allStopped = true →
    (x.liveAcc = false ∨ x.restart ≠ 0 → ∃ s', exec (.blockSave blk) s = .next s' ∧ (s'.block blk).life = .saving ∧ (s'.block blk).stopBy = none ∧
      (s'.block blk).debit = 0 ∧ ∀ t th, x.getThread t = some th →
        (s'.thread blk t).pc = th.pc ∧ (s'.thread blk t).stack = th.stack ∧ (s'.thread blk t).run = th.run) ∧
    (x.liveAcc = true → x.restart = 0 → ∃ s', exec (.blockSave blk) s = .next s' ∧ s.sameMemory s' ∧ (s'.block blk).life = .resident ∧
      ∀ t th, x.getThread t = some th → (∀ w, th.run = .stopped none w → s'.getThread blk t = some { th with run := .ready }) ∧
        (∀ a k w, th.run = .stopped (some (a, k)) w → s'.getThread blk t = some { th with run := .parked a k }))) ∧
  (∀ (blk : Nat) (s : State) (x : Block), s.getBlock blk = some x → x.life = .saving →
    (s.saveWaits ((s.group blk).filter fun b => (s.block b).life != .done) = true → exec (.writeBackDone blk) s = .next s) ∧
    (x.regions = [] → s.saveWaits ((s.group blk).filter fun b => (s.block b).life != .done) = false →
      ∃ s', exec (.writeBackDone blk) s = .next s' ∧ ((((s.readSettled x.ctx).settleBlock blk).saveImage blk).savePad blk).sameMemory s' ∧
        (s'.block blk).life = .queued ∧ (s'.block blk).enteredQueue = s.now ∧ (s'.block blk).cached = [] ∧
        (x.liveAcc = false ∨ x.restart = 0 → ∀ t th, x.getThread t = some th → (s'.thread blk t).pc = th.pc ∧ (s'.thread blk t).stack = th.stack) ∧
        (x.liveAcc = true → x.restart ≠ 0 → ∀ t th, x.getThread t = some th → th.run ≠ .exited →
          (s'.thread blk t).pc = x.restart ∧ (s'.thread blk t).stack = [] ∧ (s'.thread blk t).clauseIdx = 0))) ∧
  (∀ (blk : Nat) (s : State) (x : Block) (l : Launch), LoneLane s blk x l → x.life = .exiting → x.regions = [] → x.oxbow = none → s.exitWaits blk = false →
    ∃ s' : State, exec (.exitRelease blk) s = .next s'.completeLaunches ∧ (s'.block blk).life = .done ∧
      ∃ l' ∈ s'.launches, l'.id = l.id ∧ l'.undone = l.undone - 1 ∧ l'.killed = l.killed) ∧
  (∀ (blk : Nat) (s : State) (x : Block) (e : Bool), s.getBlock blk = some x → x.kind = .lane → x.life = .resident → x.allowance = none →
    s.budgetOut x = some e → (∀ t th, x.getThread t = some th → CanTrap s blk t x th) →
    ∃ s', exec (.budgetExhausted blk) s = .next s' ∧ (s'.block blk).allowance = some (s.now + 65536, e) ∧ s.sameMemory s' ∧
      ∀ t th, x.getThread t = some th →
        (th.run = .ready → s'.getThread blk t = some (handled s x th .budget 0 0 th.pc th.clauseIdx)) ∧
        (∀ w, th.run = .stalled w → s'.getThread blk t = some (handled s x (th.withdraw w) .budget 0 0 th.pc th.clauseIdx)) ∧
        ((∃ a k, th.run = .parked a k) → s'.getThread blk t = some { th with budgetDue := true })) ∧
  (∀ (blk until' : Nat) (e : Bool) (s : State) (x : Block), s.getBlock blk = some x → x.allowance = some (until', e) → until' ≤ s.now → x.life = .resident →
    blk ∈ s.killSet blk →
    ∃ s' : State, exec (.budgetAllowanceExpiry blk) s = .next s'.completeLaunches ∧ (s'.block blk).life = .done) ∧
  (∀ (s : State) (l : Launch) (g : Eng), l.record.done ≠ 0 → s.sched.xlHeld.contains (l.record.ctx, l.record.done.toNat / 4096, true) = false →
    (doneWrite l.record.done (s.doneRecord l)).run (s.schedRun l.record.ctx) = .ok ((), g) → g.fail = none →
    g.s.sameMemory (s.completeLaunch l))

namespace Sys2Proof.Claims

/-! The system instructions and translation (17_system.md R392 to R416). -/

/-- The block, core and device CSRs as CSRR reads them (17 R400, R401; 01 R19; 06 R150): is it 64 bits wide, and its value. -/
def csrReads (s : State) (x : Block) (n : Nat) : Option (Bool × DWord) :=
  let c := s.getCore x.core
  let one (w : Word) : Option (Bool × DWord) := some (false, w.zeroExtend 64)
  match n with
  | 0x100 => some (false, w64 (x.core / 128 * 2 ^ 25 + x.core / 8 % 16 * 2 ^ 21 + x.core % 8 * 2 ^ 18 + x.slot % 32 * 2 ^ 13 + x.lanebase % 16 * 2 ^ 9 + x.core % 512))
  | 0x101 => some (false, w64 (x.spLen * 2 ^ 16 + x.spBase))
  | 0x102 => one x.ixval
  | 0x104 => some (true, x.tvec)
  | 0x200 => one c.specdrop
  | 0x201 => one c.pinlim
  | 0x210 => one c.chstat
  | 0x211 => one (c.chcnt.getD 0 0)
  | 0x212 => one (c.chcnt.getD 1 0)
  | 0x213 => one (c.chcnt.getD 2 0)
  | 0x214 => one (c.chcnt.getD 3 0)
  | 0x215 => one (c.chcnt.getD 4 0)
  | 0x216 => one c.chlast
  | 0x300 => some (true, w64 s.devTime)
  | 0x302 => some (true, w64 s.roofwalk.horizon)
  | 0x310 => some (true, s.mgmt.ctxbase)
  | 0x312 => some (true, s.mgmt.fbufbase.getD (x.core / 128) 0)
  | _ => none

/-- The CSRs that lane code may not read (17 R400). -/
def csrHidden (n : Nat) : Prop := n = 0x310 ∨ n = 0x312

/-- The CSRs that lane code may not write though a walker may, or may only read (17 R400). -/
def csrGuarded (n : Nat) : Prop := n = 0x201 ∨ (0x210 ≤ n ∧ n ≤ 0x216) ∨ csrHidden n

/-- A thread's CSR (17 R393, R400; 05 R136). -/
def threadCsr (th : Thread) (n : Nat) : Option (Bool × DWord) :=
  match n with
  | 0x001 => some (false, (th.fpstat &&& 0x7F).zeroExtend 64)
  | 0x010 => some (true, th.tpc)
  | 0x012 => some (true, th.taddr)
  | 0x014 => some (false, th.tcause.zeroExtend 64)
  | 0x015 => some (false, th.tinfo.zeroExtend 64)
  | _ => none

/-- A thread with a CSR of its own written, fields by their access: TCAUSE keeps INTRAP (17 R393). -/
def threadCsrWritten (th : Thread) (n : Nat) (lo hi : Word) : Thread :=
  match n with
  | 0x001 => { th with fpstat := lo &&& 0x7F }
  | 0x010 => { th with tpc := pairOf lo hi }
  | 0x012 => { th with taddr := pairOf lo hi }
  | 0x014 => { th with tcause := (th.tcause &&& 0x80000000) ||| (lo &&& 0x1F0000FF) }
  | 0x015 => { th with tinfo := lo &&& 0xFFFF }
  | _ => th

/-- A core with a CSR written, fields by their access (07 R184, 10 R250): CHSTAT's and CHLAST's sticky bits clear where 1 is written. -/
def coreCsrWritten (c : CoreState) (n : Nat) (v : Word) : Option CoreState :=
  match n with
  | 0x201 => some { c with pinlim := v &&& 0xFFFFFF }
  | 0x210 => some { c with chstat := c.chstat &&& ~~~(v &&& 0x3FF) }
  | 0x211 => some { c with chcnt := c.chcnt.set 0 v }
  | 0x212 => some { c with chcnt := c.chcnt.set 1 v }
  | 0x213 => some { c with chcnt := c.chcnt.set 2 v }
  | 0x214 => some { c with chcnt := c.chcnt.set 3 v }
  | 0x215 => some { c with chcnt := c.chcnt.set 4 v }
  | 0x216 => some { c with chlast := c.chlast &&& ~~~(v &&& 0x80000000) }
  | _ => none

end Sys2Proof.Claims

/-- R400 to R402: CSRR gives a CSR's value to its register, or each live thread's CSR to its own; CSRW writes one by the access of its fields; an access not
allowed to lane code traps as PRIV. -/
def Obligations.ControlRegistersReadAndWriteByTheirAccess : Prop :=
  (∀ d csr (s : State) (b t : Nat) (x : Block) (th : Thread) wide v, RunsU (.csrr d csr) s b t x th → csrReads s x csr.toNat = some (wide, v) →
    (¬csrHidden csr.toNat ∨ x.kind = .walker) →
    ∃ s', exec (.csrr d csr) s = .next s' ∧ UniformDone s s' b t (gone th 1) (putU d wide v)) ∧
  (∀ d csr (s : State) (b t : Nat) (x : Block) (th : Thread), RunsU (.csrr d csr) s b t x th → CanTrap s b t x th → csrHidden csr.toNat →
    ∃ s', exec (.csrr d csr) s = .next s' ∧ OnlyThread s s' b t (handled s x th .priv 0 0 th.pc th.clauseIdx)) ∧
  (∀ (d : Fin 128) csr (s : State) (b t : Nat) (x : Block) (th : Thread), RunsU (.csrrThread d csr) s b t x th →
    ∃ s', exec (.csrrThread d csr) s = .next s' ∧ s.sameMemory s' ∧ (s'.thread b t).pc = th.pc + 4 ∧
      ∀ t' u wide v, x.getThread t' = some u → u.run ≠ .exited → threadCsr u csr.toNat = some (wide, v) →
        (s'.thread b t').getV d.val = loWord v ∧ (wide = true → (s'.thread b t').getV (d.val + 1) = hiWord v) ∧
        ∀ n, n ≠ d.val → (wide = true → n ≠ d.val + 1) → (s'.thread b t').getV n = u.getV n) ∧
  (∀ d (s s1 : State) (b t : Nat) (x y : Block) (th u : Thread) v, RunsU (.csrw d 0x104) s b t x th → readU2 b d s = .ok (v, s1) → Resides s1 b t y u →
    ∃ s', exec (.csrw d 0x104) s = .next s' ∧ UniformDone s1 s' b t (gone u 1) fun z => { z with tvec := v }) ∧
  (∀ d csr (s s1 : State) (b t : Nat) (x y : Block) (th u : Thread) v c, RunsU (.csrw d csr) s b t x th → x.kind = .walker → readU b d s = .ok (v, s1) →
    Resides s1 b t y u → coreCsrWritten (s1.getCore x.core) csr.toNat v = some c →
    ∃ s', exec (.csrw d csr) s = .next s' ∧ s'.getCore x.core = c ∧ (∀ k, k ≠ x.core → s'.getCore k = s1.getCore k) ∧ s'.getThread b t = some (gone u 1) ∧
      s1.sameMemory s') ∧
  (∀ d csr (s : State) (b t : Nat) (x : Block) (th : Thread), RunsU (.csrw d csr) s b t x th → CanTrap s b t x th → csrGuarded csr.toNat →
    ∃ s', exec (.csrw d csr) s = .next s' ∧ OnlyThread s s' b t (handled s x th .priv 0 0 th.pc th.clauseIdx)) ∧
  (∀ (d : Fin 128) csr (s : State) (b t : Nat) (x : Block) (th : Thread), RunsU (.csrwThread d csr) s b t x th → th.run ≠ .exited →
    (∀ t', s.lanePending b t' (.v (Fin.ofNat 224 d.val)) = false ∧ s.lanePending b t' (.v (Fin.ofNat 224 (d.val + 1))) = false) →
    ∃ s', exec (.csrwThread d csr) s = .next s' ∧ s.sameMemory s' ∧
      s'.getThread b t = some (gone (threadCsrWritten th csr.toNat (th.getV d.val) (th.getV (d.val + 1))) 1) ∧
      ∀ t' u, t' ≠ t → x.getThread t' = some u → u.run ≠ .exited →
        s'.getThread b t' = some (threadCsrWritten u csr.toNat (u.getV d.val) (u.getV (d.val + 1))))

namespace Sys2Proof.Claims

/-- The TLB group. -/
def walkerForm : Instr → Bool
  | .tlbfill _ _ _ | .tlbinv _ _ | .walkdone _ _ => true
  | _ => false

/-- The words TLBFILL takes (17 R408): control and entry with their reserved bits zero, address and frame aligned to the size. -/
def fillOk (ctl : Nat) (va : DWord) (e : Nat) : Prop :=
  let n := sizeBytes (ctl / 2 ^ 16)
  ctl < 2 ^ 19 ∧ ctl / 2 ^ 16 ≤ 5 ∧ canonical va = true ∧ va.toNat % n = 0 ∧ (e / 2 ^ 12 * 4096) % n = 0 ∧ e < 2 ^ 52 ∧ e / 2 ^ 10 % 4 = 0 ∧ e / 2 ^ 6 % 8 = 0 ∧
    e / 2 ^ 4 % 2 = 0 ∧ e % 4 = 0

/-- The entry TLBFILL installs. -/
def filledEntry (ctl : Nat) (va : DWord) (e : Nat) : TlbEntry :=
  { ctx := ctl % 2 ^ 16, va := va.toNat, size := ctl / 2 ^ 16, frame := e / 2 ^ 12 * 4096, w := e.testBit 2, x := e.testBit 3, d := e.testBit 5, onchip := e.testBit 9 }

/-- The clusters of a TLBINV scope (17 R408): cluster, die, package, and everything. -/
def inScope (scope cluster k : Nat) : Prop :=
  match scope with
  | 0 => k = cluster
  | 1 => k / 16 = cluster / 16
  | _ => k < 64

/-- Does TLBINV drop an entry? -/
def dropped (ctl : Nat) (va : DWord) (e : TlbEntry) : Prop :=
  ctl / 2 ^ 19 % 4 = 3 ∨
    let n := sizeBytes (ctl / 2 ^ 16 % 8)
    let lo := va.toNat / n * n
    e.ctx = ctl % 2 ^ 16 ∧ e.va < lo + n ∧ lo < e.va + sizeBytes e.size

/-- A walker's block, resident in the walk slot of a cluster. -/
structure WalkerAt (s : State) (b : Nat) (x : Block) (cl : Nat) : Prop where
  block : s.getBlock b = some x
  kind : x.kind = .walker
  cluster : clusterOf x.core = cl

/-- A thread of a block in a core of a cluster waits for the translation of a page of its context. -/
structure WaitsForPage (s : State) (b t : Nat) (x : Block) (th : Thread) (cl ctx page : Nat) (addr : DWord) (kind : AccKind) : Prop where
  block : s.getBlock b = some x
  thread : x.getThread t = some th
  slot : x.inSlot = true ∧ clusterOf x.core = cl
  wait : th.run = .stalled (.xlate ctx addr kind) ∧ addr.toNat / 4096 = page

end Sys2Proof.Claims

/-- R406 to R408, 02 R52: TLBFILL installs its entry, TLBINV drops the overlapping ones and the instruction copies of its scope and waits, WALKDONE ends the oldest request of a granule and
its waiting threads translate again, park or fault; outside a walk slot each traps as PRIV, with bad words a walker's threads restart. That TLBINV drops
every instruction copy of its scope, how a walk slot restarts, and which entry a full cache gives up are the model's choices (log entries 25, 14 and
59). -/
def Obligations.TheTranslationInstructionsServeWalkRequests : Prop :=
  (∀ i (s : State) (b t : Nat) (x : Block) (th : Thread), walkerForm i = true → RunsU i s b t x th → CanTrap s b t x th →
    ∃ s', exec i s = .next s' ∧ OnlyThread s s' b t (handled s x th .priv 0 0 th.pc th.clauseIdx)) ∧
  (∀ d a e (s s1 s2 s3 : State) (b t cl : Nat) (x y : Block) (th u : Thread) (ctl : Word) (va ent : DWord), RunsU (.tlbfill d a e) s b t x th →
    x.kind = .walker → readU b d s = .ok (ctl, s1) → readU2 b a s1 = .ok (va, s2) → readU2 b e s2 = .ok (ent, s3) → WalkerAt s3 b y cl → Resides s3 b t y u →
    (fillOk ctl.toNat va ent.toNat → ∃ s', exec (.tlbfill d a e) s = .next s' ∧ s3.sameMemory s' ∧ s'.getThread b t = some (gone u 1) ∧
      (s'.getCluster cl).tlb.head? = some (filledEntry ctl.toNat va ent.toNat) ∧
      (∀ f ∈ (s'.getCluster cl).tlb, f = filledEntry ctl.toNat va ent.toNat ∨ f ∈ (s3.getCluster cl).tlb) ∧
      (∀ f ∈ (s3.getCluster cl).tlb, (s3.getCluster cl).tlb.length < 4096 → ¬(f.ctx = ctl.toNat % 2 ^ 16 ∧ f.va = va.toNat ∧ f.size = ctl.toNat / 2 ^ 16) →
        f ∈ (s'.getCluster cl).tlb) ∧ ∀ k, k ≠ cl → s'.getCluster k = s3.getCluster k) ∧
    (¬fillOk ctl.toNat va ent.toNat → t < 16 → ∃ s', exec (.tlbfill d a e) s = .next s' ∧
      (s'.block b).threads = List.replicate 16 (Thread.init s.mgmt.walkentry s.now))) ∧
  (∀ d a (s s1 s2 : State) (b t cl : Nat) (x y : Block) (th u : Thread) (ctl : Word) (va : DWord), RunsU (.tlbinv d a) s b t x th → x.kind = .walker →
    readU b d s = .ok (ctl, s1) → readU2 b a s1 = .ok (va, s2) → WalkerAt s2 b y cl → Resides s2 b t y u → cl < 64 → ctl.toNat < 2 ^ 21 →
    ctl.toNat / 2 ^ 16 % 8 ≤ 5 →
    ∃ s', exec (.tlbinv d a) s = .next s' ∧ s2.sameMemory s' ∧ s'.getThread b t = some { u with run := .stalled .tlbinv, since := s2.now } ∧
      (∀ e, e ∈ s'.ipath ↔ e ∈ s2.ipath ∧ ¬inScope (ctl.toNat / 2 ^ 19 % 4) cl (clusterOf (e.1 / 2 ^ 52 / 129))) ∧
      ∀ k f, f ∈ (s'.getCluster k).tlb ↔ f ∈ (s2.getCluster k).tlb ∧ ¬(inScope (ctl.toNat / 2 ^ 19 % 4) cl k ∧ dropped ctl.toNat va f)) ∧
  (∀ (b t : Nat) (s : State) (th : Thread), s.getThread b t = some th → th.run = .stalled .tlbinv →
    ∃ s', exec (.tlbinvComplete b t) s = .next s' ∧ OnlyThread s s' b t { gone th 1 with run := .ready, since := s.now }) ∧
  (∀ d a (s s1 s2 : State) (b t cl : Nat) (x y : Block) (th u : Thread) (o g : Word), RunsU (.walkdone d a) s b t x th → x.kind = .walker →
    readU b d s = .ok (o, s1) → readU b a s1 = .ok (g, s2) → WalkerAt s2 b y cl → Resides s2 b t y u →
    ((∀ r ∈ (s2.getCluster cl).reqs, r.granule ≠ some g.toNat) → ∃ s', exec (.walkdone d a) s = .next s' ∧ OnlyThread s2 s' b t (gone u 1)) ∧
    (∀ r, (s2.getCluster cl).reqs.find? (·.granule == some g.toNat) = some r → r.spec = false → r.prefs = [] → o.toNat % 256 < 4 → s2.blockIds.Nodup →
      ∃ s', exec (.walkdone d a) s = .next s' ∧ s2.sameMemory s' ∧ (s'.getCluster cl).reqs = (s2.getCluster cl).reqs.erase r ∧
        ∀ b' t' z v addr kind, ¬(b' = b ∧ t' = t) → WaitsForPage s2 b' t' z v cl r.ctx r.page addr kind →
          s'.getThread b' t' = some (if o.toNat % 256 = 0 then { v with run := .ready, since := s2.now } else { v with run := .parked addr kind })) ∧
    (∀ r b' t' z v addr kind, (s2.getCluster cl).reqs.find? (·.granule == some g.toNat) = some r → r.spec = false → r.prefs = [] → 4 ≤ o.toNat % 256 →
      s2.xlateWaiters cl r.ctx r.page = [(b', t', addr, kind)] → WaitsForPage s2 b' t' z v cl r.ctx r.page addr kind → CanTrap s2 b' t' z v →
      ∃ s', exec (.walkdone d a) s = .next s' ∧ s'.getThread b' t' = some
        (handled s2 z v (if o.toNat % 256 = 4 ∧ o.toNat / 256 % 256 = 0x43 then .attr else if o.toNat % 256 = 4 ∧ o.toNat / 256 % 256 = 0x51 then .xlateProt
          else if o.toNat % 256 = 4 ∧ o.toNat / 256 % 256 = 0x52 then .xlateBad else .xlateNp) addr (faultInfo kind) v.pc v.clauseIdx))) ∧
  (∀ (cl w k : Nat) (s : State) (r : WalkReq), s.walkerOf cl = some w → (s.getCluster cl).reqs.find? (·.granule.isNone) = some r →
    let g := (s.getCluster cl).reqCount % 16
    s.isFull (.sp (512 + cl) (16 * g)) = false → (s.padOwner (512 + cl) g).isSome = true → (s.getCore (8 * cl)).gate = .on k →
    ∃ s', exec (.walkRequest cl) s = .next s' ∧ s.sameMemory s' ∧ s'.isFull (.sp (512 + cl) (16 * g)) = true ∧
      (s'.getCluster cl).reqCount = (s.getCluster cl).reqCount + 1 ∧ { r with granule := some g } ∈ (s'.getCluster cl).reqs ∧
      ∀ i, i < 16 → Cells.getD (padKey (512 + cl) (16 * g + i)) 0 s'.pads =
        (leBytes 8 (r.page * 4096) ++ leBytes 2 r.ctx ++
          leBytes 1 ((match r.kind with | .read => 0 | .write => 1 | .fetch => 2 | .atomic => 3) + (if r.spec then 4 else 0) + (if r.engine then 8 else 0)) ++
          List.replicate 5 0).getD i 0)

/-- R409, R415, R416: a replay makes the parked threads of its range ready, or gives them the fault of its cause (XLATE_NP for a code that is no cause's,
which is the model's choice, log entry 113); ERRPOP takes the head record of its context's queue into
the scratchpad, or gives 0; HZWAIT ends with its status once HORIZON has reached its time, or Roofwalk is off or has been since it issued. -/
def Obligations.ReplaysErrorPopsAndHorizonWaitsEnd : Prop :=
  (∀ (ctx size cause : Nat) (page : DWord) (s : State), (∀ b t u, s.getThread b t = some u → u.budgetDue = false) →
    ∃ s' : State, exec (.replay ctx page size .retry cause) s = .next s'.completeLaunches ∧
      ∀ b t x th addr kind, s.getBlock b = some x → x.life = .resident → x.ctx = ctx → x.getThread t = some th → th.run = .parked addr kind →
        page.toNat / sizeBytes size * sizeBytes size ≤ addr.toNat → addr.toNat < page.toNat / sizeBytes size * sizeBytes size + sizeBytes size →
        b ∈ s.blockIds → s'.getThread b t = some { th with run := .ready, since := s.now }) ∧
  (∀ (ctx size cause b t : Nat) (k : Cause) (page : DWord) (s : State) (x : Block) (th : Thread) addr kind,
    (k.code = cause ∨ (k = .xlateNp ∧ ∀ q : Cause, q.code ≠ cause)) → CanTrap s b t x th → x.ctx = ctx → th.run = .parked addr kind →
    th.budgetDue = false → s.blockIds.Nodup → page.toNat / sizeBytes size * sizeBytes size ≤ addr.toNat →
    addr.toNat < page.toNat / sizeBytes size * sizeBytes size + sizeBytes size →
    (∀ b' t' u, s.getThread b' t' = some u → ((∃ a k, u.run = .parked a k) ∨ ∃ p w, u.run = .stopped (some p) w) → b' = b ∧ t' = t) →
    ∃ s' : State, exec (.replay ctx page size .deliver cause) s = .next s'.completeLaunches ∧
      s'.getThread b t = some (handled s x th k addr (faultInfo kind true) th.pc th.clauseIdx)) ∧
  (∀ d a (s s1 s2 : State) (b t : Nat) (x y : Block) (th u : Thread) (off : Word), RunsU (.errpop d a) s b t x th → readU b a s = .ok (off, s1) →
    s1.block b = x → off.toNat % 64 = 0 → off.toNat + 64 ≤ 16 * x.spLen → s1.specPending b [t] s1.seq = false →
    checkAccess b [t] { kind := .write, fe := false, align := 1, eas := spanFrom (w64 (padWindow + off.toNat)) 64 } s1 =
      .ok ((List.range 64).map fun i => Tgt.sp x.padCore (16 * x.spBase + off.toNat + i), s2) → Resides s2 b t y u → s1.queueHeld x.ctx = none →
    (s2.popRecord x.ctx = (none, s2) → ∃ s', exec (.errpop d a) s = .next s' ∧ UniformDone s2 s' b t (gone u 1) (putU d false 0)) ∧
    (∀ bs r, s2.popRecord x.ctx = (some bs, r) → y.regions = [] → (∀ i, i < 64 → s2.unitAt x.padCore (16 * x.spBase + off.toNat + i) = none) →
      ∃ s', exec (.errpop d a) s = .next s' ∧ r.sameMemory s' ∧ (∀ n, d = .s n → (s'.block b).getS n.val = 1) ∧ (s'.thread b t).pc = u.pc + 4 ∧
        ∀ i, i < 64 → Cells.getD (padKey x.padCore (16 * x.spBase + off.toNat + i)) 0 s'.pads = bs.getD i 0)) ∧
  (∀ d a (s s1 : State) (b t : Nat) (x : Block) (th : Thread) (off : Word), RunsU (.errpop d a) s b t x th → CanTrap s b t x th → readU b a s = .ok (off, s1) →
    s1.block b = x →
    (off.toNat % 64 ≠ 0 → ∃ s', exec (.errpop d a) s = .next s' ∧
      OnlyThread s s' b t (handled s x th .align (w64 (padWindow + off.toNat)) 1 th.pc th.clauseIdx)) ∧
    (off.toNat % 64 = 0 → 16 * x.spLen < off.toNat + 64 → ∃ s', exec (.errpop d a) s = .next s' ∧
      OnlyThread s s' b t (handled s x th .spRange (w64 (padWindow + max off.toNat (16 * x.spLen))) 1 th.pc th.clauseIdx))) ∧
  (∀ d a f (s s1 : State) (b t : Nat) (x y : Block) (th u : Thread) (time : DWord), RunsU (.hzwait d a f) s b t x th → readU2 b a s = .ok (time, s1) →
    ReadyAt s1 b t y u →
    ∃ (s' : State) (o : HzOp), exec (.hzwait d a f) s = .next s' ∧ s'.hzOps = s1.hzOps ++ [o] ∧ o.blk = b ∧ o.tids = [t] ∧ o.time = time.toNat ∧ o.dst = d ∧
      o.flag = flagOf (.hzwait d a f) s1 b t ∧ (s'.thread b t).pc = u.pc + 4 ∧ s1.sameMemory s' ∧ ∀ fl, o.flag = some fl → (s'.thread b t).flag fl = u.flag fl + 1) ∧
  (∀ (s : State) (o : HzOp) (x : Block), s.hzOps.find? (·.id == o.id) = some o → s.getBlock o.blk = some x → x.inImage = false →
    let off := s.mgmt.rwctl.toNat / 2 ^ 16 = 0
    (o.time ≤ s.roofwalk.horizon ∨ off ∨ o.off = true) →
    ∃ s', exec (.hzwaitComplete o.id) s = .next s' ∧ s.sameMemory s' ∧ (∀ p ∈ s'.hzOps, p.id ≠ o.id) ∧
      (∀ n, o.dst = .s n → (s'.block o.blk).getS n.val =
        w32 ((if s.roofwalk.horizon < o.time then 2 else 0) + (if ∃ e ∈ s.roofwalk.taints, e.1 = x.ctx ∧ e.2.1 < o.time then 1 else 0))) ∧
      ∀ fl t th, o.flag = some fl → x.getThread t = some th → th.run ≠ .exited → (s'.thread o.blk t).flag fl = th.flag fl - 1)

namespace Sys2Proof.Claims

/-! Error records, containment, Roofwalk, Oxbow and Thatch (18_errors.md R417 to R436). -/

/-- The queue a record goes to: its base, head, tail and LOG2N (18 R417). -/
structure Ring where
  base : Nat
  head : Nat
  tail : Nat
  log : Nat

/-- The ring at an address. -/
def ringAt (s : State) (base : Nat) : Ring := ⟨base, s.rdNat base 4, s.rdNat (base + 4) 4, (s.rd8 (base + 8)).toNat⟩

/-- Address of the record a ring takes next. -/
def Ring.slot (q : Ring) : Nat := q.base + 64 + 64 * (q.tail % 2 ^ q.log)

/-- Number of records a ring holds. -/
def Ring.count (q : Ring) : Nat := (q.tail + 2 ^ 32 - q.head) % 2 ^ 32

/-- The ring of a context's records lies in device memory. -/
def ringOk (q : Ring) : Prop := q.base ≠ 0 ∧ q.base + 64 + 64 * 2 ^ q.log ≤ devSize

/-- A cluster's TAINT is told for each context with work since its last pass (18 R427). -/
def tainted (s : State) (ctxs : List Nat) (start stop : Nat) : List (Nat × Nat × Nat) := s.roofwalk.taints ++ ctxs.map fun c => (c, start, stop)

/-- A cluster that has passed a walk begun at a device time (18 R426). -/
def Passed (s' : State) (cl begin' : Nat) : Prop :=
  let k := s'.getCluster cl
  k.phase = .none ∧ k.lastPass = begin' ∧ k.quarantined = false ∧ k.ctxs = []

/-- A migration that is under way moves a frame that holds an address (19 R451). -/
def Migrating (s : State) (pa : Nat) : Prop :=
  let code := s.mgmt.cmdstat.toNat / 2 ^ 16 % 2 ^ 8
  let frame := s.cmdArg (if code = 0x10 then 0 else 1)
  s.cmdBusy = true ∧ (code = 0x10 ∨ code = 0x11) ∧ (∃ d, s.mgmt.outcome = some (0, d)) ∧ frame ≤ pa ∧
    pa < frame + sizeBytes (s.mgmt.cmd.toNat / 2 ^ 16 % 2 ^ 16)

/-- A migration has failed: RESULT will be FAILED, and the device queue has the record (19 R451). -/
def Failed (s : State) (e : ErrRec) : State := ({ s with mgmt := { s.mgmt with outcome := some (3, 0) } } : State).record 0 e

/-- An Oxbow run that is over: it is gone from the list. -/
def RunOver (id : Nat) (s' : State) : Prop := ∀ q ∈ s'.oxRuns, q.id ≠ id

end Sys2Proof.Claims

/-- R417, R418: a record for a context stands in its ring with the fields of R418 and the tail moves on; a full ring counts the record as dropped;
nothing else of memory changes. -/
def Obligations.ErrorRecordsStandInTheirRing : Prop :=
  ∀ (ctx : Nat) (r : ErrRec),
   (∀ s : State,
    let q := ringAt s (s.ctxErrq (s.queueOf ctx))
    ringOk q →
    (q.count ≠ 2 ^ q.log →
      (∀ i, i < 64 → (s.record ctx r).rd8 (q.slot + i) = (r.bytes ctx q.tail s.devTime s.device).getD i 0) ∧
      (s.record ctx r).rdNat (q.base + 4) 4 = (q.tail + 1) % 2 ^ 32 ∧
      ∀ pa, ¬(q.slot ≤ pa ∧ pa < q.slot + 64) → ¬(q.base + 4 ≤ pa ∧ pa < q.base + 8) → (s.record ctx r).rd8 pa = s.rd8 pa) ∧
    (q.count = 2 ^ q.log →
      (s.record ctx r).rdNat (q.base + 12) 4 = min (s.rdNat (q.base + 12) 4 + 1) 0xFFFFFFFF ∧
      ∀ pa, ¬(q.base + 12 ≤ pa ∧ pa < q.base + 16) → (s.record ctx r).rd8 pa = s.rd8 pa)) ∧
    (∀ seq time dev, let bs := r.bytes ctx seq time dev
      bs.length = 64 ∧ numberAt bs 0 2 = r.kind % 2 ^ 16 ∧ numberAt bs 2 2 = ctx % 2 ^ 16 ∧ numberAt bs 4 4 = seq % 2 ^ 32 ∧ numberAt bs 8 8 = time % 2 ^ 64 ∧
      numberAt bs 16 2 = r.core % 2 ^ 16 ∧ numberAt bs 18 1 = r.slot % 2 ^ 8 ∧
      numberAt bs 19 1 = (if r.remote = true then 1 else 0) + (if r.pc = none then 0 else 2) ∧ numberAt bs 20 2 = r.tid % 2 ^ 16 ∧
      numberAt bs 22 2 = r.device.getD dev % 2 ^ 16 ∧ numberAt bs 24 8 = r.addr % 2 ^ 64 ∧ numberAt bs 32 8 = (r.pc.getD 0).toNat ∧
      ∀ i, i < 24 → bs.getD (40 + i) 0 = r.detail.getD i 0)

/-- R422 to R432: an uncorrectable SRAM error halts a contained core, its blocks killed, or kills its contexts; Roofwalk drains a cluster, tests it and passes it,
retires a channel, or quarantines it, with TAINTs; Oxbow compares signatures and a third run, from the first image, decides. That a kill of a context drops all
views, which reservations a walk releases, how UNRESOLVED quarantines, which contexts an error of all is written to, what becomes of an L2 line's bytes and of an
abandoned run, and that a migration fails with a record are the model's choices (log entries 25, 91, 92, 98, 116, 115 and 118). -/
def Obligations.ErrorsAreContainedTestedAndCompared : Prop :=
  (∀ (core slot bank syndrome : Nat) (kind : SramKind) (s : State) (b : Nat), b ∈ s.struck core kind slot → s.containOf b ≠ 0 →
    ∃ s' : State, exec (.sramUe core kind slot bank syndrome) s = .next s'.completeLaunches ∧ (s'.getCore core).halted = true ∧
      ∀ k ∈ s.onCore core, (s.block k).kind ≠ .walker → k ∈ s.killSet k → (s'.block k).life = .done) ∧
  (∀ (core slot bank syndrome c : Nat) (kind : SramKind) (s : State), s.struck core kind slot ≠ [] → (∀ b ∈ s.struck core kind slot, s.containOf b = 0 ∧ (s.block b).ctx = c) →
    let s0 : State := { s with fresh := s.fresh + 1 }
    let s1 := if kind = .l1 then s0.strikeL1 core else s0
    (∀ p ∈ s1.pins, p ∈ s.pins) ∧ (∀ p ∈ s.pins, p.core ≠ core → p ∈ s1.pins) ∧
    ∃ r : ErrRec, r.kind = 0x31 ∧ r.core = core ∧ exec (.sramUe core kind slot bank syndrome) s = .next ((s1.killCtx c).record c r)) ∧
  (∀ (ctx : Nat) (s : State), ∃ s' : State, s.killCtx ctx = s'.completeLaunches ∧ (∀ k e, e ∈ (s'.getCluster k).tlb → e.ctx ≠ ctx) ∧ s'.views = [] ∧
    ∀ b x, s.getBlock b = some x → x.ctx = ctx → x.kind ≠ .walker → (s'.block b).life = .done) ∧
  (∀ (pa : Nat) (s : State), ∃ (s1 : State) (r : ErrRec), r.kind = 0x31 ∧ r.addr = pa ∧ r.detail = [5] ∧
    (∀ q, (q < pa / 64 * 64 ∨ pa / 64 * 64 + 64 ≤ q) → s1.rd8 q = s.rd8 q) ∧ s1.blocks = s.blocks ∧ s1.mgmt = s.mgmt ∧
    let s2 := (s1.contexts.foldl (fun (s : State) c => (s.killCtx c).record c r) s1).record 0 r
    (¬Migrating s pa → exec (.l2Ue pa) s = .next s2) ∧ (Migrating s pa → exec (.l2Ue pa) s = .next (Failed s2 r))) ∧
  (∀ (cl : Nat) (s : State), s.walkDue = some cl → cl < 64 → (s.getCluster cl).phase = .none →
    ∃ s', exec (.roofwalkWalk cl) s = .next s' ∧ s.sameMemory s' ∧ (s'.getCluster cl).phase = .draining s.now ∧
      (∀ b x l, LoneLane s b x l → x.life = .resident → x.mark = none → clusterOf x.core = cl → s.mustDefer b = false → (s'.block b).life = .stopping) ∧
      ∀ b x g, s.getBlock b = some x → x.gang = some g → x.kind = .lane → x.life = .queued → g.phaseSt = 1 → clusterOf x.core = cl →
        (s'.block b).gang.map (·.phaseSt) = some 0) ∧
  (∀ (cl t : Nat) (s : State), (s.getCluster cl).phase = .draining t → t + 3600 * (s.mgmt.rwctl.toNat % 2 ^ 16) ≤ s.now → s.drained cl = false →
    ∃ s', exec (.walkDrainTimeout cl) s = .next s' ∧ s.sameMemory s' ∧ (s'.getCluster cl).phase = .none ∧
      (s.readmitting = some cl → s'.mgmt.outcome = some (3, 0)) ∧
      (s.readmitting ≠ some cl → s'.roofwalk.retry = s.roofwalk.retry ++ [cl + 64])) ∧
  (∀ (cl t begin' : Nat) (s : State), (s.getCluster cl).phase = .testing begin' t → t + 360000 ≤ s.now → cl < 64 →
    let k := s.getCluster cl
    (∃ s', exec (.patternTestDone cl .pass) s = .next s' ∧ s.sameMemory s' ∧ Passed s' cl begin' ∧
      s'.roofwalk.taints = s.roofwalk.taints) ∧
    (∀ core ch, ∃ s', exec (.patternTestDone cl (.channelFails core ch)) s = .next s' ∧
      (s'.getCore (8 * cl + core % 8)).chstat.getLsbD (16 + ch % 10) = true ∧
      Passed s' cl begin' ∧ s'.roofwalk.taints = tainted s k.ctxs k.lastPass begin') ∧
    (∃ s', exec (.patternTestDone cl .clusterFails) s = .next s' ∧ (s'.getCluster cl).phase = .none ∧ (s'.getCluster cl).quarantined = true ∧
      s'.roofwalk.taints = tainted s k.ctxs k.lastPass begin')) ∧
  (∀ (ctx device start stop cluster cause image : Nat) (s : State),
    (device ∈ s.links.lostPeers → exec (.taintNotice ctx device start stop cluster cause image) s = .next s) ∧
    (device ∉ s.links.lostPeers → ∃ s', exec (.taintNotice ctx device start stop cluster cause image) s = .next s' ∧
      s'.roofwalk.taints = s.roofwalk.taints ++ [(ctx, start, stop)] ∧
      (s.record ctx { kind := 0x20, remote := true, device := some device
                      detail := leBytes 8 start ++ leBytes 8 stop ++ leBytes 1 cluster ++ leBytes 1 cause ++ leBytes 4 image }).sameMemory s')) ∧
  (∀ (s : State) (r : OxRun), s.oxRuns.find? (·.id == r.id) = some r → r.third = none → s.allDone [r.orig, r.copy] = true →
    ((s.runAbandoned r = true ∨ (s.block r.orig).signature = (s.block r.copy).signature) →
      ∃ s', exec (.oxbowCompare r.id) s = .next s' ∧ RunOver r.id s' ∧ s.sameMemory s') ∧
    (∀ k z rest, s.runAbandoned r = false → (s.block r.orig).signature ≠ (s.block r.copy).signature → r.first = z :: rest →
      (∀ y ∈ r.first, y.threads.length ≤ 1024 ∧ y.cached = []) → s.oxFreeSlot = some k → r.first.length ≤ s.oxSlots.length →
      ∃ s' y r', exec (.oxbowCompare r.id) s = .next s' ∧ r' ∈ s'.oxRuns ∧ r'.id = r.id ∧ r'.third = some (s.seq + 1) ∧ r'.thirdSlot = some k ∧
        s'.getBlock (s.seq + 1) = some y ∧ y.life = .queued ∧ y.placed = false ∧ y.oxbow = some (r.id, 2) ∧ y.launch = z.launch ∧ y.index = z.index ∧
        y.image = s.oxImage k ∧
        ∀ pa, (∀ j ∈ s.oxSlots.take r.first.length, pa < s.oxImage j ∨ s.oxImage j + 0x244000 ≤ pa) → s'.rd8 pa = s.rd8 pa)) ∧
  (∀ (s : State) (r : OxRun), s.oxRuns.find? (·.id == r.id) = some r → s.runAbandoned r = true →
    (r.third = none → ∃ s', exec (.oxbowCompare r.id) s = .next s' ∧ RunOver r.id s' ∧ s.sameMemory s') ∧
    (r.third ≠ none → ∃ s', exec (.oxbowThirdRun r.id) s = .next s' ∧ RunOver r.id s' ∧ s.sameMemory s')) ∧
  (∀ (s : State) (r : OxRun) (t : Nat), s.oxRuns.find? (·.id == r.id) = some r → r.third = some t → s.allDone [r.orig, r.copy, t] = true →
    s.runAbandoned r = false →
    let sg := fun b => (s.block b).signature
    let ko := clusterOf (s.block r.orig).core
    let kc := clusterOf (s.block r.copy).core
    (sg t = sg r.orig → ∃ s', exec (.oxbowThirdRun r.id) s = .next s' ∧ RunOver r.id s' ∧ s'.roofwalk.front.head? = some kc ∧ s.sameMemory s' ∧
      s'.roofwalk.taints = s.roofwalk.taints) ∧
    (sg t ≠ sg r.orig → sg t = sg r.copy → ∃ s', exec (.oxbowThirdRun r.id) s = .next s' ∧ RunOver r.id s' ∧ s'.roofwalk.front.head? = some ko ∧
      s'.roofwalk.taints = s.roofwalk.taints ++ [(r.ctx, r.start, r.finish)]) ∧
    (sg t ≠ sg r.orig → sg t ≠ sg r.copy → ∃ s' : State, exec (.oxbowThirdRun r.id) s = .next ((s'.killCtx r.ctx).endRun r) ∧
      (s'.getCluster ko).quarantined = true ∧ (s'.getCluster kc).quarantined = true)) ∧
  (∀ (core : Nat) (s : State), (s.getCore core).tiles.length = 8 →
    (∀ tile ch row col, ∃ s', exec (.softError core (.residue tile ch row col)) s = .next s' ∧ s.sameMemory s' ∧
      ((s'.getCore core).tiles.getD (tile % 8) Store.zero).get ((ch * 32 + row) * 64 + col) = some (Config.freeByte s.fresh)) ∧
    (∀ ch row col, ∃ s', exec (.softError core (.bsram ch row col)) s = .next s' ∧ s.sameMemory s' ∧
      (s'.getCore core).bsram.get ((ch * 8192 + row) * 64 + col) = some (Config.freeByte s.fresh)) ∧
    (∀ blk tid th, s.getThread blk tid = some th → s.containOf blk = 1 →
      ∃ s', exec (.softError core (.twin blk tid)) s = .next s' ∧ s.sameMemory s' ∧ s'.getThread blk tid = some { th with twinBad := true }) ∧
    (∀ chain i, ∃ s', exec (.softError core (.staging chain i)) s = .next s' ∧ s.sameMemory s' ∧
      ∀ c ∈ s.chains, c.id = chain → { c with struck := c.struck ++ [i] } ∈ s'.chains))

/-- R433 to R436, 19 R449: an owed parity update is applied, the last makes its stripe CLEAN; a unit in error is rebuilt; at the loss of a stack each PENDING stripe
whose lost unit holds data is LOST and reads as zero, every other is DEGRADED; a second loss fails the device; a rewrite makes LOST DEGRADED; a rebuild
leaves everything CLEAN. -/
def Obligations.ThatchFollowsItsStripeTable : Prop :=
  (∀ (stripe : Nat) (s : State) (o : Owed), s.thatch.owed.find? (fun o => stripeOf o.pa == stripe) = some o →
    ∃ s', exec (.parityUpdate stripe) s = .next s' ∧ s.sameMemory s' ∧ s'.thatch.owed = s.thatch.owed.erase o ∧
      ((∀ p ∈ s.thatch.owed.erase o, stripeOf p.pa ≠ stripe) → s.thatch.lostStack = none → s'.thatch.stripe stripe = .clean) ∧
      ∀ k, k ≠ stripe → s'.thatch.stripe k = s.thatch.stripe k) ∧
  (∀ (pa : Nat) (s : State), s.thatch.lostStack = none →
    ∃ s', exec (.hbmUnitUe pa) s = .next s' ∧ s.sameMemory s' ∧ s'.thatch.stripe (stripeOf pa) = .clean ∧ (∀ o ∈ s'.thatch.owed, stripeOf o.pa ≠ stripeOf pa) ∧
      ∀ k, k ≠ stripeOf pa → s'.thatch.stripe k = s.thatch.stripe k) ∧
  (∀ (pa : Nat) (s : State), s.thatch.lostStack ≠ none →
    (¬Migrating s pa → exec (.hbmUnitUe pa) s = .next s) ∧
    (Migrating s pa → ∃ e : ErrRec, e.kind = 0x31 ∧ e.addr = pa ∧ exec (.hbmUnitUe pa) s = .next (Failed s e))) ∧
  (∀ (stack : Nat) (s : State), stack < 12 → s.thatch.failed = false →
    (s.thatch.lostStack = none → s.ctxErrq 0 = 0 →
      ∃ s', exec (.stackLoss stack) s = .next s' ∧ s'.thatch.lostStack = some stack ∧ s'.thatch.failed = false ∧
        (∀ k, (k, Stripe.pending) ∈ s.thatch.stripes → parityStack k ≠ stack → s'.thatch.stripe k = .lost ∧ ∀ i, i < 256 → s'.rd8 (unitOn k stack + i) = 0) ∧
        (∀ k, ((k, Stripe.pending) ∉ s.thatch.stripes ∨ parityStack k = stack) → s'.thatch.stripe k = .degraded) ∧
        ∀ pa, (∀ k, (k, Stripe.pending) ∈ s.thatch.stripes → parityStack k ≠ stack → ¬(unitOn k stack ≤ pa ∧ pa < unitOn k stack + 256)) → s'.rd8 pa = s.rd8 pa) ∧
    (s.thatch.lostStack = some stack → exec (.stackLoss stack) s = .next s) ∧
    (∀ a, s.thatch.lostStack = some a → a ≠ stack → ∃ (s' : State) (r : ErrRec), exec (.stackLoss stack) s = .next ((s'.discardAll r).record 0 r) ∧
      s'.thatch.failed = true ∧ r.kind = 0x42 ∧ s.sameMemory s')) ∧
  (∀ (stripe a : Nat) (s : State), s.thatch.stripe stripe = .lost → s.thatch.lostStack = some a →
    ∃ s', exec (.parityRewriteDone stripe) s = .next s' ∧ s.sameMemory s' ∧ s'.thatch.stripe stripe = .degraded) ∧
  (∀ (a : Nat) (s : State), s.thatch.lostStack = some a →
    ∃ s', exec .stackHealthy s = .next s' ∧ s.sameMemory s' ∧ s'.thatch = { s.thatch with healthy := true }) ∧
  (∀ (s : State), s.thatch.rebuilding = true → s.thatch.failed = false → s.thatch.stripes = [] →
    ∃ s', exec .thatchRebuildDone s = .next s' ∧ s.sameMemory s' ∧ s'.thatch = State.reset.thatch)

namespace Sys2Proof.Claims

/-! Power, links and the management interface (19_outside.md R438 to R451). -/

/-- No message that waits holds up one of this session, queue pair or peer (07 R201). -/
def NoneWaits (s : State) (stream : Nat × Nat) : Prop := ∀ j ∈ s.inbox, j.stream ≠ stream

/-- A message waits: kept behind those before it; nothing is performed or answered. -/
def KeptWaiting (s s' : State) (m : Incoming) : Prop :=
  s.sameMemory s' ∧ s'.blocks = s.blocks ∧ s'.outbox = s.outbox ∧ s'.inbox = s.inbox ++ [m]

/-- A state whose device memory and blocks another has too. -/
def Quiet (s s' : State) : Prop := s.sameMemory s' ∧ s'.blocks = s.blocks

/-- A reply to a message of a session: sent, and kept until it is acknowledged (19 R439). -/
def Replied (s s' : State) (session status : Nat) (data : List Byte) : Prop :=
  s'.outbox = s.outbox ++ [.reply session status data] ∧ ∃ u, s'.links.unacked = s.links.unacked ++ [u] ∧ u.session = session ∧ u.tries = 0 ∧ u.sentAt = s.now

/-- Bytes stand at an address of device memory, and nothing else has changed there. -/
def WrittenAt (s s' : State) (addr : Nat) (bs : List Byte) : Prop :=
  (∀ i, i < bs.length → s'.rd8 (addr + i) = bs.getD i 0) ∧ ∀ pa, ¬(addr ≤ pa ∧ pa < addr + bs.length) → s'.rd8 pa = s.rd8 pa

/-- The bits a write of a management register stores, for the plain registers (19 R450). -/
def registerMask (num : Nat) : Option DWord :=
  match num with
  | 0x01 => some 0x3FF
  | 0x10 | 0x24 => some 0x000FFFFFFFFFF000
  | 0x11 | 0x12 | 0x13 | 0x14 | 0x15 | 0x81 | 0x82 | 0x83 | 0x84 => some 0xFFFFFFFFFFFFFFFF
  | 0x30 | 0x31 | 0x32 | 0x33 => some 0xFFFFFF
  | 0x34 => some 0x03FF00FF
  | 0x40 => some 0xFFFFFFFF
  | 0x41 => some 0xFFFFF
  | 0x51 => some 0x1FFFFF
  | 0x65 => some 0xFFFF
  | _ => none

/-- The registers that only answer (19 R450). -/
def readOnlyRegister (num : Nat) : Bool :=
  [0x02, 0x36, 0x52, 0x60, 0x61, 0x62, 0x63, 0x64, 0x66, 0x70, 0x71, 0x85].contains num

/-- The registers of 15 R342. -/
def futureMask (k : Nat) : DWord := if k = 3 then 0xFFFFFF else 0x000FFFFFFFFFF000

end Sys2Proof.Claims

/-- R439, R441, R442, R445: a core gates, wakes and powers up as R445's table says; a time message goes out every 36,000 cycles and one received brings the time
base within 20 ticks; a silent peer counts as lost; an unacknowledged message is sent again, or closes its session after 8 tries. To where the time base moves,
and from when a peer's silence counts, are the model's choices (log entry 93). -/
def Obligations.PowerTimeAndPeersFollowTheirTables : Prop :=
  (∀ (core : Nat) (s : State), core < 512 → s.mayGate core = true →
    ∃ s', exec (.coreGateEntry core) s = .next s' ∧ Quiet s s' ∧ s'.getCore core = { s.getCore core with gate := .entering s.now }) ∧
  (∀ (core t : Nat) (wake : Bool) (s : State), (s.getCore core).gate = .entering t → t + 64 ≤ s.now →
    ∃ s', exec (.gateCommit core wake) s = .next s' ∧ Quiet s s' ∧ s'.getCore core = { s.getCore core with gate := if wake then .on s.now else .gated }) ∧
  (∀ (core : Nat) (s : State), core < 512 → ∃ s', exec (.coreWake core) s = .next s' ∧ Quiet s s' ∧
    s'.getCore core = { s.getCore core with gate := match (s.getCore core).gate with
      | .on t => .on t | .entering _ => .on s.now | .gated => .waking | .waking => .waking }) ∧
  (∀ (core : Nat) (s : State), (s.getCore core).gate = .waking →
    ∃ s', exec (.powerUpComplete core) s = .next s' ∧ Quiet s s' ∧ s'.getCore core = { s.getCore core with gate := .on s.now }) ∧
  (∀ (s : State), 36000 * (s.links.timeSent + 1) ≤ s.now →
    ∃ s', exec .timeMessageSend s = .next s' ∧ Quiet s s' ∧ s'.outbox = s.outbox ++ [.time s.devTime] ∧ s'.links.timeSent = s.links.timeSent + 1) ∧
  (∀ (peer time : Nat) (s : State), (peer ∈ s.links.lostPeers → exec (.timeMessageRx peer time) s = .next s) ∧
    (peer ∉ s.links.lostPeers → 0 ≤ (s.now * 10 / 36 : Int) + s.devAdj →
      ∃ s', exec (.timeMessageRx peer time) s = .next s' ∧ Quiet s s' ∧ Cells.getD peer 0 s'.links.heard = s.now ∧ s'.devTime ≤ time + 20 ∧ time ≤ s'.devTime + 20 ∧
        (s.devTime ≤ time + 20 → time ≤ s.devTime + 20 → s'.devTime = s.devTime))) ∧
  (∀ (peer : Nat) (s : State), Cells.getD peer 0 s.links.heard + 360000 ≤ s.now → peer ≠ s.device → peer ∉ s.links.lostPeers →
    ∃ s' : State, exec (.peerSilenceTimeout peer) s = .next s'.completeLaunches ∧ peer ∈ s'.links.lostPeers ∧
      NoneWaits s' (2, peer) ∧ NoneWaits s' (3, peer)) ∧
  (∀ (s : State) (u : Unacked), s.links.unacked.find? (fun v => v.session == u.session && v.seq == u.seq) = some u → u.sentAt + 180000 ≤ s.now →
    ∃ s', exec (.silazResendTimeout u.session u.seq) s = .next s' ∧ Quiet s s' ∧
      (u.tries < 8 → s'.outbox = s.outbox ++ [u.msg] ∧ { u with tries := u.tries + 1, sentAt := s.now } ∈ s'.links.unacked) ∧
      (8 ≤ u.tries → s'.sessionOpen u.session = false ∧ s'.outbox = s.outbox)) ∧
  (∀ (session seq : Nat) (s : State), ∃ s', exec (.silazAck session seq) s = .next s' ∧ Quiet s s' ∧
    ∀ u, u ∈ s'.links.unacked ↔ u ∈ s.links.unacked ∧ ¬(u.session = session ∧ u.seq ≤ seq)) ∧
  (∀ (s : State), ∃ s', exec .ethFrameDrop s = .next s' ∧ Quiet s s' ∧ s'.links.dropped = s.links.dropped + 1)

/-- R439, R440, R201, 01 R32: on an open session MEMWR writes its bytes at home and MEMRD reads them, or answers RANGE; ERRPOP and REPLAY act and are answered; a closed session's
messages do nothing; RDMA operations keep to their regions and SEND to its ring; an operation that is not supported gets a NAK. A message whose bytes are out of reach, or that
comes after one of its session or queue pair that waits, waits, and the oldest that can be is performed. Until start-up has completed RoCEv2 is not answered
(R446). Which messages wait and in what order they are performed, and what the replies hold, are the model's choices (log entries 94 and 95). -/
def Obligations.HostMessagesActOnMemoryAndAnswer : Prop :=
  (∀ (session addr : Nat) (data : List Byte) (s : State),
    (s.sessionOpen session = false → exec (.memwr session addr data) s = .next s) ∧
    (s.sessionOpen session = true → NoneWaits s (0, session) → (1 ≤ data.length ∧ data.length ≤ 4096 ∧ addr + data.length ≤ devSize) →
      s.hostBlocked addr data.length = none →
      ∃ s', exec (.memwr session addr data) s = .next s' ∧ WrittenAt s s' addr data ∧ Replied s s' session 0 []) ∧
    (s.sessionOpen session = true → (¬NoneWaits s (0, session) ∨
        (1 ≤ data.length ∧ data.length ≤ 4096 ∧ addr + data.length ≤ devSize ∧ s.hostBlocked addr data.length ≠ none)) →
      ∃ s', exec (.memwr session addr data) s = .next s' ∧ KeptWaiting s s' (.memwr session addr data)) ∧
    (s.sessionOpen session = true → NoneWaits s (0, session) → ¬(1 ≤ data.length ∧ data.length ≤ 4096 ∧ addr + data.length ≤ devSize) →
      ∃ s', exec (.memwr session addr data) s = .next s' ∧ Quiet s s' ∧ Replied s s' session 2 [])) ∧
  (∀ (session addr len : Nat) (s : State),
    (s.sessionOpen session = false → exec (.memrd session addr len) s = .next s) ∧
    (s.sessionOpen session = true → NoneWaits s (0, session) → (1 ≤ len ∧ len ≤ 4096 ∧ addr + len ≤ devSize) → s.hostBlocked addr len = none →
      ∃ s', exec (.memrd session addr len) s = .next s' ∧ Quiet s s' ∧ Replied s s' session 0 (s.rdBytes addr len)) ∧
    (s.sessionOpen session = true → (¬NoneWaits s (0, session) ∨ (1 ≤ len ∧ len ≤ 4096 ∧ addr + len ≤ devSize ∧ s.hostBlocked addr len ≠ none)) →
      ∃ s', exec (.memrd session addr len) s = .next s' ∧ KeptWaiting s s' (.memrd session addr len)) ∧
    (s.sessionOpen session = true → NoneWaits s (0, session) → ¬(1 ≤ len ∧ len ≤ 4096 ∧ addr + len ≤ devSize) →
      ∃ s', exec (.memrd session addr len) s = .next s' ∧ Quiet s s' ∧ Replied s s' session 2 [])) ∧
  (∀ (session ctx : Nat) (s : State), s.sessionOpen session = true →
    let q := ringAt s (s.ctxErrq (ctx % 65536))
    ((q.base = 0 ∨ q.head = q.tail) → ∃ s', exec (.hostErrpop session ctx) s = .next s' ∧ Quiet s s' ∧ Replied s s' session 0 []) ∧
    (q.base ≠ 0 → q.head ≠ q.tail → q.base + 4 ≤ devSize →
      ∃ s', exec (.hostErrpop session ctx) s = .next s' ∧ Replied s s' session 0 (s.rdBytes (q.base + 64 + 64 * (q.head % 2 ^ q.log)) 64) ∧
        s'.rdNat q.base 4 = (q.head + 1) % 2 ^ 32 ∧ ∀ pa, ¬(q.base ≤ pa ∧ pa < q.base + 4) → s'.rd8 pa = s.rd8 pa)) ∧
  (∀ (session ctx size cause : Nat) (page : DWord) (verdict : Verdict) (s : State),
    (s.sessionOpen session = true → exec (.hostReplay session ctx page size verdict cause) s = .next ((s.replayRange ctx page size verdict cause).reply session 0 [])) ∧
    (s.sessionOpen session = false → exec (.hostReplay session ctx page size verdict cause) s = .next s)) ∧
  (∀ (qp region addr len : Nat) (key : Word) (data : List Byte) (s : State), s.portOpen = false → exec (.rdmaWrite qp region key addr data) s = .next s ∧
    exec (.rdmaRead qp region key addr len) s = .next s ∧ exec (.send qp data) s = .next s ∧ exec (.roceUnsupportedOp qp) s = .next s) ∧
  (∀ (s : State), s.portOpen = true ↔ s.mgmt.devstate.toNat % 32 = 6) ∧
  (∀ (qp region addr : Nat) (key : Word) (data : List Byte) (s : State) (r : MemRegion), s.portOpen = true → qp < 256 → Cells.get? region s.links.regions = some r → r.key = key →
    (NoneWaits s (1, qp) → r.wr = true → r.base ≤ addr → addr + data.length ≤ r.base + r.len → addr + data.length ≤ devSize →
      s.hostBlocked addr data.length = none →
      ∃ s', exec (.rdmaWrite qp region key addr data) s = .next s' ∧ WrittenAt s s' addr data ∧ s'.outbox = s.outbox ++ [.rdmaReply qp true []]) ∧
    (¬NoneWaits s (1, qp) ∨ (r.wr = true ∧ r.base ≤ addr ∧ addr + data.length ≤ r.base + r.len ∧ s.hostBlocked addr data.length ≠ none) →
      ∃ s', exec (.rdmaWrite qp region key addr data) s = .next s' ∧ KeptWaiting s s' (.rdmaWrite qp region key addr data)) ∧
    (NoneWaits s (1, qp) → r.wr = false ∨ addr < r.base ∨ r.base + r.len < addr + data.length →
      ∃ s', exec (.rdmaWrite qp region key addr data) s = .next s' ∧ Quiet s s' ∧ s'.outbox = s.outbox ++ [.rdmaReply qp false []])) ∧
  (∀ (qp region addr len : Nat) (key : Word) (s : State) (r : MemRegion), s.portOpen = true → qp < 256 → Cells.get? region s.links.regions = some r → r.key = key →
    (NoneWaits s (1, qp) → r.rd = true → r.base ≤ addr → addr + len ≤ r.base + r.len → s.hostBlocked addr len = none →
      ∃ s', exec (.rdmaRead qp region key addr len) s = .next s' ∧ Quiet s s' ∧ s'.outbox = s.outbox ++ [.rdmaReply qp true (s.rdBytes addr len)]) ∧
    (¬NoneWaits s (1, qp) ∨ (r.rd = true ∧ r.base ≤ addr ∧ addr + len ≤ r.base + r.len ∧ s.hostBlocked addr len ≠ none) →
      ∃ s', exec (.rdmaRead qp region key addr len) s = .next s' ∧ KeptWaiting s s' (.rdmaRead qp region key addr len)) ∧
    (NoneWaits s (1, qp) → r.rd = false ∨ addr < r.base ∨ r.base + r.len < addr + len →
      ∃ s', exec (.rdmaRead qp region key addr len) s = .next s' ∧ Quiet s s' ∧ s'.outbox = s.outbox ++ [.rdmaReply qp false []])) ∧
  (∀ (qp : Nat) (data : List Byte) (s : State), s.portOpen = true →
    (∀ r, Cells.get? qp s.links.rings = some r → NoneWaits s (1, qp) → data.length ≤ r.entry →
      r.base + r.entry * (r.count % 2 ^ r.log2n) + data.length ≤ devSize →
      s.hostBlocked (r.base + r.entry * (r.count % 2 ^ r.log2n)) data.length = none →
      ∃ s', exec (.send qp data) s = .next s' ∧ WrittenAt s s' (r.base + r.entry * (r.count % 2 ^ r.log2n)) data ∧
        Cells.get? qp s'.links.rings = some { r with count := r.count + 1 } ∧ s'.outbox = s.outbox ++ [.rdmaReply qp true []]) ∧
    (¬NoneWaits s (1, qp) → ∃ s', exec (.send qp data) s = .next s' ∧ KeptWaiting s s' (.send qp data)) ∧
    (∀ r, Cells.get? qp s.links.rings = some r → NoneWaits s (1, qp) → r.entry < data.length →
      ∃ s', exec (.send qp data) s = .next s' ∧ Quiet s s' ∧ s'.outbox = s.outbox ++ [.rdmaReply qp false []]) ∧
    (Cells.get? qp s.links.rings = none → NoneWaits s (1, qp) →
      ∃ s', exec (.send qp data) s = .next s' ∧ Quiet s s' ∧ s'.outbox = s.outbox ++ [.rdmaReply qp false []])) ∧
  (∀ (s : State) (m : Incoming) (rest : List Incoming), s.inbox = m :: rest → (takeAgain m s).1 = true →
    s.retryInbox = { (takeAgain m s).2 with inbox := (takeAgain m s).2.inbox.erase m }) ∧
  (∀ (session addr : Nat) (data : List Byte) (s : State), hostRange addr data.length = true → s.hostBlocked addr data.length = none →
    takeAgain (.memwr session addr data) s = (true, (s.hostWrite addr data).reply session 0 [])) ∧
  (∀ (qp : Nat) (s : State), s.portOpen = true → ∃ s', exec (.roceUnsupportedOp qp) s = .next s' ∧ Quiet s s' ∧ s'.outbox = s.outbox ++ [.nak qp])

/-- R425, R333, R342, R446, R447, R450: in the secure session a write stores the bits of its register's map, and a register that is not listed or only read answers BADREG; SPDM requests are
answered, KEY_EXCHANGE and FINISH set the session up; a package reset gives the reset state, with the cores and channels that fail the in-field test taken out of service, or
leaves the device in the step of start-up that failed; a lost stack that is not healthy stays lost. Which outcome the test and start-up have is free. That the whole of
start-up is one event, where walkers start, the session's keys, what the accepted FUTBASE and FUTCAP leave, what replies hold and what the measurement log and the
algorithms' answer say are the model's choices (log entries 4, 14, 22, 58, 95 and 39). -/
def Obligations.RegistersAndSessionsAreSetUp : Prop :=
  (∀ (num : Nat) (v : Option DWord) (s : State), s.links.secure = false → exec (.mgmtWrite num v) s = .next s) ∧
  (∀ (num : Nat) (s : State), s.links.secure = true →
    (∀ v, s.mgmtRead num = some v → ∃ s', exec (.mgmtWrite num none) s = .next s' ∧ Quiet s s' ∧ s'.mgmt = s.mgmt ∧ Replied s s' 0 0 (leBytes 8 v.toNat)) ∧
    (s.mgmtRead num = none → ∃ s', exec (.mgmtWrite num none) s = .next s' ∧ Quiet s s' ∧ s'.mgmt = s.mgmt ∧ Replied s s' 0 1 [])) ∧
  (∀ (num : Nat) (v mask : DWord) (s : State), s.links.secure = true → registerMask num = some mask → s.mgmt.fbufbase.length = 4 → s.mgmt.cmdarg.length = 4 →
    s.mgmt.schedclass.length = 4 →
    ∃ s', exec (.mgmtWrite num (some v)) s = .next s' ∧ Quiet s s' ∧ Replied s s' 0 0 [] ∧ s'.mgmtRead num = some (v &&& mask) ∧
      ∀ n, n ≠ num → (num = 0x65 → n ≠ 0x66) → s'.mgmtRead n = s.mgmtRead n) ∧
  (∀ (num : Nat) (v : DWord) (s : State), s.links.secure = true → (readOnlyRegister num = true ∨ s.mgmtRead num = none) →
    ∃ s', exec (.mgmtWrite num (some v)) s = .next s' ∧ Quiet s s' ∧ s'.mgmt = s.mgmt ∧ Replied s s' 0 1 []) ∧
  (∀ (v : DWord) (s : State), s.links.secure = true → s.walkerOf 0 = none → v &&& 0x000FFFFFFFFFFFFC ≠ 0 → (∀ b ∈ s.blockIds, b ≤ s.seq) →
    ∃ s', exec (.mgmtWrite 0x16 (some v)) s = .next s' ∧ s.sameMemory s' ∧ s'.mgmt.walkentry = v &&& 0x000FFFFFFFFFFFFC ∧
      ∀ k, k < 64 → ∃ x, s'.getBlock (s.seq + 1 + k) = some x ∧ x.kind = .walker ∧ x.core = 8 * k ∧ x.life = .resident ∧
        x.threads = List.replicate 16 (Thread.init (v &&& 0x000FFFFFFFFFFFFC) s.now)) ∧
  (∀ (v : Word) (s : State), s.links.secure = true →
    (∃ s', exec (.rwctlWrite v) s = .next s' ∧ Quiet s s' ∧ s'.mgmt.rwctl = v ∧
      (s.mgmt.rwctl.toNat / 2 ^ 16 = 0 → v.toNat / 2 ^ 16 ≠ 0 → s'.roofwalk.nextAt = s.now + v.toNat / 2 ^ 16 * 3600000 / 64)) ∧
    (∃ s', exec (.pcapWrite v) s = .next s' ∧ Quiet s s' ∧ s'.mgmt.pcap = v &&& 0xFFF ∧
      s'.sched.reservoir = min s.sched.reservoir ((min 2600 (v.toNat % 4096) * 180000000 : Nat) : Int))) ∧
  (∀ (num : Nat) (v : DWord) (s : State), s.links.secure = true → num < 4 →
    ((∀ e ∈ s.futures, e.2.st = .free) → ∃ s', exec (.futureConfigWrite num v) s = .next s' ∧ Quiet s s' ∧ s'.mgmtRead (0x20 + num) = some (v &&& futureMask num)) ∧
    ((∃ e ∈ s.futures, e.2.st ≠ .free) → ∃ s', exec (.futureConfigWrite num v) s = .next s' ∧ Quiet s s' ∧ s'.mgmt = s.mgmt)) ∧
  (∀ (s : State), (∀ i code, (i, code) ∈ [(Instr.getVersion, 0x84), (.getCapabilities, 0xE1), (.negotiateAlgorithms, 0xE3), (.getDigests, 0x81), (.getCertificate, 0x82)] →
      ∃ s' v, exec i s = .next s' ∧ Quiet s s' ∧ s'.outbox = s.outbox ++ [.spdm code v] ∧ s'.mgmt = s.mgmt) ∧
    (∀ nonce, ∃ s' v, exec (.challenge nonce) s = .next s' ∧ Quiet s s' ∧ s'.outbox = s.outbox ++ [.spdm 0x83 v]) ∧
    (∃ s', exec .getMeasurements s = .next s' ∧ Quiet s s' ∧ s'.outbox = s.outbox ++ [.spdm 0xE0 s.measurementLog]) ∧
    (∀ nonce, s.mgmt.devstate.toNat % 32 = 6 → ∃ s', exec (.keyExchange nonce) s = .next s' ∧ Quiet s s' ∧ s'.links.keyExchange = some nonce) ∧
    (∀ nonce, s.mgmt.devstate.toNat % 32 ≠ 6 → ∃ s', exec (.keyExchange nonce) s = .next s' ∧ Quiet s s' ∧ s'.links.keyExchange = s.links.keyExchange ∧
      s'.outbox = s.outbox ++ [.spdm 0x7F 0]) ∧
    (∀ nonce mac, s.links.keyExchange = some nonce → ∃ s', exec (.finish mac) s = .next s' ∧ Quiet s s' ∧
      s'.links.secure = (s.links.secure || decide (mac = Config.sessionKey nonce 0)) ∧ s'.links.keyExchange = none) ∧
    (∀ mac, s.links.keyExchange = none → ∃ s', exec (.finish mac) s = .next s' ∧ Quiet s s' ∧ s'.links.secure = s.links.secure)) ∧
  (∀ (s : State), ∃ s', exec .packageReset s = .next s' ∧ s'.agenda = s.agenda ∧ s'.blocks = [] ∧ s'.mem = State.reset.mem ∧ s'.links.secure = false ∧
    s'.links.keyExchange = none ∧
    ((s.thatch.lostStack = none ∨ s.thatch.healthy = true) → s'.thatch = State.reset.thatch) ∧
    (s.thatch.lostStack ≠ none → s.thatch.healthy = false → s'.thatch = { State.reset.thatch with lostStack := s.thatch.lostStack }) ∧
    (Config.startUp s.fresh % 7 = 0 → s.thatch.lostStack = none ∨ s.thatch.healthy = true → { s' with cores := State.reset.cores, agenda := [], fresh := 0 } = { State.reset with agenda := [], fresh := 0 }) ∧
    (Config.startUp s.fresh % 7 ≠ 0 → s'.mgmt.devstate = w32 (15 + Config.startUp s.fresh % 7)) ∧
    (Config.startUp s.fresh % 7 = 0 ∨ Config.startUp s.fresh % 7 = 6 → ∀ c, c < 512 → s'.getCore c =
      match Config.inField s.fresh c with
      | none => { State.reset.getCore c with withdrawn := true }
      | some m => { State.reset.getCore c with chstat := (State.reset.getCore c).chstat ||| (m.zeroExtend 32 <<< 16) }))

namespace Sys2Proof.Claims

/-- A command as it starts: CMD and CMDSTAT with CODE and BUSY (19 R451). -/
def started (s : State) (code p : Nat) : State :=
  { s with mgmt := { s.mgmt with cmd := w32 (code + p * 65536), cmdstat := w64 (code * 65536 + 1), outcome := none } }

/-- A command has done what it does and has its RESULT and DATA, or none yet; its write of CMD is answered. -/
def ended (t : State) (o : Option (Nat × Nat)) : State := ({ t with mgmt := { t.mgmt with outcome := o } } : State).reply 0 0 []

/-- The commands: code and parameter. -/
def commandOf : Instr → Option (Nat × Nat)
  | .openSession p => some (0x01, p)
  | .closeSession p => some (0x02, p)
  | .migDemote p => some (0x10, p)
  | .migPromote p => some (0x11, p)
  | .tlbInval p => some (0x18, p)
  | .mgmtReplay p => some (0x19, p)
  | .ctxKill p => some (0x20, p)
  | .keyLoad p => some (0x28, p)
  | .coreReset p => some (0x30, p)
  | .clusterReadmit p => some (0x31, p)
  | .peerLost p => some (0x32, p)
  | .thatchRebuild => some (0x38, 0)
  | .mrRegister p => some (0x40, p)
  | .qpRing p => some (0x41, p)
  | _ => none

/-- A secure session with no command running. -/
def mayCommand (s : State) : Prop := s.links.secure = true ∧ s.cmdBusy = false

/-- A command ends with a RESULT and nothing else has changed. -/
def EndsWith (i : Instr) (s : State) (r : Nat) : Prop :=
  ∃ code p, commandOf i = some (code, p) ∧ exec i s = .next (ended (started s code p) (some (r, 0)))

end Sys2Proof.Claims

/-- R411, R413, R423, R427, R439, R440, R442, R445, R448, R449, R451: a management command starts only in the secure session and while none runs; each does what its row says, or ends
with BADARG, REFUSED or FAILED; at MGMT_CMD_COMPLETE BUSY clears and RESULT and DATA are set. That TLB_INVAL drops all instruction copies, when a key slot is in
use, what the capacity tier reports, and that migrations act at once and fail with a record are the model's choices (log entries 25, 96, 16, 29 and 118). -/
def Obligations.ManagementCommandsDoWhatTheirRowsSay : Prop :=
  (∀ i code p (s : State), commandOf i = some (code, p) → (s.links.secure = false → exec i s = .next s) ∧
    (s.links.secure = true → s.cmdBusy = true → exec i s = .next (s.reply 0 0 []))) ∧
  (∀ (p : Nat) (s : State), mayCommand s → p < 65536 →
    ((p < 1 ∨ 63 < p) → EndsWith (.openSession p) s 1 ∧ EndsWith (.closeSession p) s 1) ∧
    (1 ≤ p → p ≤ 63 → (s.sessionOpen p = true → EndsWith (.openSession p) s 2) ∧
      (s.sessionOpen p = false → ∃ s', exec (.openSession p) s = .next s' ∧ Quiet s s' ∧ s'.mgmt.outcome = some (0, 0) ∧
        Cells.get? p s'.links.sessions = some (s.cmdArg 0 + s.cmdArg 1 * 2 ^ 64, s.cmdArg 2 % 65536)) ∧
      ∃ s', exec (.closeSession p) s = .next s' ∧ Quiet s s' ∧ s'.mgmt.outcome = some (0, 0) ∧ s'.sessionOpen p = false)) ∧
  (∀ (p : Nat) (s : State), mayCommand s → p ≤ 5 →
    let n := sizeBytes p
    (s.cmdArg 0 % n = 0 → s.cmdArg 0 + n ≤ devSize → s.cmdArg 1 * 4096 + n ≤ Config.capacityBytes →
      ∃ s' d cells, exec (.migDemote p) s = .next s' ∧ Quiet s s' ∧ s'.mgmt.outcome = some (0, d) ∧ Cells.get? (s.cmdArg 1) s'.capacity = some (p, cells) ∧
        ((s.mem.map (·.1)).Nodup → ∀ k, k < n → Cells.getD k 0 cells = s.rd8 (s.cmdArg 0 + k))) ∧
    (s.cmdArg 1 % n = 0 → s.cmdArg 1 + n ≤ devSize → s.cmdArg 0 * 4096 + n ≤ Config.capacityBytes →
      (∀ cells, Cells.get? (s.cmdArg 0) s.capacity = some (p, cells) → (cells.map (·.1)).Nodup →
        ∃ s', exec (.migPromote p) s = .next s' ∧ s'.blocks = s.blocks ∧ s'.mgmt.outcome = some (0, 0) ∧ Cells.get? (s.cmdArg 0) s'.capacity = none ∧
          (∀ k, k < n → s'.rd8 (s.cmdArg 1 + k) = Cells.getD k 0 cells) ∧
          ∀ pa, ¬(s.cmdArg 1 ≤ pa ∧ pa < s.cmdArg 1 + n) → s'.rd8 pa = s.rd8 pa) ∧
      (Cells.get? (s.cmdArg 0) s.capacity = none → ∃ (t : State) (e : ErrRec), e.kind = 0x31 ∧ t.mem = s.mem ∧ t.blocks = s.blocks ∧
        exec (.migPromote p) s = .next (ended (t.record 0 e) (some (3, 0)))))) ∧
  (∀ (p : Nat) (s : State), mayCommand s → p ≤ 5 → (s.cmdArg 0 < 65536 ∨ s.cmdArg 0 = 0xFFFFFFFF) →
    ∃ s', exec (.tlbInval p) s = .next s' ∧ Quiet s s' ∧ s'.mgmt.outcome = some (0, 0) ∧ s'.ipath = [] ∧
      ∀ k e, k < 64 → (e ∈ (s'.getCluster k).tlb ↔ e ∈ (s.getCluster k).tlb ∧
        ¬((s.cmdArg 0 = 0xFFFFFFFF ∨ e.ctx = s.cmdArg 0) ∧ e.va < s.cmdArg 1 / sizeBytes p * sizeBytes p + sizeBytes p ∧
          s.cmdArg 1 / sizeBytes p * sizeBytes p < e.va + sizeBytes e.size))) ∧
  (∀ (p : Nat) (s : State), mayCommand s → p ≤ 1 → s.cmdArg 0 < 65536 → s.cmdArg 2 % 8 ≤ 5 →
    exec (.mgmtReplay p) s = .next (ended ((started s 0x19 p).replayRange (s.cmdArg 0) (w64 (s.cmdArg 1)) (s.cmdArg 2 % 8) (if p = 0 then .retry else .deliver)
      (s.cmdArg 2 / 2 ^ 8 % 2 ^ 8)) (some (0, 0)))) ∧
  (∀ (p : Nat) (s : State), mayCommand s → p < 65536 → exec (.ctxKill p) s = .next (ended ((started s 0x20 p).killCtx p) none)) ∧
  (∀ (p : Nat) (s : State), mayCommand s → p < 65536 →
    let slot := p % 128
    let key := s.cmdArg 0 + s.cmdArg 1 * 2 ^ 64 + s.cmdArg 2 * 2 ^ 128 + s.cmdArg 3 * 2 ^ 192
    ((128 ≤ p % 256 ∨ 512 ≤ p) → EndsWith (.keyLoad p) s 1) ∧
    (p % 256 < 128 → p < 512 → (∃ c, c < 65536 ∧ s.ctxKey c = some slot ∧ c ∉ s.mgmt.killed) → EndsWith (.keyLoad p) s 2) ∧
    (p % 256 < 128 → p < 512 → (∀ c, c < 65536 → s.ctxKey c = some slot → c ∈ s.mgmt.killed) →
      ∃ s', exec (.keyLoad p) s = .next s' ∧ Quiet s s' ∧ s'.mgmt.outcome = some (0, 0) ∧
        s'.keyOf slot = if 256 ≤ p then ((s.keyOf slot).1, key) else (key, (s.keyOf slot).2))) ∧
  (∀ (p : Nat) (s : State), mayCommand s →
    (p < 512 → ∃ s', exec (.coreReset p) s = .next s' ∧ Quiet s s' ∧ s'.mgmt.outcome = some (0, 0) ∧ s'.getCore p = { s.getCore p with halted := false, gate := match (s.getCore p).gate with
        | .on t => .on t | .entering _ => .on s.now | .gated => .waking | .waking => .waking }) ∧
    (p < 64 → exec (.clusterReadmit p) s = .next (ended (started s 0x31 p) none)) ∧
    (p < 1024 → p ≠ s.device → exec (.peerLost p) s = .next (ended ((started s 0x32 p).losePeer p) (some (0, 0)))) ∧
    (s.thatch.lostStack.isSome = true → s.thatch.healthy = true → s.thatch.failed = false →
      ∃ s', exec .thatchRebuild s = .next s' ∧ Quiet s s' ∧ s'.mgmt.outcome = some (0, 0) ∧ s'.thatch = { s.thatch with rebuilding := true }) ∧
    ((s.thatch.lostStack = none ∨ s.thatch.healthy = false ∨ s.thatch.failed = true) → EndsWith .thatchRebuild s 2) ∧
    (p < 256 → s.cmdArg 0 + s.cmdArg 1 ≤ devSize → s.cmdArg 2 < 4 → s.cmdArg 3 < 2 ^ 32 →
      ∃ s', exec (.mrRegister p) s = .next s' ∧ Quiet s s' ∧ s'.mgmt.outcome = some (0, 0) ∧ Cells.get? p s'.links.regions =
        if s.cmdArg 1 = 0 then none
        else some { base := s.cmdArg 0, len := s.cmdArg 1, rd := (s.cmdArg 2).testBit 0, wr := (s.cmdArg 2).testBit 1, key := w32 (s.cmdArg 3) }) ∧
    (p < 256 → s.cmdArg 1 < 32 → s.cmdArg 2 ≠ 0 → s.cmdArg 2 % 64 = 0 → s.cmdArg 0 + s.cmdArg 2 * 2 ^ s.cmdArg 1 ≤ devSize →
      ∃ s', exec (.qpRing p) s = .next s' ∧ Quiet s s' ∧ s'.mgmt.outcome = some (0, 0) ∧
        Cells.get? p s'.links.rings = some { base := s.cmdArg 0, log2n := s.cmdArg 1, entry := s.cmdArg 2, count := 0 })) ∧
  (∀ (s : State), s.cmdBusy = true →
    (∀ r d, s.mgmt.outcome = some (r, d) → ∃ s', exec .mgmtCmdComplete s = .next s' ∧ Quiet s s' ∧ s'.mgmt.outcome = none ∧
      s'.mgmt.cmdstat = w64 (d * 2 ^ 32 + s.mgmt.cmd.toNat % 256 * 65536 + r * 256)) ∧
    (s.mgmt.outcome = none → s.mgmt.cmd.toNat % 256 = 0x20 → (∀ o ∈ s.ops, (s.block o.blk).ctx ≠ s.mgmt.cmd.toNat / 65536) →
      ∃ s', exec .mgmtCmdComplete s = .next s' ∧ Quiet s s' ∧ s'.cmdBusy = false ∧ s.mgmt.cmd.toNat / 65536 ∈ s'.mgmt.killed))

/-! The machine as a whole: what a step runs, what reset leaves, encodings, the form of memory. -/

/-- 02 R45 and R53, 03 R80: a step in which a thread issues runs the instruction that stands at the chosen bundle's place: exec of the decoded
instruction at the state the picker leaves, after the cycle has passed. A place inside a clause decodes the clause's next word, with the
word after it as its literal, and a word that decodes to nothing traps as ILLEGAL; a place at a boundary decodes the header word fetched there; the clause a slice resumes in is fetched first. An
event of the agenda happens at once, after the cycle has passed. The turns and the agenda are the model's (log entries 1 and 3). -/
def Obligations.StepRunsTheDecodedInstruction : Prop :=
  (∀ (s u : State) (b t : Nat) (i : Instr), s.agenda = [] → s.tick.loop = [] → (s.tick.now % 2 = 1 ∨ s.tick.internal = none) →
    s.tick.pick = some u → u.cur.head? = some (b, t) → u.fetch b t = .instr i → step s = exec i u) ∧
  (∀ (s : State) (b t : Nat) (th : Thread) (w : Word) (i : Instr), s.getThread b t = some th → th.clauseIdx ≠ 0 →
    th.clause[th.clauseIdx]? = some w → decodeWord w.toNat (th.clause[th.clauseIdx + 1]?.map (·.toNat)) = .ok i → s.fetch b t = .instr i) ∧
  (∀ (s : State) (b t : Nat) (th : Thread) (w : Word) (i : Instr), s.getThread b t = some th → th.clauseIdx = 0 →
    th.pc.toNat % 4 = 0 → s.codeWord b th.pc = .ok w → w.toNat / 2 ^ 25 = 127 → decodeWord w.toNat none = .ok i → s.fetch b t = .instr i) ∧
  (∀ (s u : State) (b t : Nat) (th : Thread) (w : Word) (e : Reject), s.agenda = [] → s.tick.loop = [] → (s.tick.now % 2 = 1 ∨ s.tick.internal = none) →
    s.tick.pick = some u → u.cur = [(b, t)] → u.getThread b t = some th → th.clauseIdx ≠ 0 → th.clause[th.clauseIdx]? = some w →
    decodeWord w.toNat (th.clause[th.clauseIdx + 1]?.map (·.toNat)) = .error e → step s = .next (u.stopAt b t (.trap .illegal 0 0))) ∧
  (∀ (s : State) (b t : Nat) (th : Thread), s.getThread b t = some th → th.clauseIdx = 0 → th.pc.toNat % 4 ≠ 0 →
    s.fetch b t = .stops (.trap .badTarget th.pc 0)) ∧
  (∀ (s : State) (e : Instr) (rest : List Instr), s.agenda = e :: rest → e.isWord = false → step s = exec e { s.tick with agenda := rest })

/-- Words that the chapters print, with the instruction each stands for (02 R57 and the classes' own chapters): one or more of every family. -/
def Obligations.PrintedWordsDecodeToTheirInstruction : Prop :=
  let v (n : Fin 224) : LReg := .v n
  let s (n : Fin 64) : UReg := .s n
  decodeWord 0xFE80001F none = .ok (.clauseHeader 4 0 0 15 true) ∧
  decodeWord 0xFE6003FE none = .ok (.clauseHeader 3 1 15 15 false) ∧
  decodeWord 0x0AF10009 none = .ok (.waitf 9) ∧
  decodeWord 0x08000000 none = .ok .exit ∧
  decodeWord 0x110902F0 none = .ok (.add (v 9) (v 2) .x) ∧
  decodeWord 0x2DF00000 (some 65536) = .ok (.lit .x 65536) ∧
  decodeWord 0x100B0A07 none = .ok (.clz (v 11) (v 10)) ∧
  decodeWord 0x2B0E2122 none = .ok (.setp 0 .gtP (v 33) (v 34)) ∧
  decodeWord 0x52060203 none = .ok (.madI16x2 (v 6) (v 2) (v 3)) ∧
  decodeWord 0x3B0A0203 none = .ok (.ffmaF32 (v 10) (v 2) (v 3)) ∧
  decodeWord 0x3D06072A none = .ok (.fcvt (v 6) (v 7) 0 true .e4m3e5m2) ∧
  decodeWord 0x4B0C1009 none = .ok (.bpx (v 12) (v 16) (v 9)) ∧
  decodeWord 0x58080420 none = .ok (.ldW32 (v 8) (v 4) 4 false .normal) ∧
  decodeWord 0x5D0A0428 none = .ok (.stW32 (v 10) (v 4) 5 false .normal) ∧
  decodeWord 0x6128262E none = .ok (.stm (v 40) (v 38) (v 46)) ∧
  decodeWord 0x6AF10205 (some 0x1040) = .ok (.atom .zero (v 2) (v 5) { f := false, size := .w32, scope := .pkg, order := .relaxed, use := .com, op := .add }) ∧
  decodeWord 0x6C060440 none = .ok (.ldAcq (v 6) (v 4) .pkg .w32 false) ∧
  decodeWord 0x6EF10002 none = .ok (.fence .pkg) ∧
  decodeWord 0x72F1F102 none = .ok (.tbar 0 .pkg) ∧
  decodeWord 0x7709_0805 none = .ok (.tred (v 9) (v 8) 0 .maxW) ∧
  decodeWord 0x80102061 none = .ok (.sadd (s 4) (s 4) (s 6) true) ∧
  decodeWord 0x9C201022 none = .ok (.sld (s 8) (s 2) 2 false .w32) ∧
  decodeWord 0xA02C6400 none = .ok (.mma (s 11) (s 12) .zero false) ∧
  decodeWord 0xB1004408 none = .ok (.copy (s 8) true false) ∧
  decodeWord 0xC660A1A1 none = .ok (.fgetD (s 24) (s 20) (s 26) false) ∧
  decodeWord 0xD4285C01 none = .ok (.fordqState (s 10) (s 11)) ∧
  decodeWord 0xDD004C06 none = .ok (.hpush (s 9) 6) ∧
  decodeWord 0xE8284400 none = .ok (.launch (s 10) (s 8) false) ∧
  decodeWord 0xF1000050 none = .ok (.trap 5) ∧
  decodeWord 0xF8103080 none = .ok (.tlbfill (s 4) (s 6) (s 8)) ∧
  decodeWord 0xFA204C00 none = .ok (.errpop (s 8) (s 9)) ∧
  decodeWord 0xFC286400 none = .ok (.hzwait (s 10) (s 12) false)

/-- 00 R6, 07 R184, 14 R329 and R333, 16 R366, 18 R425, R429 and R436, 19 R446, R450 and R451: what a package reset leaves, read where software or the
host reads it. All device memory is zero and in canonical form, nothing is resident, no command runs, the reservoir is full, the first walk is due after
PERIOD / 64 ms, and every register with a stated reset value has it. That DEVSTATE already shows step 6, and that the registers with no stated value are 0,
are the model's choice (log entries 4 and 6). -/
def Obligations.ResetLeavesWhatTheMapsSay : Prop :=
  let r := State.reset
  (∀ pa, r.byteAtHome pa = 0) ∧ r.memWf = true ∧ r.blocks = [] ∧ r.ops = [] ∧ r.chains = [] ∧ r.launches = [] ∧ r.cmdBusy = false ∧
  r.links.secure = false ∧ r.roofwalk.next = 0 ∧ r.roofwalk.nextAt = 200 * 3600000 / 64 ∧
  (List.range 4).map (fun k => r.mgmtRead (0x30 + k)) = [some 0xE10, some 0x8CA0, some 0x57E40, some 0x57E40] ∧
  r.mgmtRead 0x34 = some 0 ∧ r.mgmtRead 0x35 = some 0xA28 ∧ r.mgmtRead 0x36 = some (w64 (2600 * 10 * 1000000)) ∧
  r.mgmtRead 0x40 = some 0x1432000A ∧ r.mgmtRead 0x41 = some 0x7D0 ∧ r.mgmtRead 0x50 = some 0x00C803E8 ∧ r.mgmtRead 0x51 = some 0 ∧
  r.mgmtRead 0x52 = some 0xF ∧ r.mgmtRead 0x70 = some 0 ∧ r.mgmtRead 0x71 = some 0 ∧ r.mgmtRead 0x85 = some 0 ∧ r.mgmtRead 1 = some 0 ∧
  r.mgmtRead 2 = some 6 ∧ (∀ c, c < 512 → r.mgmtRead (0x4000 + 16 * c) = some 0x10000 ∧ ∀ k, 1 ≤ k → k ≤ 8 → r.mgmtRead (0x4000 + 16 * c + k) = some 0)

/-- 02 R34 to R44 and R53: the word of every well-formed instruction, with its literal word if it takes one, decodes to that instruction: no bit of
an operand, of a coded field or of a literal is dropped. -/
def Obligations.EncodedInstructionsDecodeToThemselves : Prop :=
  ∀ (i : Instr), i.wellFormed = true → i.isWord = true →
    ∃ (w : Nat) (rest : List Nat), encode i = w :: rest ∧ w < 2 ^ 32 ∧ (∀ l ∈ rest, l < 2 ^ 32) ∧ rest.length = (if i.takesLiteral then 1 else 0) ∧
      decodeWord w rest.head? = .ok i

/-- 02 R34 to R44, R48 and R53: a word that decodes to a well-formed instruction is that instruction's word, bit for bit: no bit of it is
ignored, and no two words stand for one instruction. -/
def Obligations.DecodedWordsEncodeToThemselves : Prop :=
  ∀ (w l : Nat) (i : Instr), w < 2 ^ 32 → l < 2 ^ 32 → decodeWord w (some l) = .ok i → i.wellFormed = true →
    encode i = if i.takesLiteral then [w, l] else [w]

/-- The canonical form of device memory (01 R20, 19 R446): every step, from every state that has it, keeps it. -/
def Obligations.EveryStepKeepsMemoryCanonical : Prop :=
  ∀ (s s' : State), s.memWf = true → step s = .next s' → s'.memWf = true
end

