-- ==== Sys2Proof/Laws/Cells.lean ====
section
/-! SUPPORT. Laws of the sorted maps: what a read gives after a write, and that every operation keeps the canonical form. -/

namespace Sys2Proof.Machine.Cells

variable {α : Type}

@[simp] theorem get?_nil (k : Nat) : get? k ([] : List (Nat × α)) = none := rfl

@[simp] theorem get?_set_self (k : Nat) (a : α) (m : List (Nat × α)) : get? k (set k a m) = some a := by
  induction m with
  | nil => simp [set, get?]
  | cons e m ih =>
    obtain ⟨j, b⟩ := e
    unfold set
    split
    · simp [get?]
    · split
      · simp [get?]
      · rename_i h
        simp [get?, Ne.symm h, ih]

theorem get?_set_other {k j : Nat} (h : j ≠ k) (a : α) (m : List (Nat × α)) : get? j (set k a m) = get? j m := by
  induction m with
  | nil => simp [set, get?, Ne.symm h]
  | cons e m ih =>
    obtain ⟨i, b⟩ := e
    unfold set
    split
    · simp [get?, Ne.symm h]
    · split
      · rename_i hki
        subst hki
        simp [get?, Ne.symm h]
      · simp [get?, ih]

@[simp] theorem get?_erase_self (k : Nat) (m : List (Nat × α)) : get? k (erase k m) = none := by
  induction m with
  | nil => rfl
  | cons e m ih =>
    obtain ⟨i, b⟩ := e
    unfold erase at ih ⊢
    by_cases h : i = k
    · simpa [h] using ih
    · simp [h, get?, ih]

theorem get?_erase_other {k j : Nat} (h : j ≠ k) (m : List (Nat × α)) : get? j (erase k m) = get? j m := by
  induction m with
  | nil => rfl
  | cons e m ih =>
    obtain ⟨i, b⟩ := e
    unfold erase at ih ⊢
    by_cases hik : i = k
    · subst hik
      simpa [get?, Ne.symm h] using ih
    · simp [hik, get?, ih]

@[simp] theorem getD_set_self (k : Nat) (d a : α) (m : List (Nat × α)) : getD k d (set k a m) = a := by simp [getD]

theorem getD_set_other {k j : Nat} (h : j ≠ k) (d a : α) (m : List (Nat × α)) : getD j d (set k a m) = getD j d m := by
  simp [getD, get?_set_other h]

@[simp] theorem getD_put_self [DecidableEq α] (d : α) (k : Nat) (a : α) (m : List (Nat × α)) : getD k d (put d k a m) = a := by
  unfold put
  split
  · rename_i h
    simp [getD, h]
  · simp

theorem getD_put_other [DecidableEq α] {k j : Nat} (h : j ≠ k) (d a : α) (m : List (Nat × α)) :
    getD j d (put d k a m) = getD j d m := by
  unfold put
  split
  · simp [getD, get?_erase_other h]
  · exact getD_set_other h d a m

/-! The canonical form. -/

/-- Rising keys, as a pairwise relation. -/
theorem sorted_iff (m : List (Nat × α)) : sorted m = true ↔ m.Pairwise fun e f => e.1 < f.1 := by
  induction m with
  | nil => simp [sorted]
  | cons e m ih =>
    cases m with
    | nil => simp [sorted]
    | cons f m =>
      obtain ⟨j, a⟩ := e
      obtain ⟨k, b⟩ := f
      rw [sorted, Bool.and_eq_true, ih]
      constructor
      · rintro ⟨h, hp⟩
        refine List.pairwise_cons.2 ⟨?_, hp⟩
        intro g hg
        rcases List.mem_cons.1 hg with rfl | hg
        · simpa using h
        · exact lt_trans (by simpa using h) ((List.pairwise_cons.1 hp).1 g hg)
      · intro hp
        have h := List.pairwise_cons.1 hp
        exact ⟨by simpa using h.1 (k, b) (by simp), h.2⟩

/-- A filter keeps the canonical form. -/
theorem wf_filter [DecidableEq α] (d : α) (p : Nat × α → Bool) {m : List (Nat × α)} (h : wf d m = true) :
    wf d (m.filter p) = true := by
  unfold wf at *
  rw [Bool.and_eq_true] at *
  refine ⟨(sorted_iff _).2 (((sorted_iff _).1 h.1).filter p), ?_⟩
  rw [List.all_eq_true] at *
  intro e he
  exact h.2 e (List.mem_of_mem_filter he)

theorem wf_erase [DecidableEq α] (d : α) (k : Nat) {m : List (Nat × α)} (h : wf d m = true) : wf d (erase k m) = true :=
  wf_filter d _ h

theorem wf_dropRange [DecidableEq α] (d : α) (lo hi : Nat) {m : List (Nat × α)} (h : wf d m = true) :
    wf d (dropRange lo hi m) = true := wf_filter d _ h

theorem wf_range [DecidableEq α] (d : α) (lo hi : Nat) {m : List (Nat × α)} (h : wf d m = true) :
    wf d (range lo hi m) = true := wf_filter d _ h

/-- What a set lists: the new entry or an old one. -/
theorem mem_set {k : Nat} {a : α} {m : List (Nat × α)} {e : Nat × α} (h : e ∈ set k a m) : e = (k, a) ∨ e ∈ m := by
  induction m with
  | nil => simpa [set] using h
  | cons f m ih =>
    obtain ⟨j, b⟩ := f
    unfold set at h
    split at h
    · simpa using h
    · split at h
      · rcases List.mem_cons.1 h with h | h
        · exact .inl h
        · exact .inr (List.mem_cons_of_mem _ h)
      · rcases List.mem_cons.1 h with h | h
        · exact .inr (by simp [h])
        · exact (ih h).imp id (List.mem_cons_of_mem _)

theorem sorted_set (k : Nat) (a : α) {m : List (Nat × α)} (h : sorted m = true) : sorted (set k a m) = true := by
  rw [sorted_iff] at *
  induction m with
  | nil => simp [set]
  | cons f m ih =>
    obtain ⟨j, b⟩ := f
    have hp := List.pairwise_cons.1 h
    unfold set
    split
    · rename_i hk
      refine List.pairwise_cons.2 ⟨?_, h⟩
      intro g hg
      rcases List.mem_cons.1 hg with rfl | hg
      · exact hk
      · exact lt_trans hk (hp.1 g hg)
    · split
      · rename_i hk
        subst hk
        exact List.pairwise_cons.2 ⟨hp.1, hp.2⟩
      · rename_i h1 h2
        refine List.pairwise_cons.2 ⟨?_, ih hp.2⟩
        intro g hg
        rcases mem_set hg with rfl | hg
        · show j < k
          omega
        · exact hp.1 g hg

theorem wf_set [DecidableEq α] {d a : α} (k : Nat) (ha : a ≠ d) {m : List (Nat × α)} (h : wf d m = true) :
    wf d (set k a m) = true := by
  unfold wf at *
  rw [Bool.and_eq_true] at *
  refine ⟨sorted_set k a h.1, ?_⟩
  rw [List.all_eq_true] at *
  intro e he
  rcases mem_set he with rfl | he
  · simpa using ha
  · exact h.2 e he

theorem wf_put [DecidableEq α] (d : α) (k : Nat) (a : α) {m : List (Nat × α)} (h : wf d m = true) :
    wf d (put d k a m) = true := by
  unfold put
  split
  · exact wf_erase d k h
  · rename_i ha
    exact wf_set k ha h

end Sys2Proof.Machine.Cells
end

