-- ==== Sys2Proof/Laws/State.lean ====
section
/-! SUPPORT. What the accessors of State leave alone, field by field, and what they give back. -/

namespace Sys2Proof.Machine

/-! One lemma per field for each accessor that changes one part of State. -/

@[simp] theorem State.setBlock_now (s : State) (b : Nat) (x : Block) : (s.setBlock b x).now = s.now := rfl
@[simp] theorem State.setBlock_devAdj (s : State) (b : Nat) (x : Block) : (s.setBlock b x).devAdj = s.devAdj := rfl
@[simp] theorem State.setBlock_agenda (s : State) (b : Nat) (x : Block) : (s.setBlock b x).agenda = s.agenda := rfl
@[simp] theorem State.setBlock_fresh (s : State) (b : Nat) (x : Block) : (s.setBlock b x).fresh = s.fresh := rfl
@[simp] theorem State.setBlock_seq (s : State) (b : Nat) (x : Block) : (s.setBlock b x).seq = s.seq := rfl
@[simp] theorem State.setBlock_cur (s : State) (b : Nat) (x : Block) : (s.setBlock b x).cur = s.cur := rfl
@[simp] theorem State.setBlock_bundles (s : State) (b : Nat) (x : Block) : (s.setBlock b x).bundles = s.bundles := rfl
@[simp] theorem State.setBlock_turn (s : State) (b : Nat) (x : Block) : (s.setBlock b x).turn = s.turn := rfl
@[simp] theorem State.setBlock_outbox (s : State) (b : Nat) (x : Block) : (s.setBlock b x).outbox = s.outbox := rfl
@[simp] theorem State.setBlock_loop (s : State) (b : Nat) (x : Block) : (s.setBlock b x).loop = s.loop := rfl
@[simp] theorem State.setBlock_inbox (s : State) (b : Nat) (x : Block) : (s.setBlock b x).inbox = s.inbox := rfl
@[simp] theorem State.setBlock_mem (s : State) (b : Nat) (x : Block) : (s.setBlock b x).mem = s.mem := rfl
@[simp] theorem State.setBlock_capacity (s : State) (b : Nat) (x : Block) : (s.setBlock b x).capacity = s.capacity := rfl
@[simp] theorem State.setBlock_pads (s : State) (b : Nat) (x : Block) : (s.setBlock b x).pads = s.pads := rfl
@[simp] theorem State.setBlock_views (s : State) (b : Nat) (x : Block) : (s.setBlock b x).views = s.views := rfl
@[simp] theorem State.setBlock_ipath (s : State) (b : Nat) (x : Block) : (s.setBlock b x).ipath = s.ipath := rfl
@[simp] theorem State.setBlock_ops (s : State) (b : Nat) (x : Block) : (s.setBlock b x).ops = s.ops := rfl
@[simp] theorem State.setBlock_doneGrans (s : State) (b : Nat) (x : Block) : (s.setBlock b x).doneGrans = s.doneGrans := rfl
@[simp] theorem State.setBlock_pins (s : State) (b : Nat) (x : Block) : (s.setBlock b x).pins = s.pins := rfl
@[simp] theorem State.setBlock_cores (s : State) (b : Nat) (x : Block) : (s.setBlock b x).cores = s.cores := rfl
@[simp] theorem State.setBlock_clusters (s : State) (b : Nat) (x : Block) : (s.setBlock b x).clusters = s.clusters := rfl
@[simp] theorem State.setBlock_launches (s : State) (b : Nat) (x : Block) : (s.setBlock b x).launches = s.launches := rfl
@[simp] theorem State.setBlock_launchOps (s : State) (b : Nat) (x : Block) : (s.setBlock b x).launchOps = s.launchOps := rfl
@[simp] theorem State.setBlock_chains (s : State) (b : Nat) (x : Block) : (s.setBlock b x).chains = s.chains := rfl
@[simp] theorem State.setBlock_futures (s : State) (b : Nat) (x : Block) : (s.setBlock b x).futures = s.futures := rfl
@[simp] theorem State.setBlock_futOps (s : State) (b : Nat) (x : Block) : (s.setBlock b x).futOps = s.futOps := rfl
@[simp] theorem State.setBlock_gangOps (s : State) (b : Nat) (x : Block) : (s.setBlock b x).gangOps = s.gangOps := rfl
@[simp] theorem State.setBlock_hzOps (s : State) (b : Nat) (x : Block) : (s.setBlock b x).hzOps = s.hzOps := rfl
@[simp] theorem State.setBlock_gangs (s : State) (b : Nat) (x : Block) : (s.setBlock b x).gangs = s.gangs := rfl
@[simp] theorem State.setBlock_sched (s : State) (b : Nat) (x : Block) : (s.setBlock b x).sched = s.sched := rfl
@[simp] theorem State.setBlock_roofwalk (s : State) (b : Nat) (x : Block) : (s.setBlock b x).roofwalk = s.roofwalk := rfl
@[simp] theorem State.setBlock_oxCount (s : State) (b : Nat) (x : Block) : (s.setBlock b x).oxCount = s.oxCount := rfl
@[simp] theorem State.setBlock_oxRuns (s : State) (b : Nat) (x : Block) : (s.setBlock b x).oxRuns = s.oxRuns := rfl
@[simp] theorem State.setBlock_zeroed (s : State) (b : Nat) (x : Block) : (s.setBlock b x).zeroed = s.zeroed := rfl
@[simp] theorem State.setBlock_thatch (s : State) (b : Nat) (x : Block) : (s.setBlock b x).thatch = s.thatch := rfl
@[simp] theorem State.setBlock_links (s : State) (b : Nat) (x : Block) : (s.setBlock b x).links = s.links := rfl
@[simp] theorem State.setBlock_mgmt (s : State) (b : Nat) (x : Block) : (s.setBlock b x).mgmt = s.mgmt := rfl

@[simp] theorem State.setBlock_blocks (s : State) (b : Nat) (x : Block) : (s.setBlock b x).blocks = Cells.set b x s.blocks := rfl

@[simp] theorem State.modBlock_now (s : State) (b : Nat) (f : Block → Block) : (s.modBlock b f).now = s.now := by unfold State.modBlock; split <;> rfl
@[simp] theorem State.modBlock_devAdj (s : State) (b : Nat) (f : Block → Block) : (s.modBlock b f).devAdj = s.devAdj := by unfold State.modBlock; split <;> rfl
@[simp] theorem State.modBlock_agenda (s : State) (b : Nat) (f : Block → Block) : (s.modBlock b f).agenda = s.agenda := by unfold State.modBlock; split <;> rfl
@[simp] theorem State.modBlock_fresh (s : State) (b : Nat) (f : Block → Block) : (s.modBlock b f).fresh = s.fresh := by unfold State.modBlock; split <;> rfl
@[simp] theorem State.modBlock_seq (s : State) (b : Nat) (f : Block → Block) : (s.modBlock b f).seq = s.seq := by unfold State.modBlock; split <;> rfl
@[simp] theorem State.modBlock_cur (s : State) (b : Nat) (f : Block → Block) : (s.modBlock b f).cur = s.cur := by unfold State.modBlock; split <;> rfl
@[simp] theorem State.modBlock_bundles (s : State) (b : Nat) (f : Block → Block) : (s.modBlock b f).bundles = s.bundles := by unfold State.modBlock; split <;> rfl
@[simp] theorem State.modBlock_turn (s : State) (b : Nat) (f : Block → Block) : (s.modBlock b f).turn = s.turn := by unfold State.modBlock; split <;> rfl
@[simp] theorem State.modBlock_outbox (s : State) (b : Nat) (f : Block → Block) : (s.modBlock b f).outbox = s.outbox := by unfold State.modBlock; split <;> rfl
@[simp] theorem State.modBlock_loop (s : State) (b : Nat) (f : Block → Block) : (s.modBlock b f).loop = s.loop := by unfold State.modBlock; split <;> rfl
@[simp] theorem State.modBlock_inbox (s : State) (b : Nat) (f : Block → Block) : (s.modBlock b f).inbox = s.inbox := by unfold State.modBlock; split <;> rfl
@[simp] theorem State.modBlock_mem (s : State) (b : Nat) (f : Block → Block) : (s.modBlock b f).mem = s.mem := by unfold State.modBlock; split <;> rfl
@[simp] theorem State.modBlock_capacity (s : State) (b : Nat) (f : Block → Block) : (s.modBlock b f).capacity = s.capacity := by unfold State.modBlock; split <;> rfl
@[simp] theorem State.modBlock_pads (s : State) (b : Nat) (f : Block → Block) : (s.modBlock b f).pads = s.pads := by unfold State.modBlock; split <;> rfl
@[simp] theorem State.modBlock_views (s : State) (b : Nat) (f : Block → Block) : (s.modBlock b f).views = s.views := by unfold State.modBlock; split <;> rfl
@[simp] theorem State.modBlock_ipath (s : State) (b : Nat) (f : Block → Block) : (s.modBlock b f).ipath = s.ipath := by unfold State.modBlock; split <;> rfl
@[simp] theorem State.modBlock_ops (s : State) (b : Nat) (f : Block → Block) : (s.modBlock b f).ops = s.ops := by unfold State.modBlock; split <;> rfl
@[simp] theorem State.modBlock_doneGrans (s : State) (b : Nat) (f : Block → Block) : (s.modBlock b f).doneGrans = s.doneGrans := by unfold State.modBlock; split <;> rfl
@[simp] theorem State.modBlock_pins (s : State) (b : Nat) (f : Block → Block) : (s.modBlock b f).pins = s.pins := by unfold State.modBlock; split <;> rfl
@[simp] theorem State.modBlock_cores (s : State) (b : Nat) (f : Block → Block) : (s.modBlock b f).cores = s.cores := by unfold State.modBlock; split <;> rfl
@[simp] theorem State.modBlock_clusters (s : State) (b : Nat) (f : Block → Block) : (s.modBlock b f).clusters = s.clusters := by unfold State.modBlock; split <;> rfl
@[simp] theorem State.modBlock_launches (s : State) (b : Nat) (f : Block → Block) : (s.modBlock b f).launches = s.launches := by unfold State.modBlock; split <;> rfl
@[simp] theorem State.modBlock_launchOps (s : State) (b : Nat) (f : Block → Block) : (s.modBlock b f).launchOps = s.launchOps := by unfold State.modBlock; split <;> rfl
@[simp] theorem State.modBlock_chains (s : State) (b : Nat) (f : Block → Block) : (s.modBlock b f).chains = s.chains := by unfold State.modBlock; split <;> rfl
@[simp] theorem State.modBlock_futures (s : State) (b : Nat) (f : Block → Block) : (s.modBlock b f).futures = s.futures := by unfold State.modBlock; split <;> rfl
@[simp] theorem State.modBlock_futOps (s : State) (b : Nat) (f : Block → Block) : (s.modBlock b f).futOps = s.futOps := by unfold State.modBlock; split <;> rfl
@[simp] theorem State.modBlock_gangOps (s : State) (b : Nat) (f : Block → Block) : (s.modBlock b f).gangOps = s.gangOps := by unfold State.modBlock; split <;> rfl
@[simp] theorem State.modBlock_hzOps (s : State) (b : Nat) (f : Block → Block) : (s.modBlock b f).hzOps = s.hzOps := by unfold State.modBlock; split <;> rfl
@[simp] theorem State.modBlock_gangs (s : State) (b : Nat) (f : Block → Block) : (s.modBlock b f).gangs = s.gangs := by unfold State.modBlock; split <;> rfl
@[simp] theorem State.modBlock_sched (s : State) (b : Nat) (f : Block → Block) : (s.modBlock b f).sched = s.sched := by unfold State.modBlock; split <;> rfl
@[simp] theorem State.modBlock_roofwalk (s : State) (b : Nat) (f : Block → Block) : (s.modBlock b f).roofwalk = s.roofwalk := by unfold State.modBlock; split <;> rfl
@[simp] theorem State.modBlock_oxCount (s : State) (b : Nat) (f : Block → Block) : (s.modBlock b f).oxCount = s.oxCount := by unfold State.modBlock; split <;> rfl
@[simp] theorem State.modBlock_oxRuns (s : State) (b : Nat) (f : Block → Block) : (s.modBlock b f).oxRuns = s.oxRuns := by unfold State.modBlock; split <;> rfl
@[simp] theorem State.modBlock_zeroed (s : State) (b : Nat) (f : Block → Block) : (s.modBlock b f).zeroed = s.zeroed := by unfold State.modBlock; split <;> rfl
@[simp] theorem State.modBlock_thatch (s : State) (b : Nat) (f : Block → Block) : (s.modBlock b f).thatch = s.thatch := by unfold State.modBlock; split <;> rfl
@[simp] theorem State.modBlock_links (s : State) (b : Nat) (f : Block → Block) : (s.modBlock b f).links = s.links := by unfold State.modBlock; split <;> rfl
@[simp] theorem State.modBlock_mgmt (s : State) (b : Nat) (f : Block → Block) : (s.modBlock b f).mgmt = s.mgmt := by unfold State.modBlock; split <;> rfl

@[simp] theorem State.modThread_now (s : State) (b t : Nat) (f : Thread → Thread) : (s.modThread b t f).now = s.now := by simp [State.modThread]
@[simp] theorem State.modThread_devAdj (s : State) (b t : Nat) (f : Thread → Thread) : (s.modThread b t f).devAdj = s.devAdj := by simp [State.modThread]
@[simp] theorem State.modThread_agenda (s : State) (b t : Nat) (f : Thread → Thread) : (s.modThread b t f).agenda = s.agenda := by simp [State.modThread]
@[simp] theorem State.modThread_fresh (s : State) (b t : Nat) (f : Thread → Thread) : (s.modThread b t f).fresh = s.fresh := by simp [State.modThread]
@[simp] theorem State.modThread_seq (s : State) (b t : Nat) (f : Thread → Thread) : (s.modThread b t f).seq = s.seq := by simp [State.modThread]
@[simp] theorem State.modThread_cur (s : State) (b t : Nat) (f : Thread → Thread) : (s.modThread b t f).cur = s.cur := by simp [State.modThread]
@[simp] theorem State.modThread_bundles (s : State) (b t : Nat) (f : Thread → Thread) : (s.modThread b t f).bundles = s.bundles := by simp [State.modThread]
@[simp] theorem State.modThread_turn (s : State) (b t : Nat) (f : Thread → Thread) : (s.modThread b t f).turn = s.turn := by simp [State.modThread]
@[simp] theorem State.modThread_outbox (s : State) (b t : Nat) (f : Thread → Thread) : (s.modThread b t f).outbox = s.outbox := by simp [State.modThread]
@[simp] theorem State.modThread_loop (s : State) (b t : Nat) (f : Thread → Thread) : (s.modThread b t f).loop = s.loop := by simp [State.modThread]
@[simp] theorem State.modThread_inbox (s : State) (b t : Nat) (f : Thread → Thread) : (s.modThread b t f).inbox = s.inbox := by simp [State.modThread]
@[simp] theorem State.modThread_mem (s : State) (b t : Nat) (f : Thread → Thread) : (s.modThread b t f).mem = s.mem := by simp [State.modThread]
@[simp] theorem State.modThread_capacity (s : State) (b t : Nat) (f : Thread → Thread) : (s.modThread b t f).capacity = s.capacity := by simp [State.modThread]
@[simp] theorem State.modThread_pads (s : State) (b t : Nat) (f : Thread → Thread) : (s.modThread b t f).pads = s.pads := by simp [State.modThread]
@[simp] theorem State.modThread_views (s : State) (b t : Nat) (f : Thread → Thread) : (s.modThread b t f).views = s.views := by simp [State.modThread]
@[simp] theorem State.modThread_ipath (s : State) (b t : Nat) (f : Thread → Thread) : (s.modThread b t f).ipath = s.ipath := by simp [State.modThread]
@[simp] theorem State.modThread_ops (s : State) (b t : Nat) (f : Thread → Thread) : (s.modThread b t f).ops = s.ops := by simp [State.modThread]
@[simp] theorem State.modThread_doneGrans (s : State) (b t : Nat) (f : Thread → Thread) : (s.modThread b t f).doneGrans = s.doneGrans := by simp [State.modThread]
@[simp] theorem State.modThread_pins (s : State) (b t : Nat) (f : Thread → Thread) : (s.modThread b t f).pins = s.pins := by simp [State.modThread]
@[simp] theorem State.modThread_cores (s : State) (b t : Nat) (f : Thread → Thread) : (s.modThread b t f).cores = s.cores := by simp [State.modThread]
@[simp] theorem State.modThread_clusters (s : State) (b t : Nat) (f : Thread → Thread) : (s.modThread b t f).clusters = s.clusters := by simp [State.modThread]
@[simp] theorem State.modThread_launches (s : State) (b t : Nat) (f : Thread → Thread) : (s.modThread b t f).launches = s.launches := by simp [State.modThread]
@[simp] theorem State.modThread_launchOps (s : State) (b t : Nat) (f : Thread → Thread) : (s.modThread b t f).launchOps = s.launchOps := by simp [State.modThread]
@[simp] theorem State.modThread_chains (s : State) (b t : Nat) (f : Thread → Thread) : (s.modThread b t f).chains = s.chains := by simp [State.modThread]
@[simp] theorem State.modThread_futures (s : State) (b t : Nat) (f : Thread → Thread) : (s.modThread b t f).futures = s.futures := by simp [State.modThread]
@[simp] theorem State.modThread_futOps (s : State) (b t : Nat) (f : Thread → Thread) : (s.modThread b t f).futOps = s.futOps := by simp [State.modThread]
@[simp] theorem State.modThread_gangOps (s : State) (b t : Nat) (f : Thread → Thread) : (s.modThread b t f).gangOps = s.gangOps := by simp [State.modThread]
@[simp] theorem State.modThread_hzOps (s : State) (b t : Nat) (f : Thread → Thread) : (s.modThread b t f).hzOps = s.hzOps := by simp [State.modThread]
@[simp] theorem State.modThread_gangs (s : State) (b t : Nat) (f : Thread → Thread) : (s.modThread b t f).gangs = s.gangs := by simp [State.modThread]
@[simp] theorem State.modThread_sched (s : State) (b t : Nat) (f : Thread → Thread) : (s.modThread b t f).sched = s.sched := by simp [State.modThread]
@[simp] theorem State.modThread_roofwalk (s : State) (b t : Nat) (f : Thread → Thread) : (s.modThread b t f).roofwalk = s.roofwalk := by simp [State.modThread]
@[simp] theorem State.modThread_oxCount (s : State) (b t : Nat) (f : Thread → Thread) : (s.modThread b t f).oxCount = s.oxCount := by simp [State.modThread]
@[simp] theorem State.modThread_oxRuns (s : State) (b t : Nat) (f : Thread → Thread) : (s.modThread b t f).oxRuns = s.oxRuns := by simp [State.modThread]
@[simp] theorem State.modThread_zeroed (s : State) (b t : Nat) (f : Thread → Thread) : (s.modThread b t f).zeroed = s.zeroed := by simp [State.modThread]
@[simp] theorem State.modThread_thatch (s : State) (b t : Nat) (f : Thread → Thread) : (s.modThread b t f).thatch = s.thatch := by simp [State.modThread]
@[simp] theorem State.modThread_links (s : State) (b t : Nat) (f : Thread → Thread) : (s.modThread b t f).links = s.links := by simp [State.modThread]
@[simp] theorem State.modThread_mgmt (s : State) (b t : Nat) (f : Thread → Thread) : (s.modThread b t f).mgmt = s.mgmt := by simp [State.modThread]

@[simp] theorem State.modCore_now (s : State) (c : Nat) (f : CoreState → CoreState) : (s.modCore c f).now = s.now := rfl
@[simp] theorem State.modCore_devAdj (s : State) (c : Nat) (f : CoreState → CoreState) : (s.modCore c f).devAdj = s.devAdj := rfl
@[simp] theorem State.modCore_agenda (s : State) (c : Nat) (f : CoreState → CoreState) : (s.modCore c f).agenda = s.agenda := rfl
@[simp] theorem State.modCore_fresh (s : State) (c : Nat) (f : CoreState → CoreState) : (s.modCore c f).fresh = s.fresh := rfl
@[simp] theorem State.modCore_seq (s : State) (c : Nat) (f : CoreState → CoreState) : (s.modCore c f).seq = s.seq := rfl
@[simp] theorem State.modCore_cur (s : State) (c : Nat) (f : CoreState → CoreState) : (s.modCore c f).cur = s.cur := rfl
@[simp] theorem State.modCore_bundles (s : State) (c : Nat) (f : CoreState → CoreState) : (s.modCore c f).bundles = s.bundles := rfl
@[simp] theorem State.modCore_turn (s : State) (c : Nat) (f : CoreState → CoreState) : (s.modCore c f).turn = s.turn := rfl
@[simp] theorem State.modCore_outbox (s : State) (c : Nat) (f : CoreState → CoreState) : (s.modCore c f).outbox = s.outbox := rfl
@[simp] theorem State.modCore_loop (s : State) (c : Nat) (f : CoreState → CoreState) : (s.modCore c f).loop = s.loop := rfl
@[simp] theorem State.modCore_inbox (s : State) (c : Nat) (f : CoreState → CoreState) : (s.modCore c f).inbox = s.inbox := rfl
@[simp] theorem State.modCore_mem (s : State) (c : Nat) (f : CoreState → CoreState) : (s.modCore c f).mem = s.mem := rfl
@[simp] theorem State.modCore_capacity (s : State) (c : Nat) (f : CoreState → CoreState) : (s.modCore c f).capacity = s.capacity := rfl
@[simp] theorem State.modCore_pads (s : State) (c : Nat) (f : CoreState → CoreState) : (s.modCore c f).pads = s.pads := rfl
@[simp] theorem State.modCore_views (s : State) (c : Nat) (f : CoreState → CoreState) : (s.modCore c f).views = s.views := rfl
@[simp] theorem State.modCore_ipath (s : State) (c : Nat) (f : CoreState → CoreState) : (s.modCore c f).ipath = s.ipath := rfl
@[simp] theorem State.modCore_ops (s : State) (c : Nat) (f : CoreState → CoreState) : (s.modCore c f).ops = s.ops := rfl
@[simp] theorem State.modCore_doneGrans (s : State) (c : Nat) (f : CoreState → CoreState) : (s.modCore c f).doneGrans = s.doneGrans := rfl
@[simp] theorem State.modCore_pins (s : State) (c : Nat) (f : CoreState → CoreState) : (s.modCore c f).pins = s.pins := rfl
@[simp] theorem State.modCore_clusters (s : State) (c : Nat) (f : CoreState → CoreState) : (s.modCore c f).clusters = s.clusters := rfl
@[simp] theorem State.modCore_blocks (s : State) (c : Nat) (f : CoreState → CoreState) : (s.modCore c f).blocks = s.blocks := rfl
@[simp] theorem State.modCore_launches (s : State) (c : Nat) (f : CoreState → CoreState) : (s.modCore c f).launches = s.launches := rfl
@[simp] theorem State.modCore_launchOps (s : State) (c : Nat) (f : CoreState → CoreState) : (s.modCore c f).launchOps = s.launchOps := rfl
@[simp] theorem State.modCore_chains (s : State) (c : Nat) (f : CoreState → CoreState) : (s.modCore c f).chains = s.chains := rfl
@[simp] theorem State.modCore_futures (s : State) (c : Nat) (f : CoreState → CoreState) : (s.modCore c f).futures = s.futures := rfl
@[simp] theorem State.modCore_futOps (s : State) (c : Nat) (f : CoreState → CoreState) : (s.modCore c f).futOps = s.futOps := rfl
@[simp] theorem State.modCore_gangOps (s : State) (c : Nat) (f : CoreState → CoreState) : (s.modCore c f).gangOps = s.gangOps := rfl
@[simp] theorem State.modCore_hzOps (s : State) (c : Nat) (f : CoreState → CoreState) : (s.modCore c f).hzOps = s.hzOps := rfl
@[simp] theorem State.modCore_gangs (s : State) (c : Nat) (f : CoreState → CoreState) : (s.modCore c f).gangs = s.gangs := rfl
@[simp] theorem State.modCore_sched (s : State) (c : Nat) (f : CoreState → CoreState) : (s.modCore c f).sched = s.sched := rfl
@[simp] theorem State.modCore_roofwalk (s : State) (c : Nat) (f : CoreState → CoreState) : (s.modCore c f).roofwalk = s.roofwalk := rfl
@[simp] theorem State.modCore_oxCount (s : State) (c : Nat) (f : CoreState → CoreState) : (s.modCore c f).oxCount = s.oxCount := rfl
@[simp] theorem State.modCore_oxRuns (s : State) (c : Nat) (f : CoreState → CoreState) : (s.modCore c f).oxRuns = s.oxRuns := rfl
@[simp] theorem State.modCore_zeroed (s : State) (c : Nat) (f : CoreState → CoreState) : (s.modCore c f).zeroed = s.zeroed := rfl
@[simp] theorem State.modCore_thatch (s : State) (c : Nat) (f : CoreState → CoreState) : (s.modCore c f).thatch = s.thatch := rfl
@[simp] theorem State.modCore_links (s : State) (c : Nat) (f : CoreState → CoreState) : (s.modCore c f).links = s.links := rfl
@[simp] theorem State.modCore_mgmt (s : State) (c : Nat) (f : CoreState → CoreState) : (s.modCore c f).mgmt = s.mgmt := rfl

@[simp] theorem State.modCluster_now (s : State) (k : Nat) (f : ClusterState → ClusterState) : (s.modCluster k f).now = s.now := rfl
@[simp] theorem State.modCluster_devAdj (s : State) (k : Nat) (f : ClusterState → ClusterState) : (s.modCluster k f).devAdj = s.devAdj := rfl
@[simp] theorem State.modCluster_agenda (s : State) (k : Nat) (f : ClusterState → ClusterState) : (s.modCluster k f).agenda = s.agenda := rfl
@[simp] theorem State.modCluster_fresh (s : State) (k : Nat) (f : ClusterState → ClusterState) : (s.modCluster k f).fresh = s.fresh := rfl
@[simp] theorem State.modCluster_seq (s : State) (k : Nat) (f : ClusterState → ClusterState) : (s.modCluster k f).seq = s.seq := rfl
@[simp] theorem State.modCluster_cur (s : State) (k : Nat) (f : ClusterState → ClusterState) : (s.modCluster k f).cur = s.cur := rfl
@[simp] theorem State.modCluster_bundles (s : State) (k : Nat) (f : ClusterState → ClusterState) : (s.modCluster k f).bundles = s.bundles := rfl
@[simp] theorem State.modCluster_turn (s : State) (k : Nat) (f : ClusterState → ClusterState) : (s.modCluster k f).turn = s.turn := rfl
@[simp] theorem State.modCluster_outbox (s : State) (k : Nat) (f : ClusterState → ClusterState) : (s.modCluster k f).outbox = s.outbox := rfl
@[simp] theorem State.modCluster_loop (s : State) (k : Nat) (f : ClusterState → ClusterState) : (s.modCluster k f).loop = s.loop := rfl
@[simp] theorem State.modCluster_inbox (s : State) (k : Nat) (f : ClusterState → ClusterState) : (s.modCluster k f).inbox = s.inbox := rfl
@[simp] theorem State.modCluster_mem (s : State) (k : Nat) (f : ClusterState → ClusterState) : (s.modCluster k f).mem = s.mem := rfl
@[simp] theorem State.modCluster_capacity (s : State) (k : Nat) (f : ClusterState → ClusterState) : (s.modCluster k f).capacity = s.capacity := rfl
@[simp] theorem State.modCluster_pads (s : State) (k : Nat) (f : ClusterState → ClusterState) : (s.modCluster k f).pads = s.pads := rfl
@[simp] theorem State.modCluster_views (s : State) (k : Nat) (f : ClusterState → ClusterState) : (s.modCluster k f).views = s.views := rfl
@[simp] theorem State.modCluster_ipath (s : State) (k : Nat) (f : ClusterState → ClusterState) : (s.modCluster k f).ipath = s.ipath := rfl
@[simp] theorem State.modCluster_ops (s : State) (k : Nat) (f : ClusterState → ClusterState) : (s.modCluster k f).ops = s.ops := rfl
@[simp] theorem State.modCluster_doneGrans (s : State) (k : Nat) (f : ClusterState → ClusterState) : (s.modCluster k f).doneGrans = s.doneGrans := rfl
@[simp] theorem State.modCluster_pins (s : State) (k : Nat) (f : ClusterState → ClusterState) : (s.modCluster k f).pins = s.pins := rfl
@[simp] theorem State.modCluster_cores (s : State) (k : Nat) (f : ClusterState → ClusterState) : (s.modCluster k f).cores = s.cores := rfl
@[simp] theorem State.modCluster_blocks (s : State) (k : Nat) (f : ClusterState → ClusterState) : (s.modCluster k f).blocks = s.blocks := rfl
@[simp] theorem State.modCluster_launches (s : State) (k : Nat) (f : ClusterState → ClusterState) : (s.modCluster k f).launches = s.launches := rfl
@[simp] theorem State.modCluster_launchOps (s : State) (k : Nat) (f : ClusterState → ClusterState) : (s.modCluster k f).launchOps = s.launchOps := rfl
@[simp] theorem State.modCluster_chains (s : State) (k : Nat) (f : ClusterState → ClusterState) : (s.modCluster k f).chains = s.chains := rfl
@[simp] theorem State.modCluster_futures (s : State) (k : Nat) (f : ClusterState → ClusterState) : (s.modCluster k f).futures = s.futures := rfl
@[simp] theorem State.modCluster_futOps (s : State) (k : Nat) (f : ClusterState → ClusterState) : (s.modCluster k f).futOps = s.futOps := rfl
@[simp] theorem State.modCluster_gangOps (s : State) (k : Nat) (f : ClusterState → ClusterState) : (s.modCluster k f).gangOps = s.gangOps := rfl
@[simp] theorem State.modCluster_hzOps (s : State) (k : Nat) (f : ClusterState → ClusterState) : (s.modCluster k f).hzOps = s.hzOps := rfl
@[simp] theorem State.modCluster_gangs (s : State) (k : Nat) (f : ClusterState → ClusterState) : (s.modCluster k f).gangs = s.gangs := rfl
@[simp] theorem State.modCluster_sched (s : State) (k : Nat) (f : ClusterState → ClusterState) : (s.modCluster k f).sched = s.sched := rfl
@[simp] theorem State.modCluster_roofwalk (s : State) (k : Nat) (f : ClusterState → ClusterState) : (s.modCluster k f).roofwalk = s.roofwalk := rfl
@[simp] theorem State.modCluster_oxCount (s : State) (k : Nat) (f : ClusterState → ClusterState) : (s.modCluster k f).oxCount = s.oxCount := rfl
@[simp] theorem State.modCluster_oxRuns (s : State) (k : Nat) (f : ClusterState → ClusterState) : (s.modCluster k f).oxRuns = s.oxRuns := rfl
@[simp] theorem State.modCluster_zeroed (s : State) (k : Nat) (f : ClusterState → ClusterState) : (s.modCluster k f).zeroed = s.zeroed := rfl
@[simp] theorem State.modCluster_thatch (s : State) (k : Nat) (f : ClusterState → ClusterState) : (s.modCluster k f).thatch = s.thatch := rfl
@[simp] theorem State.modCluster_links (s : State) (k : Nat) (f : ClusterState → ClusterState) : (s.modCluster k f).links = s.links := rfl
@[simp] theorem State.modCluster_mgmt (s : State) (k : Nat) (f : ClusterState → ClusterState) : (s.modCluster k f).mgmt = s.mgmt := rfl

/-! What is read after a change of a block, a thread, a core, a cluster. -/

@[simp] theorem State.getBlock_setBlock_self (s : State) (b : Nat) (x : Block) : (s.setBlock b x).getBlock b = some x := by
  simp [State.getBlock]

theorem State.getBlock_setBlock_other (s : State) {b c : Nat} (h : c ≠ b) (x : Block) :
    (s.setBlock b x).getBlock c = s.getBlock c := by
  simp [State.getBlock, Cells.get?_set_other h]

theorem State.getBlock_modBlock_self {s : State} {b : Nat} {x : Block} (h : s.getBlock b = some x) (f : Block → Block) :
    (s.modBlock b f).getBlock b = some (f x) := by
  simp [State.modBlock, h]

theorem State.getBlock_modBlock_other (s : State) {b c : Nat} (h : c ≠ b) (f : Block → Block) :
    (s.modBlock b f).getBlock c = s.getBlock c := by
  unfold State.modBlock
  split
  · exact s.getBlock_setBlock_other h _
  · rfl

theorem State.modBlock_none {s : State} {b : Nat} (h : s.getBlock b = none) (f : Block → Block) : s.modBlock b f = s := by
  simp [State.modBlock, h]

theorem State.block_of_get {s : State} {b : Nat} {x : Block} (h : s.getBlock b = some x) : s.block b = x := by
  simp [State.block, h]

theorem State.block_modBlock_self {s : State} {b : Nat} {x : Block} (h : s.getBlock b = some x) (f : Block → Block) :
    (s.modBlock b f).block b = f x := State.block_of_get (State.getBlock_modBlock_self h f)

theorem State.block_modBlock_other (s : State) {b c : Nat} (h : c ≠ b) (f : Block → Block) :
    (s.modBlock b f).block c = s.block c := by
  simp [State.block, s.getBlock_modBlock_other h f]

theorem State.thread_of_get {s : State} {b t : Nat} {th : Thread} (h : s.getThread b t = some th) : s.thread b t = th := by
  simp [State.thread, h]

/-- A thread that exists stands in a block that exists. -/
theorem State.getThread_eq_some {s : State} {b t : Nat} {th : Thread} :
    s.getThread b t = some th ↔ ∃ x, s.getBlock b = some x ∧ x.threads[t]? = some th := by
  unfold State.getThread Block.getThread
  cases s.getBlock b <;> simp

theorem State.getThread_modThread_self {s : State} {b t : Nat} {th : Thread} (h : s.getThread b t = some th)
    (f : Thread → Thread) : (s.modThread b t f).getThread b t = some (f th) := by
  obtain ⟨x, hx, ht⟩ := State.getThread_eq_some.1 h
  have hlt : t < x.threads.length := (List.getElem?_eq_some_iff.1 ht).1
  rw [State.getThread_eq_some]
  refine ⟨_, State.getBlock_modBlock_self hx _, ?_⟩
  have hv : x.threads[t] = th := by simpa [hlt] using ht
  simp [Block.getThread, Block.setThread, hlt, hv]

theorem State.thread_modThread_self {s : State} {b t : Nat} {th : Thread} (h : s.getThread b t = some th)
    (f : Thread → Thread) : (s.modThread b t f).thread b t = f th :=
  State.thread_of_get (State.getThread_modThread_self h f)

/-- A change of one thread leaves every other thread alone. -/
theorem State.getThread_modThread_other (s : State) {b t c u : Nat} (h : ¬(c = b ∧ u = t)) (f : Thread → Thread) :
    (s.modThread b t f).getThread c u = s.getThread c u := by
  by_cases hc : c = b
  · subst hc
    have hu : u ≠ t := fun e => h ⟨rfl, e⟩
    cases hb : s.getBlock c with
    | none => rw [State.modThread, State.modBlock_none hb]
    | some x =>
      unfold State.getThread State.modThread
      rw [State.getBlock_modBlock_self hb, hb]
      simp only [Option.bind_some, Block.getThread]
      split
      · simp [Block.setThread, Ne.symm hu]
      · rfl
  · unfold State.getThread State.modThread
    rw [s.getBlock_modBlock_other hc]

theorem State.thread_modThread_other (s : State) {b t c u : Nat} (h : ¬(c = b ∧ u = t)) (f : Thread → Thread) :
    (s.modThread b t f).thread c u = s.thread c u := by
  simp [State.thread, s.getThread_modThread_other h f]

@[simp] theorem State.getCore_modCore_self (s : State) (c : Nat) (f : CoreState → CoreState) :
    (s.modCore c f).getCore c = f (s.getCore c) := by
  simp [State.modCore, State.getCore]

theorem State.getCore_modCore_other (s : State) {c d : Nat} (h : d ≠ c) (f : CoreState → CoreState) :
    (s.modCore c f).getCore d = s.getCore d := by
  simp [State.modCore, State.getCore, Cells.getD_put_other h]

@[simp] theorem State.getCluster_modCluster_self (s : State) (k : Nat) (f : ClusterState → ClusterState) :
    (s.modCluster k f).getCluster k = f (s.getCluster k) := by
  simp [State.modCluster, State.getCluster]

theorem State.getCluster_modCluster_other (s : State) {k j : Nat} (h : j ≠ k) (f : ClusterState → ClusterState) :
    (s.modCluster k f).getCluster j = s.getCluster j := by
  simp [State.modCluster, State.getCluster, Cells.getD_put_other h]

/-! Registers of a thread and a block. -/

@[simp] theorem Thread.getV_setV_self (th : Thread) (n : Nat) (w : Word) : (th.setV n w).getV n = w := by
  simp [Thread.getV, Thread.setV]

theorem Thread.getV_setV_other (th : Thread) {n m : Nat} (h : m ≠ n) (w : Word) : (th.setV n w).getV m = th.getV m := by
  simp [Thread.getV, Thread.setV, Cells.getD_put_other h]

@[simp] theorem Block.getS_setS_self (x : Block) (n : Nat) (w : Word) : (x.setS n w).getS n = w := by
  simp [Block.getS, Block.setS]

theorem Block.getS_setS_other (x : Block) {n m : Nat} (h : m ≠ n) (w : Word) : (x.setS n w).getS m = x.getS m := by
  simp [Block.getS, Block.setS, Cells.getD_put_other h]

@[simp] theorem Thread.flag_setFlag_self (th : Thread) (f n : Nat) : (th.setFlag f n).flag f = n := by
  simp [Thread.flag, Thread.setFlag]

theorem Thread.flag_setFlag_other (th : Thread) {f g : Nat} (h : g ≠ f) (n : Nat) : (th.setFlag f n).flag g = th.flag g := by
  simp [Thread.flag, Thread.setFlag, Cells.getD_put_other h]

end Sys2Proof.Machine
end

