-- ==== Sys2Proof/Laws/Run.lean ====
section
/-! SUPPORT. How an instruction runs: a bundle of one thread, a bundle of one block; what a stop does. -/

namespace Sys2Proof.Machine

/-! The monad of effects. -/

theorem bind_ok {α β : Type} {m : M α} {f : α → M β} {s s' : State} {a : α} (h : m s = .ok (a, s')) :
    (m >>= f) s = f a s' := by
  show (StateT.bind m f) s = f a s'
  simp only [StateT.bind, h]
  rfl

theorem bind_error {α β : Type} {m : M α} {f : α → M β} {s : State} {e : Stop} (h : m s = .error e) :
    (m >>= f) s = .error e := by
  show (StateT.bind m f) s = .error e
  simp only [StateT.bind, h]
  rfl

@[simp] theorem pure_run {α : Type} (a : α) (s : State) : (pure a : M α) s = .ok (a, s) := rfl
@[simp] theorem getS_run (s : State) : getS s = .ok (s, s) := rfl
@[simp] theorem updS_run (f : State → State) (s : State) : updS f s = .ok ((), f s) := rfl
@[simp] theorem trap_run {α : Type} (c : Cause) (a : DWord) (w : Word) (s : State) : (trap c a w : M α) s = .error (.trap c a w) := rfl
@[simp] theorem stall_run {α : Type} (w : Wait) (s : State) : (stall w : M α) s = .error (.stall w) := rfl

/-! A bundle of one thread. -/

theorem laneStep_ok {i : Instr} {body : Nat → Nat → M Flow} {s s' : State} {b t : Nat} {fl : Flow}
    (hc : s.cur.contains (b, t) = true) (hk : laneCheck i s b t = none) (hb : body b t s = .ok (fl, s'))
    (ho : (outbound i && s.twinsDiffer b [t]) = false) : laneStep i body s (b, t) = s'.retire b t (wordsOf i) fl := by
  simp only [laneStep, hc, if_true, hk, hb, ho]
  rfl

theorem laneExec_one {i : Instr} {body : Nat → Nat → M Flow} {s s' : State} {b t : Nat} {fl : Flow}
    (hc : s.cur = [(b, t)]) (hk : laneCheck i s b t = none) (hb : body b t s = .ok (fl, s'))
    (ho : (outbound i && s.twinsDiffer b [t]) = false) : laneExec i body s = .next (s'.retire b t (wordsOf i) fl) := by
  have hcc : s.cur.contains (b, t) = true := by simp [hc]
  simp only [laneExec, hc, List.foldl_cons, List.foldl_nil, laneStep_ok hcc hk hb ho]

theorem laneExec_stop {i : Instr} {body : Nat → Nat → M Flow} {s : State} {b t : Nat} {st : Stop}
    (hc : s.cur = [(b, t)]) (hk : laneCheck i s b t = none) (hb : body b t s = .error st) :
    laneExec i body s = .next (s.stopAt b t st) := by
  have hcc : s.cur.contains (b, t) = true := by simp [hc]
  simp only [laneExec, hc, List.foldl_cons, List.foldl_nil, laneStep]
  rw [← hc, hcc, hk, hb]
  rfl

theorem laneExec_checked {i : Instr} {body : Nat → Nat → M Flow} {s : State} {b t : Nat} {st : Stop}
    (hc : s.cur = [(b, t)]) (hk : laneCheck i s b t = some st) : laneExec i body s = .next (s.stopAt b t st) := by
  have hcc : s.cur.contains (b, t) = true := by simp [hc]
  simp only [laneExec, hc, List.foldl_cons, List.foldl_nil, laneStep]
  rw [← hc, hcc, hk]
  rfl

/-- A body that always falls through. -/
theorem laneFall_ok {body : Nat → Nat → M Unit} {s s' : State} {b t : Nat} (h : body b t s = .ok ((), s')) :
    laneFall body b t s = .ok (.fall, s') := by
  unfold laneFall
  rw [bind_ok h]
  rfl

theorem laneFall_error {body : Nat → Nat → M Unit} {s : State} {b t : Nat} {e : Stop} (h : body b t s = .error e) :
    laneFall body b t s = .error e := by
  unfold laneFall
  rw [bind_error h]

/-! A bundle of one block. -/

theorem curBlocks_one {s : State} {b t : Nat} (hc : s.cur = [(b, t)]) : s.curBlocks = [b] := by
  rw [State.curBlocks, hc]
  rfl

theorem curTids_one {s : State} {b t : Nat} (hc : s.cur = [(b, t)]) : s.curTids b = [t] := by
  simp [State.curTids, hc]

/-- A uniform instruction that one thread reaches: it runs once, and the thread moves on while it is in the bundle. -/
theorem uniExec_one {i : Instr} {body : Nat → List Nat → M Flow} {s s' : State} {b t : Nat} {fl : Flow}
    (hc : s.cur = [(b, t)]) (hk : uniCheck i s b [t] = none) (hb : body b [t] s = .ok (fl, s'))
    (ho : (outbound i && s.twinsDiffer b [t]) = false) :
    uniExec i body s = .next (if s'.cur.contains (b, t) then s'.retire b t (wordsOf i) fl else s') := by
  simp only [uniExec, curBlocks_one hc, List.foldl_cons, List.foldl_nil, uniStep, curTids_one hc, hk, hb, ho,
    List.isEmpty_cons, Bool.false_eq_true, if_false]

theorem uniFall_ok {body : Nat → List Nat → M Unit} {s s' : State} {b : Nat} {ts : List Nat} (h : body b ts s = .ok ((), s')) :
    uniFall body b ts s = .ok (.fall, s') := by
  unfold uniFall
  rw [bind_ok h]
  rfl

theorem uniExec_stop {i : Instr} {body : Nat → List Nat → M Flow} {s : State} {b t : Nat} {st : Stop}
    (hc : s.cur = [(b, t)]) (hk : uniCheck i s b [t] = none) (hb : body b [t] s = .error st) :
    uniExec i body s = .next (s.stopAt b t st) := by
  simp only [uniExec, curBlocks_one hc, List.foldl_cons, List.foldl_nil, uniStep, curTids_one hc, hk, hb,
    List.isEmpty_cons, Bool.false_eq_true, if_false]
  simp [hc]

/-! Two changes in a row. -/

theorem Cells.set_set {α : Type} (k : Nat) (a b : α) (m : List (Nat × α)) : Cells.set k a (Cells.set k b m) = Cells.set k a m := by
  induction m with
  | nil => simp [Cells.set]
  | cons e m ih =>
    obtain ⟨j, c⟩ := e
    simp only [Cells.set]
    by_cases h : k < j
    · simp [h, Cells.set]
    · by_cases h2 : k = j
      · simp [h2, Cells.set]
      · simp [h, h2, Cells.set, ih]

theorem State.modBlock_modBlock (s : State) (b : Nat) (f g : Block → Block) :
    (s.modBlock b f).modBlock b g = s.modBlock b fun x => g (f x) := by
  cases h : s.getBlock b with
  | none => rw [State.modBlock_none h, State.modBlock_none h, State.modBlock_none h]
  | some x =>
    have h1 : s.modBlock b f = s.setBlock b (f x) := by unfold State.modBlock; rw [h]
    have h2 : (s.setBlock b (f x)).getBlock b = some (f x) := s.getBlock_setBlock_self b _
    have h3 : (s.modBlock b fun x => g (f x)) = s.setBlock b (g (f x)) := by unfold State.modBlock; rw [h]
    rw [h1, h3]
    unfold State.modBlock
    rw [h2]
    simp only [State.setBlock, Cells.set_set]

theorem State.modThread_modThread (s : State) (b t : Nat) (f g : Thread → Thread) :
    (s.modThread b t f).modThread b t g = s.modThread b t fun th => g (f th) := by
  unfold State.modThread
  rw [State.modBlock_modBlock]
  congr 1
  funext x
  unfold Block.getThread
  cases h : x.threads[t]? with
  | none => simp [h]
  | some th =>
    have hlt : t < x.threads.length := (List.getElem?_eq_some_iff.1 h).1
    simp [Block.setThread, hlt]

end Sys2Proof.Machine
end

