-- ==== Sys2Proof/Laws/Thread.lean ====
section
/-! SUPPORT. Steps that change one thread: leaving a bundle, dropping latches, retiring, stopping, trap entry. -/

namespace Sys2Proof.Machine

theorem OnlyThread.refl {s : State} {b t : Nat} {th : Thread} (h : s.getThread b t = some th) : OnlyThread s s b t th :=
  ⟨h, fun _ _ _ => rfl, fun _ => rfl, rfl, rfl, fun _ => rfl⟩

theorem OnlyThread.trans {s s1 s2 : State} {b t : Nat} {th th1 : Thread} (h : OnlyThread s s1 b t th)
    (g : OnlyThread s1 s2 b t th1) : OnlyThread s s2 b t th1 :=
  ⟨g.thread, fun b' t' n => (g.others b' t' n).trans (h.others b' t' n), fun b' => (g.blocks b').trans (h.blocks b'),
    g.rest.trans h.rest, g.flight.trans h.flight, fun pa => (g.memory pa).trans (h.memory pa)⟩

/-- A change of one thread leaves its block's other fields alone. -/
theorem block_modThread (s : State) (b t : Nat) (f : Thread → Thread) (b' : Nat) :
    { (s.modThread b t f).block b' with threads := [] } = { s.block b' with threads := [] } := by
  unfold State.block State.modThread
  by_cases h : b' = b
  · subst h
    cases hb : s.getBlock b' with
    | none => rw [State.modBlock_none hb, hb]
    | some x =>
      rw [State.getBlock_modBlock_self hb]
      simp only [Option.getD_some]
      split <;> rfl
  · rw [State.getBlock_modBlock_other _ h]

theorem onlyThread_mod {s : State} {b t : Nat} {th : Thread} (h : s.getThread b t = some th) (f : Thread → Thread) :
    OnlyThread s (s.modThread b t f) b t (f th) := by
  refine ⟨State.getThread_modThread_self h f, fun b' t' n => State.getThread_modThread_other s n f, block_modThread s b t f, ?_, ?_, ?_⟩
  · unfold State.modThread State.modBlock
    split <;> rfl
  · unfold State.modThread State.modBlock
    split <;> rfl
  · intro pa
    unfold State.modThread State.modBlock
    split <;> rfl

/-- A change of the bundles only. -/
theorem onlyThread_bundles {s : State} {b t : Nat} {th : Thread} (h : s.getThread b t = some th) (c : List (Nat × Nat))
    (u : List Bundle) : OnlyThread s { s with cur := c, bundles := u } b t th :=
  ⟨h, fun _ _ _ => rfl, fun _ => rfl, rfl, rfl, fun _ => rfl⟩

theorem onlyThread_leaveBundle {s : State} {b t : Nat} {th : Thread} (h : s.getThread b t = some th) :
    OnlyThread s (s.leaveBundle b t) b t { th with since := s.now } := by
  unfold State.leaveBundle
  have h1 := onlyThread_bundles h (s.cur.filter (· != (b, t)))
    ((s.bundles.map fun u => { u with members := u.members.filter (· != (b, t)) }).filter fun u => !u.members.isEmpty)
  exact h1.trans (onlyThread_mod h1.thread fun th => { th with since := s.now })

/-- What was to arrive in the latches of a clause left behind is dropped; nothing else changes (02 R41). -/
theorem onlyThread_dropLatches {s : State} {b t : Nat} {th : Thread} (h : s.getThread b t = some th) :
    OnlyThread s (s.dropLatches b t) b t th := by
  unfold State.dropLatches
  dsimp only
  split
  · refine ⟨h, fun _ _ _ => rfl, fun _ => rfl, rfl, ?_, fun _ => rfl⟩
    rw [List.map_map]
    apply List.map_congr_left
    intro o _
    dsimp only [Function.comp]
    split
    · split <;> rfl
    · rfl
  · exact OnlyThread.refl h

/-- The life and mark of a thread's block stay. -/
theorem OnlyThread.keeps {s s' : State} {b t : Nat} {th : Thread} (h : OnlyThread s s' b t th) {x : Block}
    (hx : s.getBlock b = some x) : (s'.block b).life = x.life ∧ (s'.block b).mark = x.mark ∧ (s'.block b).stopBy = x.stopBy ∧
      (s'.block b).kind = x.kind ∧ (s'.block b).tvec = x.tvec := by
  have e := h.blocks b
  rw [State.block_of_get hx] at e
  have e1 := congrArg Block.life e
  have e2 := congrArg Block.mark e
  have e3 := congrArg Block.stopBy e
  have e4 := congrArg Block.kind e
  have e5 := congrArg Block.tvec e
  exact ⟨e1, e2, e3, e4, e5⟩

theorem OnlyThread.now_eq {s s' : State} {b t : Nat} {th : Thread} (h : OnlyThread s s' b t th) : s'.now = s.now := by
  have e := congrArg State.now h.rest
  exact e

/-- The end of `State.retire`: a block that is not to stop lets its thread go on. -/
theorem stopPast_calm {s : State} {b t : Nat} {x : Block} (hx : (s.block b).life = x.life) (hm : (s.block b).mark = x.mark)
    (hr : x.life = .resident ∧ x.mark = none) : s.stopPast b t = s := by
  have : (s.block b).atWaits = false := by
    unfold Block.atWaits
    rw [hx, hm, hr.1, hr.2]
    rfl
  simp [State.stopPast, this]

/-- An instruction that falls through moves its thread on, and changes nothing else of the state. -/
theorem retire_fall {s : State} {b t words : Nat} {x : Block} {th : Thread} (hx : s.getBlock b = some x)
    (ht : s.getThread b t = some th) (hr : x.life = .resident ∧ x.mark = none) :
    OnlyThread s (s.retire b t words .fall) b t (th.advance words) := by
  have h1 := onlyThread_mod ht (·.advance words)
  have h2 := h1.trans (onlyThread_dropLatches h1.thread)
  unfold State.retire
  dsimp only
  have k := h2.keeps hx
  rw [stopPast_calm k.1 k.2.1 hr]
  exact h2

/-- A taken transfer puts its thread at the target's boundary. -/
theorem retire_goto {s : State} {b t words : Nat} {x : Block} {th : Thread} {pc : DWord} (hx : s.getBlock b = some x)
    (ht : s.getThread b t = some th) (hr : x.life = .resident ∧ x.mark = none) :
    OnlyThread s (s.retire b t words (.goto pc)) b t { th.jump pc with since := s.now } := by
  have h1 := onlyThread_mod ht (·.jump pc)
  have h2 := h1.trans (onlyThread_leaveBundle h1.thread)
  have h3 := h2.trans (onlyThread_dropLatches h2.thread)
  unfold State.retire
  dsimp only
  have k := h3.keeps hx
  rw [stopPast_calm k.1 k.2.1 hr]
  rw [h1.now_eq] at h3
  exact h3

/-- Trap entry of a thread that may take it in a handler (17 R395). -/
theorem trapEntry_lane {s : State} {b t : Nat} {x : Block} {th : Thread} (hx : s.getBlock b = some x)
    (ht : x.getThread t = some th) (hk : x.kind = .lane) (hf : th.inTrap = false) (hv : x.tvec ≠ 0)
    (ha : x.tvec.toNat % 4 = 0) (hc : canonical x.tvec = true) (c : Cause) (addr : DWord) (info : Word) (w r : DWord)
    (idx : Nat) :
    OnlyThread s (s.trapEntry b t c addr info w r idx) b t
      { th with
        tpc := r, taddr := addr, tinfo := info, tcause := w32 (2 ^ 31 + (idx % 32) * 2 ^ 24 + c.code)
        bankX := th.x, bankO := th.o, x := none, o := [], clause := [], clauseIdx := 0, pc := x.tvec, run := .ready
        since := s.now, twinBad := th.twinBad && c != .pairMis } := by
  have hg : s.getThread b t = some th := State.getThread_eq_some.2 ⟨x, hx, ht⟩
  have hth : s.thread b t = th := State.thread_of_get hg
  have hb : s.block b = x := State.block_of_get hx
  unfold State.trapEntry
  dsimp only
  rw [hb, hth, hk]
  dsimp only
  have hcond : (th.inTrap || x.tvec == 0 || x.tvec.toNat % 4 != 0 || !canonical x.tvec) = false := by
    rw [hf, hc, ha]
    simpa using hv
  rw [hcond]
  exact onlyThread_mod hg fun th => { th with
    tpc := r, taddr := addr, tinfo := info, tcause := w32 (2 ^ 31 + (idx % 32) * 2 ^ 24 + c.code)
    bankX := th.x, bankO := th.o, x := none, o := [], clause := [], clauseIdx := 0, pc := x.tvec, run := .ready
    since := s.now, twinBad := th.twinBad && c != .pairMis }

end Sys2Proof.Machine
end

