-- ==== Sys2Proof/Tests/Slice0.lean ====
section
/-! SUPPORT. Tests: the words the chapters print decode to what stands beside them, ill-formed words and terms are refused, the chapters' worked
examples come out, and every statement with hypotheses has a state that meets them. -/

open Sys2Proof Sys2Proof.Machine

set_option Elab.async false

namespace Sys2Proof.Tests

/-! Words printed in the chapters. -/

abbrev v (n : Fin 224) : LReg := .v n
abbrev u (n : Fin 64) : UReg := .s n

/-- Words with the instruction the spec prints beside each; the literal of a word that takes one stands third. -/
def decodesTo (l : List (Nat × Instr × Nat)) : Bool := l.all fun e => decide (decodeWord e.1 (some e.2.2) = .ok e.2.1)

/-- 02 R57's example, 03 R104, R105. -/
theorem test_words_control : decodesTo
    [(0xFE80001F, .clauseHeader 4 0 0 15 true, 0), (0xFE6003FE, .clauseHeader 3 1 15 15 false, 0), (0x0AF10009, .waitf 9, 0),
     (0x0B000000, .nop, 0), (0x08000000, .exit, 0)] = true := by decide

/-- 02 R57's example, 04 R119, 09_vector_programs.md. -/
theorem test_words_integer : decodesTo
    [(0x2DF00000, .lit .x 65536, 65536), (0x110902F0, .add (v 9) (v 2) .x, 0), (0x150A0809, .mullo (v 10) (v 8) (v 9), 0),
     (0x52060203, .madI16x2 (v 6) (v 2) (v 3), 0), (0x32211F15, .addSatI16x2 (v 33) (v 31) (v 21), 0),
     (0x34232122, .minI16x2 (v 35) (v 33) (v 34), 0), (0x2B0E2122, .setp 0 .gtP (v 33) (v 34), 0), (0x100B0A07, .clz (v 11) (v 10), 0),
     (0x24190911, .fshl (v 25) (v 9) (v 17), 0), (0x110202E0, .add (v 2) (v 2) (.q 0), 0)] = true := by decide

/-- 05 R138, R143, R147. -/
theorem test_words_float : decodesTo
    [(0x3B0A0203, .ffmaF32 (v 10) (v 2) (v 3), 0), (0x46010202, .fminF32 (v 1) (v 2), 0),
     (0x49080405, .dot4E4m3 (v 8) (v 4) (v 5), 0), (0x42020304, .ffmaH2 (v 2) (v 3) (v 4), 0),
     (0x3D06070A, .fcvt (v 6) (v 7) 0 false .e4m3e5m2, 0), (0x3D06072A, .fcvt (v 6) (v 7) 0 true .e4m3e5m2, 0),
     (0x4B0C1009, .bpx (v 12) (v 16) (v 9), 0)] = true := by decide

/-- 02 R57's example, 09_vector_programs.md, 07 R185, R193, R194, R195. -/
theorem test_words_memory : decodesTo
    [(0x58080420, .ldW32 (v 8) (v 4) 4 false .normal, 0), (0x5D0A0428, .stW32 (v 10) (v 4) 5 false .normal, 0),
     (0x6128262E, .stm (v 40) (v 38) (v 46), 0), (0x6118201E, .stm (v 24) (v 32) (v 30), 0),
     (0x6AF10205, .atom .zero (v 2) (v 5) { f := false, size := .w32, scope := .pkg, order := .relaxed, use := .com, op := .add }, 0x1040),
     (0x6C060440, .ldAcq (v 6) (v 4) .pkg .w32 false, 0), (0x6D010440, .stRel (v 1) (v 4) .pkg .w32 false, 0),
     (0x6EF10002, .fence .pkg, 0)] = true := by decide

/-- 08 R214 to R228, 09_vector_programs.md, 16_gangs.md. -/
theorem test_words_teams : decodesTo
    [(0x72F1F100, .tbar 0 .core, 0), (0x72F1F102, .tbar 0 .pkg, 0), (0x7505F120, .elect (v 5) 1 0, 0), (0x70F10320, .tjoin (v 3) 1 0, 0),
     (0x760706F0, .shfl (v 7) (v 6) .x, 0), (0x770A0905, .tred (v 10) (v 9) 0 .maxW, 0), (0x79280000, .ballot (v 40) 0 0, 0),
     (0x79290100, .ballot (v 41) 1 0, 0), (0x791E0200, .ballot (v 30) 2 0, 0)] = true := by decide

/-- 04 R123, R125. -/
theorem test_words_uniform : decodesTo
    [(0x80102061, .sadd (u 4) (u 4) (u 6) true, 0), (0x9C201022, .sld (u 8) (u 2) 2 false .w32, 0)] = true := by decide

/-- 11 R265, 13 R297 and its example. -/
theorem test_words_matrix_engines : decodesTo
    [(0xA02C6400, .mma (u 11) (u 12) .zero false, 0), (0xA2284400, .mmaz (u 10) (u 8) .zero false, 0), (0xA4388400, .bld (u 14) (u 16) false, 0),
     (0xA8489C00, .accld (u 18) (u 19) false, 0), (0xB1004401, .copy (u 8) false true, 0), (0xB1004408, .copy (u 8) true false, 0),
     (0xB9004C01, .alist (u 9) false true, 0), (0xBC260401, .ecancelAll (u 9), 0)] = true := by decide

/-- 12 R291, 14 R335. -/
theorem test_words_slices_scheduling : decodesTo
    [(0xD8420400, .hstream (u 16) 0, 0), (0xDA0A0400, .hloop (u 2) 0, 0), (0xDD004C06, .hpush (u 9) 6, 0), (0xE1005400, .hsyncDrain (u 10), 0),
     (0xE6120400, .budgetCyc (u 4), 0), (0xE8284400, .launch (u 10) (u 8) false, 0)] = true := by decide

/-- 15 R353, 16 R381. -/
theorem test_words_futures_gangs : decodesTo
    [(0xC0502080, .fspawn (u 20) (u 4) (u 8) false 0, 0), (0xC660A1A1, .fgetD (u 24) (u 20) (u 26) false, 0), (0xCC260400, .fself (u 9), 0),
     (0xD01A0400, .fordatt (u 6) false, 0), (0xD4160400, .fordq (u 5), 0), (0xD4285C01, .fordqState (u 10) (u 11), 0),
     (0xD6260400, .gsync (u 9) false, 0)] = true := by decide

/-- 17 R406, R407, R408, R414, R415, R416. -/
theorem test_words_system : decodesTo
    [(0xF1000050, .trap 5, 0), (0xF8103080, .tlbfill (u 4) (u 6) (u 8), 0), (0xF8082401, .tlbinv (u 2) (u 4), 0),
     (0xF8081C02, .walkdone (u 2) (u 3), 0), (0xFA204C00, .errpop (u 8) (u 9), 0), (0xFC286400, .hzwait (u 10) (u 12) false, 0)] = true := by decide

/-- The encoder gives the printed words back (03 R104, 04 R123, 07 R185, 17 R416). -/
theorem test_encode : encode (.waitf 9) = [0x0AF10009] ∧ encode (.sadd (u 4) (u 4) (u 6) true) = [0x80102061] ∧
    encode (.atom .zero (v 2) (v 5) { f := false, size := .w32, scope := .pkg, order := .relaxed, use := .com, op := .add }) = [0x6AF10205, 0x1040] ∧
    encode (.hzwait (u 10) (u 12) false) = [0xFC286400] := by decide

/-- What no row assigns, a reserved field, an unfilled operand and a missing literal are refused by name (02 R37, R43, R53). -/
theorem test_rejects : decodeWord 0 none = .error .unassigned ∧ decodeWord 0x0AF11009 none = .error .reservedField ∧
    decodeWord 0x2DF00000 none = .error .literalOutside ∧ decodeWord 0x6EF10007 none = .error .reservedField := by decide

/-! The checks of WellFormed, one ill-formed term each. -/

/-- Positions of operands: a reserved code, zero as no mask but a queue, a queue as a destination, tid as a destination (02 R38). -/
theorem wellFormed_refuses_operands : (Instr.add (v 1) (.resv 0) (v 2)).wellFormed = false ∧ (Instr.add (.q 0) (v 1) (v 2)).wellFormed = false ∧
    (Instr.add .tid (v 1) (v 2)).wellFormed = false ∧ (Instr.mad (.s 0) (v 1) (v 2)).wellFormed = false ∧
    (Instr.stm (v 4) (v 2) (.q 0)).wellFormed = false := by decide

/-- Groups: an odd pair, a group of four off its boundary, a group of eight past v223, a destination pair in s (02 R39, 05 R147). -/
theorem wellFormed_refuses_groups : (Instr.lea (v 3) (v 2) (v 0)).wellFormed = false ∧ (Instr.lea (v 2) (.o 1) (v 0)).wellFormed = false ∧
    (Instr.lea (.s 2) (v 2) (v 0)).wellFormed = false ∧ (Instr.rencI32 (v 2) (v 0)).wellFormed = false ∧
    (Instr.bpx (v 0) (v 220) (v 1)).wellFormed = false ∧ (Instr.ldW128 (v 6) (v 2) 0 false .normal).wellFormed = false := by decide

/-- Uniform operands: an unassigned code, an odd pair, an eight off its boundary (02 R36). -/
theorem wellFormed_refuses_uniform : (Instr.sadd (.resv 0) (u 0) (u 0) false).wellFormed = false ∧
    (Instr.sadd (u 1) (u 0) (u 0) true).wellFormed = false ∧ (Instr.hstream (u 4) 0).wellFormed = false := by decide

/-- Fields: a header's flag, a packed condition at an odd predicate, indices and sat of FCVT, orders and uses of atomics, a CAS operation, a team that
joins itself, a signed store, a loop level, an FSPAWN count, a CSR that is none or only read (the class chapters). -/
theorem wellFormed_refuses_fields : (Instr.clauseHeader 1 0 12 0 false).wellFormed = false ∧ (Instr.setp 1 .eqP (v 0) (v 0)).wellFormed = false ∧
    (Instr.fcvt (v 0) (v 0) 2 false .f32f16).wellFormed = false ∧ (Instr.fcvt (v 0) (v 0) 0 true .f32f16).wellFormed = false ∧
    (Instr.atom (v 0) (v 2) (v 4) { f := false, size := .w32, scope := .pkg, order := .acq, use := .com, op := .add }).wellFormed = false ∧
    (Instr.atom (v 0) (v 2) (v 4) { f := false, size := .w32, scope := .pkg, order := .relaxed, use := .com, op := .add }).wellFormed = false ∧
    (Instr.cas (v 0) (v 2) (v 4) { f := false, size := .w32, scope := .pkg, order := .relaxed, use := .unp, op := .sub }).wellFormed = false ∧
    (Instr.tjoin (v 0) 1 1).wellFormed = false ∧ (Instr.sst (u 0) (u 2) 0 false .i8).wellFormed = false ∧ (Instr.hloop (u 0) 4).wellFormed = false ∧
    (Instr.fspawn (u 0) (u 2) (u 8) false 5).wellFormed = false ∧ (Instr.csrr (u 0) 0x999).wellFormed = false ∧
    (Instr.csrw (u 0) 0x300).wellFormed = false ∧ (Instr.csrr (u 0) 0x010).wellFormed = false ∧ (Instr.csrwThread 0 0x102).wellFormed = false := by decide

/-! A small world for the witnesses: one block of context 1 in slot 0 of core 0, with one thread in a clause at 0x1004 whose flags are f0 and f1. -/

/-- A header of 15 words with flags A = f0 and B = f1. -/
def hdr : Word := w32 (headerWord 15 0 0 1 0)

/-- The thread: v2:v3 is the address 0x10040, the other registers are small numbers. -/
def th0 : Thread :=
  { Thread.init 0x1004 0 with
    clauseIdx := 1, clause := hdr :: List.replicate 15 0x0B000000, x := some 7
    v := [(0, 3), (1, 5), (2, 0x10040), (4, 9), (8, 6), (9, 1), (12, 2), (16, 4)] }

/-- The block: handler at 0x1000, t0 its one thread, s2:s3 the address 0x10040, s4:s5 the scratchpad's. -/
def blk0 : Block :=
  { Block.absent with
    ctx := 1, life := .resident, placed := true, allot := 224, full := 224, pro := 224, spLen := 256, tvec := 0x1000
    teams := ⟨1, 0, 0⟩ :: List.replicate 7 ⟨0, 0, 0⟩, cached := List.range 224
    s := [(0, 11), (1, 0), (2, 0x10040), (4, 0xFFFC0000), (5, 0xFFFFFFFF), (6, 8)], threads := [th0] }

/-- A block alone in the package, its first thread the bundle; 0x1000 holds code, 0x10000 data, and 0x40000 maps the registers of slot 0. -/
def st (x : Block) : State :=
  { State.reset with
    now := 100, cur := [(0, 0)], blocks := [(0, x)]
    ipath := (List.replicate 16 (leBytes 4 (headerWord 1 0 15 15 0))).flatten.zipIdx.map fun e => (viewKey 0 none (0x1000 + e.2), e.1)
    clusters := [(0, { ClusterState.init with
      tlb := [⟨1, 0x1000, 0, 0x1000, false, true, false, false⟩, ⟨1, 0x10000, 0, 0x10000, true, false, true, false⟩,
        ⟨1, 0x40000, 0, chipBase, true, false, true, true⟩] })] }

/-- A thread in the block. -/
def one (th : Thread) : State := st { blk0 with threads := [th] }

def st0 : State := one th0

theorem issues_of {i : Instr} {x : Block} {th : Thread} (h : laneCheck i (st x) 0 0 = none) (ht : x.threads = [th]) : Claims.Issues i (st x) 0 0 := by
  refine ⟨rfl, h, ?_⟩
  simp [State.getThread, State.getBlock, st, Cells.get?, Block.getThread, ht]

theorem runs_of {i : Instr} {x : Block} {th : Thread} (h : laneCheck i (st x) 0 0 = none) (ht : x.threads = [th])
    (hr : x.life = .resident ∧ x.mark = none) (hw : th.twinBad = false) : Claims.Runs i (st x) 0 0 x th :=
  ⟨issues_of h ht, rfl, by simp [Block.getThread, ht], hr, hw⟩

theorem stands_of {x : Block} {th : Thread} (ht : x.threads = [th]) (hr : x.life = .resident ∧ x.mark = none) : Claims.Stands (st x) 0 0 x th :=
  ⟨rfl, rfl, by simp [Block.getThread, ht], hr⟩

theorem runsU_of {i : Instr} {x : Block} {th : Thread} (h : uniCheck i (st x) 0 [0] = none) (ht : x.threads = [th])
    (hr : x.life = .resident ∧ x.mark = none) (hw : th.twinBad = false) : Claims.RunsU i (st x) 0 0 x th :=
  ⟨stands_of ht hr, h, hw⟩

/-- The world's thread may take a trap. -/
theorem canTrap0 : Claims.CanTrap st0 0 0 { blk0 with threads := [th0] } th0 :=
  ⟨rfl, rfl, rfl, by decide, by decide, by decide, ⟨rfl, rfl⟩⟩

theorem canTrap_one {th : Thread} (h : th.tcause.msb = false) (hi : th.clauseIdx < 32) : Claims.CanTrap (one th) 0 0 { blk0 with threads := [th] } th :=
  ⟨rfl, rfl, rfl, h, canTrap0.vector, hi, ⟨rfl, rfl⟩⟩

/-- Read operands one after another. -/
def readRun (b t : Nat) : List (LReg × Nat) → State → Except Stop (List (List Word) × State)
  | [], s => .ok ([], s)
  | (r, n) :: os, s =>
    match (if n = 1 then (src b t r s).map (fun p => ([p.1], p.2)) else srcN b t r n s) with
    | .error e => .error e
    | .ok (ws, s1) =>
      match readRun b t os s1 with
      | .error e => .error e
      | .ok (vs, s2) => .ok (ws :: vs, s2)

theorem reads_of {b t : Nat} {os : List (LReg × Nat)} : ∀ {s s' : State} {vs : List (List Word)}, readRun b t os s = .ok (vs, s') → Claims.Reads b t os vs s s' := by
  induction os with
  | nil => intro s s' vs h; simp only [readRun, Except.ok.injEq, Prod.mk.injEq] at h; exact ⟨h.1.symm, h.2.symm⟩
  | cons e os ih =>
    obtain ⟨r, n⟩ := e
    intro s s' vs h
    simp only [readRun] at h
    split at h
    · exact absurd h (by simp)
    · rename_i ws s1 hw
      split at h
      · exact absurd h (by simp)
      · rename_i vs1 s2 hr
        simp only [Except.ok.injEq, Prod.mk.injEq] at h
        obtain ⟨rfl, rfl⟩ := h
        refine ⟨ws, s1, vs1, ?_, ih hr, rfl⟩
        by_cases hn : n = 1
        · simp only [hn, if_true] at hw ⊢
          cases hs : src b t r s with
          | error e => rw [hs] at hw; simp [Except.map] at hw
          | ok p =>
            obtain ⟨w, s3⟩ := p
            rw [hs] at hw
            simp only [Except.map, Except.ok.injEq, Prod.mk.injEq] at hw
            obtain ⟨rfl, rfl⟩ := hw
            exact ⟨rfl, rfl⟩
        · simp only [hn, if_false] at hw ⊢
          exact hw

/-- Can a computing instruction's operands be read where it issues? -/
def readable (s : State) (i : Instr) : Bool :=
  decide (laneCheck i s 0 0 = none) &&
  match Claims.laneTable i with
  | some o => match readRun 0 0 o.reads s with | .ok _ => true | .error _ => false
  | none => false

/-! One or more of every computing lane instruction. -/

def integers : List Instr :=
  [.mov (v 4) (v 1), .neg (v 4) (v 1), .negSatI32 (v 4) (v 1), .abs (v 4) (v 1), .absSatI32 (v 4) (v 1), .not (v 4) (v 1), .popc (v 4) (v 1),
   .clz (v 4) (v 1), .ctz (v 4) (v 1), .brev (v 4) (v 1), .cvtiI8 (v 4) (v 1), .cvtiW8 (v 4) (v 1), .cvtiI16 (v 4) (v 1), .cvtiW16 (v 4) (v 1),
   .cvtiI64 (v 4) (v 1), .cvtiW64 (v 4) (v 1), .cvtiSatI8 (v 4) (v 1), .cvtiSatW8 (v 4) (v 1), .cvtiSatI16 (v 4) (v 1), .cvtiSatW16 (v 4) (v 1),
   .cvtiSatW32 (v 4) (v 1), .cvtiSatI32 (v 4) (v 0), .add (v 4) (v 1) (v 0), .sub (v 4) (v 1) (v 0), .mullo (v 4) (v 1) (v 0),
   .mulhiI32 (v 4) (v 1) (v 0), .mulhiW32 (v 4) (v 1) (v 0), .mad (v 4) (v 1) (v 0), .minI32 (v 4) (v 1) (v 0), .minW32 (v 4) (v 1) (v 0),
   .maxI32 (v 4) (v 1) (v 0), .maxW32 (v 4) (v 1) (v 0), .and (v 4) (v 1) (v 0), .or (v 4) (v 1) (v 0), .xor (v 4) (v 1) (v 0), .andn (v 4) (v 1) (v 0),
   .shl (v 4) (v 1) (v 0), .shr (v 4) (v 1) (v 0), .sar (v 4) (v 1) (v 0), .fshl (v 4) (v 1) (v 0), .fshr (v 4) (v 1) (v 0), .rotl (v 4) (v 1) (v 0),
   .bfx (v 4) (v 1) (v 0), .bfi (v 4) (v 1) (v 0), .prmt (v 4) (v 1) (v 0), .sel (v 4) (v 1) (v 0), .movi (v 4) 9, .lit (v 4) 9,
   .lea (v 4) (v 2) (v 0), .sad (v 4) (v 1) (v 0)]

def packed : List Instr :=
  [.addI16x2 (v 4) (v 1) (v 0), .subI16x2 (v 4) (v 1) (v 0), .addSatI16x2 (v 4) (v 1) (v 0), .subSatI16x2 (v 4) (v 1) (v 0), .minI16x2 (v 4) (v 1) (v 0),
   .maxI16x2 (v 4) (v 1) (v 0), .minW16x2 (v 4) (v 1) (v 0), .maxW16x2 (v 4) (v 1) (v 0), .madI16x2 (v 4) (v 1) (v 0)]

def floats : List Instr :=
  [.faddF32 (v 4) (v 1) (v 0), .fsubF32 (v 4) (v 1) (v 0), .fmulF32 (v 4) (v 1) (v 0), .ffmaF32 (v 4) (v 1) (v 0), .faddH2 (v 4) (v 1) (v 0),
   .fmulH2 (v 4) (v 1) (v 0), .ffmaH2 (v 4) (v 1) (v 0), .faddB2 (v 4) (v 1) (v 0), .fmulB2 (v 4) (v 1) (v 0), .ffmaB2 (v 4) (v 1) (v 0),
   .fsubH2 (v 4) (v 1), .fsubB2 (v 4) (v 1), .fminF32 (v 4) (v 1), .fmaxF32 (v 4) (v 1), .fminH2 (v 4) (v 1), .fmaxH2 (v 4) (v 1), .fminB2 (v 4) (v 1),
   .fmaxB2 (v 4) (v 1), .dot2H2 (v 4) (v 1) (v 0), .dot2B2 (v 4) (v 1) (v 0), .dot4E4m3 (v 4) (v 1) (v 0), .dot4E5m2 (v 4) (v 1) (v 0)]

def conversions : List Instr :=
  [.frcp (v 4) (v 1), .frsq (v 4) (v 1), .fsqrt (v 4) (v 1), .fexp2 (v 4) (v 1), .flog2 (v 4) (v 1), .fsin (v 4) (v 1), .fcos (v 4) (v 1),
   .frnd (v 4) (v 1) .rd, .fcvt (v 4) (v 8) 0 false .e4m3f32, .fcvt (v 4) (v 1) 3 false .f32e4m3, .fcvti (v 4) (v 1) .rz .i64, .fcvti (v 4) (v 1) .rz .w8,
   .icvtf (v 4) (v 1) .rn .i32, .icvtf (v 4) (v 1) .rn .w32, .icvtf (v 4) (v 2) .rn .i64, .icvtf (v 4) (v 2) .rn .w64, .bpx (v 4) (v 8) (v 0)]

def residues : List Instr :=
  [.rencI32 (v 4) (v 1), .rencI64 (v 4) (v 2), .radd (v 4) (v 8) (v 12), .rmul (v 4) (v 8) (v 12), .rdec (v 4) (v 8) (v 1), .rchk (v 4) (v 8) (v 1)]

/-- Every computing instruction issues with its operands readable (O1, O2, O3, O5). -/
theorem witness_computing : (integers.all (readable st0) && packed.all (readable st0) && floats.all (readable st0) && conversions.all (readable st0) &&
    residues.all (readable st0)) = true := by decide +kernel

theorem readable_meets {i : Instr} (h : readable st0 i = true) :
    ∃ o vs s1, Claims.laneTable i = some o ∧ Claims.Issues i st0 0 0 ∧ Claims.Reads 0 0 o.reads vs st0 s1 := by
  unfold readable at h
  simp only [Bool.and_eq_true, decide_eq_true_eq] at h
  obtain ⟨h1, h2⟩ := h
  split at h2
  · rename_i o ho
    split at h2
    · rename_i p hp
      exact ⟨o, p.1, p.2, ho, issues_of h1 rfl, reads_of hp⟩
    · exact absurd h2 (by decide)
  · exact absurd h2 (by decide)

/-- What each computing instruction does from the small world is defined: O1, O2, O3 and O5 speak about it. -/
theorem witness_computing_add : ∃ o vs s1, Claims.laneTable (.add (v 4) (v 1) (v 0)) = some o ∧
    Claims.Issues (.add (v 4) (v 1) (v 0)) st0 0 0 ∧ Claims.Reads 0 0 o.reads vs st0 s1 := readable_meets (by decide +kernel)

/-- O4, O5: the predicate instructions issue with their operands readable, and go on. -/
theorem witness_predicates : ([.addc (v 4) (v 1) (v 0), .subb (v 4) (v 1) (v 0), .setp 0 .gtP (v 1) (v 0), .setv (v 4) 7].all fun i =>
    decide (laneCheck i st0 0 0 = none) && goesOn (exec i st0) &&
    match Claims.predTable i with
    | some o => match readRun 0 0 o.1 st0 with | .ok _ => true | .error _ => false
    | none => false) = true := by decide +kernel

theorem witness_add_goes_on : goesOn (exec (.add (v 4) (v 1) (v 0)) st0) = true := by decide +kernel

/-- A thread with o1 set and no x. -/
def thO : Thread := { th0 with x := none, o := [(1, 4)] }

/-- A load in flight to v8 of the thread. -/
def opV8 : MemOp :=
  { id := 1, blk := 0, tids := [0], uniform := false, core := 0, kind := .load false, flag := some 0, dst := .lane (v 8) 1, tgts := [], data := []
    ea := 0x10040, nol1 := false, scope := .core, acq := false, rel := false, inView := none, clob := false, after := [] }

/-- O6: each kind of operand, with no result in flight to it, and one with a load in flight to it. -/
theorem witness_operands : st0.lanePending 0 0 (v 223) = false ∧ (st0.thread 0 0).x = some 7 ∧ st0.lanePending 0 0 .x = false ∧
    ((one thO).thread 0 0).x = none ∧ (one thO).lanePending 0 0 .x = false ∧ Cells.get? 1 ((one thO).thread 0 0).o = some 4 ∧
    Cells.get? 7 ((one thO).thread 0 0).o = none ∧ (one thO).lanePending 0 0 (.o 7) = false ∧ st0.lanePending 0 0 .tid = false ∧
    st0.lanePending 0 0 (.s 7) = false ∧ st0.uniPending 0 7 = false ∧ st0.lanePending 0 0 .zero = false ∧
    ({ st0 with ops := [opV8] } : State).lanePending 0 0 (v 8) = true ∧ isQueue (v 8) = false := by decide +kernel

/-- A slice with queue 0 at some tail. -/
def sliceAt (tail : Nat) (block ended : Bool) : Slice :=
  { Slice.none with queues := [(0, { tail, bhead := 0, block, mark := [], bval := [] })], ended }

/-- The access to a queue's entry at place 0 in flight. -/
def flight0 (q : Nat) : Flight := { kind := .entry q 0, words := [(0, 77)] }

/-- A compute block whose queue 0 is that of the slice in block 1. -/
def stQ (sl : Slice) : State :=
  let s := st { blk0 with partners := [1] }
  { s with blocks := s.blocks ++ [(1, { Block.absent with ctx := 1, life := .resident, kind := .headwater, pairOf := some 0, slice := some sl, threads := [Thread.init 0x1000 0] })] }

/-- O6: a block queue, an ended and an empty one, one whose head is in flight, and one with an entry. -/
theorem witness_queues : (stQ (sliceAt 1 true false)).queueSlice ((stQ (sliceAt 1 true false)).block 0) 0 = some (1, sliceAt 1 true false) ∧
    ((stQ (sliceAt 1 true false)).getThread 0 0).isSome = true ∧ ((sliceAt 1 true false).queue 0).block = true ∧
    ((sliceAt 0 false true).queue 0).tail = 0 ∧ (sliceAt 0 false true).ended = true ∧ ((sliceAt 0 false false).queue 0).block = false ∧
    ({ sliceAt 1 false false with flight := [flight0 0] } : Slice).inFlight 0 0 = true ∧ (sliceAt 1 false false).inFlight 0 0 = false ∧
    (sliceAt 1 false false).markOf 0 0 = none ∧ ((sliceAt 1 false false).queue 0).tail = 1 := by decide +kernel

/-- O7: a thread that may take its trap, one in its handler, a block without a handler, a slice, and a walk slot. -/
theorem witness_traps : Claims.CanTrap st0 0 0 { blk0 with threads := [th0] } th0 ∧ (0 ∈ st0.killSet 0) ∧
    ({ th0 with tcause := 0x80000000 } : Thread).tcause.msb = true ∧ ({ blk0 with tvec := 0 } : Block).tvec = 0 ∧ blk0.life ≠ .done ∧
    ((stQ (sliceAt 0 false false)).block 1).kind = .headwater ∧ ({ blk0 with kind := .walker } : Block).kind = .walker :=
  ⟨canTrap0, by decide +kernel⟩

/-- O8: an ill-formed word, a queue operand without a slice, a literal past the clause, an operand past the allotment, and a register line not in the
cache. -/
theorem witness_checks : Claims.isLaneOp (.add .tid (v 1) (v 0)) = true ∧ (Instr.add .tid (v 1) (v 0)).wellFormed = false ∧
    (Instr.add (v 4) (.q 7) (v 0)).wellFormed = true ∧ blk0.hasPair = false ∧ (Instr.lit (v 4) 0).takesLiteral = true ∧
    ({ th0 with clauseIdx := 15 } : Thread).clauseIdx = clauseCount (({ th0 with clauseIdx := 15 } : Thread).clause.headD 0) ∧
    (beyondAllot (.add (v 4) (v 16) (v 0)) { blk0 with allot := 16 }).map (·.reg) = some (v 16) ∧
    beyondAllot (.add (v 4) (v 15) (v 0)) { blk0 with allot := 16 } = none ∧
    lineMissing (.add (v 4) (v 15) (v 0)) { blk0 with cached := [] } 0 ≠ none := by decide +kernel

/-- O9: TRAP, BKPT and ERET pass their checks; the handler's thread resumes at a header, and in its clause. -/
theorem witness_trap_eret : Claims.CanTrap st0 0 0 { blk0 with threads := [th0] } th0 ∧ laneCheck (.bkpt 0xFFFF) st0 0 0 = none ∧
    uniCheck (.trap 0x3FFF) st0 0 [0] = none ∧ uniCheck .eret st0 0 [0] = none ∧
    ({ th0 with tcause := 0x80000001 } : Thread).tcause.toNat / 2 ^ 24 % 32 = 0 ∧
    uniCheck .eret (one { th0 with tcause := 0x80000001 }) 0 [0] = none ∧
    ({ th0 with tcause := 0x91000001 } : Thread).tcause.toNat / 2 ^ 24 % 32 = 17 :=
  ⟨canTrap0, by decide +kernel⟩

/-- The thread at the last word of its clause, with a return address of the code page. -/
def thEnd : Thread := { th0 with clauseIdx := 15, stack := [0x1000], v := [(2, 0x1000), (4, 0x1002), (6, 0x10040)] }
/-- A thread whose stack is full. -/
def thFull : Thread := { thEnd with stack := List.replicate 64 0x1000 }

/-- O10: the transfers with a good target, one of each; BRP at its predicate's two values. -/
theorem witness_transfers : (([(.bra (-1), 0x1000), (.brn 0 (-1), 0x1000), (.brx (v 2), 0x1000), (.call (-1), 0x1000), (.callx (v 2), 0x1000), (.ret, 0x1000)] : List (Instr × DWord)).all
      fun e => decide (laneCheck e.1 (one thEnd) 0 0 = none) && (Claims.transfer e.1 thEnd 0x1000).any fun o => o.any fun p => p.1 == e.2) = true ∧
    (Claims.transfer (.brp 0 0) thEnd 0) = some none ∧ laneCheck (.brp 0 0) (one thEnd) 0 0 = none ∧
    src2 0 0 (v 2) (one thEnd) = .ok (0x1000, one thEnd) ∧ thEnd.stack ≠ [] ∧ thEnd.stack.length < 64 ∧ (0x1000 : DWord).toNat % 4 = 0 ∧
    (match (one thEnd).codeWord 0 0x1000 with | .ok w => w.toNat / 2 ^ 25 == 127 | .error _ => false) = true ∧
    (Claims.Runs (.callx (v 2)) (one thEnd) 0 0 { blk0 with threads := [thEnd] } thEnd) :=
  ⟨by decide +kernel, by decide +kernel, by decide +kernel, by decide +kernel, by decide, by decide, by decide, by decide +kernel,
   runs_of (by decide +kernel) rfl ⟨rfl, rfl⟩ rfl⟩

/-- O10: a target that is not aligned, a full stack and an empty one. -/
theorem witness_bad_transfers : Claims.CanTrap (one thFull) 0 0 { blk0 with threads := [thFull] } thFull ∧
    laneCheck (.brx (v 4)) (one thFull) 0 0 = none ∧ src2 0 0 (v 4) (one thFull) = .ok (0x1002, one thFull) ∧ (0x1002 : DWord).toNat % 4 ≠ 0 ∧
    laneCheck (.call (-1)) (one thFull) 0 0 = none ∧ 64 ≤ thFull.stack.length ∧ laneCheck .ret st0 0 0 = none ∧ th0.stack = [] :=
  ⟨canTrap_one rfl (by decide), by decide +kernel⟩

/-- The thread at the boundary of the clause at 0x1000, and one whose f3 counts two. -/
def thAt : Thread := { th0 with pc := 0x1000, clauseIdx := 0, clause := [] }
def thWait : Thread := { thAt with flags := [(3, 2)] }
/-- Its f0 counted a command. -/
def thCmd : Thread := { thAt with cmds := [(0, .pkg)] }

/-- O11: a header of one word and of sixteen whose flags are zero, one whose flags are not; one with a command waited for. -/
theorem witness_headers : Claims.Stands (one thAt) 0 0 { blk0 with threads := [thAt] } thAt ∧ Claims.setOk 15 ∧ Claims.setOk 11 ∧
    Claims.countsZero thAt 0xFFF ∧ ¬Claims.countsZero thWait 8 ∧
    (match (one thAt).codeWords 0 0x1004 15 with | .ok ws => ws.length == 15 | .error _ => false) = true ∧
    (one thCmd).specPending 0 [0] (one thCmd).seq = false ∧ ∀ e ∈ thCmd.cmds, (1 : BitVec 12).getLsbD e.1 = true :=
  ⟨stands_of rfl ⟨rfl, rfl⟩, .inr rfl, .inl (by decide), by unfold Claims.countsZero; decide, by unfold Claims.countsZero; decide, by decide +kernel, by decide +kernel, by decide⟩

/-- O11: a header inside a body, and bad flags at a boundary. -/
theorem witness_misplaced_headers : Claims.CanTrap st0 0 0 { blk0 with threads := [th0] } th0 ∧ th0.clauseIdx ≠ 0 ∧
    Claims.CanTrap (one thAt) 0 0 { blk0 with threads := [thAt] } thAt ∧ thAt.clauseIdx = 0 ∧ ¬Claims.setOk 12 ∧ ¬Claims.setOk 14 :=
  ⟨canTrap0, by decide, canTrap_one rfl (by decide), rfl, by unfold Claims.setOk; decide, by unfold Claims.setOk; decide⟩

/-- O12: NOP, WAITF in its three cases and a bad WAITF word, ACQUIRE with and without the full allotment, RECONV, and EXIT. -/
theorem witness_waits : (∀ i ∈ [.nop, .waitf 0xFFF, .acquire, .reconv 0, .exit], Claims.Runs i st0 0 0 { blk0 with threads := [th0] } th0) ∧
    Claims.countsZero th0 0xFFF ∧ ¬Claims.countsZero { th0 with flags := [(0, 1)] } 1 ∧
    laneCheck (.waitf 1) (one { th0 with flags := [(0, 1)] }) 0 0 = none ∧ ((0x0AF21009 : Word).toNat / 2 ^ 24 = 0x0A ∧ (0x0AF21009 : Word).toNat / 2 ^ 12 % 2 ^ 4 ≠ 0) ∧
    (one { th0 with clause := hdr :: List.replicate 15 0x0AF21009 }).cur = [(0, 0)] ∧ ({ th0 with clause := hdr :: List.replicate 15 0x0AF21009 } : Thread).clause[1]? = some 0x0AF21009 ∧
    blk0.allot = blk0.full ∧ Claims.Runs .acquire (st { blk0 with allot := 16, threads := [th0] }) 0 0 { blk0 with allot := 16, threads := [th0] } th0 ∧
    th0.teams.getLsbD 0 = true ∧ (blk0.teams.getD 0 ⟨0, 0, 0⟩).members ≠ 0 ∧ blk0.slice = none ∧ blk0.partners = [] := by
  refine ⟨?_, by unfold Claims.countsZero; decide, by unfold Claims.countsZero; decide, by decide +kernel, by decide, rfl, by decide, rfl,
    runs_of (by decide +kernel) rfl ⟨rfl, rfl⟩ rfl, by decide, by decide, rfl, rfl⟩
  intro i hi
  refine runs_of ?_ rfl ⟨rfl, rfl⟩ rfl
  revert i
  decide +kernel

/-- A thread that waits for a line of code. -/
def thFetch : Thread := { thAt with run := .stalled (.fetch 0x2040 none) }

/-- O12: a thread waiting for flags that are zero, for a full flag that is not, for a register line, for its allotment, and for code. -/
theorem witness_wait_events : ((one { thAt with run := .stalled (.flags 3) }).thread 0 0).run = .stalled (.flags 3) ∧ Claims.countsZero thAt 3 ∧
    ({ thAt with run := .stalled (.flagFull 11) } : Thread).flag 11 < 7 ∧ blk0.inSlot = true ∧ (223 : Nat) < 224 ∧ (63 : Nat) < 64 ∧
    ({ blk0 with acqpend := true } : Block).inSlot = true ∧ (one thFetch).reach noCore (0x2040 / 64 * 64) = true ∧
    ({ blk0 with threads := [thFetch] } : Block).getThread 0 = some thFetch :=
  ⟨rfl, by unfold Claims.countsZero; decide, by decide, by decide, by decide, by decide, by decide, by decide +kernel, rfl⟩

/-! Loads and stores. -/

/-- What an access reaches: n bytes, none in the on-chip map or all of them, and then nothing to wait for or an earlier operation. -/
def reaches (n : Nat) (chip waits : Bool) (ts : List Tgt) (s : State) : Bool :=
  ts.length == n && (s.getThread 0 0).isSome && (ts.all fun u => s.onChip 0 u == chip) &&
    (s.chipWait { Claims.laneOp s 0 0 .store 0 ts none with id := s.seq, scope := .pkg }).isSome == waits

/-- A load or store whose address, data and checks pass from a state. -/
def accessOk (chip waits : Bool) (i : Instr) (s : State) : Bool :=
  decide (laneCheck i s 0 0 = none) && decide ((s.block 0).oxbow = none) && decide ((s.thread 0 0).twinBad = false) &&
  match Claims.loadForm i, Claims.storeForm i with
  | some F, _ =>
    (match src2 0 0 F.addr s with
     | .ok (base, s1) =>
       (match checkAccess 0 [0] (Claims.accessOf .read false F.align (base + BitVec.ofInt 64 F.off) F.bytes) s1 with
        | .ok (ts, s2) => reaches F.bytes chip waits ts s2
        | .error _ => false)
     | .error _ => false)
  | none, some F =>
    (match src2 0 0 F.addr s with
     | .ok (base, s1) =>
       (match (if F.bytes ≤ 4 then (src 0 0 F.source s1).map (·.2) else (srcN 0 0 F.source (F.bytes / 4) s1).map (·.2)) with
        | .ok s2 =>
          (match checkAccess 0 [0] (Claims.accessOf .write F.fill F.bytes (base + BitVec.ofInt 64 F.off) F.bytes) s2 with
           | .ok (ts, s3) => reaches F.bytes chip waits ts s3
           | .error _ => false)
        | .error _ => false)
     | .error _ => false)
  | none, none => false

/-- The thread whose v2:v3 is an address of the scratchpad window. -/
def thPad : Thread := { th0 with v := [(1, 5), (2, 0xFFFC0040), (3, 0xFFFFFFFF), (4, 9), (8, 6), (40, 0x5)] }

def accesses : List Instr :=
  [.ldW8 (v 4) (v 2) (-16) false .normal, .ldI8 (v 4) (v 2) 15 false .once, .ldW16 (v 4) (v 2) 0 true .keep, .ldI16 (v 4) (v 2) 0 false .nol1,
   .ldW32 (v 4) (v 2) 0 false .normal, .ldW64 (v 4) (v 2) 0 false .normal, .ldW128 (v 4) (v 2) 1 false .normal, .ldxW32 (v 4) (v 2) 3 false,
   .ldxW64 (v 4) (v 2) 3 false, .stW8 (v 4) (v 2) 0 false .normal, .stW16 (v 4) (v 2) 0 false .normal, .stW32 (v 4) (v 2) 0 false .normal,
   .stW64 (v 4) (v 2) 0 false .normal, .stW128 (v 4) (v 2) 0 false .normal]

/-- The thread whose v2:v3 is the register line 1 of its own slot, and its world with a load in flight there. -/
def thChip : Thread := { th0 with v := [(1, 5), (2, 0x40040), (4, 9), (8, 6)] }
def stChipBusy : State := { one thChip with ops := [{ opV8 with tgts := [.win 0 0 1 0] }], seq := 5 }

/-- O13: every load and store issues at the data page and at the register window, ST.FILL at the scratchpad; one waits for an earlier access of its
thread to the window. -/
theorem witness_loads_stores : accesses.all (accessOk false false · st0) = true ∧
    accessOk false false (.stFill (v 4) (v 2) 0 false .normal) (one thPad) = true ∧ accesses.all (accessOk true false · (one thChip)) = true ∧
    accessOk true true (.ldW32 (v 4) (v 2) 0 false .normal) stChipBusy = true ∧ accessOk true true (.stW8 (v 4) (v 2) 0 false .normal) stChipBusy = true := by
  decide +kernel

/-- A store under a mask from a state: address, mask, data, and the checks of the bytes the mask selects. -/
def stmOk (d a m : LReg) (s : State) (empty : Bool) : Bool :=
  decide (laneCheck (.stm d a m) s 0 0 = none) &&
  match src2 0 0 a s with
  | .error _ => false
  | .ok (base, s1) =>
    match src 0 0 m s1 with
    | .error _ => false
    | .ok (mk, s2) =>
      match srcN 0 0 d 4 s2 with
      | .error _ => false
      | .ok (ws, s3) =>
        ws.length == 4 && if empty then mk.toNat % 65536 == 0 else mk.toNat % 65536 != 0 &&
          match checkAccess 0 [0] { kind := .write, fe := false, align := 1
                                    eas := ((List.range 16).filter fun i => mk.getLsbD i).map fun i => base + BitVec.ofNat 64 i } s3 with
          | .ok (ts, s4) => !ts.isEmpty && reaches ts.length false false ts s4
          | .error _ => false

/-- O13: an STM with a mask, and one whose mask is empty. -/
theorem witness_stm : stmOk (v 4) (v 2) (v 1) st0 false = true ∧ stmOk (v 4) (v 2) (v 20) st0 true = true := by decide +kernel

/-- The scratchpad's first granules full. -/
def stFull : State := { one thPad with blocks := [(0, { blk0 with spFull := [4, 5], threads := [thPad] })] }

/-- An LD.FE whose checks pass, on a granule that is full or not. -/
def feOk (take full : Bool) (s : State) : Bool :=
  let i : Instr := if take then .ldFeTake (v 4) (v 2) 0 false else .ldFePeek (v 4) (v 2) 0 false
  decide (laneCheck i s 0 0 = none) &&
  match src2 0 0 (v 2) s with
  | .error _ => false
  | .ok (base, s1) =>
    match checkAccess 0 [0] (Claims.accessOf .read true 16 base 16) s1 with
    | .ok (tg :: ts, s2) =>
      s2.isFull tg == full && (!full || (!s2.ownPending 0 0 tg && !s2.acquireHolds 0 [0] s2.seq && (s2.granMark tg).isNone &&
        (tg.granKey.bind fun k => Cells.get? k s2.doneGrans).isNone && (tg :: ts).all fun u => (s2.tgtByte u).isSome))
    | _ => false

/-- O13: a take and a peek of a full granule, and of an empty one. -/
theorem witness_granules : feOk true true stFull = true ∧ feOk false true stFull = true ∧ feOk true false (one thPad) = true ∧
    feOk false false (one thPad) = true := by decide +kernel

/-- A thread whose v2:v3 is an address. -/
def thA (lo hi : Word) : Thread := { th0 with v := [(2, lo), (3, hi), (4, 9)] }

/-- O14: a load at an address that is not canonical, one off its size, a store to the code page, and a load from a page without a translation. -/
theorem witness_access_checks : Claims.CanTrap (one (thA 0 0x80000000)) 0 0 { blk0 with threads := [thA 0 0x80000000] } (thA 0 0x80000000) ∧
    (∀ i ∈ [.ldW32 (v 4) (v 2) 0 false .normal, .stW32 (v 4) (v 2) 0 false .normal], laneCheck i (one (thA 0 0x80000000)) 0 0 = none) ∧
    src2 0 0 (v 2) (one (thA 0 0x80000000)) = .ok (0x8000000000000000, one (thA 0 0x80000000)) ∧ canonical 0x8000000000000000 = false ∧
    canonical 0x10043 = true ∧ (0x10043 : DWord).toNat % 4 ≠ 0 ∧ canonical 0x1000 = true ∧ inPadWindow 0x1000 = false ∧ blk0.gang = none ∧ blk0.pairOf = none ∧
    st0.translate (clusterOf blk0.core) blk0.ctx 0x1000 .write = .prot ∧ inPadWindow 0x20000 = false ∧
    st0.translate (clusterOf blk0.core) blk0.ctx 0x20000 .read = .miss :=
  ⟨canTrap_one rfl (by decide), by decide +kernel⟩

/-- A load of four bytes in flight to v8. -/
def opLoad : MemOp := { opV8 with tgts := [.dev 0x10040 none, .dev 0x10041 none, .dev 0x10042 none, .dev 0x10043 none] }
/-- The data of an LD.FE in flight to v8 to v11. -/
def opFe : MemOp := { opV8 with kind := .fe, dst := .lane (v 8) 4, data := List.replicate 16 7 }
/-- A store of four bytes in flight; a fill of a scratchpad granule. -/
def opStore : MemOp := { opLoad with kind := .store, dst := .none, data := [1, 2, 3, 4] }
def opFill : MemOp := { opStore with kind := .fill, tgts := (List.range 16).map fun k => .sp 0 (0x40 + k), data := List.replicate 16 9 }

def flying (o : MemOp) : State := { st0 with ops := [o], seq := 5 }

/-- O15: a load in flight that is ready, at an operand that can take it; the data of an LD.FE; a thread held on a granule now full. -/
theorem witness_arrivals : (flying opLoad).opOf 1 = some opLoad ∧ (flying opLoad).ready opLoad = true ∧ (flying opLoad).loadReach opLoad = none ∧
    (opLoad.tgts.zipIdx.map fun e => ((flying opLoad).loadByte opLoad none e.1).1) = [0, 0, 0, 0].map some ∧ blk0.inImage = false ∧
    (flying opFe).opOf 1 = some opFe ∧ (flying opFe).ready opFe = true ∧ opFe.data.length = 16 ∧
    ({ stFull with blocks := [(0, { blk0 with spFull := [4], threads := [{ thPad with run := .stalled (.granule (.sp 0 0x40)) }] })] } : State).isFull (.sp 0 0x40) = true ∧
    stFull.ownPending 0 0 (.sp 0 0x40) = false := by decide +kernel

theorem witness_can_hold : Claims.canHold (v 8) ∧ v 8 ≠ .x := ⟨trivial, by decide⟩

/-- O16: a store in flight that is ready, its bytes at home; a fill of a granule the block owns. -/
theorem witness_performed : (flying opStore).opOf 1 = some opStore ∧ (flying opStore).ready opStore = true ∧ (flying opStore).outOfReach opStore = none ∧
    (∀ tg ∈ opStore.tgts, tg = .dev 0x10040 none ∨ tg = .dev 0x10041 none ∨ tg = .dev 0x10042 none ∨ tg = .dev 0x10043 none) ∧
    (flying opStore).pinAt 0x10040 = none ∧ opStore.rel = false ∧ (flying opFill).opOf 1 = some opFill ∧ (flying opFill).ready opFill = true ∧
    (flying opFill).outOfReach opFill = none ∧ (flying opFill).padOwner 0 (0x40 / 16) = some 0 ∧ opFill.tgts.head? = some (.sp 0 0x40) := by decide +kernel

/-! Atomics, ordered accesses, fences. -/

def ctl (use : AtomUse) (order : AtomOrder) (size : Width) : AtomCtl := { f := false, size, scope := .pkg, order, use, op := .add }

/-- An atomic, a CAS, an LD.ACQ or an ST.REL whose operands and checks pass. -/
def atomicOk (chip : Bool) (i : Instr) (s : State) : Bool :=
  decide (laneCheck i s 0 0 = none) && decide ((s.block 0).oxbow = none) && decide ((s.thread 0 0).twinBad = false) &&
  let rd (r : LReg) (w : Width) (s : State) : Except Stop State :=
    match w with
    | .w32 => (src 0 0 r s).map (·.2)
    | .w64 => (src2 0 0 r s).map (·.2)
  let form : Option (LReg × List (LReg × Width) × AccKind × Nat) :=
    match i with
    | .atom _ a c k => some (a, [(c, k.size)], .atomic, Claims.bytesOf k.size)
    | .cas d a c k => some (a, [(c, k.size), (d, k.size)], .atomic, Claims.bytesOf k.size)
    | .ldAcq _ a _ w _ => some (a, [], .read, Claims.bytesOf w)
    | .stRel d a _ w _ => some (a, [(d, w)], .write, Claims.bytesOf w)
    | _ => none
  match form with
  | none => false
  | some (a, rs, kind, n) =>
    match src2 0 0 a s with
    | .error _ => false
    | .ok (base, s1) =>
      match rs.foldl (fun (r : Except Stop State) e => match r with | .ok s => rd e.1 e.2 s | .error e => .error e) (.ok s1) with
      | .error _ => false
      | .ok s2 =>
        match checkAccess 0 [0] (Claims.accessOf kind false n base n) s2 with
        | .ok (ts, s3) => reaches n chip false ts s3
        | .error _ => false

def atomics : List Instr :=
  [.atom (v 4) (v 2) (v 8) (ctl .unp .relaxed .w32), .atom .zero (v 2) (v 8) (ctl .com .relaxed .w64), .atom (v 4) (v 2) (v 8) (ctl .nord .relaxed .w32),
   .atom (v 4) (v 2) (v 8) (ctl .unp .acqrel .w64), .atom (v 4) (v 2) (v 8) (ctl .spec .relaxed .w32), .cas (v 4) (v 2) (v 8) (ctl .unp .rel .w32),
   .cas (v 4) (v 2) (v 8) (ctl .spec .relaxed .w64), .ldAcq (v 4) (v 2) .sys .w32 false, .ldAcq (v 4) (v 2) .core .w64 true,
   .stRel (v 4) (v 2) .pkg .w32 false, .stRel (v 4) (v 2) .core .w64 false]

/-- O17, O19: atomics of every order and use, CAS, LD.ACQ and ST.REL, in both widths, at the data page and at the register window. -/
theorem witness_atomics : atomics.all (atomicOk false · st0) = true ∧ atomics.all (atomicOk true · (one thChip)) = true := by decide +kernel

/-- An atomic in flight on four bytes at home; a CAS; a .com update and a .spec one; one at .core. -/
def opAtom : MemOp := { opLoad with kind := .atom .add .unp, dst := .lane (v 8) 1, data := [1, 0, 0, 0], scope := .pkg }
def opCas : MemOp := { opAtom with kind := .cas 0 .unp }
def opCom : MemOp := { opAtom with kind := .atom .add .com, dst := .none }
def opSpec : MemOp := { opAtom with kind := .spec 0 true, inView := some 4 }
def opPin : MemOp := { opAtom with scope := .core }

/-- O17: a .spec atomic reads its NORMAL bytes in the view; on a scratchpad its target is none of the view's. -/
theorem witness_spec : Claims.onView (ctl .spec .relaxed .w32) opAtom.tgts ∧ ¬Claims.onView (ctl .spec .relaxed .w32) opFill.tgts ∧
    st0.acquireHolds 0 [0] st0.seq = false ∧ st0.loadReach opAtom = none ∧ (opAtom.tgts.map fun u => (st0.loadByte opAtom none u).1) = [0, 0, 0, 0].map some ∧
    st0.orderHolds { opAtom with id := st0.seq, kind := .load false } = false ∧
    atomicOk false (.atom (v 4) (v 2) (v 8) (ctl .spec .relaxed .w32)) (one thPad) = true := by
  refine ⟨⟨rfl, ?_⟩, ?_, by decide +kernel⟩
  · intro t h
    simp only [opAtom, opLoad, List.mem_cons, List.not_mem_nil, or_false] at h
    rcases h with rfl | rfl | rfl | rfl <;> exact ⟨_, _, rfl⟩
  · rintro ⟨-, h⟩
    obtain ⟨pa, key, e⟩ := h (.sp 0 0x40) (by decide)
    exact absurd e (by simp)

/-- O18: a FENCE with an earlier store in flight waits, one with nothing in flight does not; a waiting one is done. -/
theorem witness_fences : (∀ i ∈ [.fence .sys, .fence .core, .fenceDur], laneCheck i st0 0 0 = none) ∧
    ((flying opStore).beginRelease 0 [0] .pkg).fenceWaits 0 0 .pkg false = true ∧ laneCheck (.fence .pkg) (flying opStore) 0 0 = none ∧
    (st0.beginRelease 0 [0] .sys).fenceWaits 0 0 .sys false = false ∧ (st0.beginRelease 0 [0] .pkg).fenceWaits 0 0 .pkg true = false ∧
    (one { th0 with run := .stalled (.release .pkg false) }).fenceWaits 0 0 .pkg false = false := by decide +kernel

/-- A release behind a store of its thread, and a load behind an acquire. -/
def opRel : MemOp := { opStore with id := 2, rel := true, scope := .pkg }
def opAcq : MemOp := { opLoad with acq := true, scope := .pkg }
def stRelHeld : State := { st0 with ops := [opStore, opRel], seq := 5 }
def stAcqHeld : State := { st0 with ops := [opAcq, { opLoad with id := 2 }], seq := 5 }

/-- O19: a release held by an earlier store of its thread; a load held by an acquire. -/
theorem witness_held_back : stRelHeld.opOf 2 = some opRel ∧ opRel.rel = true ∧ opStore ∈ stRelHeld.ops ∧ opStore.kind = .store ∧ opStore.id < opRel.id ∧
    (0 ∈ opStore.tids ∧ 0 ∈ opRel.tids) ∧ .dev 0x10040 none ∈ opStore.tgts ∧ opRel.scope ≠ .core ∧
    stAcqHeld.opOf 2 = some { opLoad with id := 2 } ∧ ({ opLoad with id := 2 } : MemOp).isNord = false ∧ opAcq ∈ stAcqHeld.ops ∧ opAcq.acq = true := by decide +kernel

/-- O20: an atomic and a CAS at home, ready and in reach. -/
theorem witness_atomic_performed : ∀ o ∈ [opAtom, opCas], (flying o).opOf 1 = some o ∧ (flying o).ready o = true ∧ (flying o).outOfReach o = none ∧
    o.tids = [0] ∧ o.clob = false ∧ o.acq = false ∧ o.scope ≠ .core ∧ o.tgts.length = 4 ∧ leNat o.data < 2 ^ (8 * o.tgts.length) ∧
    (o.tgts.all fun tg => match tg with | .dev pa none => decide (pa < 704 * 2 ^ 30) && ((flying o).pinAt pa).isNone | _ => false) = true := by decide +kernel

/-- A pin of core 0 whose first refused access is 200 cycles ago under a limit of 100, and a state that holds it. -/
def pin0 : Pin := { core := 0, blk := 0, line := 0x10040, key := none, bytes := List.replicate 64 7, firstRetry := some 100 }
def stPin : State := { st0 with now := 300, pins := [pin0], cores := [(0, { CoreState.init with pinlim := 100 })] }

/-- O21: an atomic at .core where no pin is, a pin past its limit, a .com atomic alone in its group, a .spec update with home as it was. -/
theorem witness_pins : (flying opPin).opOf 1 = some opPin ∧ (flying opPin).ready opPin = true ∧ (flying opPin).outOfReach opPin = none ∧ opPin.scope = .core ∧
    (flying opPin).pinAt 0x10040 = none ∧ ((flying opPin).pins.filter fun p => p.core == opPin.core).length < 32 ∧ ((flying opPin).getCore 0).pinlim.toNat % 2 ^ 24 ≠ 0 ∧
    stPin.pins.find? (fun q => q.core == 0 && q.line == 0x10040) = some pin0 ∧ 100 + (stPin.getCore 0).pinlim.toNat % 2 ^ 24 ≤ stPin.now ∧ pin0.bytes.length = 64 ∧
    (flying opCom).ready opCom = true ∧ (flying opCom).outOfReach opCom = none ∧ (flying opCom).comGroup opCom = [opCom] ∧
    (flying opSpec).ready opSpec = true ∧ (flying opSpec).outOfReach opSpec = none ∧ (flying opSpec).opOf 1 = some opSpec ∧ opSpec.data.length = 4 := by decide +kernel

/-! Regions, SINV, prefetches. -/

/-- A thread whose v2:v3 is 0x10100, v4 0, v8 256, v12 the address after the last canonical one's page. -/
def thR : Thread := { th0 with v := [(2, 0x10100), (8, 256), (12, 0), (13, 0x00FFFFFF)] }
def regA : Region := { off := 0, len := 256, global := 0x10100, present := [], dirty := [] }
def regB : Region := { off := 0, len := 256, global := 0x10200, present := [0], dirty := [] }
def blkR (rs : List Region) : Block := { blk0 with regions := rs, threads := [thR] }

theorem resides_of {x : Block} {th : Thread} (ht : x.threads = [th]) (hr : x.life = .resident ∧ x.mark = none) : Claims.Resides (st x) 0 0 x th :=
  ⟨rfl, by simp [Block.getThread, ht], hr⟩

theorem regionOk_nil : Claims.regionOk (blkR []) 0 256 0x10100 :=
  ⟨by decide, by decide, by decide, by decide, by decide, by decide, by simp [blkR, blk0, Block.absent], by decide⟩

/-- O22: SMAP of a free region, of one that stands, and of one that overlaps another. -/
theorem witness_smap : Claims.Runs (.smap (v 8) (v 2) (v 4)) (st (blkR [])) 0 0 (blkR []) thR ∧
    Claims.Runs (.smap (v 8) (v 2) (v 4)) (st (blkR [regA])) 0 0 (blkR [regA]) thR ∧
    Claims.Runs (.smap (v 8) (v 2) (v 4)) (st (blkR [regB])) 0 0 (blkR [regB]) thR ∧ Claims.Resides (st (blkR [])) 0 0 (blkR []) thR ∧
    (∀ x ∈ [blkR [], blkR [regA], blkR [regB]], src2 0 0 (v 2) (st x) = .ok (0x10100, st x) ∧ src 0 0 (v 4) (st x) = .ok (0, st x) ∧
      src 0 0 (v 8) (st x) = .ok (256, st x)) ∧ Claims.regionOk (blkR []) 0 256 0x10100 ∧ regA.global = 0x10100 ∧ regB.global ≠ 0x10100 ∧
    ¬Claims.regionOk (blkR [regB]) 0 256 0x10100 ∧ Claims.CanTrap (st (blkR [regB])) 0 0 (blkR [regB]) thR :=
  ⟨runs_of (by decide +kernel) rfl ⟨rfl, rfl⟩ rfl, runs_of (by decide +kernel) rfl ⟨rfl, rfl⟩ rfl, runs_of (by decide +kernel) rfl ⟨rfl, rfl⟩ rfl,
    resides_of rfl ⟨rfl, rfl⟩, by decide +kernel, regionOk_nil, rfl, by decide,
    fun h => absurd (h.2.2.2.2.2.2.1 regB (by simp [blkR])) (by decide), ⟨rfl, rfl, rfl, by decide, ⟨by decide, by decide, by decide⟩, by decide, ⟨rfl, rfl⟩⟩⟩

/-- A region whose unit is dirty, and one over memory without a translation. -/
def regD : Region := { regA with present := [0], dirty := [0] }
def regX : Region := { regD with global := 0x20000 }

/-- SUNMAP and SWB of the region at offset 0, and where they stop. -/
def unmapEnds (r : Region) : Bool := ((st (blkR [r])).unmapRegion 0 0 0).2.isNone
def swbEnds (r : Region) : Bool := ((st (blkR [r])).writeBackRange 0 0 0 256).2.isNone

/-- O22: SUNMAP of no region, of a clean and of a dirty one, and of one that cannot be written back; SWB with nothing dirty, with a dirty unit, and with
one that cannot be written back; and a unit that is written back. -/
theorem witness_sunmap_swb : Claims.Runs (.sunmap (v 4)) (st (blkR [])) 0 0 (blkR []) thR ∧
    (∀ r ∈ [regB, regD, regX], laneCheck (.sunmap (v 4)) (st (blkR [r])) 0 0 = none ∧ laneCheck (.swb (v 8) (v 4)) (st (blkR [r])) 0 0 = none ∧
      src 0 0 (v 4) (st (blkR [r])) = .ok (0, st (blkR [r])) ∧ src 0 0 (v 8) (st (blkR [r])) = .ok (256, st (blkR [r]))) ∧
    (unmapEnds regB && unmapEnds regD && !unmapEnds regX && swbEnds regB && swbEnds regD && !swbEnds regX) = true ∧
    (blkR [regB]).regions.find? (·.off == 0) = some regB ∧ regB.dirty = [] ∧ (st (blkR [regB])).regionWait 0 0 0 256 = none ∧
    Claims.Runs (.sunmap (v 4)) (st (blkR [regB])) 0 0 (blkR [regB]) thR ∧ Claims.Runs (.swb (v 8) (v 4)) (st (blkR [regB])) 0 0 (blkR [regB]) thR ∧
    (st (blkR [regD])).unitPhys 0 1 (regD.global + BitVec.ofNat 64 0) .write = .ok 0x10100 ∧ (∀ i < 4, (st (blkR [regD])).reach 0 (0x10100 + 64 * i) = true) ∧
    (st (blkR [regD])).ctxKey 1 = none ∧
    (st (blkR [regD])).atOnce 0 [0] 0 true (unitTgts 0x10100 none ++ (blkR [regD]).unitPad regD 0) = none :=
  ⟨runs_of (by decide +kernel) rfl ⟨rfl, rfl⟩ rfl, by decide +kernel, by decide +kernel, by decide +kernel, rfl, by decide +kernel,
    runs_of (by decide +kernel) rfl ⟨rfl, rfl⟩ rfl, runs_of (by decide +kernel) rfl ⟨rfl, rfl⟩ rfl, by decide +kernel, by decide +kernel, by decide +kernel,
    by decide +kernel⟩

/-- A world whose cluster has the translation of the data page only. -/
def stOneTlb : State :=
  { st (blkR []) with clusters := [(0, { ClusterState.init with tlb := [⟨1, 0x10000, 0, 0x10000, true, false, true, false⟩] })] }

/-- O23: SINV of no bytes, at an address that is not canonical, of a translated range, of one without a translation, and of the scratchpad window. -/
theorem witness_sinv : Claims.Runs (.sinv (v 4) (v 2)) (st (blkR [])) 0 0 (blkR []) thR ∧ Claims.Runs (.sinv (v 8) (v 2)) (st (blkR [])) 0 0 (blkR []) thR ∧
    (st (blkR [])).pins = [] ∧ canonical 0x10100 = true ∧ canonical (0x10100 + BitVec.ofNat 64 255) = true ∧ canonical 0x00FFFFFF00000000 = true ∧
    canonical 0x0100000000000000 = false ∧ inPadWindow 0xFFFFFFFFFFFC0000 = true ∧ (0xFFFFFFFFFFFC0000 : DWord).toNat + 256 ≤ 2 ^ 64 ∧
    (st (blkR [regA])).invalWait 0 0 256 = none ∧ laneCheck (.sinv (v 8) (v 2)) stOneTlb 0 0 = none ∧
    (stOneTlb.getCluster 0).tlb = [⟨1, 0x10000, 0, 0x10000, true, false, true, false⟩] ∧
    0x10100 + 256 ≤ padWindow ∧ 0x10000 ≤ 0x10100 ∧ 0x10100 + 256 ≤ 0x10000 + sizeBytes 0 ∧
    stOneTlb.tlbFind 0 1 0x20000 = none ∧ 0x20000 / 4096 ∉ thR.skipped ∧ (blkR []).kind = .lane :=
  ⟨runs_of (by decide +kernel) rfl ⟨rfl, rfl⟩ rfl, runs_of (by decide +kernel) rfl ⟨rfl, rfl⟩ rfl, rfl, by decide +kernel⟩

/-- O23: a PREF of a page that hits, one that misses. -/
theorem witness_prefetch : Claims.Runs (.pref (v 2) 0 .normal) st0 0 0 { blk0 with threads := [th0] } th0 ∧ src2 0 0 (v 2) st0 = .ok (0x10040, st0) ∧
    st0.translate 0 1 0x10040 .read = .hit 0x10040 false ∧ st0.reach noCore 0x10040 = true ∧ st0.reach 0 0x10040 = true ∧ st0.pinAt 0x10040 = none ∧
    st0.translate 0 1 0x20000 .read = .miss ∧ st0.l1Bytes 0 + 64 ≤ 131072 ∧ blk0.gang = none ∧ blk0.pairOf = none :=
  ⟨runs_of (by decide +kernel) rfl ⟨rfl, rfl⟩ rfl, by decide +kernel⟩

/-! Teams: a block of two threads, both in t0; t1 is empty. -/

theorem runs_at {i : Instr} {x : Block} {th : Thread} (ht : x.getThread 0 = some th) (h : laneCheck i (st x) 0 0 = none)
    (hr : x.life = .resident ∧ x.mark = none) (hw : th.twinBad = false) : Claims.Runs i (st x) 0 0 x th :=
  ⟨⟨rfl, h, by simp [State.getThread, State.getBlock, st, Cells.get?, ht]⟩, rfl, ht, hr, hw⟩

def pairOf2 (a b : Thread) : Block := { blk0 with teams := ⟨2, 0, 0⟩ :: List.replicate 7 ⟨0, 0, 0⟩, threads := [a, b] }

/-- A thread that waits. -/
def waiting (w : Wait) : Thread := { th0 with run := .stalled w }

theorem canTrap_two (a b : Thread) (h : a.tcause.msb = false) (hi : a.clauseIdx < 32) : Claims.CanTrap (st (pairOf2 a b)) 0 0 (pairOf2 a b) a :=
  ⟨rfl, rfl, rfl, h, canTrap0.vector, hi, ⟨rfl, rfl⟩⟩

/-- Its split arrival at t0 is 1 or 2. -/
def thSplit (k : BitVec 16) : Thread := { th0 with split := k }

/-- O24: TBAR, TARRIVE with and without the other's arrival, TWAIT over and before its phase, TLEAVE. -/
theorem witness_barriers : (∀ i ∈ [.tbar 0 .pkg, .tarrive 0 .core, .twait 0 .core, .tleave 0], laneCheck i (st (pairOf2 th0 th0)) 0 0 = none) ∧
    (st (pairOf2 th0 th0)).inTeam 0 0 0 = true ∧ th0.splitOf 0 = 0 ∧ ((st (pairOf2 th0 th0)).beginRelease 0 [0] .pkg).fenceWaits 0 0 .pkg false = false ∧
    (((st (pairOf2 th0 th0)).beginRelease 0 [0] .pkg).getBlock 0).isSome = true ∧ (pairOf2 th0 th0).teams.length = 8 ∧ th0.run = .ready ∧ th0.member 0 = true ∧
    (pairOf2 th0 (waiting (.barrier 0 .pkg))).waitOf 1 = some (.barrier 0 .pkg) ∧ (pairOf2 th0 th0).members 0 = [0, 1] ∧ (pairOf2 th0 th0).waitOf 1 = none ∧
    th0.splitOf 0 ≠ 1 ∧ (thSplit 2).splitOf 0 = 2 ∧ (thSplit 1).splitOf 0 = 1 ∧ (st (pairOf2 (thSplit 2) th0)).specPending 0 [0] 100 = false := by decide +kernel

theorem witness_tleave : Claims.Runs (.tleave 0) (st (pairOf2 th0 th0)) 0 0 (pairOf2 th0 th0) th0 := runs_at rfl (by decide +kernel) ⟨rfl, rfl⟩ rfl

/-- O24: a phase whose two members have arrived, one waiting and one split. -/
theorem witness_barrier_release : (pairOf2 (thSplit 1) (waiting (.barrier 0 .pkg))).inSlot = true ∧ (pairOf2 (thSplit 1) (waiting (.barrier 0 .pkg))).members 0 ≠ [] ∧
    ∀ u ∈ (pairOf2 (thSplit 1) (waiting (.barrier 0 .pkg))).members 0, Claims.AtBarrier (pairOf2 (thSplit 1) (waiting (.barrier 0 .pkg))) 0 u := by
  refine ⟨by decide +kernel, by decide +kernel, ?_⟩
  have e : (pairOf2 (thSplit 1) (waiting (.barrier 0 .pkg))).members 0 = [0, 1] := by decide +kernel
  rw [e]
  intro u hu
  simp only [List.mem_cons, List.not_mem_nil, or_false] at hu
  rcases hu with rfl | rfl
  · exact .inl ⟨thSplit 1, rfl, by decide⟩
  · exact .inr ⟨.pkg, by decide +kernel⟩

/-- O24: an instruction of a team that the thread is not in, TBAR over a split arrival, TWAIT without one. -/
theorem witness_team_traps : Claims.CanTrap (st (pairOf2 th0 th0)) 0 0 (pairOf2 th0 th0) th0 ∧ Claims.teamOf (.tbar 1 .pkg) = some 1 ∧
    (st (pairOf2 th0 th0)).inTeam 0 0 1 = false ∧ (∀ i ∈ [.tbar 1 .pkg, .tjoin (v 1) 2 1, .vote 0 1 1 .maj, .reconv 1, .twait 0 .pkg], laneCheck i (st (pairOf2 th0 th0)) 0 0 = none) ∧
    Claims.CanTrap (st (pairOf2 (thSplit 1) th0)) 0 0 (pairOf2 (thSplit 1) th0) (thSplit 1) ∧ laneCheck (.tleave 0) (st (pairOf2 (thSplit 1) th0)) 0 0 = none ∧
    (thSplit 1).splitOf 0 ≠ 0 :=
  ⟨canTrap_two _ _ rfl (by decide), rfl, by decide +kernel, by decide +kernel, canTrap_two _ _ rfl (by decide), by decide +kernel, by decide +kernel⟩

/-- An exchange instruction whose operands can be read. -/
def exchangeOk (i : Instr) (s : State) : Bool :=
  decide (laneCheck i s 0 0 = none) &&
  match readRun 0 0 (Claims.exchangeReads i) s with
  | .ok (vs, _) => (Claims.brings i (s.thread 0 0) vs).any fun e => e.1 == 0 && s.inTeam 0 0 0
  | .error _ => false

/-- The other thread waits in t0's exchange with BALLOT. -/
def balloting : Block := pairOf2 th0 (waiting (.exchange 0 (32 * 0x79) 0 0 false (.ballot (v 4) 2 0)))

def exchanges : List Instr :=
  [.elect (v 4) 0 1, .shfl (v 4) (v 1) (v 20), .tred (v 4) (v 1) 0 .addF, .tscan (v 4) (v 1) 0 true .add, .ballot (v 4) 2 0, .vote 1 2 0 .odd,
   .matchT (v 4) (v 1) 0, .tjoin (v 1) 1 0]

/-- O25: every exchange arrives; the other member waits in a BALLOT, so that a BALLOT is the last to arrive and an ELECT meets another form; a TJOIN names a
team nobody stands in. -/
theorem witness_exchanges : exchanges.all (exchangeOk · (st (pairOf2 th0 th0))) = true ∧ balloting.members 0 = [0, 1] ∧
    balloting.waitOf 1 = some (.exchange 0 (32 * 0x79) 0 0 false (.ballot (v 4) 2 0)) ∧
    exchangeOk (.ballot (v 4) 2 0) (st balloting) = true ∧ exchangeOk (.elect (v 4) 0 1) (st balloting) = true ∧ (pairOf2 th0 th0).waitOf 1 = none := by
  decide +kernel

theorem witness_mixed_form : Claims.MixedForm balloting 0 (32 * 0x75) ∧ ¬Claims.MixedForm balloting 0 (32 * 0x79) ∧
    Claims.CanTrap (st balloting) 0 0 balloting th0 ∧ Claims.TeamFree (pairOf2 th0 th0) 1 := by
  refine ⟨⟨1, 32 * 0x79, 0, 0, false, .ballot (v 4) 2 0, by decide +kernel, by decide +kernel, by decide⟩, ?_, canTrap_two _ _ rfl (by decide), ⟨by decide, ?_⟩⟩
  · rintro ⟨k, f, w, c, p, j, hk, hw, hf⟩
    have e : balloting.members 0 = [0, 1] := by decide +kernel
    rw [e] at hk
    simp only [List.mem_cons, List.not_mem_nil, or_false] at hk
    rcases hk with rfl | rfl
    · exact absurd hw (by rw [show balloting.waitOf 0 = none by decide +kernel]; simp)
    · rw [show balloting.waitOf 1 = some (.exchange 0 (32 * 0x79) 0 0 false (.ballot (v 4) 2 0)) by decide +kernel] at hw
      simp only [Option.some.injEq, Wait.exchange.injEq] at hw
      exact hf hw.2.1.symm
  · intro k hk w hw
    have h2 : k < 2 := hk
    have h : ∀ k < 2, (pairOf2 th0 th0).waitOf k = none := by decide +kernel
    exact absurd hw (by rw [h k h2]; simp)

/-- The contributions of two threads to one instruction. -/
def brought (i : Instr) : List Contribution := [⟨0, 5, 0, true, i⟩, ⟨1, 9, 0, false, i⟩]
def exchanging (i : Instr) : Block := pairOf2 (waiting (.exchange 0 3 5 0 true i)) (waiting (.exchange 0 3 9 0 false i))

theorem allBrought_exchanging (i : Instr) (hm : (exchanging i).members 0 = [0, 1]) : Claims.AllBrought (exchanging i) 0 (brought i) := by
  refine ⟨by simp [brought], hm.symm, ?_⟩
  intro c hc
  simp only [brought, List.mem_cons, List.not_mem_nil, or_false] at hc
  rcases hc with rfl | rfl
  · exact ⟨3, rfl⟩
  · exact ⟨3, rfl⟩

/-- O26: a reduction and a TJOIN that every member brought, two threads at RECONV, and two that wait apart. -/
theorem witness_rendezvous : Claims.AllBrought (exchanging (.tred (v 4) (v 1) 0 .add)) 0 (brought (.tred (v 4) (v 1) 0 .add)) ∧
    Claims.AllBrought (exchanging (.tjoin (v 1) 1 0)) 0 (brought (.tjoin (v 1) 1 0)) ∧ (exchanging (.tjoin (v 1) 1 0)).inSlot = true ∧
    ((exchanging (.tjoin (v 1) 1 0)).team 1).arrived = 0 ∧
    (∀ u < 2, ∀ w ∈ (exchanging (.tjoin (v 1) 1 0)).waitOf u, waitsIn 1 w = false) ∧
    (∀ u ∈ (pairOf2 (waiting (.reconv 0)) (waiting (.reconv 0))).members 0, (pairOf2 (waiting (.reconv 0)) (waiting (.reconv 0))).waitOf u = some (.reconv 0)) ∧
    (rendezvous 0 (waiting (.reconv 0))).isSome = true ∧ (rendezvous 0 (waiting (.barrier 0 .core))).isSome = true ∧
    ((pairOf2 (waiting (.reconv 0)) (waiting (.barrier 0 .core))).getThread 0).bind (rendezvous 0) ≠ ((pairOf2 (waiting (.reconv 0)) (waiting (.barrier 0 .core))).getThread 1).bind (rendezvous 0) ∧
    (pairOf2 (waiting (.reconv 0)) (waiting (.barrier 0 .core))).members 0 = [0, 1] :=
  ⟨allBrought_exchanging _ (by decide +kernel), allBrought_exchanging _ (by decide +kernel), by decide +kernel⟩

/-! Uniform instructions. -/

/-- Read uniform operands one after another. -/
def readRunU (b : Nat) : List (UReg × Bool) → State → Except Stop (List DWord × State)
  | [], s => .ok ([], s)
  | (r, w) :: os, s =>
    match (if w then readU2 b r s else (readU b r s).map fun p => (p.1.zeroExtend 64, p.2)) with
    | .error e => .error e
    | .ok (x, s1) =>
      match readRunU b os s1 with
      | .error e => .error e
      | .ok (xs, s2) => .ok (x :: xs, s2)

theorem readsU_of {b : Nat} {os : List (UReg × Bool)} : ∀ {s s' : State} {vs : List DWord}, readRunU b os s = .ok (vs, s') → Claims.ReadsU b os vs s s' := by
  induction os with
  | nil => intro s s' vs h; simp only [readRunU, Except.ok.injEq, Prod.mk.injEq] at h; exact ⟨h.1.symm, h.2.symm⟩
  | cons e os ih =>
    obtain ⟨r, w⟩ := e
    intro s s' vs h
    simp only [readRunU] at h
    split at h
    · exact absurd h (by simp)
    · rename_i x s1 hx
      split at h
      · exact absurd h (by simp)
      · rename_i xs s2 hr
        simp only [Except.ok.injEq, Prod.mk.injEq] at h
        obtain ⟨rfl, rfl⟩ := h
        refine ⟨x, s1, xs, ?_, ih hr, rfl⟩
        cases w with
        | true => simpa using hx
        | false =>
          simp only [Bool.false_eq_true, if_false] at hx ⊢
          cases hs : readU b r s with
          | error e => rw [hs] at hx; simp [Except.map] at hx
          | ok p =>
            obtain ⟨v1, s3⟩ := p
            rw [hs] at hx
            simp only [Except.map, Except.ok.injEq, Prod.mk.injEq] at hx
            exact ⟨v1, by rw [hx.2], hx.1.symm⟩

/-- A uniform scalar instruction whose checks pass and whose operands can be read. -/
def uniOk (s : State) (i : Instr) : Bool :=
  decide (uniCheck i s 0 [0] = none) &&
  match Claims.uniformOp i with
  | some o => (match readRunU 0 o.reads s with | .ok p => (p.2.getThread 0 0).isSome | .error _ => false)
  | none => false

/-- O27: every uniform scalar instruction, in both widths, with zero as a destination too. -/
theorem witness_uniform : (([.sadd (u 8) (u 2) (u 4) false, .sadd (u 8) (u 2) (u 4) true, .ssub .zero (u 2) (u 4) true, .smul (u 8) (u 2) (u 4) true, .sand (u 8) (u 2) (u 4) false,
    .sor (u 8) (u 2) (u 4) true, .sxor (u 8) (u 2) .zero false, .sshl (u 8) (u 2) (u 6) true, .sshr (u 8) (u 2) (u 6) false, .ssar (u 8) (u 2) (u 7) true,
    .smov (u 62) (u 2) true, .smovi (u 8) (-1) true, .slit (u 8) true 5, .scmp (u 9) (u 2) (u 4) .ltI64, .scmp (u 9) (u 2) (u 4) .leW, .ssel (u 8) (u 2) (u 4) true] : List Instr).all
      (uniOk st0)) = true := by decide +kernel

theorem witness_uniform_runs : Claims.RunsU (.sadd (u 8) (u 2) (u 4) true) st0 0 0 { blk0 with threads := [th0] } th0 :=
  runsU_of (by decide +kernel) rfl ⟨rfl, rfl⟩ rfl

/-- An SLD or SST whose checks pass. -/
def unitOk (chip : Bool) (i : Instr) (s : State) : Bool :=
  decide (uniCheck i s 0 [0] = none) &&
  let form : Option (UReg × Int × Nat × AccKind) :=
    match i with
    | .sld _ a off _ z => some (a, off.toInt, (Claims.unitBytes z).1, .read)
    | .sst _ a off _ z => some (a, off.toInt, (Claims.unitBytes z).1, .write)
    | _ => none
  match form with
  | none => false
  | some (a, off, n, kind) =>
    match readU2 0 a s with
    | .error _ => false
    | .ok (base, s1) =>
      match checkAccess 0 [0] (Claims.accessOf kind false n (base + BitVec.ofInt 64 (n * off)) n) s1 with
      | .ok (ts, s2) => reaches n chip false ts s2
      | .error _ => false

/-- A uniform load in flight to s8:s9, and a uniform store. -/
def opSld : MemOp := { opLoad with uniform := true, dst := .uni (u 8) 1 }
def opSst : MemOp := { opStore with uniform := true }

def unitAccesses : List Instr :=
  [.sld (u 8) (u 2) (-64) false .w8, .sld (u 8) (u 2) 63 false .i8, .sld (u 8) (u 2) 0 false .w16, .sld (u 8) (u 2) 0 true .i16,
   .sld (u 8) (u 2) 0 false .w32, .sld (u 8) (u 2) 0 false .w64, .sst (u 8) (u 2) 0 false .w8, .sst (u 8) (u 2) 0 false .w64]

/-- O28: SLD and SST of every size, at the data page and at the register window, and each in flight ready to complete. -/
theorem witness_uniform_accesses : unitAccesses.all (unitOk false · st0) = true ∧
    unitAccesses.all (unitOk true · (st { blk0 with s := [(2, 0x40040)], threads := [th0] })) = true ∧
    (flying opSld).opOf 1 = some opSld ∧ (flying opSld).ready opSld = true ∧ (flying opSld).loadReach opSld = none ∧
    (opSld.tgts.zipIdx.map fun e => ((flying opSld).loadByte opSld none e.1).1) = [0, 0, 0, 0].map some ∧
    (flying opSst).opOf 1 = some opSst ∧ (flying opSst).ready opSst = true ∧ (flying opSst).outOfReach opSst = none ∧ (flying opSst).pinAt 0x10043 = none := by decide +kernel

/-! The matrix unit: a launch of span 1, a block of 64 threads whose scratchpad holds an operand tile, slot 0 in force. -/

def role0 : Role := { pro := 16, full := 224, share := 0, prio := 0, hw := false, pair := 0, off := 3 }
def rec0 : LaunchRec :=
  { entry := 0x1000, args := 0, list := 0, image := 0x100000, save := 0x200000, deadline := 0, done := 0x10080, cycbud := 0, nrgbud := 0, blocks := 1, threads := 64
    ctx := 1, cls := 1, span := 1, argn := 0, coop := false, oxbow := false, contain := 0, notify := false, gang := 0, gmembers := 0, gindex := 0
    roles := [role0] }
def launch0 : Launch :=
  { id := 0, record := rec0, recAddr := 0x5000, argWords := [], count := 1, queue := none, arrival := 0, deadline := 0, future := none, blocks := [0], undone := 1
    killed := false, code := 0, energy := 0, ended := false }

/-- The control word of an MMA: tile 0, slot 0, K 32, mode 1, bit widths 2 and 2. -/
def mmaCtl : Word := w32 (2 ^ 15 + 2 ^ 18 + 2 ^ 22)

def blkM : Block :=
  { blk0 with
    spLen := 1024, slots := some (0, 32) :: List.replicate 15 none, tiles := ⟨true, 1⟩ :: List.replicate 7 ⟨false, 0⟩, partners := [1]
    s := [(0, mmaCtl), (2, 0x1000), (4, 0xFFFC0000), (5, 0xFFFFFFFF), (6, 0), (8, 0x10040)], threads := List.replicate 64 th0 }

/-- A tile of n bytes a channel at offset 0 of the scratchpad, for channels 0, 1, 8 and 9. -/
def tileHeader (n : Nat) : List Host.Cell := ((leBytes 2 0x303 ++ leBytes 2 0 ++ leBytes 4 n).zipIdx.filter (·.1 != 0)).map fun e => (padKey 0 e.2, e.1)

def stM (n : Nat) : State :=
  let s := st blkM
  { s with
    launches := [launch0], pads := tileHeader n
    blocks := s.blocks ++ [(1, { Block.absent with ctx := 1, life := .resident, kind := .headwater, pairOf := some 0, threads := [Thread.init 0x1000 0]
                                                   slice := some { sliceAt 1 true false with queues := [(0, { tail := 1, bhead := 0, block := true, mark := [], bval := [] })] } })] }

/-- Where the operand tile of an MMA form lies. -/
def mmaAddr (a : Option UReg) (s : State) : Except Stop (DWord × State) :=
  match a with
  | some r => readU2 0 r s
  | none =>
    match popForMma 0 0 0 s with
    | .ok (w, s1) => .ok (BitVec.ofNat 64 (padWindow + w.toNat), s1)
    | .error e => .error e

/-- An MMA form whose words, tile and checks pass. -/
def mmaOk (i : Instr) (s : State) : Bool :=
  decide (uniCheck i s 0 [0] = none) &&
  match Claims.mmaForm i with
  | none => false
  | some (_, d, a, o) =>
    match readU 0 d s, readU 0 o s with
    | .ok (c, _), .ok (off, _) =>
      c == mmaCtl && off == 0 &&
      (match mmaAddr a s with
       | .ok (ea, s3) => (match checkTile 0 0 ea 1024 (modeChannels 1) s3 with | .ok _ => true | .error _ => false)
       | .error _ => false)
    | _, _ => false

theorem mmaWord_ok (z q : Bool) (s : State) (h : s.spanOf blkM = 1) : Claims.mmaWordOk s blkM z q mmaCtl.toNat 0 := by
  have hh : (∀ ch ∈ modeChannels 1, ch ∈ modeChannels 1) := fun _ h => h
  refine ⟨by decide +kernel, by decide +kernel, by decide +kernel, by decide +kernel, ?_, by decide, ⟨0, 32, by decide +kernel, by decide +kernel⟩, ?_, ?_⟩
  · rw [h]; exact hh
  · exact .inr (.inr (.inr (by decide +kernel)))
  · cases q <;> decide +kernel

/-- O29: the four forms of MMA, BLD and its forms, a plain BLD of a tile, and a block without a span. -/
theorem witness_matrix_commands : (([.mma (u 0) (u 4) (u 6) false, .mmaz (u 0) (u 4) (u 6) false, .mmaQ (u 0) (u 6) false, .mmazQ (u 0) (u 6) true] : List Instr).all
      (mmaOk · (stM 1024))) = true ∧ Claims.mmaWordOk (stM 1024) blkM false true mmaCtl.toNat 0 ∧ (stM 1024).spanOf blkM ≠ 0 ∧ blkM.kind = .lane ∧ blkM.tiles.length = 8 ∧
    blkM.slots.getD (mmaCtl.toNat / 8 % 16) none = some (0, 32) ∧ ((stM 1024).getCore 0).recon = [] ∧ ((stM 1024).getCore 0).loader = [] ∧
    (∀ i ∈ [.bld (u 6) (u 4) false, .bldReed (u 6) (u 8) false, .bldConv (u 6) (u 8) false], uniCheck i (stM 2048) 0 [0] = none) ∧ Claims.bldWordOk 0 ∧ blkM.slots.length = 16 ∧
    (match checkTile 0 0 0xFFFFFFFFFFFC0000 2048 (modeChannels 1) (stM 2048) with | .ok _ => true | .error _ => false) = true ∧
    inPadWindow 0x10040 = false ∧ st0.spanOf { blk0 with threads := [th0] } = 0 ∧ (∀ i ∈ [.mma (u 0) (u 4) (u 6) false, .oprdy, .accz (u 6) false], uniCheck i st0 0 [0] = none) :=
  ⟨by decide +kernel, mmaWord_ok _ _ _ (by decide +kernel), by decide +kernel, rfl, rfl, by decide +kernel, by decide +kernel, by decide +kernel, by decide +kernel,
    by unfold Claims.bldWordOk; decide, by decide, by decide +kernel, by decide +kernel, by decide +kernel, by decide +kernel⟩

theorem plain_stM (n : Nat) (o : Nat) : (stM n).unitAt 0 o = none := by
  have h : ∀ k, ((stM n).block k).regions = [] := by
    intro k
    simp only [State.block, State.getBlock, stM, st, Cells.get?, List.cons_append, List.nil_append]
    split <;> [skip; split] <;> simp_all [blkM, blk0, Block.absent]
  simp only [State.unitAt]
  split
  · rfl
  · rw [show ∀ k o, ((stM n).block k).regionAt o = none from fun k o => by simp [Block.regionAt, h k]]

/-- O29: an operand tile stands in the scratchpad as TileThere says. -/
theorem witness_tile : Claims.TileThere (stM 1024) 0 0 blkM 0xFFFFFFFFFFFC0000 1024 (modeChannels 1) 0x303 :=
  ⟨by decide, by decide, by decide +kernel, by decide, by decide, by decide, plain_stM 1024, by decide +kernel, by decide⟩

/-- O30: drains with their words, zeroing, BLD.clr, OPRDY, and SETRST in its forms. -/
theorem witness_drains : (∀ i ∈ [.accld (u 6) (u 6) false, .accq (u 6) (u 6) true, .accz (u 6) false, .acczRows (u 6) (u 6) false, .acczFree (u 6) false, .bldClr (u 6), .oprdy,
      .setrstAddr (u 2), .setrst, .setrstClr], uniCheck i (stM 1024) 0 [0] = none) ∧ Claims.drainWordsOk blkM true 0 0 ∧ Claims.drainWordsOk blkM false 0 0 ∧
    (match readU 0 (u 6) (stM 1024) with | .ok (w, _) => w == 0 | .error _ => false) = true ∧
    (match readU2 0 (u 2) (stM 1024) with | .ok (w, _) => w == 0x1000 | .error _ => false) = true ∧
    (match (stM 1024).codeWord 0 0x1000 with | .ok w => w.toNat / 2 ^ 25 == 127 | .error _ => false) = true ∧
    (stM 1024).roleOf blkM = some role0 ∧ (stM 1024).recOf blkM = some rec0 ∧ role0.off ≠ 0 := by
  refine ⟨by decide +kernel, ?_, ?_, by decide +kernel⟩ <;> unfold Claims.drainWordsOk <;> decide +kernel

/-- Commands on the units of core 0, whose memories hold zeros. -/
def cmdMma : MCmd := { MCmd.mk' 0 [0] (.mma (u 0) (u 4) (u 6) false) mmaCtl.toNat 0x303 none with id := 1, len := 4112 }
def cmdBld : MCmd := { MCmd.mk' 0 [0] (.bld (u 6) (u 4) false) 0 0x303 (some 0) with id := 2, len := 8208, started := true }
def cmdZero : MCmd := { MCmd.mk' 0 [0] (.accz (u 6) false) 0 0 none with id := 3, addr := 9, started := true }
def cmdDrain : MCmd := { MCmd.mk' 0 [0] (.accld (u 6) (u 6) false) 0 0 (some 0) with id := 4, addr := 9, started := true }

def coreM (f : CoreState → CoreState) : State :=
  { stM 1024 with cores := [(0, f { CoreState.init with tiles := List.replicate 8 Store.zero, bounds := List.replicate 8 Store.zero, bsram := Store.zero })] }

/-- O31: an MMA to start and one to end; a BLD; a zeroing; a drain whose element decodes. -/
theorem witness_units : ((coreM fun c => { c with sequencer := [cmdMma] }).getCore 0).sequencer.find? (!·.started) = some cmdMma ∧
    (coreM fun c => { c with sequencer := [cmdMma] }).cmdHeld cmdMma = false ∧ 9 ∈ modeChannels 1 ∧
    ((coreM id).getCore 0).residue 0 9 31 63 = some 0 ∧ ((coreM id).getCore 0).boundAt 0 31 63 = some 0 ∧
    ((List.range 32).map fun c => ((coreM id).getCore 0).bAt 9 c 63) = (List.replicate 32 0).map some ∧
    blkM.inImage = false ∧ cmdBld.len ≠ 0 ∧ cmdBld.poison = false ∧ cmdBld.stale = false ∧
    cmdZero.instr = .accz (u 6) false ∧ ((coreM id).getCore 0).tiles.length = 8 ∧ ((coreM id).getCore 0).bounds.length = 8 ∧
    ((coreM fun c => { c with recon := [cmdDrain] }).drainElem 0 cmdDrain 0 63 16).isSome = true := by decide +kernel

/-! Engines. -/

/-- A COPY record of 16 bytes within the scratchpad, with scope .pkg, retry 1 and tag 5, at offset 0x40. -/
def copyRec (kind : Nat) : List Byte :=
  leBytes 1 kind ++ leBytes 1 0 ++ leBytes 1 2 ++ leBytes 1 1 ++ leBytes 4 16 ++ leBytes 8 0xFFFFFFFFFFFC0400 ++ leBytes 8 0xFFFFFFFFFFFC0800 ++ leBytes 12 0 ++
    leBytes 8 0 ++ leBytes 2 5 ++ leBytes 18 0

def padsAt (off : Nat) (bs : List Byte) : List Host.Cell := (bs.zipIdx.filter (·.1 != 0)).map fun e => (padKey 0 (off + e.2), e.1)

def blkE : Block := { blk0 with spLen := 1024, s := [(2, 0x10040), (6, 0x40), (7, 0x44), (8, 5)], threads := [th0] }

def chain0 : Chain :=
  { id := 1, blk := 0, ctx := 1, tids := [0], core := 0, kind := 0, off := 0x40, rel := false, scope := 2, tag := 5, flag := some 0, started := false, outcome := none, recs := []
    waiting := none, run := EngRun.init, pos := 0, collTries := 0, sentAt := none, struck := [] }
/-- Started, with its record read. -/
def chain1 : Chain := { chain0 with started := true, recs := [parseRec (copyRec 0)] }
/-- Its record asks for a completion granule, and its bytes are read. -/
def doneRec : EngRec := { parseRec (copyRec 0) with flags := 8, doneaddr := 0xFFFFFFFFFFFC0C00 }
def chainGot : Chain := { chain1 with recs := [doneRec], run := { EngRun.init with got := some (List.replicate 16 7) } }
/-- A record whose source is not canonical, and one whose source is on a peer. -/
def chainBad : Chain := { chain1 with recs := [{ doneRec with src := 0x0100000000000000 }] }
def chainFar : Chain := { chain1 with recs := [{ doneRec with srcdev := 0x8003 }] }
/-- A COLL chain whose step is to be sent, or was sent long ago. -/
def collRec : EngRec := { parseRec (copyRec 5) with src := 0xFFFFFFFFFFFC0400, dstdev := 0x8003, param := leBytes 4 0 ++ leBytes 4 77 ++ leBytes 8 0 }
def chainC (sent : Option Nat) : Chain := { chain1 with kind := 5, recs := [collRec], sentAt := sent }
/-- A chain whose run is over, and one with a completion granule. -/
def chainF : Chain := { chain1 with outcome := some (0, 0, 0, 0, 0xFFFFFFFF, 0) }
def chainD : Chain := { chainF with recs := [doneRec] }

def stE (cs : List Chain) : State := { st blkE with now := 400000, chains := cs, pads := padsAt 0x40 (copyRec 0), mem := [(32, 1)] }

/-- An engine command whose record reads as given. -/
def engineOk (i : Instr) (kind : Nat) (s : State) : Bool :=
  decide (uniCheck i s 0 [0] = none) &&
  match Claims.engineForm i with
  | none => false
  | some (k, a, _) =>
    match readU 0 a s with
    | .ok (w, s1) => k == kind && w.toNat % 64 == 0 &&
      (match plainRead 0 0 (BitVec.ofNat 64 (padWindow + w.toNat)) 48 1 s1 with
       | .ok (bs, _) => bs.length == 48 && Claims.numberAt bs 0 1 == kind
       | .error _ => false)
    | .error _ => false

def stKind (k : Nat) : State := { stE [] with pads := padsAt 0x40 (copyRec k) }

/-- O32: each engine command over a record of its kind; a full core; a misplaced record and one of another kind; ECANCEL and its form. -/
theorem witness_engine_commands : (engineOk (.copy (u 6) false true) 0 (stKind 0) && engineOk (.conv (u 6) false false) 1 (stKind 1) && engineOk (.gauge (u 6) false false) 2 (stKind 2) &&
    engineOk (.reed (u 6) false false) 3 (stKind 3) && engineOk (.alist (u 6) true false) 4 (stKind 4) && engineOk (.coll (u 6) false false) 5 (stKind 5)) = true ∧
    16 ≤ ((stE (List.replicate 16 chain0)).chains.filter fun c => c.core == 0).length ∧ (0x44 : Word).toNat % 64 ≠ 0 ∧ uniCheck (.copy (u 7) false false) (stE []) 0 [0] = none ∧
    engineOk (.copy (u 6) false false) 0 (stKind 1) = false ∧ uniCheck (.ecancel (u 9) (u 8)) (stE [chain0]) 0 [0] = none ∧ uniCheck (.ecancelAll .zero) (stE [chain0]) 0 [0] = none ∧
    (match readU 0 (u 8) (stE [chain0]) with | .ok (w, _) => w.toNat % 65536 == chain0.tag | .error _ => false) = true := by decide +kernel

theorem witness_cancels : Claims.cancels 0 (some 5) chain0 ∧ ¬Claims.cancels 0 none chain1 :=
  ⟨⟨rfl, rfl, rfl, by decide⟩, fun h => absurd h.2.1 (by decide)⟩

/-- Does a run end, with no failure? -/
def runs {α : Type} (r : Except EngWait (α × Eng)) : Bool := match r with | .ok (_, g) => g.fail.isNone | .error _ => false

/-- How a chain's step ends: with a failure, with a question to a peer, or neither. -/
def stepEnds (c : Chain) : Option (Bool × Bool) :=
  match c.recs[c.pos]? with
  | none => none
  | some r =>
    match (c.step r []).run (c.eng (stE [c])) with
    | .ok (_, g) => if g.s.chains = [c] then some (g.fail.isSome, g.asks.isSome) else none
    | .error _ => none

/-- O33: a released chain to start and one whose block is being saved; steps that go on, fail, and ask a peer; bytes to land in the scratchpad. -/
theorem witness_chain_steps : (stE [chain0]).chains.find? (·.id == 1) = some chain0 ∧ ((stE [chain0]).block 0).inSlot = true ∧ ((stE [chain0]).block 0).life ≠ .saving ∧
    (stE [chain0]).chainReleased chain0 = true ∧ ((stE [chain0]).startable chain0 && (stE [chain0]).unitFree chain0 && (stE [chain0]).chainsTurn chain0) = true ∧
    (match (Claims.chainTaken (stE [chain0]) chain0).readChain { chain0 with started := true } none 0x40 0 64 with
     | .ok (recs, bad, s2) => recs.length == 1 && bad.isNone && s2.chains == (Claims.chainTaken (stE [chain0]) chain0).chains
     | .error _ => false) = true ∧
    ({ stE [chain0] with blocks := [(0, { blkE with life := .saving })] } : State).startable chain0 = false ∧
    stepEnds chain1 = some (false, false) ∧ stepEnds chainGot = some (false, false) ∧ stepEnds chainBad = some (true, false) ∧ stepEnds chainFar = some (false, true) ∧
    chainGot.struck = [] ∧ doneRec.srcdev.testBit 15 = false ∧ doneRec.dstdev.testBit 15 = false ∧ doneRec.overlaps = false ∧ doneRec.done = true ∧ doneRec.kind = 0 ∧
    16 ≤ doneRec.len ∧ 16 * blkE.spLen ≤ 0x40000 ∧ doneRec.dst = BitVec.ofNat 64 (padWindow + 0x800) ∧ (∀ k < 16, (stE [chainGot]).unitAt 0 (0x800 + k) = none) := by decide +kernel

/-- O33: a COLL step to send, one to a lost device, one to send again and one out of tries; chains to finish with and without a completion granule. -/
theorem witness_chain_ends :
    runs ((readBytes collRec.src collRec.len).run ((chainC none).eng (stE [chainC none]))) = true ∧ (chainC none).recs[0]? = some collRec ∧
    ¬Claims.deviceGone (stE [chainC none]) collRec.dstdev ∧
    Claims.deviceGone { stE [chainC none] with links := { (stE [chainC none]).links with lostPeers := [3] } } collRec.dstdev ∧
    0 + 360000 ≤ (stE [chainC (some 0)]).now ∧ (chainC (some 0)).collTries < (((chainC (some 0)).recs.getLast?.map (·.retry)).getD 0) ∧
    chainF.recs.getLast?.map (·.done) = some false ∧ chainF.run.held = [] ∧ doneRec.hasNext = false ∧
    doneRec.doneaddr = BitVec.ofNat 64 (padWindow + 0xC00) ∧ (∀ k < 16, (stE []).unitAt 0 (0xC00 + k) = none) := by
  refine ⟨by decide +kernel, by decide +kernel, ?_, ?_, by decide +kernel⟩ <;> unfold Claims.deviceGone <;> decide +kernel

/-- O33: a gang member's scratchpad that a peer writes. -/
def gang0 : GangMember :=
  { gang := 7, members := 2, index := 0, joined := true, phaseSt := 4, tt := 0, started := [], attached := true, detached := false, windowOpen := true
    lens := [(0, 4096), (1, 4096)], detachedSet := [], departed := [], gsync := [], devices := [0, 3], queuedSince := 0 }
def stG : State := { st { blkE with gang := some gang0 } with now := 400000 }

/-- A peer's access that waits for its turn. -/
def peerWaits : State := { stE [] with inbox := [.access 3 (.generic 1 0x10040) (.read 8)] }

/-- O33: a peer's step, applied or new, a peer's accesses, and one that comes after another that waits. -/
theorem witness_peers : (3 ∉ (stE []).links.lostPeers) ∧ (stE []).inbox = [] ∧ (stE []).ctxValid 1 = true ∧ 9 ∉ (stE []).stepsOf 3 1 ∧ (collOp 0).isSome = true ∧
    9 ∈ ((stE []).noteStep 3 1 9).stepsOf 3 1 ∧
    runs ((collApply .add 4 0x10040 [1, 0, 0, 0]).run (((stE []).hear 3).schedRun 1 false)) = true ∧
    runs ((genericAccess 0x10040 (.read 8)).run (((stE []).hear 3).schedRun 1 false)) = true ∧
    runs ((genericAccess 0x10040 (.atomic .add .w32 5)).run (((stE []).hear 3).schedRun 1 false)) = true ∧ stG.member 7 = some 0 ∧
    (match (stG.hear 3).fordAccess 0 0x100 (.write [1, 2]) with | .ok (some _) => true | _ => false) = true ∧
    ∃ j ∈ peerWaits.inbox, j.stream = (2, 3) := by decide +kernel

/-! Futures: handle 0x01000001 names the live future 1, 0x01000002 the block's own. -/

def fut (s : FutState) (n : Nat) : Future := { Future.init with st := s, gen := 1, ctx := 1, count := n }
def blkF : Block := { blk0 with held := [(0x01000001, 2)], own := 0x01000002, s := [(2, 0x10080), (4, 7), (6, 0x01000001), (7, 0x01000003), (8, 0)], threads := [th0] }
def stF (a b : FutState) (x : Block) : State :=
  let s := st x
  { s with mgmt := { s.mgmt with futcap := 16 }, futures := [(1, fut a 2), (2, fut b 1)] }

/-- O34: the future instructions with their checks passed, FGET of a future put and of one live, FSELF; a bad handle, one the block does not hold, FPUT
outside a task and twice. -/
theorem witness_future_instructions : (∀ i ∈ [.fref (u 10) (u 6) false, .fdrop (u 6) true, .fpoll (u 10) (u 6) false, .fput (u 4) false, .fspawn (u 10) (u 2) .zero false 0, .fself (u 10),
      .fget (u 10) (u 6) (u 12) false, .fgetD (u 10) (u 6) (u 12) false], uniCheck i (stF .live .live blkF) 0 [0] = none) ∧
    (match readU 0 (u 6) (stF .live .live blkF) with | .ok (h, s1) => !s1.malformed h && blkF.refs h == 2 | .error _ => false) = true ∧ blkF.setRoom = true ∧
    (blkF.held.map (·.1)).Nodup ∧ blkF.own ≠ 0 ∧ blkF.put = false ∧
    (match templatePlace 0 [0] 0x10080 (stF .live .live blkF) with | .ok (pa, _) => pa == 0x10080 | .error _ => false) = true ∧
    (stF .put .live blkF).resolved 0x01000001 = true ∧ (stF .live .live blkF).resolved 0x01000001 = false ∧ (stF .live .live blkF).malformed 0 = true ∧
    (stF .live .live blkF).malformed 0x01000003 = false ∧ blkF.refs 0x01000003 = 0 ∧ blk0.own = 0 ∧ ({ blkF with put := true } : Block).put = true := by decide +kernel

theorem witness_future_traps : Claims.CanTrap (stF .live .live blkF) 0 0 blkF th0 := ⟨rfl, rfl, rfl, rfl, canTrap0.vector, by decide, ⟨rfl, rfl⟩⟩

/-- An operation at the future unit. -/
def futOp (k : FutKind) (h : Word) : FutOp :=
  { id := 1, blk := 0, tids := [0], kind := k, handle := h, dst := u 10, flag := some 0, issued := 0, cls := 1, deadline := 0 }
def stFu (a b : FutState) (o : FutOp) : State := { stF a b blkF with futOps := [o] }

/-- O35: each operation has its turn: FREF of a live and of a dead handle, FDROP, FPUT, FPOLL, FSPAWN, and FGET of a future put. -/
theorem witness_future_unit : (∀ o ∈ [futOp (.fref false) 0x01000001, futOp (.fref true) 0x01000003, futOp .fdrop 0x01000001, futOp (.fput 9) 0x01000002, futOp .fpoll 0x01000001,
      futOp (.spawn 0x10080 [] 0) 0, futOp (.fget true (u 12)) 0x01000001], (stFu .live .live o).futOps.find? (·.id == o.id) = some o ∧ (stFu .live .live o).futReady o = true ∧
      (stFu .live .live o).futHeld o = false) ∧ blkF.inImage = false ∧ (stFu .live .live (futOp (.fref false) 1)).handleLive 0x01000001 1 = true ∧
    (stFu .live .live (futOp (.fref false) 1)).handleLive 0x01000003 1 = false ∧ (∀ e ∈ blkF.held, e.2 ≠ 0) ∧ (fut .live 2).gen = handleGen 0x01000001 ∧
    (match (stFu .live .live (futOp (.spawn 0x10080 [] 0) 0)).spawn (futOp (.spawn 0x10080 [] 0) 0) 0x10080 [] 0 with | .ok (s1, _, _) => (s1.getBlock 0).isSome | .error _ => false) = true ∧
    (stFu .put .live (futOp (.fget true (u 12)) 0x01000001)).resolved 0x01000001 = true ∧ 2 ^ 32 - 1 ≤ (fut .live (2 ^ 32 - 1)).count := by decide +kernel

/-- Its one thread has stopped for the mark; a load of it in flight or none. -/
def blkMarked : Block := { blkF with mark := some 0, threads := [{ th0 with run := .stopped none true }] }
def stMarked (ops : List MemOp) : State := { stF .live .marked blkMarked with ops, seq := 5 }

/-- O36: a marked task resident, past its grace period, queued, and stopped, with a load in flight and with none. -/
theorem witness_marked : (stF .live .marked blkF).markedTask 0 = true ∧ blkF.mark = none ∧ blkF.life = .resident ∧
    (stF .live .marked blkF).graceOver { blkF with mark := some 0, stopBy := some 50 } = true ∧ ({ blkF with mark := some 0, stopBy := some 50 } : Block).inSlot = true ∧
    (stF .live .marked { blkF with life := .queued }).markedTask 0 = true ∧ (stMarked []).markedTask 0 = true ∧ blkMarked.allStopped = true ∧ blkMarked.liveTids ≠ [] ∧
    ((stMarked []).cancelChains 0 fun _ => true).1.reclaimWaits 0 = false ∧ ((stMarked [opStore]).cancelChains 0 fun _ => true).1.reclaimWaits 0 = true ∧
    ((stF .live .marked { blkF with life := .queued }).cancelChains 0 fun _ => true).1.reclaimWaits 0 = false := by decide +kernel

/-! Gangs. -/

/-- The member's state before it attaches, and its block with s2 = 1. -/
def gangA (f : GangMember → GangMember) : GangMember :=
  f { gang0 with attached := false, windowOpen := false, lens := [(1, 4096)], tt := 50 }
def blkG (f : GangMember → GangMember) : Block := { blk0 with gang := some (gangA f), s := [(2, 1)] }

/-- O37: FORDATT unattached, FORDDET and GSYNC attached, FORDQ and its forms, each without a gang, and out of order. -/
theorem witness_gang_instructions : uniCheck (.fordatt (u 10) false) (st (blkG id)) 0 [0] = none ∧ (blkG id).gang = some (gangA id) ∧ (gangA id).attached = false ∧
    (∀ i ∈ [.forddet false, .gsync (u 10) false], uniCheck i (st (blkG fun g => { g with attached := true })) 0 [0] = none) ∧
    (gangA fun g => { g with attached := true }).attached = true ∧ (gangA id).detached = false ∧ (st (blkG id)).gangOps = [] ∧ th0.run = .ready ∧
    (∀ i ∈ [.fordq (u 10), .fordqCount (u 10), .fordqState (u 10) (u 2)], uniCheck i (st (blkG id)) 0 [0] = none) ∧
    (match readU 0 (u 2) (st (blkG id)) with | .ok (m, _) => m == 1 | .error _ => false) = true ∧
    (∀ i ∈ [.fordatt (u 10) false, .forddet false, .fordq (u 10), .fordqState (u 10) (u 2), .fordqCount (u 10), .gsync (u 10) false],
      Claims.isGangInstr i = true ∧ uniCheck i st0 0 [0] = none) ∧ { blk0 with threads := [th0] }.gang = none ∧
    (gangA fun g => { g with detached := true }).detached = true ∧
    uniCheck (.fordatt (u 10) false) (st (blkG fun g => { g with detached := true })) 0 [0] = none := by decide +kernel

theorem witness_detaching : Claims.Detaching (st (blkG id)) 0 (gangA fun g => { g with detached := true }) ∧ ¬Claims.Detaching (st (blkG id)) 0 (gangA id) :=
  ⟨.inl rfl, fun h => h.elim (by decide) fun ⟨_, ho, _⟩ => absurd ho List.not_mem_nil⟩

/-- The record of gang 0, whose coordinator this device is: members 0 and 1 joined on devices 0 and 3. -/
def rec1 (f : Gang → Gang) : Gang :=
  f { gang := 0, gmembers := 2, ctx := 1, joined := [(0, 0), (1, 3)], ready := [], accepted := [], started := [], tt := none, committed := false, everStarted := false, running := false
      next := 0, misses := 0, gone := [], detached := [] }
def stR (f : Gang → Gang) : State := { st blk0 with now := 400000, gangs := [rec1 f] }

/-- A queued member of gang 0, which this device coordinates, not yet joined; a queued member of gang 7. -/
def stJoin : State := st { blkG (fun g => { g with gang := 0, joined := false, phaseSt := 0 }) with life := .queued, placed := false }

/-- A coordinator that counts device 5 as lost. -/
def stLost : State := let s := stR id; { s with links := { s.links with lostPeers := [5] } }

/-- O38: a join from a lost device, a first join, a second, a conflicting one of a gang that has started; a READY of a joined member and at the stop; a proposal; answers in time, to a
COMMITTED gang, and late; starts; the last missing. -/
theorem witness_coordinators : 5 ≠ stLost.device ∧ 5 ∈ stLost.links.lostPeers ∧ 5 ∉ (stR id).links.lostPeers ∧ 3 ∉ (stR id).links.lostPeers ∧
    0 % 1024 = (st blk0).device ∧ (st blk0).gangRec 0 = none ∧ (st blk0).gangs.length < 64 ∧
    (stR fun r => { r with joined := [(0, 0)] }).gangRec 0 = some (rec1 fun r => { r with joined := [(0, 0)] }) ∧ (rec1 id).over = false ∧
    (∀ e ∈ (rec1 fun r => { r with joined := [(0, 0)] }).joined, e.1 ≠ 1 ∧ e.2 ≠ 3) ∧ (∃ e ∈ (rec1 id).joined, e.1 = 1 ∨ e.2 = 5) ∧ 5 ≠ (stR id).device ∧ (rec1 id).everStarted = false ∧
    stJoin.unplaced 0 0 = [0] ∧ stJoin.gangRec 0 = none ∧
    (rec1 fun r => { r with everStarted := true }).everStarted = true ∧ (stR id).member 0 = none ∧ (1, 3) ∈ (rec1 id).live ∧
    (st { blkG (fun g => { g with phaseSt := 5 }) with life := .exiting }).member 7 = some 0 ∧
    (rec1 id).gmembers ≤ (rec1 id).joined.length ∧ (rec1 id).live ≠ [] ∧ (rec1 id).next ≤ (stR id).devTime ∧
    (∀ e ∈ (rec1 fun r => { r with ready := [0, 1] }).live, e.1 ∈ (rec1 fun r => { r with ready := [0, 1] }).ready) ∧
    2 * (stR id).devTime + (stR id).gangLead ≤ 2 * 200000 ∧ (∀ e ∈ (rec1 fun r => { r with accepted := [1, 0] }).live, e.1 ∈ [1, 0]) ∧
    (1, 3) ∈ (rec1 fun r => { r with accepted := [0] }).live ∧ 2 * 100000 ≤ 2 * (stR id).devTime + (stR id).gangLead ∧
    2 * 50000 + (stR id).gangLead ≤ 2 * (stR id).devTime := by decide +kernel

/-- A world with a member in a phase and a life, away from its coordinator. -/
def stMem (ph : Nat) (life : Life) (f : Block → Block) : State := { st (f { blkG (fun g => { g with phaseSt := ph }) with life }) with now := 400 }
def blkMem (ph : Nat) (life : Life) : Block := { blkG (fun g => { g with phaseSt := ph }) with life }

theorem witness_member (ph : Nat) (life : Life) (h : life ≠ .done) : Claims.Member (stMem ph life id) 7 0 (blkMem ph life) (gangA fun g => { g with phaseSt := ph }) :=
  ⟨by cases life <;> first | rfl | exact absurd rfl h, rfl, rfl⟩

/-- A waiting member of a launch that a core could hold. -/
def stWait : State :=
  let s := stMem 0 .queued fun x => { x with launch := 0, slot := 0, placed := false }
  { s with now := 40000000, launches := [{ launch0 with record := { rec0 with span := 0 } }] }

/-- O38: a waiting member that core 1 fits is the next in the scheduler's order. -/
theorem witness_reservation : stWait.sched.due = [] ∧ stWait.queued = [0] ∧ (stWait.block 0).moveTo = none ∧ stWait.group 0 = [0] ∧ stWait.isCoop 0 = false ∧
    stWait.placeable 1 0 = true ∧ stWait.admits (stWait.clsOf 0) (stWait.nrgOf 0) = true ∧ stWait.coordHere 7 = false := by decide +kernel

/-- A device whose member of gang 7 is done. -/
def stDone : State := stMem 4 .done id

/-- O39: the coordinator in the domain and lost; commitments before and after the time, starts, a block never placed, a wait past the limit, stops, and a
member that is done. -/
theorem witness_members : 7 ∉ st0.links.lostPeers ∧ (stMem 1 .queued id).coordHere 7 = false ∧ (stMem 2 .queued id).devTime < 200 ∧
    (stMem 2 .queued id).devTime ≥ 50 ∧ 0 ∈ (stMem 2 .queued id).killSet 0 ∧
    ((stMem 0 .queued fun x => { x with placed := false }).unplaced 7 0).getLast? = some 0 ∧
    (stMem 0 .queued fun x => { x with placed := false }).member 7 = some 0 ∧ stWait.gangLimit ≠ 0 ∧ 0 + stWait.gangLimit ≤ stWait.now ∧
    stWait.sched.gangCores.find? (·.2 == 0) = none ∧ (stWait.markCore 0).isSome = true ∧ (stMem 4 .resident id).gangRec 7 = none ∧
    (stMem 4 .resident id).mustDefer 0 = false ∧ (stMem 4 .resident id).group 0 = [0] ∧
    (stMem 4 .resident fun x => { x with tiles := ⟨true, 1⟩ :: List.replicate 7 ⟨false, 0⟩ }).mustDefer 0 = true ∧
    (rec1 fun r => { r with running := true }).running = true ∧ (stR id).doneMember 0 = none ∧
    stDone.member 7 = none ∧ stDone.doneMember 7 = some (gangA fun g => { g with phaseSt := 4 }) ∧ stDone.gangRec 7 = none ∧ stDone.coordHere 7 = false := by
  decide +kernel

/-- O39: the start of the gang: the last STARTED opens the member's window. -/
theorem witness_reopens : Claims.Reopens (gangA fun g => { g with phaseSt := 4, attached := true, lens := [(0, 64), (1, 64)], started := [0, 1] })
    (gangA fun g => { g with phaseSt := 4, attached := true, lens := [(0, 64), (1, 64)], started := [0, 1], windowOpen := true }) := by
  refine ⟨rfl, fun _ => .inr ⟨rfl, rfl, rfl, fun m hm => .inr (.inr (.inr ?_))⟩, fun _ => rfl⟩
  have h : m < 2 := hm
  show m ∈ [0, 1]
  simp; omega

/-- A gang command of the member's block, its message sent. -/
def gop (kind phase : Nat) : GangOp := { id := 1, blk := 0, tids := [0], kind, phase, dst := u 10, flag := some 0, sent := true }
def stOp (o : GangOp) (f : GangMember → GangMember) : State := { st (blkG f) with gangOps := [o] }

theorem witness_gang_flight (o : GangOp) (f : GangMember → GangMember) (hs : o.sent = true) (hb : o.blk = 0) :
    Claims.GangFlight (stOp o f) o (blkG f) (gangA f) := ⟨rfl, hs, by rw [hb]; rfl, rfl, rfl⟩

/-- O40: a departure of another member, a GSYNC phase over with the second member's arrival, FORDATT with everyone attached and with a departed member. -/
theorem witness_gang_completions : 1 ≠ (gangA id).index ∧ (st (blkG id)).gangRec 7 = none ∧ (st (blkG id)).ops = [] ∧
    (let g := gangA fun g => { g with gsync := [(0, 1)] }
     let l := Cells.set 1 (max 1 (Cells.getD 1 0 g.gsync)) g.gsync
     (∀ m, m < g.members → (gop 2 1).phase ≤ Cells.getD m 0 l ∨ m ∈ g.detachedSet ∨ m ∈ g.departed) ∧ (gop 2 1).phase ≤ Cells.getD g.index 0 l) ∧
    (gop 2 1).kind = 2 ∧ (gop 2 1).dst = .s 10 ∧ (gop 0 0).sent = true ∧
    (∀ m, m < (gangA id).members → (Cells.get? m (gangA fun g => { g with lens := [(0, 64), (1, 64)] }).lens).isSome = true) ∧ (gangA id).departed = [] ∧
    (gangA fun g => { g with departed := [1] }).departed = 1 :: [] ∧ (gangA fun g => { g with attached := true }).attached = true ∧
    (stR id).member 0 = none ∧ (rec1 id).everStarted = false ∧ (rec1 fun r => { r with everStarted := true }).everStarted = true := by decide +kernel

/-! Headwater slices: block 1 is the slice of compute block 0, its thread the bundle. -/

def strm (ctl : Word) : Stream := { base := 0x10000, ctl, third := 4, strides := [4, 0, 0, 0] }

def blkS (sl : Slice) (th : Thread) : Block :=
  { Block.absent with
    ctx := 1, life := .resident, kind := .headwater, placed := true, pairOf := some 0, allot := 224, full := 224, pro := 224, tvec := 0x1000, cached := List.range 224
    slice := some sl, threads := [th], s := [(2, 1), (3, 2), (8, 0x10000), (10, 0x800), (11, 4), (12, 4), (16, 0x10000), (18, 1)] }
def stH (sl : Slice) (x : Block) (ths : List Thread) : State :=
  let s := st { x with partners := [1], threads := ths }
  { s with cur := [(1, 0)], blocks := s.blocks ++ [(1, blkS sl { th0 with x := none })] }
def stSl (sl : Slice) : State := stH sl blk0 [th0]

/-- A descriptor as HSTREAM reads it. -/
def descriptorAt (d : UReg) (s : State) : Option Stream :=
  match readU2 1 d s with
  | .error _ => none
  | .ok (base, s1) =>
    match readU 1 (UReg.plus d 2) s1 with
    | .error _ => none
    | .ok (ctl, s2) =>
      match readU 1 (UReg.plus d 3) s2 with
      | .error _ => none
      | .ok (third, s3) =>
        match ((List.range 4).mapM fun k => readU 1 (UReg.plus d (4 + k))) s3 with
        | .ok (strides, _) => some { base, ctl, third, strides }
        | .error _ => none

/-- The slice of the witnesses: queue 0 empty; queue 0 full; a nest runs. -/
def slA : Slice := sliceAt 0 false false
def slFull : Slice := sliceAt 3 false false
def slNest (n : Nest) : Slice := { sliceAt 0 false false with nest := some n }
def slFly (f : Flight) : Slice := { sliceAt 1 false false with flight := [f] }

/-- A nest about to issue its first access. -/
def nest1 : Nest :=
  { counts := [2, 1, 1, 1], idx := [0, 0, 0, 0], streams := [(0, strm 0x800)], next := 0, delivered := [], flag := some 0, walk := [] }

theorem witness_slice (sl : Slice) : Claims.SliceAt (stSl sl) 1 0 (blkS sl { th0 with x := none }) { blk0 with partners := [1], threads := [th0] } sl :=
  ⟨rfl, rfl, rfl, rfl, by decide⟩

/-- O41: HSTREAM of nothing, of a good and of a bad descriptor, HLOOP, HPUSH to a queue with room, a full one and with no live thread, HEND, HSYNC of empty and
other queues, HSYNC.kind. -/
theorem witness_slice_instructions : (∀ i ∈ [.hstream .zero 0, .hstream (u 8) 0, .hstream (u 16) 0, .hloop (u 2) 1, .hpush (u 2) 0, .hend false, .hsyncDrain (u 2), .hsyncKind (u 2)],
      uniCheck i (stSl slA) 1 [0] = none) ∧ descriptorAt (u 8) (stSl slA) = some (strm 0x800) ∧ Claims.streamOk (stSl slA) 1 blk0 slA (strm 0x800) ∧
    (descriptorAt (u 16) (stSl slA)).any (·.ctl == 1) = true ∧ ¬Claims.streamOk (stSl slA) 1 blk0 slA (strm 1) ∧
    (stSl slA).ownsQueue 1 0 = true ∧ { blk0 with partners := [1], threads := [th0] }.liveTids ≠ [] ∧ (stSl slA).queueFull 1 0 = false ∧ slA.nest = none ∧
    (stSl slFull).queueFull 1 0 = true ∧ ((stH slA blk0 [{ th0 with run := .exited }]).block 0).liveTids = [] ∧
    (slNest nest1).nest ≠ none ∧ (slFly (flight0 0)).flight ≠ [] ∧ slA.flight = [] ∧ (1 : Nat) < 256 ∧ (∀ q, q < 8 → (1 : Nat).testBit q = true → (stSl slA).ownsQueue 1 q = true) ∧
    (∀ q, q < 8 → (1 : Nat).testBit q = true → (stSl slA).queueEmpty 1 q = true) ∧ (stSl slFull).queueEmpty 1 0 = false ∧ slA.streams = [] ∧
    (∀ q, q < 8 → (stSl slA).ownsQueue 1 q = true → (slA.queue q).block ≠ (1 : Nat).testBit q → (stSl slA).queueEmpty 1 q = true) := by
  unfold Claims.streamOk; decide +kernel

/-- A stream whose addresses are not canonical. -/
def strmBad : Stream := { strm 0x800 with base := 0x0100000000000000 }
def nestBad : Nest := { nest1 with streams := [(0, strmBad)] }

/-- O42: a nest with an access to issue that can be read, and one whose access fails. -/
theorem witness_nests : nest1.streams.find? (fun e => nest1.next ≤ e.1) = some (0, strm 0x800) ∧ (strm 0x800).granules = false ∧ nest1.walk = [] ∧
    (stSl (slNest nest1)).queueFull 1 (strm 0x800).queue = false ∧
    (let q := (stSl (slNest nest1)).entryReads 1 (strm 0x800) ((strm 0x800).addr nest1.idx) [] [0]
     q.1 = [(0, .value [0, 0, 0, 0])] ∧ (q.2.block 1).slice = some (slNest nest1)) ∧
    (let q := (stSl (slNest nestBad)).entryReads 1 strmBad (strmBad.addr nestBad.idx) [] [0]
     q.1 = [(0, .fails)] ∧ (q.2.block 1).slice = some (slNest nestBad)) ∧ (slNest nestBad).freeRec = some 0 := by
  decide +kernel

/-- A granule of the compute block's allocation in flight, and the end of a nest. -/
def flightG : Flight := { kind := .granule 2, words := [(0, 1), (1, 2), (2, 3), (3, 4)] }
def flightE : Flight := { kind := .nestEnd (some 0), words := [] }

/-- O42: an entry, a granule and the end of a nest in flight; waits over. -/
theorem witness_deliveries : { blk0 with partners := [1], threads := [th0] }.liveTids = [0] ∧ (slFly (flight0 0)).flight = flight0 0 :: [] ∧
    ((flight0 0).words.map (·.1)).Nodup ∧ flightG.words.length = 4 ∧
    (stSl (slFly flightG)).padOwner blk0.padCore (blk0.spBase + 2) = some 0 ∧ blk0.regions = [] ∧
    (blkS slA th0).inImage = false ∧ (slFly flightE).flight = flightE :: [] ∧
    (stSl (sliceAt 1 false false)).popWaitOver 0 0 0 = true ∧ (stSl slA).sliceWaitOver 1 (.pushQueue 0) = true ∧ (stSl slA).sliceWaitOver 1 (.hsync 1) = true ∧
    (stSl slA).sliceWaitOver 1 .nestRunning = true := by decide +kernel

/-- Threads that wait at a queue and at a nest. -/
theorem witness_queue_waits : ((stH slA blk0 [{ th0 with run := .stalled (.popQueue 0) }]).getThread 0 0).map (·.run) = some (.stalled (.popQueue 0)) := by decide +kernel

/-! The scheduler: a launch of one thread without a span, its record in device memory at 0x20000 and in queue 1. -/

def roleS : Role := { pro := 16, full := 224, share := 256, prio := 0, hw := false, pair := 0, off := 0 }
def recS : LaunchRec := { rec0 with span := 0, threads := 1, nrgbud := 1, roles := [roleS] }
def launchS : Launch := { launch0 with record := recS }

/-- The bytes of a record, without and with its checksum. -/
def recBody (reserved : Nat) : List Byte :=
  leBytes 8 0x1000 ++ leBytes 8 0 ++ leBytes 8 0 ++ leBytes 8 0x100000 ++ leBytes 8 0x400000 ++ leBytes 8 0 ++ leBytes 8 0x10080 ++ leBytes 4 0 ++ leBytes 4 1 ++ leBytes 4 1 ++
    leBytes 2 1 ++ leBytes 2 1 ++ leBytes 1 1 ++ leBytes 1 0 ++ leBytes 1 0 ++ leBytes 1 1 ++ leBytes 4 0 ++ leBytes 4 0 ++ leBytes 2 0 ++ leBytes 2 0 ++
    leBytes 1 16 ++ leBytes 1 224 ++ leBytes 2 256 ++ leBytes 1 0 ++ leBytes 3 0 ++ leBytes 24 0 ++ leBytes 4 reserved
def recBytes (reserved : Nat) : List Byte := recBody reserved ++ leBytes 4 (crc32c (recBody reserved))

/-- A world with the launch, a block of it, and changes to both. -/
def stS (x : Block) : State := { st { x with image := 0x100000, save := 0x400000 } with launches := [launchS] }

/-- Memory: context 1 is valid; queue 1 at 0x30020 holds one record at 0x20000 (reserved bits as given). -/
def inMemory (reserved : Nat) (s : State) : State :=
  let s1 : State := { s with mgmt := { s.mgmt with qtbase := 0x30000, ctxbase := 0x40000 } }
  ((s1.wrRaw 0x40020 [1]).wrRaw 0x20000 (recBytes reserved)).wrRaw 0x30020
    (leBytes 8 0x20000 ++ leBytes 1 2 ++ leBytes 1 0 ++ leBytes 2 1 ++ leBytes 4 1 ++ leBytes 4 0 ++ leBytes 4 1)

theorem witness_loneLane (x : Block) (hl : x.launch = 0) (hk : x.kind = .lane) (hp : x.pairOf = none ∧ x.partners = []) (hg : x.gang = none) :
    Claims.LoneLane (stS x) 0 { x with image := 0x100000, save := 0x400000 } launchS :=
  ⟨rfl, by simp [State.launchOf, stS, hl, launchS, launch0], hk, hp, rfl, hg⟩

/-- A LAUNCH in flight whose record lies at 0x20000. -/
def launchOp0 : LaunchOp := { id := 1, blk := 0, tids := [0], ea := 0x20000, bytes := [], recPa := 0x20000, arrival := 5, dst := u 10, flag := some 0 }
def stLaunch (reserved : Nat) : State := { inMemory reserved (stS blk0) with launchOps := [launchOp0] }

/-- What the checks of the record in memory say. -/
def checked (s : State) : Checked :=
  let bs := s.recordAt128 1 0x20000
  let r0 := parseLaunch bs
  s.checkRecord bs { r0 with ctx := if r0.ctx = 0 then 1 else r0.ctx, cls := Nat.max r0.cls (s.clsOf 0) } 1 0 true

/-- O43: YIELD that goes on, that stops for a due block, BUDGET's forms, LAUNCH with its record readable. -/
theorem witness_scheduling_instructions : (∀ i ∈ [.yield, .budgetCyc (u 10), .budgetNrg (u 10), .budgetCtx (u 10), .budgetTime (u 10), .launch (u 10) (u 2) false],
      uniCheck i (stS { blk0 with s := [(2, 0x10080)] }) 0 [0] = none) ∧ ((stS blk0).creditSlice 0).yieldStop 0 = false ∧ ((stS blk0).creditSlice 0).yieldMove 0 = none ∧
    ((stS blk0).creditSlice 0).admits launchS.record.cls launchS.record.nrgbud = true ∧ (stS blk0).mustDefer 0 = false ∧
    (let s : State := { stS blk0 with sched := { (stS blk0).sched with due := [(1, 0)] }, blocks := (stS blk0).blocks ++ [(1, { blk0 with life := .queued })] }
     (s.creditSlice 0).yieldStop 0 = true ∧ s.mustDefer 0 = false) ∧
    (match readU2 0 (u 2) (stS { blk0 with s := [(2, 0x10080)] }) with
     | .ok (ea, s1) => (match recordPlace 0 [0] ea s1 with | .ok (pa, _) => pa == 0x10080 | .error _ => false)
     | .error _ => false) = true := by decide +kernel

/-- O43: a LAUNCH record that the checks refuse with code 2, and one they accept. -/
theorem witness_launch_status : (stLaunch 0).launchOps.find? (·.id == 1) = some launchOp0 ∧ ((stLaunch 0).getBlock 0).isSome = true ∧ ((stLaunch 0).block 0).inImage = false ∧
    (stLaunch 0).releaseWaits 0 [0] 1 .pkg ((stLaunch 0).obsBefore 0 [0] 1) = false ∧ (stLaunch 0).reach noCore 0x20000 = true ∧
    (stLaunch 0).reach noCore (0x20000 + 64) = true ∧ checked (stLaunch 1) = .reject 2 ∧ checked (stLaunch 0) = .accept [] 1 ∧ 0 ≤ (stLaunch 0).seq ∧
    (parseLaunch ((stLaunch 0).recordAt128 1 0x20000)).gang = 0 := by decide +kernel

/-- Session 1 is open. -/
def stSession : State := { inMemory 0 st0 with links := { (inMemory 0 st0).links with sessions := [(1, (0, 0))] } }

/-- O44: submits to a queue that is off, full, and with room; an admission check that refuses and one that accepts. -/
theorem witness_queues_of_the_scheduler : stSession.sessionOpen 1 = true ∧ stSession.inbox = [] ∧ Claims.queueAt (inMemory 0 st0) 1 ∧ Claims.queueAt st0 2 ∧ st0.rdNat (st0.queueDesc 2 + 0x0C) 4 % 2 = 0 ∧
    (inMemory 0 st0).rdNat ((inMemory 0 st0).queueDesc 1 + 0x0C) 4 % 2 = 1 ∧ (2 + 2 ^ 32 - 1) % 2 ^ 32 ≤ 2 ^ 31 ∧
    (inMemory 0 st0).rdNat ((inMemory 0 st0).queueDesc 1 + 0x14) 4 = 1 ∧ 2 ^ (inMemory 0 st0).rdNat ((inMemory 0 st0).queueDesc 1 + 8) 1 < (9 + 2 ^ 32 - 0) % 2 ^ 32 ∧
    (2 + 2 ^ 32 - 0) % 2 ^ 32 ≤ 2 ^ (inMemory 0 st0).rdNat ((inMemory 0 st0).queueDesc 1 + 8) 1 ∧ (inMemory 0 st0).pendingLaunches < 65536 ∧
    (inMemory 0 st0).heldReady 1 = none ∧ (inMemory 0 st0).reach noCore 0x20000 = true ∧ (inMemory 0 st0).reach noCore (0x20000 + 64) = true ∧
    (inMemory 1 st0).checkQueued 1 ((inMemory 1 st0).rdBytes 0x20000 128) = .reject 2 ∧
    (inMemory 0 st0).checkQueued 1 ((inMemory 0 st0).rdBytes 0x20000 128) = .accept [] 1 := by
  unfold Claims.queueAt; decide +kernel

/-- A block in its image, queued: one ready thread at 0x1000 in team 0, A = 16, N = 224, P = 16 (03 R86, R87). -/
def stQueued : State :=
  { stS { blk0 with life := .queued, allot := 16, full := 224, pro := 16, s := [], threads := [{ Thread.init 0x1000 0 with run := .stopped none false }] } with
    mem := [(0x200001, 16), (0x20000E, 1), (0x300100, 16), (0x300101, 224), (0x300102, 16), (0x300104, 1), (0x300110, 1)] }

/-- O44: an opportunity that places the block, whose image passes its checks. -/
theorem witness_dispatch : stQueued.sched.due = [] ∧ bestBy stQueued.dispatchKey (stQueued.queued.filter fun b => stQueued.placeable 0 b) = some 0 ∧ stQueued.queued = [0] ∧
    (stQueued.block 0).moveTo = none ∧ (stQueued.getCore 0).gate = .on 0 ∧ stQueued.fitsOn 0 0 [] = some 0 ∧ stQueued.admits recS.cls recS.nrgbud = true ∧
    (stQueued.block 0).placed = true ∧ (stQueued.assign 0 0 0 0).placeFail 0 = none ∧ recS.oxbow = false ∧ recS.list = 0 := by decide +kernel

/-- A block beside a queued one of class 0. -/
def stBeside (x : Block) : State :=
  { stS x with launches := [launchS, { launchS with id := 1, record := { recS with cls := 0 } }], blocks := (stS x).blocks ++ [(1, { blk0 with life := .queued, launch := 1 })] }

/-- A block that is saved, with a store in flight or none. -/
def stSaving (ops : List MemOp) : State := { stS { blk0 with life := .saving } with ops, seq := 5 }

/-- O44: pre-emption put off by live accumulators and not, and for a class with nothing queued; grace over; a save with and without a restart label; a save that
waits and one that need not; an exit that need not wait; a budget used up, its allowance over, the kill; a DONE that can be written. -/
theorem witness_stops : (stBeside { blk0 with tiles := [⟨true, 1⟩] }).mustDefer 0 = true ∧ (stBeside blk0).mustDefer 0 = false ∧
    (stBeside blk0).clsOf 1 = 0 ∧ 0 < (stBeside blk0).clsOf 0 ∧ ((stBeside blk0).block 1).reserves = false ∧ (stS blk0).clsOf 0 ≤ 1 ∧
    (stS { blk0 with life := .stopping }).graceOver { blk0 with stopBy := some 50 } = true ∧
    ({ blk0 with life := .stopping, threads := [{ th0 with run := .stopped none false }] } : Block).allStopped = true ∧
    (stSaving []).saveWaits ([0].filter fun b => ((stSaving []).block b).life != .done) = false ∧
    (stSaving [opFill]).saveWaits ([0].filter fun b => ((stSaving [opFill]).block b).life != .done) = true ∧ (stSaving []).group 0 = [0] ∧
    ({ blk0 with tiles := [⟨true, 1⟩], restart := 0x1000 } : Block).liveAcc = true ∧ blk0.liveAcc = false ∧
    blk0.regions = [] ∧ (stS { blk0 with life := .exiting }).exitWaits 0 = false ∧ blk0.oxbow = none ∧ blk0.allowance = none ∧
    (stS { blk0 with charged := 1000 }).budgetOut { blk0 with charged := 1000 } = some true ∧ 0 ∈ (stS blk0).killSet 0 ∧ launchS.record.done ≠ 0 ∧
    (inMemory 0 (stS blk0)).sched.xlHeld.contains (1, 0x10, true) = false ∧
    (match (doneWrite 0x10080 ((inMemory 0 (stS blk0)).doneRecord launchS)).run ((inMemory 0 (stS blk0)).schedRun 1) with
     | .ok (_, g) => g.fail.isNone
     | .error _ => false) = true := by decide +kernel

/-! Control registers, translation, error queues. -/

/-- A walker's block in the walk slot of cluster 0, whose thread is the bundle, with requests; block 1 waits for page 0x20000. -/
def blkW (th : Thread) : Block :=
  { blk0 with kind := .walker, placed := true, s := [(2, 1), (4, 0x20000), (6, 0x20020), (8, 0x10080), (10, 3), (12, 4)], threads := [th] }
def reqW (g : Option Nat) : WalkReq := { ctx := 1, page := 0x20, kind := .read, spec := false, engine := false, prefs := [], granule := g }
def blkWait : Block := { blk0 with threads := [{ th0 with run := .stalled (.xlate 1 0x20010 .read) }] }
def stW (reqs : List WalkReq) : State :=
  let s := st (blkW th0)
  { s with blocks := s.blocks ++ [(1, blkWait)], clusters := [(0, { s.getCluster 0 with reqs })] }

/-- O45: every CSR read where it may be, hidden ones by lane code, thread CSRs, TVEC, the walker's writes, guarded ones by lane code. -/
theorem witness_csr : (([0x100, 0x101, 0x102, 0x104, 0x200, 0x201, 0x210, 0x211, 0x212, 0x213, 0x214, 0x215, 0x216, 0x300, 0x302] : List (BitVec 12)).all fun n =>
      decide (uniCheck (.csrr (u 10) n) st0 0 [0] = none) && (Claims.csrReads st0 (st0.block 0) n.toNat).isSome && n.toNat != 0x310 && n.toNat != 0x312) = true ∧
    (([0x310, 0x312] : List (BitVec 12)).all fun n => decide (uniCheck (.csrr (u 10) n) st0 0 [0] = none) &&
      decide (uniCheck (.csrr (u 10) n) (stW []) 0 [0] = none) && (Claims.csrReads (stW []) ((stW []).block 0) n.toNat).isSome) = true ∧
    (([0x001, 0x010, 0x012, 0x014, 0x015] : List (BitVec 12)).all fun n =>
      decide (uniCheck (.csrrThread 10 n) st0 0 [0] = none) && (Claims.threadCsr th0 n.toNat).isSome) = true ∧
    (([0x001, 0x010, 0x012, 0x014] : List (BitVec 12)).all fun n => decide (uniCheck (.csrwThread 2 n) st0 0 [0] = none)) = true ∧
    uniCheck (.csrw (u 2) 0x104) st0 0 [0] = none ∧
    (([0x201, 0x210, 0x211, 0x212, 0x213, 0x214, 0x215, 0x216] : List (BitVec 12)).all fun n => decide (uniCheck (.csrw (u 2) n) (stW []) 0 [0] = none) &&
      (Claims.coreCsrWritten ((stW []).getCore 0) n.toNat 1).isSome) = true ∧
    (([0x201, 0x210, 0x211, 0x212, 0x213, 0x214, 0x215, 0x216, 0x310, 0x312] : List (BitVec 12)).all fun n => decide (uniCheck (.csrw (u 2) n) st0 0 [0] = none)) = true ∧
    th0.run ≠ .exited := by decide +kernel

theorem witness_csr_pending (t' : Nat) (r : LReg) : st0.lanePending 0 t' r = false := by
  cases r <;> rcases t' with _ | t' <;> rfl

theorem witness_csr_guarded : Claims.csrGuarded 0x201 ∧ Claims.csrGuarded 0x216 ∧ Claims.csrGuarded 0x310 ∧ Claims.csrHidden 0x312 ∧ ¬Claims.csrHidden 0x300 := by
  unfold Claims.csrGuarded Claims.csrHidden; decide

/-- The words of a TLB instruction read as given. -/
def readsAs (d a e : UReg) (w : Word) (va ent : DWord) (s : State) : Bool :=
  match readU 0 d s, readU2 0 a s, readU2 0 e s with
  | .ok (x, _), .ok (y, _), .ok (z, _) => x == w && y == va && z == ent
  | _, _, _ => false

/-- O46: TLBFILL with words that are right and wrong, TLBINV, WALKDONE without a request, of one that ends well, parks and faults; lane code; a
TLBINV that waits; a request to deliver. -/
theorem witness_walks : (∀ i ∈ [.tlbfill (u 2) (u 4) (u 6), .tlbinv (u 2) (u 4), .walkdone (u 10) (u 12)], uniCheck i (stW []) 0 [0] = none ∧ uniCheck i st0 0 [0] = none) ∧
    readsAs (u 2) (u 4) (u 6) 1 0x20000 0x20020 (stW []) = true ∧ readsAs (u 2) (u 8) (u 6) 1 0x10080 0x20020 (stW []) = true ∧
    Claims.fillOk 1 0x20000 0x20020 ∧ ¬Claims.fillOk 1 0x10080 0x20020 ∧ clusterOf (blkW th0).core = 0 ∧ (blkW th0).kind = .walker ∧
    ((stW []).getCluster 0).tlb.length < 4096 ∧ (1 : Word).toNat < 2 ^ 21 ∧ (1 : Nat) / 2 ^ 16 % 8 ≤ 5 ∧ readsAs (u 10) (u 4) (u 6) 3 0x20000 0x20020 (stW []) = true ∧
    readsAs (u 12) (u 4) (u 6) 4 0x20000 0x20020 (stW []) = true := by
  unfold Claims.fillOk; decide +kernel

theorem witness_walk_requests : ((stW []).getCluster 0).reqs = [] ∧ ((stW [reqW (some 4)]).getCluster 0).reqs.find? (·.granule == some 4) = some (reqW (some 4)) ∧
    (reqW (some 4)).spec = false ∧ (reqW (some 4)).prefs = [] ∧ (stW [reqW (some 4)]).blockIds.Nodup ∧ (3 : Word).toNat % 256 < 4 ∧ 4 ≤ (4 : Word).toNat % 256 ∧
    (stW [reqW (some 4)]).xlateWaiters 0 1 0x20 = [(1, 0, 0x20010, .read)] ∧ (stW [reqW none]).walkerOf 0 = some 0 ∧
    ((stW [reqW none]).getCluster 0).reqs.find? (·.granule.isNone) = some (reqW none) ∧ (stW [reqW none]).isFull (.sp 512 0) = false ∧
    ((stW [reqW none]).padOwner 512 0).isSome = true ∧ ((stW [reqW none]).getCore 0).gate = .on 0 ∧
    ((st (blkW { th0 with run := .stalled .tlbinv })).getThread 0 0).map (·.run) = some (.stalled .tlbinv) := by decide +kernel

theorem witness_waitsForPage : Claims.WaitsForPage (stW [reqW (some 4)]) 1 0 blkWait { th0 with run := .stalled (.xlate 1 0x20010 .read) } 0 1 0x20 0x20010 .read ∧
    Claims.CanTrap (stW [reqW (some 4)]) 1 0 blkWait { th0 with run := .stalled (.xlate 1 0x20010 .read) } :=
  ⟨⟨rfl, rfl, ⟨rfl, by decide⟩, rfl, by decide⟩, rfl, rfl, rfl, rfl, canTrap0.vector, by decide, ⟨rfl, rfl⟩⟩

/-- A parked thread, its page 0x20000. -/
def thPark : Thread := { th0 with run := .parked 0x20010 .read }

/-- O47: a replay of the page; ERRPOP of an empty queue, of one with a record, misplaced, and out of the scratchpad; HZWAIT, and its end. -/
theorem witness_replay : Claims.CanTrap (one thPark) 0 0 { blk0 with threads := [thPark] } thPark ∧ thPark.budgetDue = false ∧ (one thPark).blockIds.Nodup ∧
    (0x20000 : DWord).toNat / sizeBytes 0 * sizeBytes 0 ≤ (0x20010 : DWord).toNat ∧
    (0x20010 : DWord).toNat < (0x20000 : DWord).toNat / sizeBytes 0 * sizeBytes 0 + sizeBytes 0 :=
  ⟨canTrap_one rfl (by decide), rfl, by decide, by decide, by decide⟩

/-- A queue of context 1 at 0x50000 with one record. -/
def withQueue (s : State) : State :=
  { s with mgmt := { s.mgmt with ctxbase := 0x40000 }, mem := [(0x40020, 1), (0x40032, 5), (0x50004, 1), (0x50008, 2), (0x50040, 0x31)] }

def blkP : Block := { blk0 with s := [(2, 0x10080), (6, 0x40), (7, 0x44), (8, 0x4000)], threads := [th0] }

/-- ERRPOP's checks at an offset. -/
def errpopOk (s : State) : Bool :=
  match readU 0 (u 6) s with
  | .error _ => false
  | .ok (off, s1) => off == 0x40 && s1.specPending 0 [0] s1.seq == false && s1.queueHeld 1 == none &&
    (match checkAccess 0 [0] { kind := .write, fe := false, align := 1, eas := spanFrom (w64 (padWindow + off.toNat)) 64 } s1 with
     | .ok (ts, s2) => ts == ((List.range 64).map fun i => Tgt.sp blkP.padCore (16 * blkP.spBase + off.toNat + i)) &&
       (List.range 64).all fun i => (s2.unitAt blkP.padCore (16 * blkP.spBase + off.toNat + i)).isNone
     | .error _ => false)

def hzOp0 : HzOp := { id := 1, blk := 0, tids := [0], time := 5, dst := u 10, flag := some 0 }

theorem witness_errpop : (∀ i ∈ [.errpop (u 10) (u 6), .errpop (u 10) (u 7), .errpop (u 10) (u 8), .hzwait (u 10) (u 2) false], uniCheck i (st blkP) 0 [0] = none) ∧
    errpopOk (st blkP) = true ∧ errpopOk (withQueue (st blkP)) = true ∧ ((st blkP).popRecord 1).1 = none ∧ ((withQueue (st blkP)).popRecord 1).1.isSome = true ∧
    blkP.regions = [] ∧ 0x44 % 64 ≠ 0 ∧ 16 * blkP.spLen < 0x4000 + 64 ∧ ({ st0 with hzOps := [hzOp0] } : State).hzOps.find? (·.id == 1) = some hzOp0 ∧
    (let r := { st0 with roofwalk := { st0.roofwalk with horizon := 5 } }; hzOp0.time ≤ r.roofwalk.horizon) ∧ blk0.inImage = false := by decide +kernel

/-! Errors, Roofwalk, Oxbow, Thatch. -/

/-- The queue of context 1 as withQueue leaves it, and full. -/
def fullQueue (s : State) : State :=
  { s with mgmt := { s.mgmt with ctxbase := 0x40000 }, mem := [(0x40020, 1), (0x40032, 5), (0x50004, 4), (0x50008, 2)] }

/-- O48: a ring with room, and a full one. -/
theorem witness_rings : (withQueue st0).ctxErrq ((withQueue st0).queueOf 1) = 0x50000 ∧ (Claims.ringAt (withQueue st0) 0x50000).count ≠ 2 ^ (Claims.ringAt (withQueue st0) 0x50000).log ∧
    (Claims.ringAt (withQueue st0) 0x50000).base ≠ 0 ∧ 0x50000 + 64 + 64 * 2 ^ (Claims.ringAt (withQueue st0) 0x50000).log ≤ devSize ∧
    (Claims.ringAt (fullQueue st0) 0x50000).count = 2 ^ (Claims.ringAt (fullQueue st0) 0x50000).log := by decide +kernel

/-- A contained block, a walk due, a cluster that drains or is tested. -/
def stContain (c : Nat) : State := { stS blk0 with launches := [{ launchS with record := { recS with contain := c } }] }
def stWalk (ph : WalkPhase) : State :=
  let s := stS blk0
  { s with now := 20000000, clusters := [(0, { s.getCluster 0 with phase := ph })] }

/-- O49: an error in a contained and in a plain block, a walk due, one that drains too long, one tested, told notices of a peer lost and not. -/
theorem witness_errors : 0 ∈ (stContain 1).struck 0 .l1 0 ∧ 0 ∈ (stContain 1).struck 0 .scratchpad 0 ∧ (stContain 1).containOf 0 ≠ 0 ∧ (stContain 1).onCore 0 = [0] ∧
    ((stContain 1).block 0).kind ≠ .walker ∧ 0 ∈ (stContain 1).killSet 0 ∧ (stContain 0).struck 0 .l1 0 = [0] ∧ (stContain 0).containOf 0 = 0 ∧ ((stContain 0).block 0).ctx = 1 ∧
    (stWalk .none).walkDue = some 0 ∧ ((stWalk .none).getCluster 0).phase = .none ∧ clusterOf ((stWalk .none).block 0).core = 0 ∧ (stWalk .none).mustDefer 0 = false ∧
    ((stWalk (.draining 0)).getCluster 0).phase = .draining 0 ∧ 0 + 3600 * ((stWalk (.draining 0)).mgmt.rwctl.toNat % 2 ^ 16) ≤ 20000000 ∧
    (stWalk (.draining 0)).drained 0 = false ∧ (stWalk (.draining 0)).readmitting ≠ some 0 ∧ ((stWalk (.testing 7 0)).getCluster 0).phase = .testing 7 0 ∧
    3 ∉ (stWalk .none).links.lostPeers := by decide +kernel

/-- A member of a gang that has said READY and waits in cluster 0, where a walk is due. -/
def stWalkMember : State :=
  { stWalk .none with blocks := (stWalk .none).blocks ++ [(1, { blkG (fun g => { g with phaseSt := 1 }) with life := .queued, placed := false, image := 0x110000, save := 0x410000 })] }

/-- O49: such a member, and a lone block on the cluster. -/
theorem witness_walk_members : stWalkMember.walkDue = some 0 ∧ (stWalkMember.getCluster 0).phase = .none ∧ ((stWalkMember.getBlock 1).bind (·.gang)).any (·.phaseSt == 1) = true ∧
    (stWalkMember.block 1).kind = .lane ∧ (stWalkMember.block 1).life = .queued ∧ clusterOf (stWalkMember.block 1).core = 0 := by decide +kernel

/-- An Oxbow run of blocks 0 and 1, and 2 if a third runs, with signatures. -/
def oxRun0 (third : Option Nat) : OxRun :=
  { id := 9, slot := 0, launch := 0, index := 0, ctx := 1, orig := 0, copy := 1, third, thirdSlot := none, clusters := [0], start := 5, finish := 9, sigs := [], abandoned := false }
def stOx (third : Option Nat) (a b c : List (Nat × Nat)) : State :=
  let s := stS { blk0 with life := .done, oxbow := some (9, 0), sig := [] }
  let y (g : List (Nat × Nat)) : Block := { blk0 with life := .done, sigShadow := g.length }
  { s with blocks := [(0, y a), (1, y b), (2, y c)], oxRuns := [oxRun0 third] }

/-- O49: equal and unequal signatures, a free slot, and the three ends of a third run; soft errors need tiles and a contained block's twin. -/
theorem witness_oxbow : (stOx none [] [] []).oxRuns.find? (·.id == 9) = some (oxRun0 none) ∧ (stOx none [] [] []).allDone [0, 1] = true ∧
    ((stOx none [] [] []).block 0).signature = ((stOx none [] [] []).block 1).signature ∧ (stOx none [] [(1, 1)] []).runAbandoned (oxRun0 none) = false ∧
    ((stOx none [] [(1, 1)] []).block 0).signature ≠ ((stOx none [] [(1, 1)] []).block 1).signature ∧ (stOx none [] [(1, 1)] []).oxFreeSlot.isSome = true ∧
    (stOx (some 2) [] [(1, 1)] []).allDone [0, 1, 2] = true ∧ (stOx (some 2) [] [(1, 1)] []).runAbandoned (oxRun0 (some 2)) = false ∧
    ((stOx (some 2) [] [(1, 1)] []).block 2).signature = ((stOx (some 2) [] [(1, 1)] []).block 0).signature ∧
    ((stOx (some 2) [] [(1, 1)] [(1, 1)]).block 2).signature = ((stOx (some 2) [] [(1, 1)] [(1, 1)]).block 1).signature ∧
    ((stOx (some 2) [] [(1, 1)] [(1, 1)]).block 2).signature ≠ ((stOx (some 2) [] [(1, 1)] [(1, 1)]).block 0).signature ∧
    ((stOx (some 2) [] [(1, 1)] [(1, 1), (2, 2)]).block 2).signature ≠ ((stOx (some 2) [] [(1, 1)] [(1, 1), (2, 2)]).block 1).signature ∧
    ((coreM id).getCore 0).tiles.length = 8 ∧ (stContain 1).containOf 0 = 1 ∧ ((stContain 1).getThread 0 0).isSome = true := by decide +kernel

/-- A world with Thatch in some state. -/
def stT (f : Thatch → Thatch) : State := { st0 with thatch := f st0.thatch }
def owed0 : Owed := { id := 1, pa := 0, len := 4 }

/-- O50: an owed update that is a stripe's last; no stack lost, one lost; a PENDING stripe whose lost unit holds data; a LOST stripe; a rebuild
that is done. -/
theorem witness_thatch : (stT fun t => { t with owed := [owed0], stripes := [(0, .pending)] }).thatch.owed.find? (fun o => stripeOf o.pa == 0) = some owed0 ∧
    [owed0].erase owed0 = [] ∧ (stT id).thatch.lostStack = none ∧ (stT id).ctxErrq 0 = 0 ∧ (stT id).thatch.failed = false ∧ 3 < 12 ∧
    (0, Stripe.pending) ∈ (stT fun t => { t with stripes := [(0, .pending)] }).thatch.stripes ∧ parityStack 0 ≠ 3 ∧
    (stT fun t => { t with lostStack := some 3 }).thatch.lostStack = some 3 ∧ (3 : Nat) ≠ 4 ∧
    (stT fun t => { t with lostStack := some 3, stripes := [(0, .lost)] }).thatch.stripe 0 = .lost ∧
    (stT fun t => { t with lostStack := some 3, rebuilding := true }).thatch.rebuilding = true ∧ (stT id).thatch.stripes = [] := by decide +kernel

/-! Power, links, the management interface. -/

def unacked0 (n : Nat) : Unacked := { session := 1, seq := 1, tries := n, sentAt := 0, msg := .time 0 }
/-- Session 1 is open, region 0 covers 0x10000 to 0x11000, queue pair 0 has a ring, the secure session stands. -/
def stO (f : State → State) : State :=
  let s := { st0 with now := 400000 }
  f { s with links := { s.links with sessions := [(1, 5, 6)], secure := true, regions := [(0, { base := 0x10000, len := 0x1000, rd := true, wr := true, key := 7 })]
                                     rings := [(0, { base := 0x60000, log2n := 2, entry := 64, count := 5 })] } }
def stGate (g : Gate) : State := { stO id with cores := [(9, { CoreState.init with gate := g })] }

/-- O51: a core that may gate, commits, wakes and powers up; a time message due; a silent peer; messages to resend and to give up; acknowledged. -/
theorem witness_power : (stGate (.on 0)).mayGate 9 = true ∧ ((stGate (.entering 0)).getCore 9).gate = .entering 0 ∧ ((stGate .waking).getCore 9).gate = .waking ∧
    36000 * ((stO id).links.timeSent + 1) ≤ (stO id).now ∧ 0 ≤ (((stO id).now * 10 / 36 : Nat) : Int) + (stO id).devAdj ∧ 3 ∉ (stO id).links.lostPeers ∧
    Cells.getD 3 0 (stO id).links.heard + 360000 ≤ (stO id).now ∧ 3 ≠ (stO id).device ∧ (stO id).gangs = [] ∧
    (unacked0 0).sentAt + 180000 ≤ (stO id).now ∧ (unacked0 7).tries < 8 ∧ 8 ≤ (unacked0 8).tries ∧
    [unacked0 0].find? (fun v => v.session == (unacked0 0).session && v.seq == (unacked0 0).seq) = some (unacked0 0) := by decide +kernel

/-- O52: messages of an open and of a closed session, in and out of range, an error queue empty and not, regions and rings that fit and do not. -/
theorem witness_host : (stO id).sessionOpen 1 = true ∧ (stO id).sessionOpen 2 = false ∧ (stO id).hostBlocked 0x10000 4 = none ∧ 0x10000 + 4 ≤ devSize ∧
    ¬(devSize + 4 ≤ devSize) ∧ (stO id).ctxErrq 1 = 0 ∧ (stO withQueue).ctxErrq (1 % 65536) = 0x50000 ∧
    (Claims.ringAt (stO withQueue) 0x50000).head ≠ (Claims.ringAt (stO withQueue) 0x50000).tail ∧ 0x50000 + 4 ≤ devSize ∧
    (Cells.get? 0 (stO id).links.regions).any (fun r => r.key == 7 && r.wr && r.rd && r.base == 0x10000 && r.len == 0x1000) = true ∧
    (Cells.get? 0 (stO id).links.rings).any (fun r => r.entry == 64 && r.base + r.entry * (r.count % 2 ^ r.log2n) == 0x60040) = true ∧
    (stO id).hostBlocked 0x60040 4 = none ∧ Cells.get? 1 (stO id).links.rings = none := by decide +kernel

/-- Line 0x10000 is pinned by core 5; a write of session 1 and one of queue pair 0 wait. -/
def stPinnedAt : State := stO fun s => { s with pins := [{ core := 5, blk := 77, line := 0x10000, key := none, bytes := List.replicate 64 1, firstRetry := none }] }
def stWaiting : State := stO fun s => { s with inbox := [.memwr 1 0x10000 [1], .rdmaWrite 0 0 7 0x10000 [2]] }

/-- O52: a range out of reach, messages that wait and none, an entry that a SEND does not fit, the oldest message that waits performed. -/
theorem witness_host_waits : stPinnedAt.hostBlocked 0x10000 4 ≠ none ∧ stPinnedAt.sessionOpen 1 = true ∧ stWaiting.sessionOpen 1 = true ∧ (stO id).inbox = [] ∧
    (∃ j ∈ stWaiting.inbox, j.stream = (0, 1)) ∧ (∃ j ∈ stWaiting.inbox, j.stream = (1, 0)) ∧
    (Cells.get? 0 (stO id).links.rings).any (fun r => r.entry < 65) = true ∧ (takeAgain (.memwr 1 0x10000 [1]) stWaiting).1 = true ∧
    hostRange 0x10000 4 = true ∧ (stO id).hostBlocked 0x10000 4 = none := by decide +kernel

/-- O53: registers stored, only read, and not listed; no walker yet; no live future and one; the exchange before and after step 6. -/
theorem witness_registers : (stO id).links.secure = true ∧ st0.links.secure = false ∧ Claims.registerMask 0x10 = some 0x000FFFFFFFFFF000 ∧
    (stO id).mgmt.fbufbase.length = 4 ∧ (stO id).mgmt.cmdarg.length = 4 ∧ (stO id).mgmt.schedclass.length = 4 ∧ Claims.readOnlyRegister 0x02 = true ∧
    (stO id).mgmtRead 0x99 = none ∧ (stO id).mgmtRead 0x10 = some 0 ∧ (stO id).walkerOf 0 = none ∧ (0x1000 : DWord) &&& 0x000FFFFFFFFFFFFC ≠ 0 ∧ (∀ b ∈ (stO id).blockIds, b ≤ (stO id).seq) ∧
    (stO fun s => { s with mgmt := { s.mgmt with rwctl := 0 } }).mgmt.rwctl.toNat / 2 ^ 16 = 0 ∧ (0x00C803E8 : Word).toNat / 2 ^ 16 ≠ 0 ∧
    (stO id).futures = [] ∧ (1, fut .live 2) ∈ (stF .live .live blkF).futures ∧ (fut .live 2).st ≠ .free ∧ (stO id).mgmt.devstate.toNat % 32 = 6 ∧
    (stO fun s => { s with mgmt := { s.mgmt with devstate := 5 } }).mgmt.devstate.toNat % 32 ≠ 6 ∧
    (stO fun s => { s with links := { s.links with keyExchange := some 3 } }).links.keyExchange = some 3 := by decide +kernel

/-- A world with command arguments. -/
def stArg (l : List DWord) : State := stO fun s => { s with mgmt := { s.mgmt with cmdarg := l } }

/-- O54: a command may run, or one runs; arguments in and out of range; a context's key in use and free; a stack to rebuild; commands that end. -/
theorem witness_commands : Claims.mayCommand (stArg [0, 0, 0, 0]) ∧ (stO fun s => { s with mgmt := { s.mgmt with cmdstat := 1 } }).cmdBusy = true ∧ (stO id).sessionOpen 1 = true ∧
    (stO id).sessionOpen 3 = false ∧ (stArg [0x10000, 0, 0, 0]).cmdArg 0 % sizeBytes 0 = 0 ∧ (stArg [0x10000, 0, 0, 0]).cmdArg 0 + sizeBytes 0 ≤ devSize ∧
    (stArg [0, 0x10000, 0, 0]).cmdArg 1 % sizeBytes 0 = 0 ∧ (stArg [0, 0x10000, 0, 0]).cmdArg 1 + sizeBytes 0 ≤ devSize ∧
    Cells.get? 0 ({ stArg [0, 0x10000, 0, 0] with capacity := [(0, (0, [(0, 5)]))] } : State).capacity = some (0, [(0, 5)]) ∧ Cells.get? 0 (stArg []).capacity = none ∧
    (stArg [0xFFFFFFFF, 0, 0, 0]).cmdArg 0 = 0xFFFFFFFF ∧ (stArg [1, 0, 5, 0]).cmdArg 2 % 8 ≤ 5 ∧
    ({ stArg [] with mem := [(40, 0x85)] } : State).ctxKey 1 = some 5 ∧ 1 ∉ (stArg []).mgmt.killed ∧ 5 ≠ (stO id).device ∧
    (let t := stO fun s => { s with thatch := { s.thatch with lostStack := some 3, healthy := true } }; t.thatch.lostStack.isSome = true ∧ t.thatch.healthy = true ∧ t.thatch.failed = false) ∧
    (stArg [0x10000, 0x1000, 3, 7]).cmdArg 0 + (stArg [0x10000, 0x1000, 3, 7]).cmdArg 1 ≤ devSize ∧ (stArg [0x10000, 0x1000, 3, 7]).cmdArg 2 < 4 ∧
    (stArg [0x10000, 5, 64, 0]).cmdArg 1 < 32 ∧ (stArg [0x10000, 5, 64, 0]).cmdArg 2 ≠ 0 ∧ (stArg [0x10000, 5, 64, 0]).cmdArg 2 % 64 = 0 ∧
    (stArg [0x10000, 5, 64, 0]).cmdArg 0 + 64 * 2 ^ 5 ≤ devSize ∧ (stArg []).ops = [] := by
  unfold Claims.mayCommand; decide +kernel

/-- No context uses key slot 5 in empty memory. -/
theorem witness_key_free (c : Nat) : (stArg []).ctxKey c ≠ some 5 := by
  have h : ∀ a, (stArg []).rd8 a = 0 := fun _ => rfl
  simp [State.ctxKey, h]

/-- A module with capacity installed takes a page. -/
theorem witness_capacity (h : 4096 ≤ Config.capacityBytes) : (stArg [0x10000, 0, 0, 0]).cmdArg 1 * 4096 + sizeBytes 0 ≤ Config.capacityBytes := h

/-! The machine as a whole. -/

/-- Does a state's step run the instruction i through the picker? -/
def picks (s : State) (i : Instr) : Bool :=
  s.agenda.isEmpty && s.tick.loop.isEmpty && (s.tick.now % 2 == 1 || s.tick.internal.isNone) &&
  match s.tick.pick with
  | some u => u.cur.head? == some (0, 0) && (match u.fetch 0 0 with | .instr j => decide (j = i) | _ => false)
  | none => false

/-- Threads at a boundary, and at a word that is no instruction. -/
def thHead : Thread := { th0 with pc := 0x1000, clauseIdx := 0, clause := [] }
def thOdd : Thread := { thHead with pc := 0x1002 }
def thBad : Thread := { th0 with clause := hdr :: List.replicate 15 0 }

/-- O55: a step that runs the clause's NOP, one at a boundary, one at a place no word stands at, one at a bad word, and an event of the agenda. -/
theorem witness_step : picks st0 .nop = true ∧ (th0.clause[th0.clauseIdx]?).map (fun w => decodeWord w.toNat none) = some (.ok .nop) ∧
    (match (one thHead).codeWord 0 0x1000 with | .ok w => w.toNat / 2 ^ 25 == 127 && (match decodeWord w.toNat none with | .ok _ => true | .error _ => false) | .error _ => false) = true ∧
    thOdd.clauseIdx = 0 ∧ thOdd.pc.toNat % 4 ≠ 0 ∧ thHead.pc.toNat % 4 = 0 ∧
    (match (one thBad).tick.pick with
     | some u => u.cur == [(0, 0)] && (u.getThread 0 0).any fun th =>
        (th.clause[th.clauseIdx]?).any fun w => match decodeWord w.toNat none with | .ok _ => false | .error _ => true
     | none => false) = true ∧ ({ st0 with agenda := [.stackHealthy] } : State).agenda = .stackHealthy :: [] ∧ Instr.stackHealthy.isWord = false := by decide +kernel

/-- O58 and O59: an instruction with a literal and its words. -/
theorem witness_encoding : (Instr.lit .x 65536).wellFormed = true ∧ (Instr.lit .x 65536).isWord = true ∧ decodeWord 0x2DF00000 (some 65536) = .ok (.lit .x 65536) ∧
    encode (.lit .x 65536) = [0x2DF00000, 65536] := by decide

/-- O60: a memory in canonical form and a step from it. -/
theorem witness_canonical : (withQueue st0).memWf = true ∧ (match step (withQueue st0) with | .next s' => s'.memWf | _ => false) = true := by decide +kernel

/-! The chapters' worked examples, one step each. -/

/-- The registers of the issuing thread after an instruction, with FPSTAT; none if there is no next state. -/
def after (i : Instr) (th : Thread) (regs : List Nat) : Option (List Word × Word) :=
  match exec i (one th) with
  | .next s' => (s'.getThread 0 0).map fun u => (regs.map u.getV, u.fpstat)
  | _ => none

def withV (l : List (Nat × Word)) : Thread := { th0 with v := l }

/-- 04_integer.md, packed add-compare-select: the candidates and the metrics. -/
theorem test_packed_add_saturates : after (.addSatI16x2 (v 4) (v 2) (v 3)) (withV [(2, 0x00057FF0), (3, 0x00030020)]) [4] = some ([0x00087FFF], 0) ∧
    after (.addSatI16x2 (v 5) (v 6) (v 7)) (withV [(6, 0x00020100), (7, 0x0007FFFE)]) [5] = some ([0x000900FE], 0) ∧
    after (.minI16x2 (v 8) (v 4) (v 5)) (withV [(4, 0x00087FFF), (5, 0x000900FE)]) [8] = some ([0x000800FE], 0) := by decide +kernel

/-- 04_integer.md, the carry chain's two additions: v8 with the carry in p7, then v9 with it. -/
theorem test_carry_chain : (match exec (.addc (v 8) (v 4) (v 6)) (one (withV [(4, 0xFFFFFFF0), (6, 0x20)])) with
      | .next s' => ((s'.thread 0 0).getV 8 == 0x10) && ((s'.thread 0 0).pred.getLsbD 7) | _ => false) = true ∧
    (match exec (.addc (v 9) (v 5) (v 7)) (one { withV [(5, 1), (7, 2)] with pred := 0x80 }) with
      | .next s' => ((s'.thread 0 0).getV 9 == 4) && !((s'.thread 0 0).pred.getLsbD 7) | _ => false) = true := by decide +kernel

/-- 04 R115: selectors 0xAAA2 and 0xBBB0. -/
theorem test_prmt_sign_and_copy : after (.prmt (v 4) (v 8) (v 9)) (withV [(4, 0xAAA2), (8, 0x12F45678)]) [4] = some ([0xFFFFFFF4], 0) ∧
    after (.prmt (v 4) (v 8) (v 9)) (withV [(4, 0xBBB0), (8, 0x12F45678)]) [4] = some ([0x78787878], 0) := by decide +kernel

/-- 05_float.md: one DOT4, the tie to even with NX. -/
theorem test_dot4_rounds_once : after (.dot4E4m3 (v 8) (v 4) (v 5)) (withV [(4, 0x30303838), (5, 0x38383838), (8, 0x4B800000)]) [8] = some ([0x4B800002], 0x10) := by
  decide +kernel

/-- 05_float.md: E5M2 to E4M3 without and with .sat. -/
theorem test_fcvt_ends_of_range : after (.fcvt (v 6) (v 7) 0 false .e4m3e5m2) (withV [(7, 0x603CFC7C)]) [6] = some ([0x7F38FF7F], 0x15) ∧
    after (.fcvt (v 6) (v 7) 0 true .e4m3e5m2) (withV [(7, 0x603CFC7C)]) [6] = some ([0x7E38FE7E], 0x50) := by decide +kernel

/-- 05_float.md: narrow accumulation saturates. -/
theorem test_ffma_h2_saturates : after (.ffmaH2 (v 2) (v 3) (v 4)) (withV [(2, 0x3C00), (3, 0x7BFF3C00), (4, 0x40003C00)]) [2] = some ([0x7BFF4000], 0x50) := by
  decide +kernel

/-- 05_float.md: three planes of a .bp tensor. -/
theorem test_bpx_three_planes : after (.bpx (v 12) (v 16) (v 9)) (withV [(9, 0x300), (16, 0xA), (17, 5), (18, 6)]) [12] = some ([0xFC03FD02], 0) := by decide +kernel

/-- 10_residue.md: 37 and −19 in residues, their product, its decode, and the decode and class after one flipped residue. -/
theorem test_residues : after (.rencI32 (v 8) (v 2)) (withV [(2, 37)]) [8, 9, 10] = some ([0x25252525, 0x25252525, 0x2525], 0) ∧
    after (.rencI32 (v 12) (v 3)) (withV [(3, 0xFFFFFFED)]) [12, 13, 14] = some ([0xDEE4E8EA, 0xD0D2D6DC, 0xECED], 0) ∧
    after (.rmul (v 16) (v 8) (v 12)) (withV [(8, 0x25252525), (9, 0x25252525), (10, 0x2525), (12, 0xDEE4E8EA), (13, 0xD0D2D6DC), (14, 0xECED)]) [16, 17, 18]
      = some ([0x14263238, 0xCDD5E50E, 0x3E41], 0) := by decide +kernel

theorem test_residue_decodes : after (.rdec (v 20) (v 16) (v 24)) (withV [(16, 0x14263238), (17, 0xCDD5E50E), (18, 0x3E41), (24, 0x6104)]) [20] = some ([0xFFFFFFD4], 0) ∧
    after (.rdec (v 20) (v 16) (v 24)) (withV [(16, 0x14263338), (17, 0xCDD5E50E), (18, 0x3E41), (24, 0xA100)]) [20, 21] = some ([0xBC132E41, 0xFFFFFFFF], 0) ∧
    after (.rchk (v 22) (v 16) (v 24)) (withV [(16, 0x14263238), (17, 0xCDD5E50E), (18, 0x3E41), (24, 0x6100)]) [22] = some ([0xF0], 0) ∧
    after (.rchk (v 22) (v 16) (v 24)) (withV [(16, 0x14263338), (17, 0xCDD5E50E), (18, 0x3E41), (24, 0x6100)]) [22] = some ([0x11], 0) := by decide +kernel

/-- 13 R305: the CRC of "123456789". -/
theorem test_crc : crc32c [0x31, 0x32, 0x33, 0x34, 0x35, 0x36, 0x37, 0x38, 0x39] = 0xE3069283 := by decide +kernel

/-- 18_errors.md: the stripe of 0x1_2345_6780, its parity stack and its data stack (R433). -/
theorem test_stripe : stripeOf 0x123456780 = 1735340 ∧ parityStack 1735340 = 8 ∧ dataStack 0x123456780 = 0 ∧ unitOn 1735340 0 = 0x123456700 := by decide

/-! Further forms: releases held by name, lost devices, a placed start, copies, migrations, ports. -/

/-- A world in which thread 0 has seen its own write 1, whose parity update is owed. -/
def stOwed : State :=
  { one { th0 with observed := [obsWrite 1] } with seq := 5, thatch := { State.reset.thatch with owed := [owed0] } }

/-- O16, O18: the store in flight is the thread's, earlier than the fence, to NORMAL memory; a parity update owed for its write; the store's flag. -/
theorem witness_fence_waits : opStore ∈ (flying opStore).ops ∧ opStore.kind = .store ∧ 0 ∈ opStore.tids ∧ opStore.id < (flying opStore).seq ∧
    .dev 0x10040 none ∈ opStore.tgts ∧ owed0 ∈ stOwed.thatch.owed ∧ obsWrite owed0.id ∈ (stOwed.thread 0 0).observed ∧ laneCheck .fenceDur stOwed 0 0 = none ∧
    opStore.tids = [0] ∧ opStore.flag = some 0 ∧ opStore.rel = false := by decide +kernel

/-- O21: the pin has nothing to perform behind it, and stood from cycle 0. -/
theorem witness_pin_since : pin0.later = [] ∧ stPin.now - pin0.since = 300 := by decide

/-- O22: a dirty unit of a block and of a copy that can be written back. -/
theorem witness_copies (x : Block) (hx : x = blkR [regD] ∨ x = { blkR [regD] with oxbow := some (9, 1) }) : (st x).getBlock 0 = some x ∧
    (st x).unitPhys 0 x.ctx (regD.global + BitVec.ofNat 64 (256 * 0)) .write = .ok 0x10100 ∧ (∀ i < 4, (st x).reach 0 (0x10100 + 64 * i) = true) ∧
    (st x).atOnce 0 [0] 0 true (unitTgts 0x10100 ((st x).ctxKey x.ctx) ++ x.unitPad regD 0) = none ∧ (st x).ctxKey x.ctx = none ∧
    (∀ i < 256, (st x).pinAt (0x10100 + i) = none) := by
  rcases hx with rfl | rfl <;> decide +kernel

theorem witness_copy_kinds : (blkR [regD]).isCopy = false ∧ ({ blkR [regD] with oxbow := some (9, 1) } : Block).isCopy = true := by decide

/-- O34, O37: a block that an Oxbow comparison watches. -/
theorem witness_watched : ({ blkF with oxbow := some (9, 0) } : Block).oxbow.isSome = true ∧ uniCheck (.fself (u 10)) (stF .live .live { blkF with oxbow := some (9, 0) }) 0 [0] = none ∧
    uniCheck (.fordq (u 10)) (st { blkG id with oxbow := some (9, 0) }) 0 [0] = none := by decide +kernel

/-- O38, O39, O40: a message of member 1, whose device counts as lost, and one where none does. -/
theorem witness_from_lost : Claims.FromLost { stR id with links := { (stR id).links with lostPeers := [3] } } 0 1 := ⟨3, by decide +kernel⟩

theorem witness_not_from_lost (s : State) (h : s.links.lostPeers = []) (gang gindex : Nat) : ¬Claims.FromLost s gang gindex := fun ⟨_, _, _, hd⟩ => by
  rw [h] at hd; exact absurd hd List.not_mem_nil

theorem witness_none_lost : (stR id).links.lostPeers = [] ∧ (stMem 2 .queued id).links.lostPeers = [] ∧ (st (blkG id)).links.lostPeers = [] := by decide +kernel

/-- A COMMITTED member that waits on core 0, whose image holds one ready thread. -/
def blkCommitted : Block :=
  { blkG (fun g => { g with phaseSt := 3 }) with
    life := .queued, slot := 0, allot := 16, full := 224, pro := 16, spLen := 0, s := [], image := 0x100000, save := 0x400000
    threads := [{ Thread.init 0x1000 0 with run := .stopped none false }] }
def stCommitted (g : Gate) : State :=
  let s := st blkCommitted
  { s with now := 400, launches := [{ launchS with record := { recS with gang := 7 } }], cores := [(0, { CoreState.init with gate := g })], mem := stQueued.mem }

/-- O39: its start can be made while its core is ON; and the core is gated. -/
theorem witness_committed : Claims.Member (stCommitted (.on 0)) 7 0 blkCommitted (gangA fun g => { g with phaseSt := 3 }) ∧ (stCommitted (.on 0)).group 0 = [0] ∧
    blkCommitted.oxbow = none ∧ (stCommitted (.on 0)).recOf blkCommitted = some { recS with gang := 7 } ∧ recS.oxbow = false ∧
    (stCommitted (.on 0)).mayStart 0 = true ∧ blkCommitted.placed = true ∧ (stCommitted (.on 0)).placeFail 0 = none ∧ ((stCommitted .gated).getCore blkCommitted.core).gate = .gated ∧
    blkCommitted.core < 512 ∧ (∀ th ∈ blkCommitted.threads, th.budgetDue = false) :=
  ⟨⟨rfl, rfl, rfl⟩, by decide +kernel⟩

/-- O47: the code of a cause and one of none; a horizon wait issued while Roofwalk was off. -/
theorem witness_causes : Cause.attr.code = 0x43 ∧ (∀ q : Cause, q.code ≠ 0) ∧ ({ hzOp0 with off := true } : HzOp).off = true := by
  refine ⟨rfl, fun q => ?_, rfl⟩
  cases q <;> decide

/-- A migration of the frame at 0x10000 that runs. -/
def stMig : State := { stArg [0x10000, 0, 0, 0] with mgmt := { (stArg [0x10000, 0, 0, 0]).mgmt with cmdstat := 0x100001, outcome := some (0, 0) } }

/-- O49, O50: a migration under way that an error meets, and none; a lost stack. -/
theorem witness_migrating : Claims.Migrating stMig 0x10040 ∧ ¬Claims.Migrating st0 0x10040 ∧
    ({ stMig with thatch := { stMig.thatch with lostStack := some 3 } } : State).thatch.lostStack ≠ none :=
  ⟨⟨by decide +kernel, .inl (by decide), ⟨0, rfl⟩, by decide, by decide +kernel⟩, fun h => absurd h.1 (by decide), by decide⟩

/-- O49: the first images of a run, slots for its third; a run that is abandoned. -/
theorem witness_third_run : let r := { oxRun0 none with first := [blk0] }
    r.first = blk0 :: [] ∧ (∀ y ∈ ({ oxRun0 none with first := [{ blk0 with cached := [] }] } : OxRun).first, y.threads.length ≤ 1024 ∧ y.cached = []) ∧
    1 ≤ (stOx none [] [(1, 1)] []).oxSlots.length ∧
    (let s := stOx none [] [] []
     let z : Block := { s.block 0 with sigAbandon := true }
     ({ s with blocks := [(0, z)] } : State).runAbandoned (oxRun0 none) = true) := by decide +kernel

/-- O52, O53: the port open and not; a stack lost and healthy, and one not healthy. -/
theorem witness_port : (stO id).portOpen = true ∧ (stO fun s => { s with mgmt := { s.mgmt with devstate := 5 } }).portOpen = false ∧
    (let t := stT fun t => { t with lostStack := some 3, healthy := true }; t.thatch.lostStack ≠ none ∧ t.thatch.healthy = true) ∧
    (let t := stT fun t => { t with lostStack := some 3 }; t.thatch.lostStack ≠ none ∧ t.thatch.healthy = false) ∧ (stT id).thatch.lostStack = none := by decide +kernel
end Sys2Proof.Tests
end

