-- ==== Sys2Proof/Proofs/Reset.lean ====
section
/-! PROOF. What a package reset leaves in the management registers and in device memory (19_outside.md R446, R450). -/

namespace Sys2Proof.Machine

/-- The core registers of R450 are laid out alike for every core, 16 numbers apart. -/
theorem mgmtCoreCsr_of_core {c k : Nat} (hc : c < 512) (hk : k < 16) :
    mgmtCoreCsr (0x4000 + 16 * c + k) = (mgmtCoreCsr (0x4000 + k)).map fun e => (c, e.2) := by
  have hrange : 0x4000 ≤ 0x4000 + 16 * c + k ∧ 0x4000 + 16 * c + k ≤ 0x5FFF := by omega
  have hrange0 : 0x4000 ≤ 0x4000 + k ∧ 0x4000 + k ≤ 0x5FFF := by omega
  have hcore : (0x4000 + 16 * c + k - 0x4000) / 16 = c := by omega
  have hplace : (0x4000 + 16 * c + k) % 16 = k := by omega
  have hplace0 : (0x4000 + k) % 16 = k := by omega
  simp only [mgmtCoreCsr, if_pos hrange, if_pos hrange0, hcore, hplace, hplace0]
  split <;> rfl

/-- A number past the package's own registers reads as a core's CSR or is unlisted. -/
theorem State.mgmtRead_coreCsr (s : State) {n : Nat} (hn : 0x4000 ≤ n) :
    s.mgmtRead n = (mgmtCoreCsr n).map fun e => w64 (s.csrValue { Block.absent with core := e.1 } e.2) := by
  unfold State.mgmtRead
  split
  case h_42 => rfl
  all_goals omega

/-- Every core's registers are read through the CSRs that the numbers of core 0 stand for. -/
theorem State.mgmtRead_core (s : State) {c k : Nat} (hc : c < 512) (hk : k < 16) :
    s.mgmtRead (0x4000 + 16 * c + k) =
      (mgmtCoreCsr (0x4000 + k)).map fun e => w64 (s.csrValue { Block.absent with core := c } e.2) := by
  rw [s.mgmtRead_coreCsr (by omega), mgmtCoreCsr_of_core hc hk, Option.map_map]
  rfl

@[simp] theorem State.reset_getCore (c : Nat) : State.reset.getCore c = CoreState.init := rfl

@[simp] theorem State.reset_byteAtHome (pa : Nat) : State.reset.byteAtHome pa = 0 := rfl

/-- PINLIM of every core is 65,536 core cycles after reset (07 R184). -/
theorem State.reset_pinlim {c : Nat} (hc : c < 512) : State.reset.mgmtRead (0x4000 + 16 * c) = some 0x10000 := by
  rw [← Nat.add_zero (0x4000 + 16 * c), State.reset.mgmtRead_core hc (by decide)]
  rfl

/-- CHSTAT, the CHCNTs, CHLAST and SPECDROP of every core are 0 after reset (10 R250, 06 R166; RETIRED of CHSTAT: log entry 5). -/
theorem State.reset_coreCounters {c k : Nat} (hc : c < 512) (h1 : 1 ≤ k) (h8 : k ≤ 8) :
    State.reset.mgmtRead (0x4000 + 16 * c + k) = some 0 := by
  rw [State.reset.mgmtRead_core hc (by omega)]
  interval_cases k <;> rfl

/-- Settles O57: a core's registers are those of `CoreState.init`, whichever the core; the rest is read off `State.reset`. -/
theorem resetLeavesWhatTheMapsSay : Obligations.ResetLeavesWhatTheMapsSay := by
  unfold Obligations.ResetLeavesWhatTheMapsSay
  exact ⟨State.reset_byteAtHome, rfl,
    -- nothing resident or under way, no secure session, the first walk
    rfl, rfl, rfl, rfl, rfl, rfl, rfl, rfl,
    -- SCHEDCLASS, SCHEDRES, PCAP and the reservoir; GANGTIME and GANGWAIT; RWCTL, OXBOW and THATCHST
    rfl, rfl, rfl, rfl, rfl, rfl, rfl, rfl, rfl,
    -- DEVTIME, HORIZON, CMDSTAT, DEVINDEX and DEVSTATE
    rfl, rfl, rfl, rfl, rfl,
    fun _ hc => ⟨State.reset_pinlim hc, fun _ h1 h8 => State.reset_coreCounters hc h1 h8⟩⟩

end Sys2Proof.Machine
end

section
/-! PROOF. The canonical form of device memory (01_machine.md R20): the changes of the byte map that keep it, and the rules that carry
it through outcomes and computations. The form speaks of memory alone, so an operation that is a change of other fields keeps it by
`State.Canon.upd`; every operation with a case split or a fold has one rule of its own, named after it: `State.Canon.f` for a function
to states, `f_keeps` for a computation, `f_canon` for an outcome. -/

namespace Sys2Proof.Machine

/-! The byte map. -/

theorem Memory.wf_iff {m : List Host.Cell} :
    Memory.wf m = true ↔ Cells.wf (0 : Byte) m = true ∧ ∀ c ∈ m, c.1 < devSize := by
  simp [Memory.wf]

/-- Entries may go. -/
theorem Memory.wf_filter {m : List Host.Cell} (h : Memory.wf m = true) (p : Host.Cell → Bool) :
    Memory.wf (m.filter p) = true := by
  obtain ⟨hcells, hin⟩ := Memory.wf_iff.1 h
  exact Memory.wf_iff.2 ⟨Cells.wf_filter 0 p hcells, fun c hc => hin c (List.mem_of_mem_filter hc)⟩

theorem Memory.wf_dropRange {m : List Host.Cell} (h : Memory.wf m = true) (lo hi : Nat) :
    Memory.wf (Cells.dropRange lo hi m) = true :=
  Memory.wf_filter h _

/-- A byte may be stored at an address device memory has. -/
theorem Memory.wf_put {m : List Host.Cell} (h : Memory.wf m = true) {pa : Nat} (hp : pa < devSize) (v : Byte) :
    Memory.wf (Cells.put 0 pa v m) = true := by
  obtain ⟨hcells, hin⟩ := Memory.wf_iff.1 h
  refine Memory.wf_iff.2 ⟨Cells.wf_put 0 pa v hcells, fun c hc => ?_⟩
  unfold Cells.put at hc
  split at hc
  · exact hin c (List.mem_of_mem_filter hc)
  · obtain rfl | hc := Cells.mem_set hc
    · exact hp
    · exact hin c hc

/-- A page's bytes may be stored in a frame that lies in device memory. -/
theorem Memory.wf_putRange {m cells : List Host.Cell} (h : Memory.wf m = true) {frame n : Nat} (hframe : frame + n ≤ devSize) :
    Memory.wf ((cells.filter (·.1 < n)).foldl (fun m e => Cells.put 0 (frame + e.1) e.2 m) m) = true := by
  refine List.foldlRecOn (motive := fun m => Memory.wf m = true) _ _ h fun m hm e he => Memory.wf_put hm ?_ _
  have hlt : e.1 < n := by simpa using (List.mem_filter.1 he).2
  omega

/-! The rules. -/

/-- Device memory is in canonical form: `State.memWf`, in a form that rules of inference can name. -/
structure State.Canon (s : State) : Prop where
  wf : Memory.wf s.mem = true

/-- The state an engine works on has canonical memory. -/
structure Eng.Canon (g : Eng) : Prop where
  state : g.s.Canon

/-- What a computation delivers, when it delivers at all, satisfies `Q`. -/
inductive OnOk {ε β : Type} (Q : β → Prop) : Except ε β → Prop
  | ok {b : β} (h : Q b) : OnOk Q (.ok b)
  | error {e : ε} : OnOk Q (.error e)

/-- A computation that does not stop leaves a state that satisfies `P`, from every state that does. -/
structure Keeps {σ ε α : Type} (P : σ → Prop) (m : StateT σ (Except ε) α) : Prop where
  out : ∀ s, P s → OnOk (fun r => P r.2) (m s)

/-- The next state, where the outcome names one, has canonical memory. -/
inductive NextCanon : Host.Outcome State Fault Refusal → Prop
  | next {s : State} (h : s.Canon) : NextCanon (.next s)
  | fault {r : Fault} : NextCanon (.fault r)
  | refused {r : Refusal} : NextCanon (.refused r)

variable {s : State}

/-- Every change that leaves memory itself as it was. -/
theorem State.Canon.upd {now devAdj agenda fresh seq cur bundles turn outbox loop inbox capacity pads views ipath ops doneGrans
    pins cores clusters blocks launches launchOps chains futures futOps gangOps hzOps gangs sched roofwalk oxCount oxRuns zeroed
    thatch links mgmt} (hs : s.Canon) :
    State.Canon { now, devAdj, agenda, fresh, seq, cur, bundles, turn, outbox, loop, inbox, mem := s.mem, capacity, pads, views
                  ipath, ops, doneGrans, pins, cores, clusters, blocks, launches, launchOps, chains, futures, futOps, gangOps
                  hzOps, gangs, sched, roofwalk, oxCount, oxRuns, zeroed, thatch, links, mgmt } := ⟨hs.wf⟩

theorem State.Canon.ite {c : Prop} [Decidable c] {s t : State} (hs : s.Canon) (ht : t.Canon) : (if c then s else t).Canon := by
  split <;> assumption

theorem State.Canon.foldl {α : Type} {f : State → α → State} {l : List α} (hf : ∀ s a, s.Canon → (f s a).Canon)
    (hs : s.Canon) : (l.foldl f s).Canon :=
  List.foldlRecOn l f hs fun s hs a _ => hf s a hs

theorem State.Canon.elim {α : Type} {o : Option α} {f : α → State} (hs : s.Canon) (hf : ∀ a, (f a).Canon) :
    (o.elim s f).Canon := by
  cases o
  exacts [hs, hf _]

theorem State.Canon.of_fst {α : Type} {p : State × α} {a : α} (h : p.1.Canon) (e : p = (s, a)) : s.Canon := by
  rwa [e] at h

theorem State.Canon.of_snd {α : Type} {p : α × State} {a : α} (h : p.2.Canon) (e : p = (a, s)) : s.Canon := by
  rwa [e] at h

theorem OnOk.get {ε β : Type} {Q : β → Prop} {x : Except ε β} {b : β} (h : OnOk Q x) (e : x = .ok b) : Q b := by
  subst e; cases h; assumption

theorem OnOk.ite {ε β : Type} {Q : β → Prop} {c : Prop} [Decidable c] {x y : Except ε β} (hx : OnOk Q x) (hy : OnOk Q y) :
    OnOk Q (if c then x else y) := by
  split <;> assumption

theorem NextCanon.ite {c : Prop} [Decidable c] {x y : Host.Outcome State Fault Refusal} (hx : NextCanon x) (hy : NextCanon y) :
    NextCanon (if c then x else y) := by
  split <;> assumption

theorem Eng.Canon.ite {c : Prop} [Decidable c] {s t : Eng} (hs : s.Canon) (ht : t.Canon) : (if c then s else t).Canon := by
  split <;> assumption

namespace Keeps
variable {σ ε α β : Type} {P : σ → Prop}

theorem ok {m : StateT σ (Except ε) α} (hm : Keeps P m) {s s' : σ} (hs : P s) {a : α} (e : m s = .ok (a, s')) : P s' :=
  (hm.out s hs).get e

theorem pure {a : α} : Keeps P (pure a : StateT σ (Except ε) α) := ⟨fun _ hs => .ok hs⟩

theorem bind {m : StateT σ (Except ε) α} {f : α → StateT σ (Except ε) β} (hm : Keeps P m) (hf : ∀ a, Keeps P (f a)) :
    Keeps P (m >>= f) := by
  refine ⟨fun s hs => ?_⟩
  have hms := hm.out s hs
  simp only [Bind.bind, StateT.bind, Except.bind]
  cases h : m s with
  | error e => exact .error
  | ok r =>
    rw [h] at hms
    exact (hf r.1).out r.2 (hms.get rfl)

theorem map {m : StateT σ (Except ε) α} {f : α → β} (hm : Keeps P m) : Keeps P (f <$> m) := by
  rw [← bind_pure_comp]
  exact .bind hm fun _ => .pure

theorem ite {c : Prop} [Decidable c] {m n : StateT σ (Except ε) α} (hm : Keeps P m) (hn : Keeps P n) :
    Keeps P (if c then m else n) := by
  split <;> assumption

theorem forM {f : α → StateT σ (Except ε) PUnit} {l : List α} (hf : ∀ a, Keeps P (f a)) : Keeps P (l.forM f) := by
  induction l with
  | nil => exact .pure
  | cons a l ih => exact .bind (hf a) fun _ => ih

theorem mapM {f : α → StateT σ (Except ε) β} {l : List α} (hf : ∀ a, Keeps P (f a)) : Keeps P (l.mapM f) := by
  induction l with
  | nil => exact .pure
  | cons a l ih =>
    rw [List.mapM_cons]
    exact .bind (hf a) fun _ => .bind ih fun _ => .pure

theorem stop {P : State → Prop} {x : Stop} : Keeps P (stop x : M α) := ⟨fun _ _ => .error⟩

theorem trap_bind {P : State → Prop} {x : Stop} {f : α → M β} : Keeps P ((Machine.stop x : M α) >>= f) :=
  ⟨fun _ _ => .error⟩

end Keeps

end Sys2Proof.Machine
end

section
/-! PROOF. Operations on the state keep memory canonical: stores at home points, error records (17_system.md R417), flags,
exception entry (17 R395) and kills (03_control.md R98). -/

namespace Sys2Proof.Machine

variable {s : State}

theorem freeValue_keeps : Keeps State.Canon freeValue :=
  ⟨fun _ hs => .ok (.upd hs)⟩

theorem State.Canon.modBlock {b : Nat} {f : Block → Block} (hs : s.Canon) : (s.modBlock b f).Canon := by
  unfold State.modBlock
  split
  exacts [.upd hs, hs]

theorem State.Canon.modThread {b t : Nat} {f : Thread → Thread} (hs : s.Canon) : (s.modThread b t f).Canon :=
  .modBlock hs

/-- The one place that stores a byte of device memory: only inside it, and no zero. -/
theorem State.Canon.wr8 {pa : Nat} {v : Byte} (hs : s.Canon) : (s.wr8 pa v).Canon := by
  unfold State.wr8
  split
  case isTrue hp => exact ⟨Memory.wf_put hs.wf hp v⟩
  · exact hs

theorem State.Canon.wrRaw {pa : Nat} {bs : List Byte} (hs : s.Canon) : (s.wrRaw pa bs).Canon := by
  unfold State.wrRaw
  exact .foldl (fun _ _ hs' => .wr8 hs') hs

theorem State.Canon.wrHome {pa : Nat} {bs : List Byte} (hs : s.Canon) : (s.wrHome pa bs).Canon :=
  .upd (.wrRaw hs)

theorem State.Canon.wrNat {pa n v : Nat} (hs : s.Canon) : (s.wrNat pa n v).Canon :=
  .wrHome hs

theorem State.Canon.setHomeByte {pa : Nat} {key : Option Nat} {v : Byte} (hs : s.Canon) : (s.setHomeByte pa key v).Canon := by
  unfold State.setHomeByte
  split
  exacts [.wr8 hs, .wrRaw hs]

theorem State.Canon.record {ctx : Nat} {r : ErrRec} (hs : s.Canon) : (s.record ctx r).Canon := by
  unfold State.record
  exact .ite hs (.ite (.ite hs (.wrNat hs)) (.wrNat (.wrHome hs)))

theorem State.Canon.popRecord {ctx : Nat} (hs : s.Canon) : (s.popRecord ctx).2.Canon := by
  unfold State.popRecord
  dsimp only
  split
  · exact hs
  · split
    exacts [hs, .wrNat (.upd hs)]

theorem State.Canon.setFull {t : Tgt} {f : Bool} (hs : s.Canon) : (s.setFull t f).Canon := by
  unfold State.setFull
  dsimp only
  split
  · split
    · refine .modBlock ?_
      split
      exacts [.upd hs, hs]
    · split
      exacts [.upd hs, hs]
  · refine .modBlock ?_
    split
    exacts [.upd hs, hs]
  · split
    exacts [.upd hs, hs]

theorem State.Canon.setLineWordIn {b t line : Nat} {w : Word} (hs : s.Canon) : (s.setLineWordIn b t line w).Canon := by
  unfold State.setLineWordIn
  exact .ite (.modThread hs) (.modBlock hs)

theorem State.Canon.spillLine {b row line : Nat} (hs : s.Canon) : (s.spillLine b row line).Canon :=
  .modBlock (.wrHome hs)

theorem State.Canon.bringLine {b row line : Nat} (hs : s.Canon) : (s.bringLine b row line).Canon := by
  unfold State.bringLine
  exact .modBlock (.foldl (fun _ _ hs' => .setLineWordIn hs') hs)

theorem State.Canon.setLineWord {b t line : Nat} {w : Word} (hs : s.Canon) : (s.setLineWord b t line w).Canon := by
  unfold State.setLineWord
  exact .ite (.setLineWordIn hs) (.wrNat hs)

theorem State.Canon.setTgt {t : Tgt} {b : Byte} (hs : s.Canon) : (s.setTgt t b).Canon := by
  unfold State.setTgt
  split
  exacts [.setHomeByte hs, .upd hs, .ite (.setLineWordIn hs) (.wrHome hs), hs]

theorem State.Canon.completeAll {b : Nat} {f : Option Nat} (hs : s.Canon) : (s.completeAll b f).Canon :=
  .modBlock hs

theorem State.Canon.clobber {b t : Nat} {r : LReg} (hs : s.Canon) : (s.clobber b t r).Canon := by
  unfold State.clobber
  dsimp only
  split
  exacts [.ite (.upd (.upd hs)) (.upd hs), .upd hs]

theorem readReg_keeps {b t : Nat} {r : LReg} : Keeps State.Canon (readReg b t r) := by
  unfold readReg
  refine ⟨fun _ hs => .ite (freeValue_keeps.out _ hs) ?_⟩
  split
  · exact .ok hs
  · split
    exacts [.ok hs, freeValue_keeps.out _ hs]
  · split
    exacts [.ok hs, freeValue_keeps.out _ hs]
  · exact .ok hs
  · exact .ite (freeValue_keeps.out _ hs) (.ok hs)
  · exact .ok hs
  · exact .ok hs
  · exact .ok hs

theorem writeReg_keeps {b t : Nat} {r : LReg} {w : Word} : Keeps State.Canon (writeReg b t r w) :=
  ⟨fun _ hs => .ok (.modThread (.clobber hs))⟩

theorem latchX_keeps {b t : Nat} {w : Word} : Keeps State.Canon (latchX b t w) :=
  ⟨fun _ hs => .ok (.modThread hs)⟩

theorem readU_keeps {b : Nat} {r : UReg} : Keeps State.Canon (readU b r) := by
  unfold readU
  refine ⟨fun _ hs => ?_⟩
  split
  exacts [.ite (freeValue_keeps.out _ hs) (.ok hs), .ok hs]

theorem readU2_keeps {b : Nat} {r : UReg} : Keeps State.Canon (readU2 b r) :=
  .bind readU_keeps fun _ => .bind readU_keeps fun _ => .pure

theorem writeU_keeps {b : Nat} {r : UReg} {w : Word} : Keeps State.Canon (writeU b r w) :=
  ⟨fun _ hs => .ok (.modBlock hs)⟩

theorem writeU2_keeps {b : Nat} {r : UReg} {d : DWord} : Keeps State.Canon (writeU2 b r d) :=
  ⟨fun _ hs => .ok (.modBlock hs)⟩

theorem State.Canon.endPin {p : Pin} (hs : s.Canon) : (s.endPin p).Canon := by
  unfold State.endPin
  exact .upd (.foldl (fun _ _ hs' => .upd hs')
    (.upd (.foldl (fun _ _ hs' => .wr8 hs') (.foldl (fun _ _ hs' => .setHomeByte hs') hs))))

theorem State.Canon.endPins {f : Pin → Bool} (hs : s.Canon) : (s.endPins f).Canon := by
  unfold State.endPins
  exact .foldl (fun _ _ hs' => .endPin hs') hs

theorem State.Canon.setFuture {i : Nat} {f : Future} (hs : s.Canon) : (s.setFuture i f).Canon :=
  .wrHome (.upd hs)

theorem State.Canon.dropRef {h : Word} {n : Nat} (hs : s.Canon) : (s.dropRef h n).Canon := by
  unfold State.dropRef
  exact .ite (.ite (.ite (.setFuture hs) (.setFuture hs)) (.setFuture hs)) hs

theorem State.Canon.taskDone {own : Word} {killed : Bool} (hs : s.Canon) : (s.taskDone own killed).Canon := by
  unfold State.taskDone
  refine .ite hs ?_
  dsimp only
  split
  exacts [.setFuture hs, .setFuture hs, .setFuture hs, hs]

theorem State.Canon.wakeCore {core : Nat} (hs : s.Canon) : (s.wakeCore core).2.Canon := by
  unfold State.wakeCore
  split
  exacts [hs, .upd hs, .upd hs, hs]

theorem State.Canon.vacate {x : Block} (hs : s.Canon) : (s.vacate x).Canon := by
  unfold State.vacate
  exact .ite (.upd hs) hs

theorem State.Canon.abandonMatrix {b : Nat} (hs : s.Canon) : (s.abandonMatrix b).Canon := by
  unfold State.abandonMatrix
  exact .ite hs (.modBlock (.upd
    (.upd (.foldl (fun _ _ hs' => .foldl (fun _ _ hs'' => .foldl (fun _ _ hs''' => .ite (.setLineWord hs''') hs''') hs'') hs')
    (.foldl (fun _ _ hs' => .completeAll hs') hs)))))

theorem State.Canon.hearOther {device : Nat} (hs : s.Canon) : (s.hearOther device).Canon := by
  unfold State.hearOther
  exact .ite hs (.upd hs)

theorem State.Canon.notePeers {ctx : Nat} {devices : List Nat} (hs : s.Canon) : (s.notePeers ctx devices).Canon := by
  unfold State.notePeers
  exact .foldl (fun _ _ hs' => .ite hs' (.upd hs')) hs

theorem State.Canon.toCoord {gang : Nat} {m : Msg} (hs : s.Canon) : (s.toCoord gang m).Canon := by
  unfold State.toCoord
  exact .ite (.upd hs) (.upd hs)

theorem State.Canon.sendTo {dev : Nat} {m : Msg} (hs : s.Canon) : (s.sendTo dev m).Canon := by
  unfold State.sendTo
  exact .ite (.upd hs) (.upd hs)

theorem State.Canon.sendGang {m : Msg} (hs : s.Canon) : (s.sendGang m).Canon :=
  .upd (.upd hs)

theorem State.Canon.sayDeparted {x : Block} (hs : s.Canon) : (s.sayDeparted x).Canon := by
  unfold State.sayDeparted
  split
  exacts [hs, .sendGang hs]

theorem State.Canon.creditSlice {b : Nat} (hs : s.Canon) : (s.creditSlice b).Canon := by
  unfold State.creditSlice
  exact .ite hs (.modBlock (.upd hs))

theorem State.Canon.finishBlock {b : Nat} {killed : Bool} (hs : s.Canon) : (s.finishBlock b killed).Canon := by
  unfold State.finishBlock
  split
  · exact hs
  · refine .ite hs ?_
    extract_lets s1 s2 s3 s4
    have h2 : s2.Canon := .upd (.vacate (.upd (.abandonMatrix (.endPins (.creditSlice hs)))))
    have h3 : s3.Canon := .modBlock h2
    exact .upd (.ite h3 (.taskDone (.foldl (fun _ _ hs' => .dropRef hs') h3)))

theorem State.Canon.killOne {b : Nat} (hs : s.Canon) : (s.killOne b).Canon := by
  unfold State.killOne
  split
  exacts [hs, .ite hs (.finishBlock (.sayDeparted (.upd hs)))]

theorem State.Canon.kill {b : Nat} (hs : s.Canon) : (s.kill b).Canon := by
  unfold State.kill
  exact .foldl (fun _ _ hs' => .killOne hs') hs

theorem State.Canon.modSlice {b : Nat} {f : Slice → Slice} (hs : s.Canon) : (s.modSlice b f).Canon :=
  .modBlock hs

theorem State.Canon.freeMark {c p q slot : Nat} (hs : s.Canon) : (s.freeMark c p q slot).Canon := by
  unfold State.freeMark
  dsimp only
  split
  exacts [hs, .ite hs (.modSlice hs)]

theorem State.Canon.pruneMarks {p : Nat} (hs : s.Canon) : (s.pruneMarks p).Canon := by
  unfold State.pruneMarks
  split
  exacts [hs, .foldl (fun _ _ hs' => .ite hs' (.freeMark hs')) hs]

theorem State.Canon.endSlice {b : Nat} (hs : s.Canon) : (s.endSlice b).Canon :=
  .modBlock hs

theorem State.Canon.exitThread {b t : Nat} (hs : s.Canon) : (s.exitThread b t).Canon := by
  unfold State.exitThread
  extract_lets s1 s2 s3 x s4 s5 s6
  have h4 : s4.Canon := .foldl (fun _ _ hs' => .pruneMarks hs') (.upd (.modThread (.modBlock hs)))
  have h6 : s6.Canon := .foldl (fun _ _ hs' => .endSlice hs') (.modBlock h4)
  exact .ite (.ite (.upd h6) h6) h4

theorem State.Canon.restartWalker {b : Nat} (hs : s.Canon) : (s.restartWalker b).Canon :=
  .modBlock (.upd (.upd hs))

theorem State.Canon.trapEntry {b t : Nat} {c : Cause} {addr : DWord} {info : Word} {w r : DWord} {ridx : Nat} (hs : s.Canon) :
    (s.trapEntry b t c addr info w r ridx).Canon := by
  unfold State.trapEntry
  dsimp only
  split
  exacts [.exitThread (.modBlock (.record hs)), .restartWalker (.record hs), .ite (.kill (.record hs)) (.modThread hs)]

theorem State.Canon.raiseWalk {cluster ctx page : Nat} {kind : AccKind} {spec engine : Bool} (hs : s.Canon) :
    (s.raiseWalk cluster ctx page kind spec engine).Canon := by
  unfold State.raiseWalk
  exact .ite (.ite (.upd hs) hs) (.upd hs)

theorem State.Canon.leaveBundle {b t : Nat} (hs : s.Canon) : (s.leaveBundle b t).Canon :=
  .modThread (.upd hs)

theorem State.Canon.stopPast {b t : Nat} (hs : s.Canon) : (s.stopPast b t).Canon := by
  unfold State.stopPast
  exact .ite (.leaveBundle (.modThread hs)) hs

theorem State.Canon.beginWait {b t : Nat} {w : Wait} (hs : s.Canon) : (s.beginWait b t w).Canon := by
  unfold State.beginWait
  refine .modThread ?_
  split
  · exact .upd (.leaveBundle hs)
  · exact .raiseWalk (.leaveBundle hs)
  · exact .raiseWalk (.leaveBundle hs)
  · exact .upd (.leaveBundle hs)
  · exact .modBlock (.leaveBundle hs)
  · exact .leaveBundle hs

theorem State.Canon.stopThread {b t : Nat} {st : Stop} (hs : s.Canon) : (s.stopThread b t st).Canon := by
  unfold State.stopThread
  split
  exacts [.stopPast (.leaveBundle (.trapEntry hs)), .beginWait hs]

theorem State.Canon.dropLatches {b t : Nat} (hs : s.Canon) : (s.dropLatches b t).Canon := by
  unfold State.dropLatches
  exact .ite (.upd hs) hs

theorem State.Canon.retire {b t words : Nat} {fl : Flow} (hs : s.Canon) : (s.retire b t words fl).Canon := by
  unfold State.retire
  refine .stopPast ?_
  split
  · exact .dropLatches (.modThread hs)
  · exact .dropLatches (.leaveBundle (.modThread hs))
  · exact hs
  · exact .stopThread hs
  · exact .leaveBundle (.trapEntry (.modThread (.modThread hs)))

end Sys2Proof.Machine
end

section
/-! PROOF. Accesses keep memory canonical: address translation (06_memory.md R148 to R159), views and pins (07_ordering.md R173 to
R189), and the operations in flight. -/

namespace Sys2Proof.Machine

variable {s : State}

theorem State.Canon.l1Room {core n : Nat} (hs : s.Canon) : (s.l1Room core n).Canon := by
  unfold State.l1Room
  exact .ite hs (.upd hs)

theorem State.Canon.fillView {core pa : Nat} {key : Option Nat} (hs : s.Canon) : (s.fillView core pa key).Canon := by
  unfold State.fillView
  refine .ite hs (.foldl (fun _ _ hs' => ?_) (.l1Room hs))
  dsimp only
  split
  exacts [hs', .upd hs']

theorem State.Canon.acquireAt {core : Nat} {sc : Scope} (hs : s.Canon) : (s.acquireAt core sc).Canon := by
  unfold State.acquireAt
  exact .ite hs (.upd hs)

theorem State.Canon.acquireFor {b : Nat} {tids : List Nat} {core : Nat} {sc : Scope} (hs : s.Canon) :
    (s.acquireFor b tids core sc).Canon := by
  unfold State.acquireFor
  exact .foldl (fun _ _ hs' => .modThread hs') (.acquireAt hs)

theorem State.Canon.observe {b : Nat} {tids obs : List Nat} (hs : s.Canon) : (s.observe b tids obs).Canon := by
  unfold State.observe
  exact .ite hs (.foldl (fun _ _ hs' => .modThread hs') hs)

theorem State.fillUnit_onOk {b : Nat} {tids : List Nat} {owner : Nat} {r : Region} {u core : Nat} (hs : s.Canon) :
    OnOk State.Canon (s.fillUnit b tids owner r u core) := by
  unfold State.fillUnit
  dsimp only
  split
  · exact .error
  · split
    exacts [.error, .error, .ok (.observe (.modBlock (.upd hs)))]

theorem State.fillUnits_onOk {b : Nat} {tids : List Nat} {core : Nat} {ts : List Tgt} (hs : s.Canon) :
    OnOk State.Canon (s.fillUnits b tids core ts) := by
  induction ts generalizing s with
  | nil => exact .ok hs
  | cons t ts ih =>
    unfold State.fillUnits
    split
    · split
      · refine .ite (ih hs) ?_
        split
        · exact .error
        · exact ih ((State.fillUnit_onOk hs).get ‹_›)
      · exact ih hs
    · exact ih hs

theorem State.writeBackUnit_onOk {owner : Nat} {r : Region} {u : Nat} {tids : List Nat} {cluster core : Nat} (hs : s.Canon) :
    OnOk State.Canon (s.writeBackUnit owner r u tids cluster core) := by
  unfold State.writeBackUnit
  dsimp only
  split
  · exact .error
  · split
    · exact .error
    · exact .error
    · refine .ite (.ok (.modBlock hs)) (.ok (.observe (.modBlock (.upd (.foldl (fun _ _ hs' => ?_) hs)))))
      split
      · refine .upd ?_
        split
        exacts [.upd hs', .setHomeByte hs']
      · split
        exacts [.upd hs', .setHomeByte hs']

theorem State.Canon.writeBackUnits {owner : Nat} {tids : List Nat} {cluster core : Nat} {us : List (Nat × Nat)} (hs : s.Canon) :
    (s.writeBackUnits owner tids cluster core us).1.Canon := by
  induction us generalizing s with
  | nil => exact hs
  | cons e us ih =>
    obtain ⟨off, u⟩ := e
    unfold State.writeBackUnits
    split
    · exact ih hs
    · split
      · exact ih hs
      · split
        exacts [hs, ih ((State.writeBackUnit_onOk hs).get ‹_›)]

theorem State.Canon.setPadByte {core off : Nat} {v : Byte} (hs : s.Canon) : (s.setPadByte core off v).Canon := by
  unfold State.setPadByte
  split
  exacts [.setTgt hs, .ite (.modBlock (.setTgt hs)) (.setTgt hs)]

theorem State.Canon.performByte {core : Nat} {nol1 seen : Bool} {t : Tgt} {v : Byte} (hs : s.Canon) :
    (s.performByte core nol1 seen t v).Canon := by
  unfold State.performByte
  split
  · split
    · exact .upd hs
    · exact .ite (.upd (.setHomeByte hs))
        (.ite (.upd (.setHomeByte hs)) (.ite (.upd (.l1Room (.setHomeByte hs))) (.setHomeByte hs)))
  · exact .setPadByte hs
  · exact .setTgt hs

theorem State.Canon.beginRelease {b : Nat} {tids : List Nat} {sc : Scope} (hs : s.Canon) : (s.beginRelease b tids sc).Canon := by
  unfold State.beginRelease
  exact .ite (.upd hs) (.endPins hs)

theorem State.Canon.endForRelease {o : MemOp} (hs : s.Canon) : (s.endForRelease o).Canon := by
  unfold State.endForRelease
  exact .ite (.endPins hs) hs

theorem State.Canon.syncFlags {b t : Nat} (hs : s.Canon) : (s.syncFlags b t).Canon := by
  unfold State.syncFlags
  exact .ite (.wrNat hs) hs

theorem State.Canon.finishFlag {b : Nat} {tids : List Nat} {uniform : Bool} {f : Option Nat} (hs : s.Canon) :
    (s.finishFlag b tids uniform f).Canon := by
  unfold State.finishFlag
  split
  · exact hs
  · extract_lets s1
    have h1 : s1.Canon := .ite (.completeAll hs) (.foldl (fun _ _ hs' => .modThread hs') hs)
    exact .ite (.foldl (fun _ _ hs' => .syncFlags hs') h1) h1

theorem State.Canon.arriveLane {b t : Nat} {r : LReg} {w : Word} (hs : s.Canon) : (s.arriveLane b t r w).Canon := by
  unfold State.arriveLane
  extract_lets x s1
  have h1 : s1.Canon := .modThread hs
  refine .ite ?_ h1
  cases r with
  | v | x | o => exact .wrNat h1
  | _ => exact h1

theorem State.Canon.arriveUni {b : Nat} {r : UReg} {w : Word} (hs : s.Canon) : (s.arriveUni b r w).Canon := by
  unfold State.arriveUni
  dsimp only
  split
  exacts [.ite (.wrNat (.modBlock hs)) (.modBlock hs), .modBlock hs]

theorem State.Canon.define {l : List (Option Byte)} (hs : s.Canon) : (s.define l).2.Canon := by
  induction l generalizing s with
  | nil => exact hs
  | cons a l ih =>
    cases a with
    | some v => exact ih hs
    | none => exact ih (.upd hs)

theorem State.Canon.freeWords {n : Nat} (hs : s.Canon) : (s.freeWords n).2.Canon :=
  .upd hs

theorem State.Canon.noteLate {b : Nat} {tids : List Nat} {uniform : Bool} {f : Option Nat} {keys : List Nat} (hs : s.Canon) :
    (s.noteLate b tids uniform f keys).Canon := by
  unfold State.noteLate
  exact .ite hs (.modBlock hs)

theorem State.Canon.deliver {o : MemOp} {ws : List Word} (hs : s.Canon) : (s.deliver o ws).Canon := by
  unfold State.deliver
  dsimp only
  split
  · split
    exacts [.freeWords hs, hs]
  · refine .noteLate (.foldl (fun _ _ hs' => .foldl (fun _ _ hs'' => .ite hs'' (.arriveLane hs'')) hs') ?_)
    split
    exacts [.freeWords hs, hs]
  · refine .noteLate (.foldl (fun _ _ hs' => .ite hs' (.arriveUni hs')) ?_)
    split
    exacts [.freeWords hs, hs]
  · refine .foldl (fun _ _ hs' => .modThread hs') ?_
    split
    exacts [.freeWords hs, hs]

theorem State.Canon.cumulate {o : MemOp} {obs : List Nat} (hs : s.Canon) : (s.cumulate o obs).Canon := by
  unfold State.cumulate
  exact .ite hs (.upd hs)

theorem State.Canon.notePinned {o : MemOp} (hs : s.Canon) : (s.notePinned o).Canon :=
  .cumulate (.observe hs)

theorem State.Canon.endReleasing (hs : s.Canon) : s.endReleasing.Canon :=
  .endPins hs

theorem State.Canon.retireOp {o : MemOp} {obs : List Nat} (hs : s.Canon) : (s.retireOp o obs).Canon := by
  unfold State.retireOp
  exact .ite (.upd hs) (.upd hs)

theorem State.Canon.sendRemote {o : MemOp} (hs : s.Canon) : (s.sendRemote o).Canon := by
  unfold State.sendRemote
  refine .foldl (fun _ _ hs' => ?_) hs
  split
  exacts [hs', .upd (.upd hs')]

theorem State.Canon.performBytes {o : MemOp} {bs : List Byte} (hs : s.Canon) : (s.performBytes o bs).Canon := by
  unfold State.performBytes
  exact .foldl (fun _ _ hs' => .performByte hs') (.upd hs)

theorem State.Canon.pinFor {o : MemOp} (hs : s.Canon) : (s.pinFor o).Canon := by
  unfold State.pinFor
  split
  exacts [.ite (.upd (.l1Room (.upd hs))) hs, hs]

theorem State.Canon.fillCopies {o : MemOp} (hs : s.Canon) : (s.fillCopies o).Canon := by
  unfold State.fillCopies
  refine .ite hs (.foldl (fun _ _ hs' => ?_) hs)
  split
  exacts [.ite hs' (.fillView hs'), hs']

theorem State.Canon.performLoad {o : MemOp} {signed : Bool} {reply : List Byte} (hs : s.Canon) :
    (s.performLoad o signed reply).Canon := by
  unfold State.performLoad
  extract_lets s0 rs obs d s1 s2 s3 s4
  have h3 : s3.Canon := .finishFlag (.deliver (.fillCopies (.define (.sendRemote hs))))
  have h4 : s4.Canon := .retireOp (.cumulate (.observe h3))
  exact .ite (.acquireFor h4) h4

theorem State.Canon.performStore {o : MemOp} (hs : s.Canon) : (s.performStore o).Canon := by
  unfold State.performStore
  extract_lets s1 s2 s3 s4
  have h2 : s2.Canon := .performBytes (.pinFor (.sendRemote (.endForRelease hs)))
  have h3 : s3.Canon := by
    unfold s3
    split
    · split
      exacts [.setFull h2, h2]
    · exact h2
  exact .upd (.finishFlag (.notePinned h3))

theorem State.Canon.performAtom {o : MemOp} {new : Nat → Option Nat} {reply : List Byte} (hs : s.Canon) :
    (s.performAtom o new reply).Canon := by
  unfold State.performAtom
  extract_lets s0 s1 n ford bytes d old s2 s3 s4 s5
  have h1 : s1.Canon := by
    refine .foldl (fun _ _ hs' => ?_) (.pinFor (.sendRemote (.endForRelease hs)))
    split
    exacts [.upd hs', hs']
  have h2 : s2.Canon := .define h1
  have h3 : s3.Canon := by
    unfold s3
    split
    exacts [.ite h2 (.performBytes h2), h2]
  have h5 : s5.Canon := .retireOp (.notePinned (.finishFlag (.deliver h3)))
  exact .ite (.acquireFor h5) h5

theorem State.Canon.performSpec {o : MemOp} {old : Nat} {update : Bool} (hs : s.Canon) : (s.performSpec o old update).Canon := by
  unfold State.performSpec
  refine .upd (.foldl (fun _ _ hs' => .modThread hs')
    (.finishFlag (.deliver (.notePinned (.ite (.performBytes hs) (.ite (.foldl (fun _ _ hs' => ?_) hs) hs))))))
  split
  exacts [.upd hs', hs']

theorem checkAccess_keeps {b : Nat} {tids : List Nat} {a : Access} : Keeps State.Canon (checkAccess b tids a) := by
  unfold checkAccess
  refine ⟨fun _ hs => ?_⟩
  split
  · exact .ok hs
  · refine .ite .error (.ite .error ?_)
    split
    · split
      exacts [.ite .error .error, .error]
    · split
      exacts [.error, .ok ((State.fillUnits_onOk hs).get ‹_›)]

theorem State.Canon.countFlag {b : Nat} {tids : List Nat} {uniform : Bool} {f : Option Nat} (hs : s.Canon) :
    (s.countFlag b tids uniform f).Canon := by
  unfold State.countFlag
  split
  exacts [hs, .ite (.modBlock hs) (.foldl (fun _ _ hs' => .modThread hs') hs)]

theorem State.Canon.oxAbandon {b : Nat} (hs : s.Canon) : (s.oxAbandon b).Canon := by
  unfold State.oxAbandon
  exact .ite (.modBlock hs) hs

theorem State.Canon.poisonPad {core off : Nat} (hs : s.Canon) : (s.poisonPad core off).Canon := by
  unfold State.poisonPad
  exact .ite (.upd hs) hs

theorem State.Canon.poisonTgts {ts : List Tgt} (hs : s.Canon) : (s.poisonTgts ts).Canon := by
  unfold State.poisonTgts
  refine .foldl (fun _ _ hs' => ?_) hs
  split
  exacts [.poisonPad hs', hs']

theorem State.Canon.issueStore {o : MemOp} (hs : s.Canon) : (s.issueStore o).1.Canon := by
  unfold State.issueStore
  exact .foldl (fun _ _ hs' => .modThread hs') (.ite (.modBlock hs) hs)

theorem State.Canon.markWrites {b : Nat} {tids : List Nat} {lo hi : Nat} (hs : s.Canon) : (s.markWrites b tids lo hi).Canon := by
  unfold State.markWrites
  exact .ite (.foldl (fun _ _ hs' => .modThread hs') hs) hs

theorem State.Canon.hearReply {o : MemOp} (hs : s.Canon) : (s.hearReply o).Canon :=
  .elim hs fun _ => .hearOther hs

theorem State.Canon.performOp {o : MemOp} {reply : List Byte} (hs : s.Canon) : (s.performOp o reply).Canon := by
  unfold State.performOp
  dsimp only
  split
  · exact .performLoad (.hearReply hs)
  · exact .performStore (.hearReply hs)
  · exact .performStore (.hearReply hs)
  · exact .performAtom (.hearReply hs)
  · exact .performAtom (.hearReply hs)
  · exact .hearReply hs
  · exact .hearReply hs

theorem issue_keeps {o : MemOp} : Keeps State.Canon (issue o) := by
  unfold issue
  refine ⟨fun s hs => .ite .error ?_⟩
  extract_lets chip s1 s2 s3 s3' p _ q _ s4
  have h2 : s2.Canon := by
    unfold s2
    split
    exacts [.foldl (fun _ _ hs' => .foldl (fun _ _ hs'' => .clobber hs'') hs') (.countFlag hs), .countFlag hs]
  have h3 : s3.Canon := .ite (.oxAbandon h2) h2
  have h3' : s3'.Canon := by
    unfold s3'
    split
    exacts [h3, h3, .poisonTgts h3]
  have hp : p.1.Canon := by
    unfold p
    split
    exacts [.issueStore h3', .issueStore h3', h3', h3', .markWrites h3']
  split
  exacts [.error, .ok (.ite (.performOp (.upd hp)) (.upd hp))]

end Sys2Proof.Machine
end

section
/-! PROOF. Operands keep memory canonical: registers read and written (02_encoding.md R36 to R42), queue pops, and the threads of a
bundle one after the other. -/

namespace Sys2Proof.Machine

variable {s : State}

theorem plainRead_keeps {b t : Nat} {ea : DWord} {n align : Nat} : Keeps State.Canon (plainRead b t ea n align) := by
  unfold plainRead
  refine .bind checkAccess_keeps fun _ => ⟨fun _ hs => ?_⟩
  split
  · exact .ite (.ok (.modThread hs)) .error
  · exact .error
  · dsimp only
    split
    exacts [.error, .error, .ok (.observe (.define hs))]

theorem popEntry_keeps {b t i : Nat} : Keeps State.Canon (popEntry b t i) := by
  unfold popEntry
  refine ⟨fun _ hs => ?_⟩
  dsimp only
  split
  · exact .error
  · refine .ite .error (.ite (.ite .error .error) (.ite .error ?_))
    split
    · split
      exacts [.error, .ok (.freeMark (.modThread (plainRead_keeps.ok hs ‹_›)))]
    · exact .ok (.freeMark (.modThread hs))

theorem popQueue_keeps {b t i : Nat} : Keeps State.Canon (popQueue b t i) := by
  unfold popQueue
  refine ⟨fun _ hs => ?_⟩
  split
  exacts [.ite (.ok (.modThread hs)) (popEntry_keeps.out _ hs), popEntry_keeps.out _ hs]

theorem src_keeps {b t : Nat} {r : LReg} : Keeps State.Canon (src b t r) := by
  unfold src
  split
  exacts [popQueue_keeps, readReg_keeps]

theorem src2_keeps {b t : Nat} {r : LReg} : Keeps State.Canon (src2 b t r) := by
  unfold src2
  exact .bind readReg_keeps fun _ => .bind readReg_keeps fun _ => .pure

theorem srcN_keeps {b t : Nat} {r : LReg} {n : Nat} : Keeps State.Canon (srcN b t r n) := by
  induction n with
  | zero => exact .pure
  | succ n ih => exact .bind ih fun _ => .bind readReg_keeps fun _ => .pure

theorem result_keeps {b t : Nat} {d : LReg} {w : Word} : Keeps State.Canon (result b t d w) :=
  .bind writeReg_keeps fun _ => latchX_keeps

theorem resultN_keeps {b t : Nat} {d : LReg} {ws : List Word} : Keeps State.Canon (resultN b t d ws) :=
  .bind (.forM fun _ => writeReg_keeps) fun _ => latchX_keeps

theorem result2_keeps {b t : Nat} {d : LReg} {v : DWord} : Keeps State.Canon (result2 b t d v) :=
  resultN_keeps

theorem getPred_keeps {b t p : Nat} : Keeps State.Canon (getPred b t p) :=
  ⟨fun _ hs => .ok hs⟩

theorem setPred_keeps {b t p : Nat} {v : Bool} : Keeps State.Canon (setPred b t p v) :=
  ⟨fun _ hs => .ok (.modThread hs)⟩

theorem getS_keeps : Keeps State.Canon getS :=
  ⟨fun _ hs => .ok hs⟩

theorem updS_keeps {f : State → State} (hf : ∀ s, s.Canon → (f s).Canon) : Keeps State.Canon (updS f) :=
  ⟨fun s hs => .ok (hf s hs)⟩

theorem updT_keeps {b t : Nat} {f : Thread → Thread} : Keeps State.Canon (updT b t f) :=
  updS_keeps fun _ hs => .modThread hs

theorem updB_keeps {b : Nat} {f : Block → Block} : Keeps State.Canon (updB b f) :=
  updS_keeps fun _ hs => .modBlock hs

theorem getT_keeps {b t : Nat} : Keeps State.Canon (getT b t) :=
  ⟨fun _ hs => .ok hs⟩

theorem getB_keeps {b : Nat} : Keeps State.Canon (getB b) :=
  ⟨fun _ hs => .ok hs⟩

theorem State.Canon.stopAt {b t : Nat} {st : Stop} (hs : s.Canon) : (s.stopAt b t st).Canon := by
  unfold State.stopAt
  refine .stopThread ?_
  split
  exacts [.beginRelease hs, hs]

/-- A thread of the bundle: its instruction's effect, and what a stop or a retirement does. -/
theorem laneStep_canon {i : Instr} {body : Nat → Nat → M Flow} {m : Nat × Nat} (hb : ∀ b t, Keeps State.Canon (body b t))
    (hs : s.Canon) : (laneStep i body s m).Canon := by
  unfold laneStep
  refine .ite ?_ hs
  split
  · exact .stopAt hs
  · split
    · exact .ite (.stopAt hs) (.retire ((hb _ _).ok hs ‹_›))
    · exact .stopAt hs

theorem laneExec_canon {i : Instr} {body : Nat → Nat → M Flow} (hb : ∀ b t, Keeps State.Canon (body b t)) (hs : s.Canon) :
    NextCanon (laneExec i body s) :=
  .next (.foldl (fun _ _ hs' => laneStep_canon hb hs') hs)

/-- A block of the bundle: its instruction's effect, and what a stop or a retirement does to each thread. -/
theorem uniStep_canon {i : Instr} {body : Nat → List Nat → M Flow} {b : Nat} (hb : ∀ b ts, Keeps State.Canon (body b ts))
    (hs : s.Canon) : (uniStep i body s b).Canon := by
  have stops (st : Stop) : State.Canon ((s.curTids b).foldl
      (fun (s : State) t => if s.cur.contains (b, t) then s.stopAt b t st else s) s) :=
    .foldl (fun _ _ hs' => .ite (.stopAt hs') hs') hs
  unfold uniStep
  refine .ite hs ?_
  split
  · exact stops _
  · split
    · exact .ite (stops _) (.foldl (fun _ _ hs' => .ite (.retire hs') hs') ((hb _ _).ok hs ‹_›))
    · exact stops _

theorem uniExec_canon {i : Instr} {body : Nat → List Nat → M Flow} (hb : ∀ b ts, Keeps State.Canon (body b ts)) (hs : s.Canon) :
    NextCanon (uniExec i body s) :=
  .next (.foldl (fun _ _ hs' => uniStep_canon hb hs') hs)

theorem laneFall_keeps {body : Nat → Nat → M Unit} {b t : Nat} (hb : ∀ b t, Keeps State.Canon (body b t)) :
    Keeps State.Canon (laneFall body b t) :=
  .bind (hb b t) fun _ => .pure

theorem uniFall_keeps {body : Nat → List Nat → M Unit} {b : Nat} {ts : List Nat} (hb : ∀ b ts, Keeps State.Canon (body b ts)) :
    Keeps State.Canon (uniFall body b ts) :=
  .bind (hb b ts) fun _ => .pure

theorem checkTarget_keeps {b : Nat} {tgt : DWord} : Keeps State.Canon (checkTarget b tgt) := by
  unfold checkTarget
  refine ⟨fun _ hs => .ite .error ?_⟩
  split
  exacts [.error, .ite (.ok hs) .error]

theorem flagsWaited_keeps {b t : Nat} {mask : BitVec 12} : Keeps State.Canon (flagsWaited b t mask) := by
  unfold flagsWaited
  exact ⟨fun _ hs => .ite .error (.ok (.ite hs (.modThread (.foldl (fun _ _ hs' => .acquireFor hs') hs))))⟩

end Sys2Proof.Machine
end

section
/-! PROOF. Loads, stores, prefetches and shadow regions keep memory canonical (06_memory.md R157 to R171). -/

namespace Sys2Proof.Machine

variable {s : State}

theorem laneAddr_keeps {b t : Nat} {a : LReg} {off : BitVec 5} {unit : Nat} : Keeps State.Canon (laneAddr b t a off unit) :=
  .bind src2_keeps fun _ => .pure

theorem loadBody_keeps {i : Instr} {d a : LReg} {off : BitVec 5} {unit n align : Nat} {signed nol1 : Bool} {b t : Nat} :
    Keeps State.Canon (loadBody i d a off unit n align signed nol1 b t) := by
  unfold loadBody
  exact .bind laneAddr_keeps fun _ => .bind checkAccess_keeps fun _ => .bind getS_keeps fun _ => issue_keeps

theorem storeData_keeps {b t : Nat} {d : LReg} {n : Nat} : Keeps State.Canon (storeData b t d n) := by
  unfold storeData
  exact .ite (.bind src_keeps fun _ => .pure) (.bind srcN_keeps fun _ => .pure)

theorem storeBody_keeps {i : Instr} {d a : LReg} {off : BitVec 5} {n : Nat} {kind : OpKind} {nol1 : Bool} {b t : Nat} :
    Keeps State.Canon (storeBody i d a off n kind nol1 b t) := by
  unfold storeBody
  exact .bind laneAddr_keeps fun _ => .bind storeData_keeps fun _ => .bind checkAccess_keeps fun _ => .bind getS_keeps
    fun _ => issue_keeps

theorem execStFill_canon {d a : LReg} {off : BitVec 5} {f : Bool} {h : Hint} (hs : s.Canon) :
    NextCanon (execStFill d a off f h s) := by
  unfold execStFill
  exact laneExec_canon (fun _ _ => laneFall_keeps fun _ _ => .bind storeBody_keeps fun _ => updS_keeps fun _ hs => .oxAbandon hs)
    hs

theorem execStm_canon {d a m : LReg} (hs : s.Canon) : NextCanon (execStm d a m s) := by
  unfold execStm
  exact laneExec_canon (fun _ _ => laneFall_keeps fun _ _ => .bind src2_keeps fun _ => .bind src_keeps fun _ => .bind
    storeData_keeps fun _ => .ite (.bind checkAccess_keeps fun _ => .bind getS_keeps fun _ => issue_keeps) .pure) hs

theorem ldFeBody_keeps {i : Instr} {take : Bool} {d a : LReg} {off : BitVec 5} {b t : Nat} :
    Keeps State.Canon (ldFeBody i take d a off b t) := by
  unfold ldFeBody
  refine .bind laneAddr_keeps fun _ => .bind checkAccess_keeps fun _ => ?_
  extract_lets tg
  refine .bind getS_keeps fun _ => .ite .trap_bind (.ite .trap_bind ?_)
  extract_lets sc issued read
  clear_value sc
  refine .ite .trap_bind ?_
  have hissued (data : List Byte) : Keeps State.Canon (issued data) := by
    refine .ite (.bind (updS_keeps fun _ hs => .setFull hs) fun _ => ?_) ?_
    all_goals
      refine .bind getS_keeps fun _ => .bind issue_keeps fun _ => updS_keeps fun _ hs => .oxAbandon ?_
      split
      exacts [.acquireFor hs, hs]
  unfold read
  split
  · exact .bind plainRead_keeps fun _ => .ite (.bind (updS_keeps fun _ hs => .modSlice hs) fun _ => .bind .pure hissued)
      (.bind .pure hissued)
  · exact .bind ⟨fun _ hs => .ok (.define hs)⟩ hissued

theorem State.Canon.specDrop {core : Nat} (hs : s.Canon) : (s.specDrop core).Canon :=
  .upd hs

theorem State.Canon.fillSpan {core pa : Nat} {key : Option Nat} (hs : s.Canon) : (s.fillSpan core pa key).Canon := by
  unfold State.fillSpan
  exact .ite (.foldl (fun _ _ hs' => .fillView hs') hs) hs

theorem State.Canon.prefetch {core ctx : Nat} {ea : DWord} {l1 : Bool} (hs : s.Canon) : (s.prefetch core ctx ea l1).Canon := by
  unfold State.prefetch
  refine .ite hs ?_
  split
  exacts [.ite (.fillSpan hs) hs, hs, .specDrop hs, .upd (.raiseWalk hs)]

theorem execPref_canon {a : LReg} {off : BitVec 5} {h : Hint} (hs : s.Canon) : NextCanon (execPref a off h s) := by
  unfold execPref
  exact laneExec_canon (fun _ _ => laneFall_keeps fun _ _ => .bind laneAddr_keeps fun _ => updS_keeps fun _ hs => .ite hs
    (.ite hs (.prefetch hs))) hs

theorem execSmap_canon {d a b : LReg} (hs : s.Canon) : NextCanon (execSmap d a b s) := by
  unfold execSmap
  exact laneExec_canon (fun _ _ => laneFall_keeps fun _ _ => .bind src2_keeps fun _ => .bind src_keeps fun _ => .bind src_keeps
    fun _ => .bind getB_keeps fun _ => .ite (.ite .trap_bind updB_keeps) .pure) hs

theorem commitReads_keeps {α : Type} {reads : M α} {work : α → State → State × Option Stop} (hr : Keeps State.Canon reads)
    (hw : ∀ a s, s.Canon → (work a s).1.Canon) : Keeps State.Canon (commitReads reads work) := by
  unfold commitReads
  refine ⟨fun _ hs => ?_⟩
  split
  · exact .error
  · split
    · exact .ok (.of_fst (hw _ _ hs) ‹_›)
    · split
      · exact .ok (hr.ok (.of_fst (hw _ _ hs) ‹_›) ‹_›)
      · exact .ok (.of_fst (hw _ _ hs) ‹_›)

theorem State.Canon.threadWritesBack {k t : Nat} {us : List (Nat × Nat)} (hs : s.Canon) : (s.threadWritesBack k t us).1.Canon :=
  .markWrites (.writeBackUnits hs)

theorem State.Canon.unmapRegion {k t off : Nat} (hs : s.Canon) : (s.unmapRegion k t off).1.Canon := by
  unfold State.unmapRegion
  dsimp only
  split
  · exact hs
  · split
    · exact hs
    · split
      exacts [(.of_fst (.threadWritesBack hs) ‹_›), .modBlock (.upd (.of_fst (.threadWritesBack hs) ‹_›))]

theorem execSunmap_canon {b : LReg} (hs : s.Canon) : NextCanon (execSunmap b s) :=
  laneExec_canon (fun _ _ => commitReads_keeps src_keeps fun _ _ hs' => .unmapRegion hs') hs

theorem State.Canon.writeBackRange {k t off len : Nat} (hs : s.Canon) : (s.writeBackRange k t off len).1.Canon := by
  unfold State.writeBackRange
  split
  · exact hs
  · dsimp only
    split
    exacts [hs, .threadWritesBack hs]

theorem execSwb_canon {d a : LReg} (hs : s.Canon) : NextCanon (execSwb d a s) :=
  laneExec_canon (fun _ _ => commitReads_keeps (.bind src_keeps fun _ => .bind src_keeps fun _ => .pure)
    fun _ _ hs' => .writeBackRange hs') hs

theorem State.Canon.invalPhys {core pa len : Nat} (hs : s.Canon) : (s.invalPhys core pa len).Canon :=
  .endPins (.upd (.upd hs))

theorem State.Canon.invalRange {core ctx lo hi : Nat} (hs : s.Canon) : (s.invalRange core ctx lo hi).Canon := by
  unfold State.invalRange
  exact .foldl (fun _ _ hs' => .ite hs' (.ite (.invalPhys hs') (.foldl (fun _ _ hs'' => .ite (.invalPhys hs'') hs'') hs'))) hs

theorem State.Canon.invalTranslated {b t lo hi : Nat} (hs : s.Canon) : (s.invalTranslated b t lo hi).1.Canon := by
  unfold State.invalTranslated
  dsimp only
  split
  exacts [.modThread (.invalRange hs), .invalRange hs]

theorem State.Canon.invalStretch {b t lo hi : Nat} (hs : s.Canon) : (s.invalStretch b t lo hi).1.Canon := by
  unfold State.invalStretch
  extract_lets x q
  have hq : q.1.Canon := by
    unfold q
    split
    exacts [.invalPhys hs, .invalTranslated hs]
  split
  · exact hq
  · split
    exacts [hq, .modBlock hq]

theorem State.Canon.invalidate {b t : Nat} {g : DWord} {len : Nat} (hs : s.Canon) : (s.invalidate b t g len).1.Canon := by
  unfold State.invalidate
  split
  · exact hs
  · split
    · exact hs
    · extract_lets top first q
      have hq : q.1.Canon := by
        unfold q
        split
        exacts [.invalStretch hs, .invalStretch (.invalStretch hs)]
      split
      exacts [hq, .modThread hq]

theorem execSinv_canon {d a : LReg} (hs : s.Canon) : NextCanon (execSinv d a s) :=
  laneExec_canon (fun _ _ => commitReads_keeps (.bind src2_keeps fun _ => .bind src_keeps fun _ => .pure)
    fun _ _ hs' => .invalidate hs') hs

theorem execLoadCompletion_canon {id : Nat} {reply : List Byte} (hs : s.Canon) : NextCanon (execLoadCompletion id reply s) := by
  unfold execLoadCompletion
  refine .next ?_
  split
  · refine .ite hs ?_
    split
    · refine .ite hs ?_
      split
      exacts [.upd hs, .upd (.performOp hs)]
    · exact .upd (.finishFlag (.deliver hs))
    · exact hs
  · exact hs

theorem execLdFeWake_canon {blk tid : Nat} (hs : s.Canon) : NextCanon (execLdFeWake blk tid s) := by
  unfold execLdFeWake
  refine .next ?_
  split
  · split
    exacts [.ite (.modThread hs) hs, hs]
  · exact hs

end Sys2Proof.Machine
end

section
/-! PROOF. Atomics, ordered accesses, fences and pins keep memory canonical (07_ordering.md R178 to R195). -/

namespace Sys2Proof.Machine

variable {s : State}

theorem srcW_keeps {b t : Nat} {r : LReg} {l : Width} : Keeps State.Canon (srcW b t r l) := by
  unfold srcW
  split
  exacts [.bind src_keeps fun _ => .pure, .bind src2_keeps fun _ => .pure]

theorem issueSpec_keeps {o : MemOp} {new : Nat → Option Nat} : Keeps State.Canon (issueSpec o new) := by
  unfold issueSpec
  refine .bind getS_keeps fun s => .ite .trap_bind ?_
  extract_lets asLoad rs old issued reached
  have hissued (u : Unit) : Keeps State.Canon (issued u) := by
    refine .bind (updS_keeps fun _ hs => .observe (.foldl (fun _ _ hs' => ?_) hs)) fun _ => .bind getS_keeps fun _ => ?_
    · split
      exacts [.ite hs' (.fillView hs'), hs']
    · split
      exacts [issue_keeps, issue_keeps]
  have hreached (u : Unit) : Keeps State.Canon (reached u) := by
    unfold reached
    split
    exacts [.trap_bind, hissued ()]
  beta_reduce
  refine .ite ?_ (hreached ())
  split
  exacts [.trap_bind, hreached ()]

theorem atomBody_keeps {i : Instr} {d : LReg} {ctl : AtomCtl} {ea : DWord} {kind : AtomUse → OpKind} {data : List Byte}
    {new : Nat → Option Nat} {b t : Nat} : Keeps State.Canon (atomBody i d ctl ea kind data new b t) := by
  unfold atomBody
  extract_lets n rel done
  have hdone (u : Unit) : Keeps State.Canon (done u) := updS_keeps fun _ hs => .oxAbandon hs
  refine .bind checkAccess_keeps fun _ => .bind getS_keeps fun _ => ?_
  extract_lets use _ o issued marked
  have hissued (u : Unit) : Keeps State.Canon (issued u) := .bind issue_keeps hdone
  have hmarked (u : Unit) : Keeps State.Canon (marked u) := .ite (.bind updT_keeps hissued) (hissued ())
  exact .ite (.bind issueSpec_keeps hdone) (.ite (.bind (updS_keeps fun _ hs => .beginRelease hs) hmarked) (hmarked ()))

theorem execAtom_canon {d a b : LReg} {ctl : AtomCtl} (hs : s.Canon) : NextCanon (execAtom d a b ctl s) := by
  unfold execAtom
  exact laneExec_canon (fun _ _ => laneFall_keeps fun _ _ => .bind src2_keeps fun _ => .bind srcW_keeps fun _ => atomBody_keeps)
    hs

theorem execCas_canon {d a b : LReg} {ctl : AtomCtl} (hs : s.Canon) : NextCanon (execCas d a b ctl s) := by
  unfold execCas
  exact laneExec_canon (fun _ _ => laneFall_keeps fun _ _ => .bind src2_keeps fun _ => .bind srcW_keeps fun _ => .bind srcW_keeps
    fun _ => atomBody_keeps) hs

theorem execLdAcq_canon {d a : LReg} {scope : Scope} {size : Width} {f : Bool} (hs : s.Canon) :
    NextCanon (execLdAcq d a scope size f s) := by
  unfold execLdAcq
  exact laneExec_canon (fun _ _ => laneFall_keeps fun _ _ => .bind src2_keeps fun _ => .bind checkAccess_keeps fun _ => .bind
    getS_keeps fun _ => issue_keeps) hs

theorem execStRel_canon {d a : LReg} {scope : Scope} {size : Width} {f : Bool} (hs : s.Canon) :
    NextCanon (execStRel d a scope size f s) := by
  unfold execStRel
  exact laneExec_canon (fun _ _ => laneFall_keeps fun _ _ => .bind src2_keeps fun _ => .bind srcW_keeps fun _ => .bind
    checkAccess_keeps fun _ => .bind getS_keeps fun _ => .bind (updS_keeps fun _ hs => .beginRelease hs) fun _ => issue_keeps) hs

theorem fenceBody_keeps {sc : Scope} {dur : Bool} {b t : Nat} : Keeps State.Canon (fenceBody sc dur b t) := by
  unfold fenceBody
  exact .bind (updS_keeps fun _ hs => .beginRelease hs) fun _ => .bind getS_keeps fun _ => .ite .trap_bind
    (updS_keeps fun _ hs => .modThread (.acquireFor hs))

theorem execWritePerformed_canon {id : Nat} {reply : List Byte} (hs : s.Canon) : NextCanon (execWritePerformed id reply s) := by
  unfold execWritePerformed
  refine .next ?_
  split
  · refine .ite hs ?_
    split
    · exact .upd hs
    · split
      exacts [.upd (.performOp hs), .upd (.performOp hs), .upd (.performOp hs), .upd (.performOp hs), hs]
  · exact hs

theorem execFenceDone_canon {blk tid : Nat} (hs : s.Canon) : NextCanon (execFenceDone blk tid s) := by
  unfold execFenceDone
  refine .next ?_
  split
  · split
    exacts [.ite hs (.modThread hs), hs]
  · exact hs

theorem execComMergeFlush_canon {id : Nat} (hs : s.Canon) : NextCanon (execComMergeFlush id s) := by
  unfold execComMergeFlush
  refine .next ?_
  split
  · refine .ite hs ?_
    split
    · exact .upd hs
    · refine .upd (.foldl (fun _ _ hs' => ?_) hs)
      split
      exacts [.ite (.performOp hs') hs', hs']
  · exact hs

theorem execSpecResolve_canon {id : Nat} (hs : s.Canon) : NextCanon (execSpecResolve id s) := by
  unfold execSpecResolve
  refine .next ?_
  split
  · split
    · refine .ite hs ?_
      split
      exacts [.upd hs, .upd (.performSpec hs)]
    · exact hs
  · exact hs

theorem execPinLimitBreak_canon {core line : Nat} (hs : s.Canon) : NextCanon (execPinLimitBreak core line s) := by
  unfold execPinLimitBreak
  refine .next ?_
  split
  · exact hs
  · split
    exacts [hs, .ite hs (.record (.endPin hs))]

end Sys2Proof.Machine
end

section
/-! PROOF. Clause headers and control instructions keep memory canonical (02_encoding.md R44 to R51; 03_control.md R99 to R105). -/

namespace Sys2Proof.Machine

variable {s : State}

theorem startClause_keeps {w : Word} {b t : Nat} : Keeps State.Canon (startClause w b t) := by
  unfold startClause
  refine ⟨fun _ hs => .ite .error (.ite .error (.ite (.ok (.leaveBundle (.modThread hs))) (.ite .error ?_)))⟩
  split
  · exact .error
  · split
    exacts [.error, .ok (.modThread (flagsWaited_keeps.ok hs ‹_›))]

theorem execClauseHeader_canon {count : BitVec 4} {wait : BitVec 12} {seta setb : BitVec 4} {point : Bool} (hs : s.Canon) :
    NextCanon (execClauseHeader count wait seta setb point s) := by
  unfold execClauseHeader
  refine .next (.foldl (fun _ _ hs' => .ite ?_ hs') hs)
  split
  exacts [(startClause_keeps.ok hs' ‹_›), .stopAt hs']

theorem State.Canon.wake {b t : Nat} (hs : s.Canon) : (s.wake b t).Canon :=
  .modThread hs

theorem branchTo_keeps {b : Nat} {tgt : DWord} : Keeps State.Canon (branchTo b tgt) :=
  .bind checkTarget_keeps fun _ => .pure

theorem pcOf_keeps {b t : Nat} : Keeps State.Canon (pcOf b t) :=
  ⟨fun _ hs => .ok hs⟩

theorem execBrp_canon {p : Fin 8} {off : BitVec 21} (hs : s.Canon) : NextCanon (execBrp p off s) := by
  unfold execBrp
  exact laneExec_canon (fun _ _ => .bind getPred_keeps fun _ => .ite (.bind pcOf_keeps fun _ => branchTo_keeps) .pure) hs

theorem execBrn_canon {p : Fin 8} {off : BitVec 21} (hs : s.Canon) : NextCanon (execBrn p off s) := by
  unfold execBrn
  exact laneExec_canon (fun _ _ => .bind getPred_keeps fun _ => .ite .pure (.bind pcOf_keeps fun _ => branchTo_keeps)) hs

theorem targetPair_keeps {b t : Nat} {a : LReg} : Keeps State.Canon (targetPair b t a) :=
  src2_keeps

theorem callTo_keeps {b t : Nat} {tgt : DWord} : Keeps State.Canon (callTo b t tgt) := by
  unfold callTo
  exact .bind checkTarget_keeps fun _ => .bind getT_keeps fun _ => .ite .trap_bind (.bind updT_keeps fun _ => .pure)

theorem execRet_canon (hs : s.Canon) : NextCanon (execRet s) := by
  unfold execRet
  refine laneExec_canon (fun _ _ => .bind getT_keeps fun _ => ?_) hs
  split
  exacts [.stop, .bind checkTarget_keeps fun _ => .bind updT_keeps fun _ => .pure]

theorem exitBody_keeps {b t : Nat} : Keeps State.Canon (exitBody b t) := by
  unfold exitBody
  exact .bind getT_keeps fun _ => .ite .trap_bind (.bind getB_keeps fun _ => .ite .trap_bind
    (.ite (.bind (updS_keeps fun _ hs => .leaveBundle (.modThread hs)) fun _ => .pure)
    (.bind (updS_keeps fun _ hs => .exitThread hs) fun _ => .pure)))

theorem execWaitf_canon {mask : BitVec 12} (hs : s.Canon) : NextCanon (execWaitf mask s) := by
  unfold execWaitf
  exact laneExec_canon (fun _ _ => .bind getT_keeps fun _ => .ite .trap_bind (.bind flagsWaited_keeps fun _ => .pure)) hs

theorem execAcquireGrant_canon {blk : Nat} (hs : s.Canon) : NextCanon (execAcquireGrant blk s) := by
  unfold execAcquireGrant
  exact .next (.ite (.foldl (fun _ _ hs' => .ite (.wake hs') hs') (.modBlock hs)) hs)

theorem State.Canon.evictLine {core : Nat} (hs : s.Canon) : (s.evictLine core).Canon := by
  unfold State.evictLine
  refine .ite hs ?_
  dsimp only
  split
  exacts [.spillLine hs, hs]

theorem execRegisterCacheFill_canon {blk row reg : Nat} (hs : s.Canon) : NextCanon (execRegisterCacheFill blk row reg s) := by
  unfold execRegisterCacheFill
  exact .next (.ite (.foldl (fun _ _ hs' => .ite (.wake hs') hs') (.ite hs (.bringLine (.evictLine hs)))) hs)

theorem execInstructionFetch_canon {blk tid : Nat} (hs : s.Canon) : NextCanon (execInstructionFetch blk tid s) := by
  unfold execInstructionFetch
  refine .next ?_
  split
  · exact .ite (.foldl (fun _ _ hs' => .foldl (fun _ _ hs'' => .ite (.wake hs'') hs'') hs') (.foldl (fun _ _ hs' => .upd hs') hs))
      (.upd hs)
  · exact hs

end Sys2Proof.Machine
end

section
/-! PROOF. Integer and address instructions keep memory canonical (04_integer.md R107 to R119). -/

namespace Sys2Proof.Machine

variable {s : State}

theorem lane1_canon {i : Instr} {d a : LReg} {f : Word → Word} (hs : s.Canon) : NextCanon (lane1 i d a f s) := by
  unfold lane1
  exact laneExec_canon (fun _ _ => laneFall_keeps fun _ _ => .bind src_keeps fun _ => result_keeps) hs

theorem lane2_canon {i : Instr} {d a c : LReg} {f : Word → Word → Word} (hs : s.Canon) : NextCanon (lane2 i d a c f s) := by
  unfold lane2
  exact laneExec_canon (fun _ _ => laneFall_keeps fun _ _ => .bind src_keeps fun _ => .bind src_keeps fun _ => result_keeps) hs

theorem lane3_canon {i : Instr} {d a c : LReg} {f : Word → Word → Word → Word} (hs : s.Canon) :
    NextCanon (lane3 i d a c f s) := by
  unfold lane3
  exact laneExec_canon (fun _ _ => laneFall_keeps fun _ _ => .bind src_keeps fun _ => .bind src_keeps fun _ => .bind src_keeps
    fun _ => result_keeps) hs

theorem lanePair_canon {i : Instr} {d a : LReg} {f : Word → DWord} (hs : s.Canon) : NextCanon (lanePair i d a f s) := by
  unfold lanePair
  exact laneExec_canon (fun _ _ => laneFall_keeps fun _ _ => .bind src_keeps fun _ => result2_keeps) hs

theorem execCvtiSatI32_canon {d a : LReg} (hs : s.Canon) : NextCanon (execCvtiSatI32 d a s) := by
  unfold execCvtiSatI32
  exact laneExec_canon (fun _ _ => laneFall_keeps fun _ _ => .bind src2_keeps fun _ => result_keeps) hs

theorem execSetv_canon {d : LReg} {p : Fin 8} (hs : s.Canon) : NextCanon (execSetv d p s) := by
  unfold execSetv
  exact laneExec_canon (fun _ _ => laneFall_keeps fun _ _ => .bind getPred_keeps fun _ => result_keeps) hs

theorem execAddc_canon {d a b : LReg} (hs : s.Canon) : NextCanon (execAddc d a b s) := by
  unfold execAddc
  exact laneExec_canon (fun _ _ => laneFall_keeps fun _ _ => .bind src_keeps fun _ => .bind src_keeps fun _ => .bind getPred_keeps
    fun _ => .bind result_keeps fun _ => setPred_keeps) hs

theorem execSubb_canon {d a b : LReg} (hs : s.Canon) : NextCanon (execSubb d a b s) := by
  unfold execSubb
  exact laneExec_canon (fun _ _ => laneFall_keeps fun _ _ => .bind src_keeps fun _ => .bind src_keeps fun _ => .bind getPred_keeps
    fun _ => .bind result_keeps fun _ => setPred_keeps) hs

theorem execSetp_canon {p : Fin 8} {cond : Cond} {a b : LReg} (hs : s.Canon) : NextCanon (execSetp p cond a b s) := by
  unfold execSetp
  refine laneExec_canon (fun _ _ => laneFall_keeps fun _ _ => .bind src_keeps fun _ => .bind src_keeps fun _ => .bind
    setPred_keeps fun _ => ?_) hs
  split
  exacts [setPred_keeps, .pure]

theorem execLea_canon {d a b : LReg} (hs : s.Canon) : NextCanon (execLea d a b s) := by
  unfold execLea
  exact laneExec_canon (fun _ _ => laneFall_keeps fun _ _ => .bind src2_keeps fun _ => .bind src_keeps fun _ => result2_keeps) hs

end Sys2Proof.Machine
end

section
/-! PROOF. Floating-point instructions keep memory canonical (05_float.md R135 to R147). -/

namespace Sys2Proof.Machine

variable {s : State}

theorem orFp_keeps {b t fl : Nat} : Keeps State.Canon (orFp b t fl) :=
  updT_keeps

theorem fpResult_keeps {b t : Nat} {d : LReg} {r : Nat × Nat} : Keeps State.Canon (fpResult b t d r) :=
  .bind result_keeps fun _ => orFp_keeps

theorem float1_canon {i : Instr} {d a : LReg} {f : Nat → Nat × Nat} (hs : s.Canon) : NextCanon (float1 i d a f s) := by
  unfold float1
  exact laneExec_canon (fun _ _ => laneFall_keeps fun _ _ => .bind src_keeps fun _ => fpResult_keeps) hs

theorem float2_canon {i : Instr} {d a c : LReg} {f : Nat → Nat → Nat × Nat} (hs : s.Canon) : NextCanon (float2 i d a c f s) := by
  unfold float2
  exact laneExec_canon (fun _ _ => laneFall_keeps fun _ _ => .bind src_keeps fun _ => .bind src_keeps fun _ => fpResult_keeps) hs

theorem float3_canon {i : Instr} {d a c : LReg} {f : Nat → Nat → Nat → Nat × Nat} (hs : s.Canon) :
    NextCanon (float3 i d a c f s) := by
  unfold float3
  exact laneExec_canon (fun _ _ => laneFall_keeps fun _ _ => .bind src_keeps fun _ => .bind src_keeps fun _ => .bind src_keeps
    fun _ => fpResult_keeps) hs

theorem floatTwoAddr_canon {i : Instr} {d a : LReg} {f : Nat → Nat → Nat × Nat} (hs : s.Canon) :
    NextCanon (floatTwoAddr i d a f s) := by
  unfold floatTwoAddr
  exact laneExec_canon (fun _ _ => laneFall_keeps fun _ _ => .bind src_keeps fun _ => .bind src_keeps fun _ => fpResult_keeps) hs

theorem execFfmaF32_canon {d a b : LReg} (hs : s.Canon) : NextCanon (execFfmaF32 d a b s) :=
  float3_canon hs

theorem execFfmaH2_canon {d a b : LReg} (hs : s.Canon) : NextCanon (execFfmaH2 d a b s) :=
  float3_canon hs

theorem execFfmaB2_canon {d a b : LReg} (hs : s.Canon) : NextCanon (execFfmaB2 d a b s) :=
  float3_canon hs

theorem execDot2H2_canon {d a b : LReg} (hs : s.Canon) : NextCanon (execDot2H2 d a b s) :=
  float3_canon hs

theorem execDot2B2_canon {d a b : LReg} (hs : s.Canon) : NextCanon (execDot2B2 d a b s) :=
  float3_canon hs

theorem execDot4E4m3_canon {d a b : LReg} (hs : s.Canon) : NextCanon (execDot4E4m3 d a b s) :=
  float3_canon hs

theorem execDot4E5m2_canon {d a b : LReg} (hs : s.Canon) : NextCanon (execDot4E5m2 d a b s) :=
  float3_canon hs

theorem srcGroup_keeps {b t : Nat} {a : LReg} {g : OpGrp} : Keeps State.Canon (srcGroup b t a g) := by
  unfold srcGroup
  exact .ite (.bind src_keeps fun _ => .pure) srcN_keeps

theorem execFcvt_canon {d a : LReg} {n : Fin 4} {sat : Bool} {kind : CvtKind} (hs : s.Canon) :
    NextCanon (execFcvt d a n sat kind s) := by
  unfold execFcvt
  exact laneExec_canon (fun _ _ => laneFall_keeps fun _ _ => .bind srcGroup_keeps fun _ => fpResult_keeps) hs

theorem execFcvti_canon {d a : LReg} {rnd : Rnd} {ty : IntType} (hs : s.Canon) : NextCanon (execFcvti d a rnd ty s) := by
  unfold execFcvti
  exact laneExec_canon (fun _ _ => laneFall_keeps fun _ _ => .bind src_keeps fun _ => .ite
    (.bind result2_keeps fun _ => orFp_keeps) (.bind result_keeps fun _ => orFp_keeps)) hs

theorem srcInteger_keeps {b t : Nat} {a : LReg} {ty : SrcInt} : Keeps State.Canon (srcInteger b t a ty) := by
  unfold srcInteger
  split
  · exact .bind src_keeps fun _ => .pure
  · exact .bind src_keeps fun _ => .pure
  · exact .bind src2_keeps fun _ => .pure
  · exact .bind src2_keeps fun _ => .pure

theorem execIcvtf_canon {d a : LReg} {rnd : Rnd} {ty : SrcInt} (hs : s.Canon) : NextCanon (execIcvtf d a rnd ty s) := by
  unfold execIcvtf
  exact laneExec_canon (fun _ _ => laneFall_keeps fun _ _ => .bind srcInteger_keeps fun _ => fpResult_keeps) hs

theorem execBpx_canon {d a b : LReg} (hs : s.Canon) : NextCanon (execBpx d a b s) := by
  unfold execBpx
  exact laneExec_canon (fun _ _ => laneFall_keeps fun _ _ => .bind srcN_keeps fun _ => .bind src_keeps fun _ => result_keeps) hs

end Sys2Proof.Machine
end

section
/-! PROOF. Residue instructions keep memory canonical (10_residue.md R239 to R256). -/

namespace Sys2Proof.Machine

variable {s : State}

theorem execRencI32_canon {d a : LReg} (hs : s.Canon) : NextCanon (execRencI32 d a s) := by
  unfold execRencI32
  exact laneExec_canon (fun _ _ => laneFall_keeps fun _ _ => .bind src_keeps fun _ => resultN_keeps) hs

theorem execRencI64_canon {d a : LReg} (hs : s.Canon) : NextCanon (execRencI64 d a s) := by
  unfold execRencI64
  exact laneExec_canon (fun _ _ => laneFall_keeps fun _ _ => .bind src2_keeps fun _ => resultN_keeps) hs

theorem execRadd_canon {d a b : LReg} (hs : s.Canon) : NextCanon (execRadd d a b s) := by
  unfold execRadd
  exact laneExec_canon (fun _ _ => laneFall_keeps fun _ _ => .bind srcN_keeps fun _ => .bind srcN_keeps fun _ => resultN_keeps) hs

theorem execRmul_canon {d a b : LReg} (hs : s.Canon) : NextCanon (execRmul d a b s) := by
  unfold execRmul
  exact laneExec_canon (fun _ _ => laneFall_keeps fun _ _ => .bind srcN_keeps fun _ => .bind srcN_keeps fun _ => resultN_keeps) hs

theorem execRdec_canon {d a b : LReg} (hs : s.Canon) : NextCanon (execRdec d a b s) := by
  unfold execRdec
  exact laneExec_canon (fun _ _ => laneFall_keeps fun _ _ => .bind srcN_keeps fun _ => .bind src_keeps fun _ => result2_keeps) hs

theorem execRchk_canon {d a b : LReg} (hs : s.Canon) : NextCanon (execRchk d a b s) := by
  unfold execRchk
  exact laneExec_canon (fun _ _ => laneFall_keeps fun _ _ => .bind srcN_keeps fun _ => .bind src_keeps fun _ => result_keeps) hs

end Sys2Proof.Machine
end

section
/-! PROOF. Uniform scalar instructions keep memory canonical (04_integer.md R120 to R125). -/

namespace Sys2Proof.Machine

variable {s : State}

theorem readUW_keeps {b : Nat} {r : UReg} {w : Bool} : Keeps State.Canon (readUW b r w) := by
  unfold readUW
  exact .ite readU2_keeps (.bind readU_keeps fun _ => .pure)

theorem writeUW_keeps {b : Nat} {r : UReg} {w : Bool} {v : DWord} : Keeps State.Canon (writeUW b r w v) := by
  unfold writeUW
  exact .ite writeU2_keeps writeU_keeps

theorem uni2_canon {i : Instr} {d a c : UReg} {w : Bool} {f : DWord → DWord → DWord} (hs : s.Canon) :
    NextCanon (uni2 i d a c w f s) := by
  unfold uni2
  exact uniExec_canon (fun _ _ => uniFall_keeps fun _ _ => .bind readUW_keeps fun _ => .bind readUW_keeps fun _ => writeUW_keeps)
    hs

theorem uniShift_canon {i : Instr} {d a c : UReg} {w : Bool} {f : DWord → Nat → DWord} (hs : s.Canon) :
    NextCanon (uniShift i d a c w f s) := by
  unfold uniShift
  exact uniExec_canon (fun _ _ => uniFall_keeps fun _ _ => .bind readUW_keeps fun _ => .bind readU_keeps fun _ => writeUW_keeps)
    hs

theorem execSshl_canon {d a b : UReg} {w : Bool} (hs : s.Canon) : NextCanon (execSshl d a b w s) :=
  uniShift_canon hs

theorem execSshr_canon {d a b : UReg} {w : Bool} (hs : s.Canon) : NextCanon (execSshr d a b w s) :=
  uniShift_canon hs

theorem execSsar_canon {d a b : UReg} {w : Bool} (hs : s.Canon) : NextCanon (execSsar d a b w s) :=
  uniShift_canon hs

theorem execSmov_canon {d a : UReg} {w : Bool} (hs : s.Canon) : NextCanon (execSmov d a w s) := by
  unfold execSmov
  exact uniExec_canon (fun _ _ => uniFall_keeps fun _ _ => .bind readUW_keeps fun _ => writeUW_keeps) hs

theorem execScmp_canon {d a b : UReg} {cond : SCond} (hs : s.Canon) : NextCanon (execScmp d a b cond s) := by
  unfold execScmp
  exact uniExec_canon (fun _ _ => uniFall_keeps fun _ _ => .bind readUW_keeps fun _ => .bind readUW_keeps fun _ => writeU_keeps)
    hs

theorem execSsel_canon {d a b : UReg} {w : Bool} (hs : s.Canon) : NextCanon (execSsel d a b w s) := by
  unfold execSsel
  exact uniExec_canon (fun _ _ => uniFall_keeps fun _ _ => .bind readUW_keeps fun _ => .bind readUW_keeps fun _ => .bind
    readUW_keeps fun _ => writeUW_keeps) hs

theorem uniAddr_keeps {b : Nat} {a : UReg} {off : BitVec 7} {n : Nat} : Keeps State.Canon (uniAddr b a off n) :=
  .bind readU2_keeps fun _ => .pure

theorem execSld_canon {d a : UReg} {off : BitVec 7} {f : Bool} {size : USize} (hs : s.Canon) :
    NextCanon (execSld d a off f size s) := by
  unfold execSld
  exact uniExec_canon (fun _ _ => uniFall_keeps fun _ _ => .bind uniAddr_keeps fun _ => .bind checkAccess_keeps fun _ => .bind
    getS_keeps fun _ => issue_keeps) hs

theorem execSst_canon {d a : UReg} {off : BitVec 7} {f : Bool} {size : USize} (hs : s.Canon) :
    NextCanon (execSst d a off f size s) := by
  unfold execSst
  exact uniExec_canon (fun _ _ => uniFall_keeps fun _ _ => .bind uniAddr_keeps fun _ => .bind readUW_keeps fun _ => .bind
    checkAccess_keeps fun _ => .bind getS_keeps fun _ => issue_keeps) hs

theorem execUniformAccessCompletion_canon {id : Nat} {reply : List Byte} (hs : s.Canon) :
    NextCanon (execUniformAccessCompletion id reply s) := by
  unfold execUniformAccessCompletion
  refine .next ?_
  split
  · refine .ite hs ?_
    split
    · split
      exacts [.upd hs, .upd (.performOp hs)]
    · split
      exacts [.upd hs, .upd (.performOp hs)]
    · exact hs
  · exact hs

end Sys2Proof.Machine
end

section
/-! PROOF. Traps, CSRs, the TLB group and error pops keep memory canonical (17_system.md R392 to R416). -/

namespace Sys2Proof.Machine

variable {s : State}

theorem execEret_canon (hs : s.Canon) : NextCanon (execEret s) := by
  unfold execEret
  exact uniExec_canon (fun _ _ => .bind getS_keeps fun _ => .ite .trap_bind
    (.bind (updS_keeps fun _ hs => .foldl (fun _ _ hs' => .dropLatches (.leaveBundle (.modThread hs'))) hs) fun _ => .pure)) hs

theorem execCsrr_canon {d : UReg} {csr : BitVec 12} (hs : s.Canon) : NextCanon (execCsrr d csr s) := by
  unfold execCsrr
  exact uniExec_canon (fun _ _ => uniFall_keeps fun _ _ => .bind getB_keeps fun _ => .ite .trap_bind
    (.bind getS_keeps fun _ => writeUW_keeps)) hs

theorem execCsrrThread_canon {d : Fin 128} {csr : BitVec 12} (hs : s.Canon) : NextCanon (execCsrrThread d csr s) := by
  unfold execCsrrThread
  exact uniExec_canon (fun _ _ => uniFall_keeps fun _ _ => updS_keeps fun _ hs => .foldl
    (fun _ _ hs' => .ite (.modThread (.clobber (.modThread (.clobber hs')))) (.modThread (.clobber hs'))) hs) hs

theorem execCsrw_canon {d : UReg} {csr : BitVec 12} (hs : s.Canon) : NextCanon (execCsrw d csr s) := by
  unfold execCsrw
  exact uniExec_canon (fun _ _ => uniFall_keeps fun _ _ => .bind getB_keeps fun _ => .ite .trap_bind
    (.ite .trap_bind (.bind readUW_keeps fun _ => .ite updB_keeps (updS_keeps fun _ hs => .upd hs)))) hs

theorem execCsrwThread_canon {d : Fin 128} {csr : BitVec 12} (hs : s.Canon) : NextCanon (execCsrwThread d csr s) := by
  unfold execCsrwThread
  exact uniExec_canon (fun _ _ => uniFall_keeps fun _ _ => .bind getB_keeps fun _ => .forM fun _ => .bind readReg_keeps
    fun _ => .ite (.bind readReg_keeps fun _ => updT_keeps) (.bind .pure fun _ => updT_keeps)) hs

theorem walkerOnly_keeps {b : Nat} : Keeps State.Canon (walkerOnly b) := by
  unfold walkerOnly
  exact .bind getB_keeps fun _ => .ite .stop .pure

theorem execTlbfill_canon {d a b : UReg} (hs : s.Canon) : NextCanon (execTlbfill d a b s) := by
  unfold execTlbfill
  exact uniExec_canon (fun _ _ => uniFall_keeps fun _ _ => .bind walkerOnly_keeps fun _ => .bind readU_keeps fun _ => .bind
    readU2_keeps fun _ => .bind readU2_keeps fun _ => .ite .trap_bind (.bind getB_keeps fun _ => updS_keeps fun _ hs => .upd hs))
    hs

theorem State.Canon.dropTlbs {ks : List Nat} {f : TlbEntry → Bool} (hs : s.Canon) : (s.dropTlbs ks f).Canon := by
  unfold State.dropTlbs
  exact .foldl (fun _ _ hs' => .upd hs') hs

theorem execTlbinv_canon {d a : UReg} (hs : s.Canon) : NextCanon (execTlbinv d a s) := by
  unfold execTlbinv
  exact uniExec_canon (fun _ _ => .bind walkerOnly_keeps fun _ => .bind readU_keeps fun _ => .bind readU2_keeps fun _ => .ite
    .trap_bind (.bind getB_keeps fun _ => .bind (updS_keeps fun _ hs => .upd (.dropTlbs hs)) fun _ => .pure)) hs

theorem execTlbinvComplete_canon {blk tid : Nat} (hs : s.Canon) : NextCanon (execTlbinvComplete blk tid s) := by
  unfold execTlbinvComplete
  exact .next (.ite (.dropLatches (.modThread hs)) hs)

theorem execWalkRequest_canon {cluster : Nat} (hs : s.Canon) : NextCanon (execWalkRequest cluster s) := by
  unfold execWalkRequest
  refine .next ?_
  split
  exacts [.ite hs (.ite (.wakeCore hs) (.upd (.setFull (.foldl (fun _ _ hs' => .setTgt hs') (.wakeCore hs))))), hs]

theorem State.Canon.tellSinv {cluster ctx page : Nat} {failed : Bool} (hs : s.Canon) :
    (s.tellSinv cluster ctx page failed).Canon := by
  unfold State.tellSinv
  exact .foldl (fun _ _ hs' => .ite (.modBlock hs') hs') hs

theorem State.Canon.tellSlices {cluster ctx page : Nat} {failed : Bool} (hs : s.Canon) :
    (s.tellSlices cluster ctx page failed).Canon := by
  unfold State.tellSlices
  exact .foldl (fun _ _ hs' => .ite (.modSlice hs') hs') hs

theorem State.Canon.walkOutcome {cluster : Nat} {r : WalkReq} {out cause : Nat} (hs : s.Canon) :
    (s.walkOutcome cluster r out cause).Canon := by
  unfold State.walkOutcome
  extract_lets ws filled deliver s1 s2 s3
  have h1 : s1.Canon := .foldl (fun _ _ hs' => .ite (.wake hs') (.ite (.stopThread hs') (.modThread hs'))) hs
  have h2 : s2.Canon := by
    refine .foldl (fun _ _ hs' => .ite ?_ (.specDrop hs')) h1
    split
    exacts [.prefetch hs', hs']
  have h3 : s3.Canon := .tellSlices (.tellSinv h2)
  exact .ite h3 (.ite (.upd h3) (.ite (.upd h3) (.ite (.upd h3) h3)))

theorem execWalkdone_canon {d a : UReg} (hs : s.Canon) : NextCanon (execWalkdone d a s) := by
  unfold execWalkdone
  refine uniExec_canon (fun _ _ => uniFall_keeps fun _ _ => .bind walkerOnly_keeps fun _ => .bind readU_keeps fun _ => .bind
    readU_keeps fun _ => .bind getB_keeps fun _ => updS_keeps fun _ hs => ?_) hs
  split
  exacts [hs, .walkOutcome (.upd hs)]

theorem execErrpop_canon {d a : UReg} (hs : s.Canon) : NextCanon (execErrpop d a s) := by
  unfold execErrpop
  refine uniExec_canon (fun _ _ => .bind readU_keeps fun _ => .bind getB_keeps fun _ => .ite .trap_bind
    (.ite .trap_bind (.bind getS_keeps fun _ => .ite .trap_bind (.bind checkAccess_keeps fun _ => ?_)))) hs
  split
  · exact .bind (updS_keeps fun _ hs => .upd hs) fun _ => .pure
  · refine .bind (updS_keeps fun _ hs => ?_) fun _ => .pure
    dsimp only
    split
    exacts [.modBlock (.popRecord hs), .modBlock (.acquireFor (.foldl (fun _ _ hs' => .performByte hs') (.popRecord hs)))]

theorem execHzwait_canon {d a : UReg} {f : Bool} (hs : s.Canon) : NextCanon (execHzwait d a f s) := by
  unfold execHzwait
  exact uniExec_canon (fun _ _ => uniFall_keeps fun _ _ => .bind readU2_keeps fun _ => updS_keeps fun _ hs => .upd
    (.countFlag hs)) hs

theorem execHzwaitComplete_canon {id : Nat} (hs : s.Canon) : NextCanon (execHzwaitComplete id s) := by
  unfold execHzwaitComplete
  refine .next ?_
  split
  exacts [hs, .ite hs (.upd (.finishFlag (.arriveUni hs)))]

end Sys2Proof.Machine
end

section
/-! PROOF. Engine chains keep memory canonical (13_engines.md R292 to R315): so does every computation on the state a chain
works on. -/

namespace Sys2Proof.Machine

variable {s : State}

theorem State.recordBytes_onOk {c : Chain} {off n : Nat} (hs : s.Canon) : OnOk (fun r => r.2.Canon) (s.recordBytes c off n) := by
  unfold State.recordBytes
  dsimp only
  split
  exacts [.error, .ok ((State.fillUnits_onOk hs).get ‹_›)]

theorem State.readChain_onOk {c : Chain} {crc : Option Bool} {off idx n : Nat} (hs : s.Canon) :
    OnOk (fun r => r.2.2.Canon) (s.readChain c crc off idx n) := by
  induction n generalizing s crc off idx with
  | zero => exact .ok hs
  | succ n ih =>
    unfold State.readChain
    refine .ite (.ok hs) ?_
    split
    · exact .error
    · have h1 := (State.recordBytes_onOk hs).get ‹_›
      refine .ite ?_ (.ok h1)
      split
      · exact .error
      · have h2 := (ih h1).get ‹_›
        exact .ok h2

theorem getE_keeps : Keeps Eng.Canon getE :=
  ⟨fun _ hg => .ok hg⟩

theorem updE_keeps {f : Eng → Eng} (hf : ∀ g, g.Canon → (f g).Canon) : Keeps Eng.Canon (updE f) :=
  ⟨fun g hg => .ok (hf g hg)⟩

theorem updRun_keeps {f : EngRun → EngRun} : Keeps Eng.Canon (updRun f) :=
  updE_keeps fun _ hg => ⟨hg.state⟩

theorem failE_keeps {status : Nat} {addr : DWord} : Keeps Eng.Canon (failE status addr) := by
  unfold failE
  exact updE_keeps fun _ hs => .ite hs ⟨hs.state⟩

theorem engTgt_keeps {kind : AccKind} {ea : DWord} : Keeps Eng.Canon (engTgt kind ea) := by
  unfold engTgt
  refine ⟨fun _ hs => .ite (.ok hs) ?_⟩
  dsimp only
  split
  · split
    exacts [.ok hs, .ite (.ok hs) .error, .error, .error]
  · split
    · exact .error
    · split
      · split
        exacts [.ok hs, .ite (.ok hs) .error, .error, .error]
      · exact .ok ⟨((State.fillUnits_onOk hs.state).get ‹_›)⟩

theorem readTgt_keeps {t : Tgt} : Keeps Eng.Canon (readTgt t) :=
  ⟨fun _ hs => .ok ⟨.define hs.state⟩⟩

theorem readE_keeps {ea : DWord} : Keeps Eng.Canon (readE ea) := by
  unfold readE
  refine .bind getE_keeps fun _ => .ite .pure (.bind engTgt_keeps fun _ => ?_)
  split
  exacts [.bind failE_keeps fun _ => .pure, readTgt_keeps]

theorem readBytes_keeps {ea : DWord} {n : Nat} : Keeps Eng.Canon (readBytes ea n) := by
  induction n generalizing ea with
  | zero => exact .pure
  | succ n ih => exact .bind readE_keeps fun _ => .bind getE_keeps fun _ => .ite .pure (.bind ih fun _ => .pure)

theorem State.Canon.engWrite {core : Nat} {t : Tgt} {v : Byte} (hs : s.Canon) : (s.engWrite core t v).Canon := by
  unfold State.engWrite
  split
  exacts [.ite (.upd (.setHomeByte hs)) (.setHomeByte hs), .poisonPad (.setPadByte hs), .setTgt hs]

theorem putE_keeps {ea : DWord} {v : Byte} : Keeps Eng.Canon (putE ea v) := by
  unfold putE
  refine .bind getE_keeps fun _ => .ite .pure (.bind engTgt_keeps fun _ => ?_)
  split
  exacts [.bind failE_keeps fun _ => .pure, .bind (updE_keeps fun _ hs => ⟨.engWrite hs.state⟩) fun _ => .pure]

theorem writeE_keeps {ea : DWord} {v : Byte} : Keeps Eng.Canon (writeE ea v) := by
  unfold writeE
  exact .bind putE_keeps fun _ => .ite (updE_keeps fun _ hs => ⟨.elim hs.state fun _ => .setFull hs.state⟩) .pure

theorem checkWrites_keeps {ea : DWord} {n : Nat} : Keeps Eng.Canon (checkWrites ea n) := by
  unfold checkWrites
  refine .forM fun _ => .bind getE_keeps fun _ => .ite (.bind engTgt_keeps fun _ => ?_) .pure
  split
  exacts [failE_keeps, .pure]

theorem reedValues_keeps {r : EngRec} : Keeps Eng.Canon (reedValues r) := by
  unfold reedValues
  exact .bind readBytes_keeps fun _ => .bind getE_keeps fun _ => .ite .pure (.ite (.bind failE_keeps fun _ => .pure)
    (.bind readBytes_keeps fun _ => .bind getE_keeps fun _ => .ite (.bind (updE_keeps fun _ hs => ⟨hs.state⟩) fun _ => .pure)
    .pure))

theorem convRead_keeps {r : EngRec} : Keeps Eng.Canon (convRead r) := by
  unfold convRead
  exact .bind readBytes_keeps fun _ => .ite (.bind readBytes_keeps fun _ => .bind getE_keeps fun _ => .ite .pure .pure)
    (.bind .pure fun _ => .bind getE_keeps fun _ => .ite .pure .pure)

theorem holdGran_keeps {last : Bool} {top : DWord} : Keeps Eng.Canon (holdGran last top) := by
  unfold holdGran
  refine .ite .pure (.bind engTgt_keeps fun _ => ?_)
  split
  exacts [.pure, .pure]

theorem outE_keeps {hold : Option Nat} {e : DWord × Byte} : Keeps Eng.Canon (outE hold e) := by
  unfold outE
  refine .bind getE_keeps fun _ => .ite .pure (.ite (.bind engTgt_keeps fun _ => ?_) putE_keeps)
  split
  exacts [.bind failE_keeps fun _ => .pure, .bind updRun_keeps fun _ => .pure]

theorem turnFull_keeps {later : List EngRec} {rest : DWord → Bool} {hold : Option Nat} {outs : List (DWord × Byte)} :
    Keeps Eng.Canon (turnFull later rest hold outs) := by
  unfold turnFull
  refine .forM fun _ => .ite (.bind engTgt_keeps fun _ => ?_) .pure
  split
  exacts [.pure, .ite (updE_keeps fun _ hs => ⟨.setFull hs.state⟩) (.bind getE_keeps fun _ => .ite updRun_keeps .pure)]

theorem writeUnit_keeps {later : List EngRec} {last : Bool} {outs : List (DWord × Byte)} :
    Keeps Eng.Canon (writeUnit later last outs) := by
  unfold writeUnit
  split
  · exact .bind holdGran_keeps fun _ => .bind (.forM fun _ => .bind outE_keeps fun _ => .ite updRun_keeps .pure) fun _ => .bind
      getE_keeps fun _ => turnFull_keeps
  · exact updE_keeps fun _ hs => ⟨hs.state⟩

theorem deliverByte_keeps {v : Byte} : Keeps Eng.Canon (deliverByte v) := by
  unfold deliverByte
  exact ⟨fun _ hs => .ok ⟨.ite (.upd hs.state) hs.state⟩⟩

theorem copyBytes_keeps {r : EngRec} {off : Nat} {bs : List Byte} : Keeps Eng.Canon (copyBytes r off bs) := by
  unfold copyBytes
  exact .mapM fun _ => .bind (.ite ⟨fun _ hs => .ok ⟨.upd hs.state⟩⟩ .pure) fun _ => .bind deliverByte_keeps fun _ => .pure

theorem deviceLost_keeps {dev : Nat} : Keeps Eng.Canon (deviceLost dev) :=
  ⟨fun _ hs => .ok hs⟩

theorem copyRead_keeps {r : EngRec} {off n : Nat} : Keeps Eng.Canon (copyRead r off n) := by
  unfold copyRead
  exact .bind readBytes_keeps fun _ => .ite (updE_keeps fun _ hs => ⟨hs.state⟩) .pure

theorem copyStep_keeps {r : EngRec} {later : List EngRec} {last asked : Bool} {answer : List Byte} :
    Keeps Eng.Canon (copyStep r later last asked answer) := by
  unfold copyStep
  refine .bind getE_keeps fun _ => .ite (updE_keeps fun _ hs => ⟨hs.state⟩) (.bind deviceLost_keeps fun _ => .ite failE_keeps
    (.bind deviceLost_keeps fun _ => .ite failE_keeps ?_))
  split
  · refine .ite copyRead_keeps (.ite (updE_keeps fun _ hs => ⟨hs.state⟩) ?_)
    split
    exacts [.pure, .ite failE_keeps updRun_keeps]
  · refine .ite (.bind copyBytes_keeps fun _ => .bind holdGran_keeps fun _ => .bind (.forM fun _ => .bind outE_keeps fun _ => .ite
      updRun_keeps .pure) fun _ => .bind getE_keeps fun _ => .bind turnFull_keeps fun _ => updRun_keeps)
      (.ite (.bind copyBytes_keeps fun _ => updE_keeps fun _ hs => ⟨hs.state⟩) ?_)
    split
    exacts [.pure, .ite failE_keeps updRun_keeps]

theorem computeOuts_keeps {r : EngRec} : Keeps Eng.Canon (computeOuts r) := by
  unfold computeOuts
  split
  · exact .bind convRead_keeps fun _ => .pure
  · exact .bind readBytes_keeps fun _ => .pure
  · exact .bind reedValues_keeps fun _ => .pure
  · exact .bind readBytes_keeps fun _ => .pure
  · exact .pure

theorem recordStep_keeps {r : EngRec} {idx : Nat} {later : List EngRec} {last : Bool} :
    Keeps Eng.Canon (recordStep r idx later last) := by
  unfold recordStep
  refine .bind getE_keeps fun _ => ?_
  split
  · exact .bind computeOuts_keeps fun _ => .bind getE_keeps fun _ => .ite updRun_keeps .pure
  · exact .bind writeUnit_keeps fun _ => .ite (.bind getE_keeps fun _ => updRun_keeps) .pure

theorem State.Canon.countCommand {b : Nat} {fl : Option Nat} {sc : Scope} (hs : s.Canon) : (s.countCommand b fl sc).Canon := by
  unfold State.countCommand
  dsimp only
  split
  exacts [.countFlag hs, .foldl (fun _ _ hs' => .modThread hs') (.countFlag hs)]

theorem engIssue_canon {i : Instr} {kind : Nat} {a : UReg} {rel : Bool} (hs : s.Canon) : NextCanon (engIssue i kind a rel s) := by
  unfold engIssue
  exact uniExec_canon (fun _ _ => uniFall_keeps fun _ _ => .bind readU_keeps fun _ => .bind getB_keeps fun _ => .ite .trap_bind
    (.bind plainRead_keeps fun _ => .ite .trap_bind (.bind getS_keeps fun _ => .ite .trap_bind
    (.ite (.bind (updS_keeps fun _ hs => .beginRelease hs) fun _ => updS_keeps fun _ hs => .upd (.oxAbandon (.countCommand hs)))
    (updS_keeps fun _ hs => .upd (.oxAbandon (.countCommand hs))))))) hs

theorem State.Canon.cancelChains {b : Nat} {f : Chain → Bool} (hs : s.Canon) : (s.cancelChains b f).1.Canon :=
  .upd hs

theorem execEcancel_canon {d a : UReg} (hs : s.Canon) : NextCanon (execEcancel d a s) := by
  unfold execEcancel
  exact uniExec_canon (fun _ _ => uniFall_keeps fun _ _ => .bind readU_keeps
    fun _ => ⟨fun _ hs => .ok (.modBlock (.cancelChains (.oxAbandon hs)))⟩) hs

theorem execEcancelAll_canon {d : UReg} (hs : s.Canon) : NextCanon (execEcancelAll d s) := by
  unfold execEcancelAll
  exact uniExec_canon (fun _ _ => uniFall_keeps fun _ _ => ⟨fun _ hs => .ok (.modBlock (.cancelChains (.oxAbandon hs)))⟩) hs

theorem State.Canon.engHold {id core ctx : Nat} {w : EngWait} (hs : s.Canon) : (s.engHold id core ctx w).Canon := by
  unfold State.engHold
  split
  exacts [.upd hs, .upd (.raiseWalk hs), hs]

theorem State.Canon.endChain {c : Chain} {status idx : Nat} {addr : DWord} (hs : s.Canon) :
    (s.endChain c status idx addr).Canon := by
  unfold State.endChain
  exact .upd (.foldl (fun _ _ hs' => .setFull hs') hs)

theorem State.Canon.endAttempt {c : Chain} (hs : s.Canon) : (s.endAttempt c).Canon := by
  unfold State.endAttempt
  split
  · exact .endChain hs
  · refine .ite (.ite (.upd hs) (.endChain hs)) ?_
    split
    exacts [.endChain hs, .endChain hs]

theorem Chain.step_keeps {c : Chain} {r : EngRec} {answer : List Byte} : Keeps Eng.Canon (c.step r answer) := by
  unfold Chain.step
  exact .ite copyStep_keeps recordStep_keeps

theorem State.Canon.hearAnswer {c : Chain} {r : EngRec} {answer : List Byte} (hs : s.Canon) :
    (s.hearAnswer c r answer).Canon := by
  unfold State.hearAnswer
  exact .ite hs (.foldl (fun _ _ hs' => .hearOther hs') hs)

theorem State.Canon.chainStep {c : Chain} {answer : List Byte} (hs : s.Canon) : (s.chainStep c answer).Canon := by
  unfold State.chainStep
  split
  · exact .endAttempt hs
  · refine .ite hs ?_
    dsimp only
    split
    · exact .engHold (.hearAnswer hs)
    · split
      · exact .endChain (.upd (.upd (Chain.step_keeps.ok ⟨.hearAnswer hs⟩ ‹_›).state))
      · exact .upd (.upd (.upd (.upd (.upd (Chain.step_keeps.ok ⟨.hearAnswer hs⟩ ‹_›).state))))
      · exact .upd (.upd (.upd (Chain.step_keeps.ok ⟨.hearAnswer hs⟩ ‹_›).state))

theorem State.Canon.endColl {c : Chain} {status : Nat} {addr : DWord} (hs : s.Canon) : (s.endColl c status addr).Canon :=
  .upd hs

theorem State.Canon.failColl {c : Chain} (hs : s.Canon) : (s.failColl c).Canon := by
  unfold State.failColl
  exact .ite (.upd hs) (.endColl hs)

theorem State.Canon.runColl {c : Chain} {answer : List Byte} (hs : s.Canon) : (s.runColl c answer).Canon := by
  unfold State.runColl
  split
  · exact .endColl hs
  · refine .ite (.endColl hs) ?_
    dsimp only
    split
    · exact .ite (.endColl (.hearAnswer hs)) (.ite (.failColl (.hearAnswer hs)) (.upd (.hearAnswer hs)))
    · exact .hearAnswer hs
    · split
      · exact .engHold (.hearAnswer hs)
      · split
        · exact .endColl (readBytes_keeps.ok ⟨.hearAnswer hs⟩ ‹_›).state
        · exact .upd (.upd (.upd (readBytes_keeps.ok ⟨.hearAnswer hs⟩ ‹_›).state))

theorem State.Canon.readRecords {c : Chain} (hs : s.Canon) : (s.readRecords c).Canon := by
  unfold State.readRecords
  split
  exacts [.upd hs, .ite (.upd hs) (.engHold hs), .engHold hs, hs, .upd ((State.readChain_onOk hs).get ‹_›)]

theorem execEngineChainStart_canon {id : Nat} {answer : List Byte} (hs : s.Canon) :
    NextCanon (execEngineChainStart id answer s) := by
  unfold execEngineChainStart
  refine .next ?_
  split
  · exact hs
  · exact .ite hs (.ite (.ite (.readRecords (.upd (.upd hs))) hs) (.ite (.readRecords hs) (.ite (.runColl hs) (.chainStep hs))))

theorem execCollAckTimeout_canon {id : Nat} (hs : s.Canon) : NextCanon (execCollAckTimeout id s) := by
  unfold execCollAckTimeout
  refine .next ?_
  split
  · exact hs
  · split
    exacts [.ite hs (.failColl hs), hs]

theorem State.Canon.noteDone {t : Tgt} {sc : Scope} (hs : s.Canon) : (s.noteDone t sc).Canon := by
  unfold State.noteDone
  split
  exacts [.upd hs, hs]

theorem State.Canon.engError {c : Chain} {status retries idx : Nat} {addr : DWord} (hs : s.Canon) :
    (s.engError c status retries idx addr).Canon :=
  .record hs

theorem State.Canon.dropChain {c : Chain} (hs : s.Canon) : (s.dropChain c).Canon :=
  .upd (.finishFlag hs)

theorem completionE_keeps {outs : List (DWord × Byte)} : Keeps Eng.Canon (completionE outs) := by
  unfold completionE
  split
  · exact .pure
  · refine .bind checkWrites_keeps fun _ => .bind engTgt_keeps fun _ => ?_
    split
    · exact .pure
    · exact .ite (.bind failE_keeps fun _ => .bind (.forM fun _ => writeE_keeps) fun _ => .pure)
        (.bind (.forM fun _ => writeE_keeps) fun _ => .pure)

theorem execEngineChainFinish_canon {id : Nat} (hs : s.Canon) : NextCanon (execEngineChainFinish id s) := by
  unfold execEngineChainFinish
  refine .next ?_
  split
  · exact hs
  case h_2 c _ =>
    split
    · exact hs
    · extract_lets isErr sc waits error g₀ finish
      have herror {t : State} {st : Nat} {a : DWord} (ht : t.Canon) : (error t st a).Canon := .engError ht
      have hfinish (last : Option EngRec) : (finish last).Canon := by
        unfold finish
        split
        · exact .ite hs (.engHold hs)
        · have hg := completionE_keeps.ok ⟨hs⟩ ‹_›
          split
          · exact .dropChain (.ite (herror hs) (herror hs))
          · refine .dropChain ?_
            split
            exacts [.noteDone (.ite (herror hg.state) hg.state), .ite (herror hg.state) hg.state]
      refine .ite ?_ (hfinish _)
      split
      · exact .ite (.dropChain hs) (.ite hs (.engHold hs))
      · exact .engHold hs
      · exact hs
      · exact .dropChain hs
      · exact hfinish _

end Sys2Proof.Machine
end

section
/-! PROOF. Matrix instructions and units keep memory canonical (11_matrix.md R258 to R274). -/

namespace Sys2Proof.Machine

variable {s : State}

theorem matrixBlock_keeps {b : Nat} : Keeps State.Canon (matrixBlock b) := by
  unfold matrixBlock
  exact .bind getS_keeps fun _ => .ite .stop .pure

theorem checkTile_keeps {b t : Nat} {ea : DWord} {elems : Nat} {need : List Nat} :
    Keeps State.Canon (checkTile b t ea elems need) := by
  unfold checkTile
  refine .ite .trap_bind (.ite .trap_bind (.bind plainRead_keeps fun _ => .ite .trap_bind
    (.bind getB_keeps fun _ => .ite .trap_bind ⟨fun _ hs => ?_⟩)))
  dsimp only
  split
  exacts [.error, .ok ((State.fillUnits_onOk hs).get ‹_›)]

theorem queueCmd_keeps {b : Nat} {ts : List Nat} {unit : CoreState → MCmd → CoreState} {m : MCmd} :
    Keeps State.Canon (queueCmd b ts unit m) :=
  ⟨fun _ hs => .ok (.upd (.upd (.countFlag hs)))⟩

theorem popForMma_keeps {b t q : Nat} : Keeps State.Canon (popForMma b t q) := by
  unfold popForMma
  refine ⟨fun _ hs => ?_⟩
  dsimp only
  split
  exacts [.error, .ite (popQueue_keeps.out _ hs) (.ite (.ite .error .error) (.ite .error (.ok (.modSlice hs))))]

theorem mmaBody_keeps {i : Instr} {z : Bool} {d : UReg} {a : Option UReg} {o : UReg} {b : Nat} {ts : List Nat} :
    Keeps State.Canon (mmaBody i z d a o b ts) := by
  unfold mmaBody
  refine .bind matrixBlock_keeps fun _ => .bind readU_keeps fun _ => .bind readU_keeps fun _ => .bind getS_keeps fun _ =>
    .ite .trap_bind ?_
  dsimp only
  split
  all_goals
    refine .bind ?_ fun _ => .bind checkTile_keeps fun _ => .bind updB_keeps fun _ => .bind getS_keeps fun _ =>
      .bind (updS_keeps fun _ hs => .upd hs) fun _ => queueCmd_keeps
  exacts [readU2_keeps, .map popForMma_keeps]

theorem bldBody_keeps {i : Instr} {plain : Bool} {d a : UReg} {b : Nat} {ts : List Nat} :
    Keeps State.Canon (bldBody i plain d a b ts) := by
  unfold bldBody
  refine .bind matrixBlock_keeps fun _ => .bind readU_keeps fun _ => .bind readU2_keeps fun _ => .ite .trap_bind
    (.bind getS_keeps fun _ => .ite (.bind checkTile_keeps fun _ => ?_) (.bind .pure fun _ => ?_))
  all_goals
    exact .bind getS_keeps fun _ => .bind updB_keeps fun _ => .bind (updS_keeps fun _ hs => .upd hs) fun _ => queueCmd_keeps

theorem execBldClr_canon {d : UReg} (hs : s.Canon) : NextCanon (execBldClr d s) := by
  unfold execBldClr
  exact uniExec_canon (fun _ _ => uniFall_keeps fun _ _ => .bind matrixBlock_keeps fun _ => .bind readU_keeps fun _ => .ite
    .trap_bind updB_keeps) hs

theorem execOprdy_canon (hs : s.Canon) : NextCanon (execOprdy s) := by
  unfold execOprdy
  exact uniExec_canon (fun _ _ => uniFall_keeps fun _ _ => .bind matrixBlock_keeps fun _ => updS_keeps fun _ hs => .upd hs) hs

theorem drainBody_keeps {i : Instr} {ld : Bool} {d a : UReg} {b : Nat} {ts : List Nat} :
    Keeps State.Canon (drainBody i ld d a b ts) := by
  unfold drainBody
  exact .bind matrixBlock_keeps fun _ => .bind readU_keeps fun _ => .bind readU_keeps fun _ => .bind getS_keeps fun _ => .ite
    .trap_bind (.ite .trap_bind queueCmd_keeps)

theorem acczBody_keeps {i : Instr} {next : TileState → TileState} {d : UReg} {mask : Option UReg} {b : Nat} {ts : List Nat} :
    Keeps State.Canon (acczBody i next d mask b ts) := by
  unfold acczBody
  refine .bind matrixBlock_keeps fun _ => .bind readU_keeps fun _ => ?_
  dsimp only
  split
  all_goals
    refine .bind ?_ fun _ => .ite .trap_bind (.bind getS_keeps fun _ => .bind updB_keeps fun _ => .bind
      (updS_keeps fun _ hs => .upd hs) fun _ => queueCmd_keeps)
  exacts [.map readU_keeps, .pure]

theorem execSetrstAddr_canon {a : UReg} (hs : s.Canon) : NextCanon (execSetrstAddr a s) := by
  unfold execSetrstAddr
  exact uniExec_canon (fun _ _ => uniFall_keeps fun _ _ => .bind readU2_keeps fun _ => .bind checkTarget_keeps
    fun _ => updB_keeps) hs

theorem execSetrst_canon (hs : s.Canon) : NextCanon (execSetrst s) := by
  unfold execSetrst
  exact uniExec_canon (fun _ _ => uniFall_keeps fun _ _ => .bind getS_keeps fun _ => .ite .trap_bind updB_keeps) hs

theorem State.Canon.mmaApply {core : Nat} {m : MCmd} (hs : s.Canon) : (s.mmaApply core m).Canon :=
  .upd (.upd hs)

theorem State.Canon.freeTile {core tile : Nat} (hs : s.Canon) : (s.freeTile core tile).Canon :=
  .upd (.upd hs)

theorem State.Canon.holdCmd {m : MCmd} (hs : s.Canon) : (s.holdCmd m).Canon :=
  .endPins hs

theorem execSequencerStart_canon {core : Nat} (hs : s.Canon) : NextCanon (execSequencerStart core s) := by
  unfold execSequencerStart
  refine .next ?_
  split
  exacts [hs, .ite (.holdCmd hs) (.upd (.mmaApply hs))]

theorem execSequencerDone_canon {core : Nat} (hs : s.Canon) : NextCanon (execSequencerDone core s) := by
  unfold execSequencerDone
  refine .next ?_
  split
  exacts [hs, .ite hs (.finishFlag (.upd (.ite (.freeTile hs) hs)))]

theorem execBLoaderStart_canon {core : Nat} (hs : s.Canon) : NextCanon (execBLoaderStart core s) := by
  unfold execBLoaderStart
  refine .next ?_
  split
  exacts [hs, .ite hs (.ite (.holdCmd hs) (.upd hs))]

theorem State.Canon.fillRows {core row0 k : Nat} {chs : List Nat} {f : Nat → Nat → Byte} (hs : s.Canon) :
    (s.fillRows core row0 k chs f).Canon :=
  .upd hs

theorem State.Canon.freeRows {core row0 k : Nat} {chs : List Nat} (hs : s.Canon) : (s.freeRows core row0 k chs).Canon :=
  .upd (.fillRows hs)

theorem readNormal_keeps {ea : DWord} {n : Nat} : Keeps Eng.Canon (readNormal ea n) := by
  unfold readNormal
  refine .bind (.forM fun _ => .bind getE_keeps fun _ => .ite (.bind engTgt_keeps fun _ => ?_) .pure) fun _ => readBytes_keeps
  split
  exacts [failE_keeps, .pure, failE_keeps]

theorem bldSource_keeps {i : Instr} {ea : DWord} {k : Nat} {chs : List Nat} : Keeps Eng.Canon (bldSource i ea k chs) := by
  unfold bldSource
  dsimp only
  split
  · exact .ite (.bind failE_keeps fun _ => .pure) (.bind readNormal_keeps fun _ => .bind getE_keeps fun _ => .ite .pure
      (.ite (.bind failE_keeps fun _ => .pure) (.bind (.mapM fun _ => readNormal_keeps) fun _ => .pure)))
  · exact .bind readBytes_keeps fun _ => .bind getE_keeps fun _ => .ite .pure
      (.bind getE_keeps fun _ => .ite (.bind failE_keeps fun _ => .pure) (.ite (.bind reedValues_keeps fun _ => .pure)
      (.bind (.map convRead_keeps) fun _ => .pure)))

theorem State.Canon.readHold {cluster ctx : Nat} {w : EngWait} {sched : Bool} (hs : s.Canon) :
    (s.readHold cluster ctx w sched).Canon := by
  unfold State.readHold
  split
  exacts [.upd hs, hs, .ite hs (.upd (.raiseWalk hs))]

theorem execBLoaderDone_canon {core : Nat} (hs : s.Canon) : NextCanon (execBLoaderDone core s) := by
  unfold execBLoaderDone
  refine .next ?_
  split
  · exact hs
  · refine .ite hs (.ite (.finishFlag (.upd (.ite (.freeRows hs) (.fillRows hs)))) ?_)
    dsimp only
    split
    · exact .readHold hs
    · split
      · exact .finishFlag (.upd (.upd (.ite (.freeRows (bldSource_keeps.ok ⟨hs⟩ ‹_›).state)
          (.fillRows (bldSource_keeps.ok ⟨hs⟩ ‹_›).state))))
      · exact .finishFlag (.upd (.modBlock (.record (.upd (bldSource_keeps.ok ⟨hs⟩ ‹_›).state))))

theorem execReconstructionStart_canon {core : Nat} (hs : s.Canon) : NextCanon (execReconstructionStart core s) := by
  unfold execReconstructionStart
  refine .next ?_
  split
  exacts [hs, .ite hs (.upd hs)]

theorem State.Canon.countCorrected {core ch tile row col slot : Nat} (hs : s.Canon) :
    (s.countCorrected core ch tile row col slot).Canon := by
  unfold State.countCorrected
  exact .ite (.upd (.upd hs)) (.upd hs)

theorem State.Canon.drainOne {core : Nat} {m : MCmd} {ld : Bool} {rr j : Nat} (hs : s.Canon) :
    (s.drainOne core m ld rr j).Canon := by
  unfold State.drainOne
  extract_lets x row thr vd wide bits put s1 s2 tile
  have hput {s' : State} {n : Nat} {w : Word} (hs' : s'.Canon) :
    (put s' n w).Canon := .ite (.upd (.arriveLane hs')) (.arriveLane hs')
  split
  · exact .upd (.ite (hput (hput hs)) (hput hs))
  · refine .ite (hput hs) ?_
    extract_lets v s3
    have h3 : s3.Canon := .ite (hput (hput hs)) (hput hs)
    split
    exacts [.countCorrected h3, .record h3, h3]

theorem State.Canon.zeroTile {core : Nat} {m : MCmd} (hs : s.Canon) : (s.zeroTile core m).Canon := by
  unfold State.zeroTile
  refine .ite (.freeTile hs) ?_
  split
  exacts [.freeTile hs, .upd (.ite hs (.freeTile hs)), .upd hs]

theorem State.Canon.drainLate {m : MCmd} {ld : Bool} (hs : s.Canon) : (s.drainLate m ld).Canon := by
  unfold State.drainLate
  exact .foldl (fun _ _ hs' => .modThread hs') hs

theorem execReconstructionDone_canon {core : Nat} (hs : s.Canon) : NextCanon (execReconstructionDone core s) := by
  unfold execReconstructionDone
  refine .next ?_
  split
  · exact hs
  · refine .ite hs (.finishFlag (.upd ?_))
    split
    · exact .drainLate (.foldl (fun _ _ hs' => .drainOne hs') hs)
    · exact .drainLate (.foldl (fun _ _ hs' => .drainOne hs') hs)
    · exact .zeroTile hs

end Sys2Proof.Machine
end

section
/-! PROOF. Headwater slices keep memory canonical (12_headwater.md R278 to R291). -/

namespace Sys2Proof.Machine

variable {s : State}

theorem execHstream_canon {d : UReg} {j : Fin 8} (hs : s.Canon) : NextCanon (execHstream d j s) := by
  unfold execHstream
  exact uniExec_canon (fun _ _ => uniFall_keeps fun _ _ => .ite (updS_keeps fun _ hs => .modSlice hs)
    (.bind readU2_keeps fun _ => .bind readU_keeps fun _ => .bind readU_keeps fun _ => .bind (.mapM fun _ => readU_keeps)
    fun _ => .bind getS_keeps fun _ => .ite .trap_bind (.ite (.ite .trap_bind (updS_keeps fun _ hs => .modSlice hs))
    (.ite .trap_bind (updS_keeps fun _ hs => .modSlice hs))))) hs

theorem execHloop_canon {d : UReg} {lvl : Fin 8} (hs : s.Canon) : NextCanon (execHloop d lvl s) := by
  unfold execHloop
  exact uniExec_canon (fun _ _ => uniFall_keeps fun _ _ => .bind readU_keeps fun _ => updS_keeps fun _ hs => .modSlice hs) hs

theorem State.Canon.fillSlot {b q pos : Nat} {words : List (Nat × Word)} (hs : s.Canon) : (s.fillSlot b q pos words).Canon := by
  unfold State.fillSlot
  exact .ite (.modSlice hs) (.foldl (fun _ _ hs' => .modThread hs') hs)

theorem State.Canon.pushTail {b q : Nat} (hs : s.Canon) : (s.pushTail b q).Canon :=
  .modSlice hs

theorem execHpush_canon {a : UReg} {i : Fin 8} (hs : s.Canon) : NextCanon (execHpush a i s) := by
  unfold execHpush
  exact uniExec_canon (fun _ _ => uniFall_keeps fun _ _ => .bind readU_keeps fun _ => .bind getS_keeps fun _ => .ite .trap_bind
    (.ite (.ite .trap_bind (updS_keeps fun _ hs => .ite (.pushTail (.fillSlot hs)) (.pushTail (.modSlice hs)))) .pure)) hs

theorem execHend_canon {f : Bool} (hs : s.Canon) : NextCanon (execHend f s) := by
  unfold execHend
  exact uniExec_canon (fun _ _ => uniFall_keeps fun _ _ => .bind getS_keeps fun _ => .ite .trap_bind
    (updS_keeps fun _ hs => .modSlice (.countFlag hs))) hs

theorem syncMask_keeps {b : Nat} {a : UReg} : Keeps State.Canon (syncMask b a) := by
  unfold syncMask
  exact .bind readU_keeps fun _ => .bind getS_keeps fun _ => .ite .trap_bind .pure

theorem execHsyncDrain_canon {a : UReg} (hs : s.Canon) : NextCanon (execHsyncDrain a s) := by
  unfold execHsyncDrain
  exact uniExec_canon (fun _ _ => uniFall_keeps fun _ _ => .bind syncMask_keeps fun _ => .bind getS_keeps fun _ => .ite .stop
    .pure) hs

theorem execHsyncKind_canon {a : UReg} (hs : s.Canon) : NextCanon (execHsyncKind a s) := by
  unfold execHsyncKind
  exact uniExec_canon (fun _ _ => uniFall_keeps fun _ _ => .bind syncMask_keeps fun _ => .bind getS_keeps fun _ => .ite .trap_bind
    (updS_keeps fun _ hs => .modBlock (.modSlice hs))) hs

theorem State.Canon.streamRead {b : Nat} {ea : DWord} {n : Nat} {nol1 : Bool} {bad : List Nat} (hs : s.Canon) :
    (s.streamRead b ea n nol1 bad).2.Canon := by
  unfold State.streamRead
  dsimp only
  split
  · exact hs
  · split
    · exact hs
    · split
      · exact hs
      · split
        · exact hs
        · split
          exacts [hs, .observe (.fillCopies (.define ((State.fillUnits_onOk hs).get ‹_›)))]

theorem State.Canon.nestWalk {b page : Nat} (hs : s.Canon) : (s.nestWalk b page).Canon :=
  .modSlice (.raiseWalk hs)

theorem State.Canon.issueFlight {b : Nat} {n : Nest} {kind : FlightKind} {words : List (Nat × Word)} (hs : s.Canon) :
    (s.issueFlight b n kind words).Canon :=
  .modSlice hs

theorem State.granuleUnit_ready {b : Nat} {tg : List Tgt} {bad : List Nat} {s' : State} (hs : s.Canon)
    (h : s.granuleUnit b tg bad = .ready s') : s'.Canon := by
  unfold State.granuleUnit at h
  split at h
  case h_1 hf =>
    cases h
    exact (State.fillUnits_onOk hs).get hf
  case h_2 =>
    split at h
    · cases h
      exact hs
    · cases h
  case h_5 =>
    cases h
    exact hs
  all_goals cases h

theorem State.Canon.streamGranule {b j : Nat} {st : Stream} {n : Nest} {bad : List Nat} (hs : s.Canon) :
    (s.streamGranule b j st n bad).Canon := by
  unfold State.streamGranule
  refine .ite hs ?_
  split
  · exact .nestWalk hs
  · exact .upd hs
  · exact hs
  · have h1 := State.granuleUnit_ready hs ‹_›
    split
    · exact .issueFlight (.of_snd (.streamRead h1) ‹_›)
    · exact .nestWalk h1
    · exact .upd h1
    · exact h1
    · split
      exacts [h1, .issueFlight (.modSlice (.specDrop (.upd h1)))]

theorem State.Canon.entryReads {b : Nat} {st : Stream} {ea : DWord} {bad ts : List Nat} (hs : s.Canon) :
    (s.entryReads b st ea bad ts).2.Canon := by
  induction ts generalizing s with
  | nil => exact hs
  | cons t ts ih => exact ih (.streamRead hs)

theorem State.Canon.streamEntry {b : Nat} {st : Stream} {n : Nest} {bad : List Nat} (hs : s.Canon) :
    (s.streamEntry b st n bad).Canon := by
  unfold State.streamEntry
  refine .ite hs (.ite hs ?_)
  split
  · exact .nestWalk hs
  · exact .upd hs
  · refine .ite (.pushTail (.issueFlight (.entryReads hs))) ?_
    split
    exacts [hs, .pushTail (.issueFlight (.modSlice (.specDrop (.freeWords hs))))]

theorem execHwStreamAccess_canon {blk : Nat} (hs : s.Canon) : NextCanon (execHwStreamAccess blk s) := by
  unfold execHwStreamAccess
  refine .next ?_
  split
  · exact hs
  · refine .ite hs ?_
    split
    exacts [.modSlice hs, .ite (.streamGranule hs) (.streamEntry hs)]

theorem execHwDelivery_canon {blk : Nat} (hs : s.Canon) : NextCanon (execHwDelivery blk s) := by
  unfold execHwDelivery
  refine .next ?_
  split
  · exact hs
  · dsimp only
    split
    exacts [hs, .setFull (.foldl (fun _ _ hs' => .poisonPad (.setPadByte hs')) (.modSlice hs)), .fillSlot (.modSlice hs)]

theorem execHwNestDone_canon {blk : Nat} (hs : s.Canon) : NextCanon (execHwNestDone blk s) := by
  unfold execHwNestDone
  refine .next ?_
  split
  · split
    exacts [.finishFlag (.modSlice hs), hs]
  · exact hs

end Sys2Proof.Machine
end

section
/-! PROOF. Context images, block life, launches and replays keep memory canonical (03_control.md R85 to R98; 14_scheduling.md R318 to
R340). -/

namespace Sys2Proof.Machine

variable {s : State}

theorem State.Canon.wrLong {pa : Nat} {bs : List Byte} (hs : s.Canon) : (s.wrLong pa bs).Canon := by
  unfold State.wrLong
  exact .foldl (fun _ _ hs' => .wrHome hs') hs

theorem State.Canon.wrWords {pa : Nat} {ws : List (Option Word)} (hs : s.Canon) : (s.wrWords pa ws).Canon :=
  .wrLong (.upd hs)

theorem State.Canon.saveLines {b t : Nat} (hs : s.Canon) : (s.saveLines b t).Canon := by
  unfold State.saveLines
  exact .ite hs (.foldl (fun _ _ hs' => .wrNat hs') hs)

theorem State.Canon.spillAll {b : Nat} (hs : s.Canon) : (s.spillAll b).Canon := by
  unfold State.spillAll
  exact .foldl (fun _ _ hs' => .spillLine hs') hs

theorem State.Canon.saveRecords {b : Nat} (hs : s.Canon) : (s.saveRecords b).Canon := by
  unfold State.saveRecords
  exact .wrWords (.foldl (fun _ _ hs' => .wrWords hs') hs)

theorem State.Canon.saveImage {b : Nat} (hs : s.Canon) : (s.saveImage b).Canon := by
  unfold State.saveImage
  exact .ite hs (.saveRecords (.foldl (fun _ _ hs' => .saveLines hs') (.spillAll hs)))

theorem State.Canon.savePad {b : Nat} (hs : s.Canon) : (s.savePad b).Canon := by
  unfold State.savePad
  exact .ite hs (.upd (.wrWords hs))

theorem State.Canon.restorePad {b : Nat} (hs : s.Canon) : (s.restorePad b).Canon := by
  unfold State.restorePad
  exact .ite hs (.modBlock (.foldl (fun _ _ hs' => .ite hs' (.upd hs')) hs))

theorem State.Canon.loadThread {b t : Nat} (hs : s.Canon) : (s.loadThread b t).Canon :=
  .modThread hs

theorem State.Canon.loadBlock {b : Nat} (hs : s.Canon) : (s.loadBlock b).Canon := by
  unfold State.loadBlock
  exact .modBlock (.foldl (fun _ _ hs' => .loadThread hs') hs)

theorem State.Canon.assign {b core lanebase spBase : Nat} (hs : s.Canon) : (s.assign b core lanebase spBase).Canon := by
  unfold State.assign
  exact .foldl (fun _ _ hs' => .modBlock hs') (.foldl (fun _ _ hs' => .modBlock hs') hs)

theorem State.Canon.newSlice {b : Nat} (hs : s.Canon) : (s.newSlice b).Canon := by
  unfold State.newSlice
  exact .ite hs (.modBlock (.upd hs))

theorem State.Canon.firstImage {b : Nat} (hs : s.Canon) : (s.firstImage b).Canon := by
  unfold State.firstImage
  exact .saveImage (.ite (.wrLong hs) hs)

theorem State.Canon.budgetTrap {b t : Nat} (hs : s.Canon) : (s.budgetTrap b t).Canon := by
  unfold State.budgetTrap
  refine .ite hs ?_
  split
  exacts [.leaveBundle (.trapEntry hs), .leaveBundle (.trapEntry (.modThread hs)), .modThread hs, .modThread hs, hs]

theorem State.Canon.takeDue {b t : Nat} (hs : s.Canon) : (s.takeDue b t).Canon := by
  unfold State.takeDue
  exact .ite (.budgetTrap (.modThread hs)) hs

theorem State.Canon.startBlock {b : Nat} (hs : s.Canon) : (s.startBlock b).Canon := by
  unfold State.startBlock
  extract_lets first s1 x s2 x2 lo s3 s4 s5
  have h1 : s1.Canon := .ite (.firstImage hs) hs
  have h2 : s2.Canon := .loadBlock h1
  have h4 : s4.Canon := .modBlock (.ite (.upd h2) (.restorePad h2))
  have h5 : s5.Canon := .ite (.upd (.upd h4)) h4
  split
  exacts [.record (.kill h1), .foldl (fun _ _ hs' => .takeDue hs') (.upd (.upd (.newSlice (.acquireAt h5))))]

theorem State.Canon.queueCopy {run role : Nat} {g : List Block} {slots : List Nat} (hs : s.Canon) :
    (s.queueCopy run role g slots).1.Canon := by
  unfold State.queueCopy
  exact .foldl (fun _ _ hs' => .firstImage (.upd hs')) (.upd hs)

theorem State.Canon.oxSample {b : Nat} (hs : s.Canon) : (s.oxSample b).Canon := by
  unfold State.oxSample
  refine .ite hs ?_
  dsimp only
  split
  exacts [.upd (.modBlock (.queueCopy (.upd (.upd hs)))), .upd hs]

theorem State.Canon.oxPlaced {b : Nat} (hs : s.Canon) : (s.oxPlaced b).Canon := by
  unfold State.oxPlaced
  split
  exacts [.upd hs, hs]

theorem State.Canon.placeGroup {b core lanebase spBase : Nat} (hs : s.Canon) : (s.placeGroup b core lanebase spBase).Canon := by
  unfold State.placeGroup
  extract_lets first s1 s2 _ s3
  have h3 : s3.Canon := .upd (.foldl (fun _ _ hs' => .ite hs' (.startBlock hs')) (.assign hs))
  exact .ite (.oxPlaced (.oxSample h3)) h3

theorem State.schedRun_state {ctx : Nat} {sched : Bool} (hs : s.Canon) : (s.schedRun ctx sched).Canon :=
  ⟨hs⟩

theorem State.Canon.addLane {l : Launch} {n i : Nat} (hs : s.Canon) : (s.addLane l n i).Canon := by
  unfold State.addLane
  exact .upd (.foldl (fun _ _ hs' => .upd hs') (.upd (.upd hs)))

theorem State.Canon.acceptLaunch {r : LaunchRec} {recAddr : Nat} {args : List Word} {n : Nat} {queue : Option Nat}
    {arrival deadline : Nat} {future : Option Nat} (hs : s.Canon) :
    (s.acceptLaunch r recAddr args n queue arrival deadline future).Canon := by
  unfold State.acceptLaunch
  exact .ite (.foldl (fun _ _ hs' => .addLane hs') (.upd hs)) (.ite (.upd (.foldl (fun _ _ hs' => .addLane hs') (.upd hs)))
    (.ite (.foldl (fun _ _ hs' => .addLane hs') (.upd hs)) (.upd (.upd (.foldl (fun _ _ hs' => .addLane hs') (.upd hs))))))

theorem State.Canon.rejectLaunch {r : LaunchRec} {recAddr code ctx : Nat} {queue : Option Nat} {arrival : Nat} (hs : s.Canon) :
    (s.rejectLaunch r recAddr code ctx queue arrival).Canon := by
  unfold State.rejectLaunch
  exact .ite (.record hs) (.upd (.record hs))

theorem doneWrite_keeps {ea : DWord} {bs : List Byte} : Keeps Eng.Canon (doneWrite ea bs) :=
  .bind checkWrites_keeps fun _ => .forM fun _ => writeE_keeps

theorem State.Canon.completeLaunch {l : Launch} (hs : s.Canon) : (s.completeLaunch l).Canon := by
  unfold State.completeLaunch
  extract_lets gone ctx
  have hgone {s' : State} (hs' : s'.Canon) : (gone s').Canon := .ite (.upd hs') (.upd hs')
  refine .ite (hgone hs) (.ite hs ?_)
  split
  · exact .readHold hs
  · have hg := doneWrite_keeps.ok ⟨hs⟩ ‹_›
    refine .ite (hgone (.upd (.record hg.state))) ?_
    extract_lets s1 s2
    have h1 : s1.Canon := hgone (.upd (.upd hg.state))
    split
    exacts [.upd (.upd h1), .upd h1]

theorem State.Canon.completeLaunches (hs : s.Canon) : s.completeLaunches.Canon := by
  unfold State.completeLaunches
  exact .upd (.foldl (fun _ _ hs' => .ite (.completeLaunch hs') hs') hs)

end Sys2Proof.Machine
end

section
/-! PROOF. The scheduler keeps memory canonical: admission, dispatch, pre-emption, exits and budgets (14_scheduling.md R325 to
R340). -/

namespace Sys2Proof.Machine

variable {s : State}

theorem State.Canon.submit {q tail : Nat} (hs : s.Canon) : (s.submit q tail).Canon := by
  unfold State.submit
  exact .ite hs (.ite (.record hs) (.ite hs (.ite (.record hs) (.upd (.wrNat hs)))))

theorem State.Canon.queueRecord {q addr arrival : Nat} {bs : List Byte} (hs : s.Canon) :
    (s.queueRecord q addr arrival bs).Canon := by
  unfold State.queueRecord
  dsimp only
  split
  exacts [.rejectLaunch (.upd (.upd hs)), .acceptLaunch (.upd (.upd hs)), .ite (.readHold hs) (.upd (.readHold hs))]

theorem execAdmissionCheck_canon {q : Nat} (hs : s.Canon) : NextCanon (execAdmissionCheck q s) := by
  unfold execAdmissionCheck
  refine .next (.ite hs ?_)
  split
  · exact .completeLaunches (.queueRecord hs)
  · exact .ite hs (.ite (.upd hs) (.completeLaunches (.ite (.upd (.wrNat (.queueRecord hs))) (.wrNat (.queueRecord hs)))))

theorem State.Canon.modMember {b : Nat} {f : GangMember → GangMember} (hs : s.Canon) : (s.modMember b f).Canon :=
  .modBlock hs

theorem State.Canon.noteReady {gang gindex : Nat} (hs : s.Canon) : (s.noteReady gang gindex).Canon :=
  .upd hs

theorem State.Canon.sayReady {g : GangMember} (hs : s.Canon) : (s.sayReady g).Canon := by
  unfold State.sayReady
  exact .ite (.noteReady hs) (.upd hs)

theorem State.Canon.reserveMember {b core lanebase base : Nat} {g : GangMember} (hs : s.Canon) :
    (s.reserveMember b core lanebase base g).Canon := by
  unfold State.reserveMember
  exact .notePeers (.sayReady (.modMember (.upd (.foldl (fun _ _ hs' => .modBlock hs') (.assign hs)))))

theorem State.Canon.wakeCores {cs : List Nat} (hs : s.Canon) : (s.wakeCores cs).2.Canon := by
  induction cs generalizing s with
  | nil => exact hs
  | cons c cs ih => exact ih (.wakeCore hs)

theorem State.readEntry_onOk {b : Nat} (hs : s.Canon) : OnOk (fun r => ∀ s' ∈ r, s'.Canon) (s.readEntry b) := by
  have same : ∀ s' ∈ some s, s'.Canon := by simpa using hs
  unfold State.readEntry
  dsimp only
  split
  · refine .ite (.ok same) ?_
    split
    · exact .error
    · exact .ok (by simp)
    · exact .ok (by simpa using .foldl (fun _ _ hs' => .modBlock hs') hs)
  · exact .ok same

theorem State.readEntries_onOk {bs : List Nat} (hs : s.Canon) : OnOk State.Canon (s.readEntries bs) := by
  induction bs generalizing s with
  | nil => exact .ok hs
  | cons b bs ih =>
    unfold State.readEntries
    split
    · exact .error
    · exact ih ((State.readEntry_onOk hs).get ‹_› _ rfl)
    · exact ih (.kill (.record (.upd hs)))

theorem State.Canon.dispatchTo {core lanebase b : Nat} (hs : s.Canon) : (s.dispatchTo core lanebase b).Canon := by
  unfold State.dispatchTo
  refine .ite hs ?_
  split
  · exact hs
  · exact .reserveMember hs
  · refine .ite (.wakeCores hs) ?_
    split
    · exact .readHold (.wakeCores hs)
    · exact .ite (.completeLaunches ((State.readEntries_onOk (.wakeCores hs)).get ‹_›))
        (.foldl (fun _ _ hs' => .ite (.placeGroup hs') hs') ((State.readEntries_onOk (.wakeCores hs)).get ‹_›))

theorem State.Canon.passDue (hs : s.Canon) : s.passDue.Canon := by
  unfold State.passDue
  exact .foldl (fun _ _ hs' => .ite (.upd hs') (.ite hs' (.upd hs'))) hs

theorem State.Canon.counted {b n : Nat} (hs : s.Canon) : (s.counted b n).Canon := by
  unfold State.counted
  exact .ite hs (.upd hs)

theorem State.Canon.offerLower {core lanebase : Nat} {lower : List Nat} (hs : s.Canon) :
    (s.offerLower core lanebase lower).Canon := by
  unfold State.offerLower
  split
  · exact hs
  · dsimp only
    split
    exacts [.counted (.dispatchTo hs), .upd (.ite hs (.upd hs))]

theorem State.Canon.offer {core lanebase : Nat} (hs : s.Canon) : (s.offer core lanebase).Canon := by
  unfold State.offer
  refine .ite (.passDue hs) ?_
  dsimp only
  split
  · exact .passDue hs
  · exact .ite (.dispatchTo (.passDue hs)) (.ite (.counted (.dispatchTo (.passDue hs)))
      (.ite (.dispatchTo (.passDue hs)) (.offerLower (.passDue hs))))

theorem execDispatchOpportunity_canon {core lanebase : Nat} (hs : s.Canon) :
    NextCanon (execDispatchOpportunity core lanebase s) :=
  .next (.offer hs)

theorem State.Canon.stopBlocks {bs : List Nat} {cls grace : Nat} (hs : s.Canon) : (s.stopBlocks bs cls grace).Canon := by
  unfold State.stopBlocks
  exact .foldl (fun _ _ hs' => .ite hs' (.upd (.modBlock hs'))) hs

theorem State.Canon.requestStop {b cls : Nat} (hs : s.Canon) : (s.requestStop b cls).Canon := by
  unfold State.requestStop
  refine .ite hs ?_
  split
  exacts [.ite (.ite hs (.stopBlocks hs)) (.notePeers (.toCoord hs)), .ite (.modBlock hs) (.stopBlocks hs)]

theorem execPreemptionRequest_canon {blk cls : Nat} (hs : s.Canon) : NextCanon (execPreemptionRequest blk cls s) := by
  unfold execPreemptionRequest
  exact .next (.ite (.requestStop hs) hs)

theorem execGraceExpiry_canon {blk : Nat} (hs : s.Canon) : NextCanon (execGraceExpiry blk s) := by
  unfold execGraceExpiry
  exact .next (.ite (.upd (.modBlock hs)) hs)

theorem execBlockSave_canon {blk : Nat} (hs : s.Canon) : NextCanon (execBlockSave blk s) := by
  unfold execBlockSave
  exact .next (.ite (.ite (.foldl (fun _ _ hs' => .modBlock hs') hs)
    (.foldl (fun _ _ hs' => .ite hs' (.modBlock (.creditSlice (.endPins hs')))) hs)) hs)

theorem State.Canon.settleBlock {b : Nat} (hs : s.Canon) : (s.settleBlock b).Canon := by
  unfold State.settleBlock
  exact .modBlock (.abandonMatrix (.endPins (.ite (.modBlock hs) hs)))

theorem State.Canon.flushUnits {b : Nat} {us : List (Nat × Nat)} (hs : s.Canon) : (s.flushUnits b us).1.Canon := by
  induction us generalizing s with
  | nil => exact hs
  | cons e us ih =>
    obtain ⟨off, u⟩ := e
    unfold State.flushUnits
    dsimp only
    split
    · exact ih hs
    · split
      · exact ih ((State.writeBackUnit_onOk hs).get ‹_›)
      · exact hs
      · split
        exacts [ih hs, hs]
      · exact hs
      · exact ih hs

theorem execWriteBackDone_canon {blk : Nat} (hs : s.Canon) : NextCanon (execWriteBackDone blk s) := by
  unfold execWriteBackDone
  refine .next (.ite hs ?_)
  dsimp only
  split
  · refine .readHold ?_
    split
    exacts [hs, .flushUnits hs]
  · refine .modBlock (.upd (.vacate (.savePad (.saveImage (.settleBlock (.upd ?_))))))
    split
    exacts [hs, .flushUnits hs]

theorem State.Canon.shadowLost {b : Nat} {us : List (Nat × Nat)} (hs : s.Canon) : (s.shadowLost b us).Canon := by
  unfold State.shadowLost
  refine .foldl (fun _ _ hs' => ?_) hs
  dsimp only
  split
  exacts [.modBlock (.record hs'), hs']

theorem execExitRelease_canon {blk : Nat} (hs : s.Canon) : NextCanon (execExitRelease blk s) := by
  unfold execExitRelease
  extract_lets lead x g s0 q
  have h0 : s0.Canon := .ite (.modBlock hs) hs
  have hq : q.1.Canon := by
    unfold q
    split
    exacts [h0, .flushUnits h0]
  refine .next (.ite hs ?_)
  split
  exacts [.readHold hq, .completeLaunches (.upd (.foldl (fun _ _ hs' => .finishBlock hs') (.upd (.shadowLost hq))))]

theorem execBudgetExhausted_canon {blk : Nat} (hs : s.Canon) : NextCanon (execBudgetExhausted blk s) := by
  unfold execBudgetExhausted
  refine .next ?_
  split
  exacts [hs, .ite hs (.foldl (fun _ _ hs' => .budgetTrap hs') (.modBlock hs))]

theorem execBudgetAllowanceExpiry_canon {blk : Nat} (hs : s.Canon) : NextCanon (execBudgetAllowanceExpiry blk s) := by
  unfold execBudgetAllowanceExpiry
  refine .next ?_
  split
  exacts [.ite hs (.completeLaunches (.kill (.record hs))), hs]

theorem State.Canon.stopAtYield {b : Nat} {ts : List Nat} {life : Life} {bs : List Nat} (hs : s.Canon) :
    (s.stopAtYield b ts life bs).Canon := by
  unfold State.stopAtYield
  exact .foldl (fun _ _ hs' => .ite hs' (.upd (.modBlock hs'))) hs

theorem State.Canon.yieldOff {b : Nat} {ts : List Nat} (hs : s.Canon) : (s.yieldOff b ts).Canon := by
  unfold State.yieldOff
  exact .stopAtYield (.ite (.toCoord hs) hs)

theorem State.Canon.yieldTo {b : Nat} {ts : List Nat} {core : Nat} (hs : s.Canon) : (s.yieldTo b ts core).Canon :=
  .stopAtYield (.modBlock hs)

theorem execYield_canon (hs : s.Canon) : NextCanon (execYield s) := by
  unfold execYield
  refine uniExec_canon (fun _ _ => .bind getB_keeps fun _ => .ite
    (.bind (updS_keeps fun _ hs => .foldl (fun _ _ hs' => .leaveBundle (.modThread hs')) hs) fun _ => .pure)
    (.bind (updS_keeps fun _ hs => .ite (.modBlock (.creditSlice hs)) (.ite (.newSlice (.modBlock (.creditSlice hs)))
    (.ite (.yieldOff (.modBlock (.creditSlice hs))) ?_))) fun _ => .pure)) hs
  split
  · exact .yieldTo (.modBlock (.creditSlice hs))
  · exact .ite (.newSlice (.modBlock (.creditSlice hs))) (.yieldOff (.modBlock (.creditSlice hs)))

theorem execBudgetCyc_canon {d : UReg} (hs : s.Canon) : NextCanon (execBudgetCyc d s) := by
  unfold execBudgetCyc
  exact uniExec_canon (fun _ _ => uniFall_keeps fun _ _ => .bind getS_keeps fun _ => .bind getB_keeps fun _ => writeU2_keeps) hs

theorem execBudgetNrg_canon {d : UReg} (hs : s.Canon) : NextCanon (execBudgetNrg d s) := by
  unfold execBudgetNrg
  exact uniExec_canon (fun _ _ => uniFall_keeps fun _ _ => .bind getS_keeps fun _ => .bind getB_keeps fun _ => writeU_keeps) hs

theorem execBudgetCtx_canon {d : UReg} (hs : s.Canon) : NextCanon (execBudgetCtx d s) := by
  unfold execBudgetCtx
  exact uniExec_canon (fun _ _ => uniFall_keeps fun _ _ => .bind getS_keeps fun _ => .bind getB_keeps fun _ => writeU2_keeps) hs

theorem execBudgetTime_canon {d : UReg} (hs : s.Canon) : NextCanon (execBudgetTime d s) := by
  unfold execBudgetTime
  exact uniExec_canon (fun _ _ => uniFall_keeps fun _ _ => .bind getS_keeps fun _ => writeU2_keeps) hs

theorem recordPlace_keeps {b : Nat} {ts : List Nat} {ea : DWord} : Keeps State.Canon (recordPlace b ts ea) := by
  unfold recordPlace
  refine ⟨fun _ hs => ?_⟩
  split
  exacts [.ok (checkAccess_keeps.ok hs ‹_›), .error, .ite .error .error, .error]

theorem execLaunch_canon {d a : UReg} {f : Bool} (hs : s.Canon) : NextCanon (execLaunch d a f s) := by
  unfold execLaunch
  exact uniExec_canon (fun _ _ => uniFall_keeps fun _ _ => .bind readU2_keeps fun _ => .bind recordPlace_keeps fun _ => updS_keeps
    fun _ hs => .upd (.oxAbandon (.countFlag (.beginRelease hs)))) hs

theorem execLaunchStatus_canon {id : Nat} (hs : s.Canon) : NextCanon (execLaunchStatus id s) := by
  unfold execLaunchStatus
  refine .next ?_
  split
  · exact hs
  · refine .ite hs (.ite (.upd hs) ?_)
    dsimp only
    split
    · exact .readHold (.upd hs)
    · exact .completeLaunches
        (.upd (.ite (.rejectLaunch (.upd (.upd hs))) (.finishFlag (.arriveUni (.rejectLaunch (.upd (.upd hs)))))))
    · exact .completeLaunches
        (.upd (.ite (.acceptLaunch (.upd (.upd hs))) (.finishFlag (.arriveUni (.acceptLaunch (.upd (.upd hs)))))))

theorem State.Canon.replayThread {b t : Nat} {addr : DWord} {kind : AccKind} {verdict : Verdict} {cause : Cause} (hs : s.Canon) :
    (s.replayThread b t addr kind verdict cause).Canon := by
  unfold State.replayThread
  extract_lets x th stays s1 s2
  have h1 : s1.Canon := by
    unfold s1
    split
    exacts [.modThread hs, .trapEntry hs]
  have h2 : s2.Canon := .ite (.takeDue h1) (.modThread h1)
  exact .ite (.wrWords (.saveLines h2)) h2

theorem State.Canon.replayRange {ctx : Nat} {page : DWord} {size : Nat} {verdict : Verdict} {cause : Nat} (hs : s.Canon) :
    (s.replayRange ctx page size verdict cause).Canon := by
  unfold State.replayRange
  exact .completeLaunches (.upd (.foldl (fun _ _ hs' => .replayThread hs') hs))

end Sys2Proof.Machine
end

section
/-! PROOF. Futures keep memory canonical (15_futures.md R341 to R361). -/

namespace Sys2Proof.Machine

variable {s : State}

theorem wellFormed_keeps {h : Word} : Keeps State.Canon (wellFormed h) := by
  unfold wellFormed
  exact .bind getS_keeps fun _ => .ite .stop .pure

theorem issueFut_keeps {i : Instr} {b : Nat} {ts : List Nat} {kind : FutKind} {h : Word} {d : UReg} :
    Keeps State.Canon (issueFut i b ts kind h d) :=
  updS_keeps fun _ hs => .upd (.oxAbandon (.countFlag hs))

theorem templatePlace_keeps {b : Nat} {ts : List Nat} {ea : DWord} : Keeps State.Canon (templatePlace b ts ea) := by
  unfold templatePlace
  exact .ite .stop recordPlace_keeps

theorem execFspawn_canon {d a b : UReg} {f : Bool} {n : Fin 8} (hs : s.Canon) : NextCanon (execFspawn d a b f n s) := by
  unfold execFspawn
  exact uniExec_canon (fun _ _ => uniFall_keeps fun _ _ => .bind readU2_keeps fun _ => .bind
    (.mapM fun _ => .ite .pure readU_keeps) fun _ => .bind (.forM fun _ => wellFormed_keeps) fun _ => .bind getB_keeps
    fun _ => .ite .trap_bind (.bind templatePlace_keeps fun _ => .bind (updS_keeps fun _ hs => .modBlock (.beginRelease hs))
    fun _ => issueFut_keeps)) hs

theorem execFref_canon {d a : UReg} {f : Bool} (hs : s.Canon) : NextCanon (execFref d a f s) := by
  unfold execFref
  exact uniExec_canon (fun _ _ => uniFall_keeps fun _ _ => .bind readU_keeps fun _ => .bind wellFormed_keeps fun _ => .bind
    getB_keeps fun _ => .ite .trap_bind (.bind getS_keeps fun _ => .ite .trap_bind
    (.ite (.bind updB_keeps fun _ => issueFut_keeps) issueFut_keeps))) hs

theorem execFdrop_canon {a : UReg} {f : Bool} (hs : s.Canon) : NextCanon (execFdrop a f s) := by
  unfold execFdrop
  exact uniExec_canon (fun _ _ => uniFall_keeps fun _ _ => .bind readU_keeps fun _ => .bind wellFormed_keeps fun _ => .bind
    getB_keeps fun _ => .ite .trap_bind (.bind updB_keeps fun _ => issueFut_keeps)) hs

theorem execFpoll_canon {d a : UReg} {f : Bool} (hs : s.Canon) : NextCanon (execFpoll d a f s) := by
  unfold execFpoll
  exact uniExec_canon (fun _ _ => uniFall_keeps fun _ _ => .bind readU_keeps fun _ => .bind wellFormed_keeps fun _ => .bind
    getB_keeps fun _ => .ite .trap_bind issueFut_keeps) hs

theorem execFput_canon {a : UReg} {f : Bool} (hs : s.Canon) : NextCanon (execFput a f s) := by
  unfold execFput
  exact uniExec_canon (fun _ _ => uniFall_keeps fun _ _ => .bind readU2_keeps fun _ => .bind getB_keeps fun _ => .ite .trap_bind
    (.ite .trap_bind (.bind (updS_keeps fun _ hs => .modBlock (.beginRelease hs)) fun _ => issueFut_keeps))) hs

theorem execFself_canon {d : UReg} (hs : s.Canon) : NextCanon (execFself d s) := by
  unfold execFself
  exact uniExec_canon (fun _ _ => uniFall_keeps fun _ _ => .bind updB_keeps fun _ => updS_keeps fun _ hs => .oxAbandon hs) hs

theorem fget_canon {i : Instr} {d a b : UReg} {drop : Bool} (hs : s.Canon) : NextCanon (fget i d a b drop s) := by
  unfold fget
  exact uniExec_canon (fun _ _ => .bind readU_keeps fun _ => .bind wellFormed_keeps fun _ => .bind getB_keeps fun _ => .ite
    .trap_bind (.ite (.bind (updS_keeps fun _ hs => .foldl (fun _ _ hs' => .leaveBundle (.modThread hs')) hs) fun _ => .pure)
    (.bind getS_keeps fun _ => .ite .trap_bind (.bind issueFut_keeps fun _ => .pure)))) hs

theorem State.Canon.futDone {o : FutOp} (hs : s.Canon) : (s.futDone o).Canon :=
  .upd (.finishFlag hs)

theorem State.Canon.passRefs {l : List Word} (hs : s.Canon) : (s.passRefs l).Canon := by
  unfold State.passRefs
  exact .foldl (fun _ _ hs' => .setFuture hs') hs

theorem State.Canon.placeChild {c : Nat} (hs : s.Canon) : (s.placeChild c).Canon := by
  unfold State.placeChild
  dsimp only
  split
  exacts [.dispatchTo (.upd hs), hs]

theorem State.Canon.recordHeld {b : Nat} (hs : s.Canon) : (s.recordHeld b).Canon :=
  .wrWords hs

theorem State.Canon.createChild {o : FutOp} {r : LaunchRec} {args group : List Word} {sub e : Nat} (hs : s.Canon) :
    (s.createChild o r args group sub e).1.Canon := by
  unfold State.createChild
  dsimp only
  split
  · exact .elim (.acceptLaunch (.setFuture (.passRefs hs))) fun _ => .placeChild
      (.recordHeld (.modBlock (.acceptLaunch (.setFuture (.passRefs hs)))))
  · exact .acceptLaunch (.setFuture (.passRefs hs))

theorem State.spawn_onOk {o : FutOp} {pa : Nat} {group : List Word} {sub : Nat} (hs : s.Canon) :
    OnOk (fun r => r.1.Canon) (s.spawn o pa group sub) := by
  unfold State.spawn
  refine .ite .error (.ite .error (.ite (.ok hs) ?_))
  split
  · exact .error
  · exact .ok (.upd hs)
  · dsimp only
    split
    · exact .ok (.upd hs)
    · exact .ite (.ok (.upd hs)) (.ite (.ok (.upd hs)) (.ok (.createChild (.upd hs))))

theorem State.Canon.futAcquire {o : FutOp} {status : Nat} (hs : s.Canon) : (s.futAcquire o status).Canon := by
  unfold State.futAcquire
  dsimp only
  split
  exacts [.acquireFor hs, .acquireFor hs, hs]

theorem State.Canon.syncHeld {b : Nat} (hs : s.Canon) : (s.syncHeld b).Canon := by
  unfold State.syncHeld
  exact .ite (.recordHeld hs) hs

theorem execFutureOpComplete_canon {id : Nat} (hs : s.Canon) : NextCanon (execFutureOpComplete id s) := by
  unfold execFutureOpComplete
  refine .next ?_
  split
  · exact hs
  · refine .ite hs ?_
    split
    · split
      · exact .readHold hs
      · exact .futDone (.arriveUni
          (.arriveUni (.syncHeld (.ite (.modBlock (.modBlock ((State.spawn_onOk hs).get ‹_›)))
          (.modBlock ((State.spawn_onOk hs).get ‹_›))))))
    · exact .futDone (.arriveUni
        (.syncHeld (.ite (.modBlock (.ite (.modBlock (.ite (.setFuture hs) hs)) (.ite (.setFuture hs) hs)))
        (.ite (.modBlock (.ite (.setFuture hs) hs)) (.ite (.setFuture hs) hs)))))
    · exact .futDone (.dropRef hs)
    · exact .ite hs (.futDone (.arriveUni (.futAcquire hs)))
    · exact .futDone (.ite (.setFuture hs) hs)
    · exact hs

theorem State.Canon.keepAnswer {o : FutOp} {a : Nat × DWord} (hs : s.Canon) : (s.keepAnswer o a).Canon := by
  unfold State.keepAnswer
  exact .ite hs (.upd hs)

theorem execFgetResolve_canon {id : Nat} (hs : s.Canon) : NextCanon (execFgetResolve id s) := by
  unfold execFgetResolve
  refine .next ?_
  split
  · split
    · exact .ite hs (.futDone
        (.syncHeld (.ite (.dropRef (.keepAnswer (.modBlock (.arriveUni (.arriveUni (.arriveUni (.futAcquire hs)))))))
        (.arriveUni (.arriveUni (.arriveUni (.futAcquire hs)))))))
    · exact hs
  · exact hs

theorem execMarkDelivery_canon {blk : Nat} (hs : s.Canon) : NextCanon (execMarkDelivery blk s) := by
  unfold execMarkDelivery
  exact .next (.ite hs (.upd (.modBlock hs)))

theorem execMarkGraceExpiry_canon {blk : Nat} (hs : s.Canon) : NextCanon (execMarkGraceExpiry blk s) := by
  unfold execMarkGraceExpiry
  exact .next (.ite (.upd (.modBlock hs)) hs)

theorem State.Canon.reclaimBlock {b : Nat} (hs : s.Canon) : (s.reclaimBlock b).Canon := by
  unfold State.reclaimBlock
  extract_lets x drops s1 s2 s3 s4
  have h4 : s4.Canon := .finishBlock (.modBlock (.upd (.foldl (fun _ _ hs' => .dropRef hs') hs)))
  exact .completeLaunches (.ite (.setFuture h4) h4)

theorem execReclaim_canon {blk : Nat} (hs : s.Canon) : NextCanon (execReclaim blk s) := by
  unfold execReclaim
  exact .next (.ite (.ite (.cancelChains hs) (.reclaimBlock (.cancelChains hs))) hs)

theorem State.Canon.mendTable (hs : s.Canon) : s.mendTable.Canon := by
  unfold State.mendTable
  exact .ite hs (.foldl (fun _ _ hs' => .setFuture hs') hs)

end Sys2Proof.Machine
end

section
/-! PROOF. Gangs and the Ford window keep memory canonical (16_gangs.md R364 to R388). -/

namespace Sys2Proof.Machine

variable {s : State}

theorem State.Canon.killMember {b kind : Nat} (hs : s.Canon) : (s.killMember b kind).Canon := by
  unfold State.killMember
  dsimp only
  split
  exacts [hs, .completeLaunches (.kill (.modBlock (.record hs)))]

theorem State.Canon.breakGang {r : Gang} (hs : s.Canon) : (s.breakGang r).Canon := by
  unfold State.breakGang
  exact .upd (.foldl (fun _ _ hs' => .sendTo hs') hs)

theorem State.Canon.joinHeard {gang gindex device : Nat} (hs : s.Canon) : (s.joinHeard gang gindex device).Canon := by
  unfold State.joinHeard
  refine .ite hs ?_
  split
  exacts [.modMember hs, hs]

theorem State.Canon.heardMember {gang gindex : Nat} (hs : s.Canon) : (s.heardMember gang gindex).Canon := by
  unfold State.heardMember
  split
  exacts [.notePeers (.hearOther hs), hs]

theorem State.Canon.heardCoord {gang : Nat} (hs : s.Canon) : (s.heardCoord gang).Canon := by
  unfold State.heardCoord
  refine .ite hs ?_
  split
  exacts [.notePeers (.hearOther hs), hs]

theorem execGangJoin_canon {gang gindex gmembers device ctx : Nat} (hs : s.Canon) :
    NextCanon (execGangJoin gang gindex gmembers device ctx s) := by
  unfold execGangJoin
  refine .next (.ite hs ?_)
  split
  · exact .ite (.ite (.sendTo (.joinHeard (.hearOther hs))) (.breakGang (.sendTo (.joinHeard (.hearOther hs)))))
      (.upd (.upd (.joinHeard (.hearOther hs))))
  · exact .ite (.hearOther hs) (.upd (.upd (.joinHeard (.hearOther hs))))

theorem execGangConflict_canon {gang gindex : Nat} (hs : s.Canon) : NextCanon (execGangConflict gang gindex s) := by
  unfold execGangConflict
  refine .next ?_
  split
  exacts [.killMember hs, hs]

theorem execGangBroken_canon {gang : Nat} (hs : s.Canon) : NextCanon (execGangBroken gang s) := by
  unfold execGangBroken
  refine .next ?_
  split
  exacts [.ite hs (.killMember hs), hs]

theorem execGangReady_canon {gang gindex core : Nat} (hs : s.Canon) : NextCanon (execGangReady gang gindex core s) := by
  unfold execGangReady
  refine .next ?_
  split
  · dsimp only
    split
    · exact .ite (.ite hs (.noteReady (.heardMember hs))) (.ite (.sayReady (.modMember hs)) (.ite (.offer (.upd hs)) hs))
    · exact hs
  · exact .ite hs (.noteReady (.heardMember hs))

theorem execGangPropose_canon {gang : Nat} (hs : s.Canon) : NextCanon (execGangPropose gang s) := by
  unfold execGangPropose
  refine .next ?_
  split
  exacts [hs, .ite hs (.foldl (fun _ _ hs' => .sendTo hs') (.upd hs))]

theorem execAccept_canon {gang gindex tt : Nat} (hs : s.Canon) : NextCanon (execAccept gang gindex tt s) := by
  unfold execAccept
  exact .next (.ite hs (.upd (.heardMember hs)))

theorem execRefuse_canon {gang gindex tt : Nat} (hs : s.Canon) : NextCanon (execRefuse gang gindex tt s) := by
  unfold execRefuse
  exact .next (.ite hs (.upd (.heardMember hs)))

theorem State.Canon.gangMiss {r : Gang} {tt : Nat} (hs : s.Canon) : (s.gangMiss r tt).Canon := by
  unfold State.gangMiss
  exact .ite (.foldl (fun _ _ hs' => .sendTo hs') (.upd (.foldl (fun _ _ hs' => .sendTo hs') hs)))
    (.upd (.foldl (fun _ _ hs' => .sendTo hs') hs))

theorem State.Canon.gangMissed {gang tt count : Nat} {ms : List Nat} (hs : s.Canon) : (s.gangMissed gang tt count ms).Canon := by
  unfold State.gangMissed
  split
  exacts [.record hs, hs]

theorem execAcceptDeadline_canon {gang : Nat} (hs : s.Canon) : NextCanon (execAcceptDeadline gang s) := by
  unfold execAcceptDeadline
  refine .next ?_
  split
  · exact hs
  · split
    exacts [hs, .ite hs (.ite (.foldl (fun _ _ hs' => .sendTo hs') (.upd hs)) (.ite hs (.gangMiss hs)))]

theorem execStarted_canon {gang gindex tt : Nat} (hs : s.Canon) : NextCanon (execStarted gang gindex tt s) := by
  unfold execStarted
  refine .next (.ite hs ?_)
  split
  exacts [.modMember (.upd (.heardMember hs)), .upd (.heardMember hs)]

theorem execStartedTimeout_canon {gang : Nat} (hs : s.Canon) : NextCanon (execStartedTimeout gang s) := by
  unfold execStartedTimeout
  refine .next ?_
  split
  · exact hs
  · split
    exacts [hs, .ite hs (.foldl (fun _ _ hs' => .sendGang hs') (.upd hs))]

theorem execPrepare_canon {gang tt : Nat} (hs : s.Canon) : NextCanon (execPrepare gang tt s) := by
  unfold execPrepare
  refine .next ?_
  split
  · split
    exacts [.toCoord (.heardCoord hs), .heardCoord hs]
  · split
    exacts [.heardCoord hs, .ite (.toCoord (.modMember (.heardCoord hs))) (.toCoord (.heardCoord hs))]

theorem State.Canon.releaseMember {b : Nat} (hs : s.Canon) : (s.releaseMember b).Canon :=
  .modMember hs

theorem State.Canon.noteAbort {gang tt : Nat} (hs : s.Canon) : (s.noteAbort gang tt).Canon := by
  unfold State.noteAbort
  exact .ite hs (.ite (.upd hs) (.upd (.upd (.upd hs))))

theorem execCommit_canon {gang tt : Nat} {devices : List Nat} (hs : s.Canon) : NextCanon (execCommit gang tt devices s) := by
  unfold execCommit
  refine .next ?_
  split
  · split
    exacts [.sendGang (.upd (.upd (.heardCoord hs))), .upd (.heardCoord hs)]
  · dsimp only
    split
    · exact .upd (.heardCoord hs)
    · exact .ite (.upd (.heardCoord hs))
        (.ite (.ite (.wakeCore (.notePeers (.modMember (.upd (.heardCoord hs)))))
        (.notePeers (.modMember (.upd (.heardCoord hs))))) (.killMember (.upd (.heardCoord hs))))

theorem execAbort_canon {gang tt : Nat} (hs : s.Canon) : NextCanon (execAbort gang tt s) := by
  unfold execAbort
  refine .next ?_
  split
  · split
    exacts [.sayReady (.heardCoord hs), .heardCoord hs]
  · dsimp only
    split
    · exact .noteAbort (.heardCoord hs)
    · exact .ite (.modMember (.releaseMember (.noteAbort (.heardCoord hs)))) (.noteAbort (.heardCoord hs))

theorem State.Canon.startMember {b tt : Nat} (hs : s.Canon) : (s.startMember b tt).Canon := by
  unfold State.startMember
  extract_lets x s1 armed
  have h1 : s1.Canon := .foldl (fun _ _ hs' => .ite hs' (.startBlock hs')) hs
  have harmed : armed.Canon := .ite (.ite (.oxPlaced (.oxSample h1)) h1) hs
  split
  · exact hs
  · exact .ite (.killMember hs) (.ite (.completeLaunches harmed) (.notePeers (.sendGang (.upd (.modMember harmed)))))

theorem execGangStartTime_canon {gang tt : Nat} (hs : s.Canon) : NextCanon (execGangStartTime gang tt s) := by
  unfold execGangStartTime
  refine .next ?_
  split
  · exact hs
  · dsimp only
    split
    · exact hs
    · exact .ite hs (.ite (.ite (.ite (.startMember (.wakeCore hs)) (.wakeCore hs)) (.startMember hs))
        (.ite (.releaseMember hs) hs))

theorem execGangWaitLimit_canon {blk : Nat} (hs : s.Canon) : NextCanon (execGangWaitLimit blk s) := by
  unfold execGangWaitLimit
  refine .next ?_
  split
  · exact hs
  · refine .ite hs ?_
    split
    · split
      exacts [.upd hs, hs]
    · exact .ite hs (.foldl (fun _ _ hs' => .requestStop hs') hs)

theorem State.Canon.gangDone {o : GangOp} (hs : s.Canon) : (s.gangDone o).Canon :=
  .upd (.finishFlag hs)

theorem State.Canon.sendGangOp {o : GangOp} (hs : s.Canon) : (s.sendGangOp o).Canon := by
  unfold State.sendGangOp
  dsimp only
  split
  · exact .upd hs
  · split
    · exact .upd (.modMember (.notePeers (.upd hs)))
    · exact .upd (.modMember (.notePeers (.upd hs)))
    · exact .sendGang (.modMember (.ite (.upd (.notePeers (.upd hs))) (.notePeers (.upd hs))))

theorem State.Canon.gangSends (hs : s.Canon) : s.gangSends.Canon := by
  unfold State.gangSends
  exact .foldl (fun _ _ hs' => .ite hs' (.ite hs' (.sendGangOp hs'))) hs

theorem State.Canon.gangPhases (hs : s.Canon) : s.gangPhases.Canon := by
  unfold State.gangPhases
  refine .foldl (fun _ _ hs' => ?_) hs
  split
  exacts [.ite (.gangDone (.arriveUni hs')) hs', hs']

theorem State.Canon.settleGang (hs : s.Canon) : s.settleGang.Canon := by
  unfold State.settleGang
  exact .ite hs (.gangPhases (.gangSends hs))

theorem execFordattComplete_canon {blk : Nat} (hs : s.Canon) : NextCanon (execFordattComplete blk s) := by
  unfold execFordattComplete
  refine .next ?_
  split
  · refine .ite (.gangDone (.arriveUni hs)) ?_
    split
    exacts [.gangDone (.arriveUni hs), .ite (.gangDone (.arriveUni (.modMember hs))) hs]
  · exact hs

theorem execForddetComplete_canon {blk : Nat} (hs : s.Canon) : NextCanon (execForddetComplete blk s) := by
  unfold execForddetComplete
  refine .next ?_
  split
  exacts [.gangDone hs, hs]

theorem execAttach_canon {gang gindex len : Nat} (hs : s.Canon) : NextCanon (execAttach gang gindex len s) := by
  unfold execAttach
  refine .next (.ite hs ?_)
  split
  exacts [.modMember (.heardMember hs), .heardMember hs]

theorem execDetach_canon {gang gindex : Nat} (hs : s.Canon) : NextCanon (execDetach gang gindex s) := by
  unfold execDetach
  refine .next (.ite hs ?_)
  split
  exacts [.settleGang (.modMember (.upd (.heardMember hs))), .upd (.heardMember hs)]

theorem State.Canon.endFordOp {o : MemOp} (hs : s.Canon) : (s.endFordOp o).Canon := by
  unfold State.endFordOp
  split
  exacts [.performLoad hs, .performAtom hs, .performAtom hs, hs, .performStore hs]

theorem State.Canon.fordLost {b m : Nat} (hs : s.Canon) : (s.fordLost b m).Canon := by
  unfold State.fordLost
  exact .upd (.foldl (fun _ _ hs' => .endFordOp hs') (.foldl (fun _ _ hs' => .record hs') hs))

theorem State.Canon.markDeparted {b m : Nat} (hs : s.Canon) : (s.markDeparted b m).Canon := by
  unfold State.markDeparted
  exact .settleGang (.foldl (fun _ _ hs' => .fordLost hs') (.modMember hs))

theorem execDepart_canon {gang gindex : Nat} (hs : s.Canon) : NextCanon (execDepart gang gindex s) := by
  unfold execDepart
  extract_lets s1 s2
  have h1 : s1.Canon := .upd hs
  have h2 : s2.Canon := by
    unfold s2
    split
    exacts [.ite h1 (.breakGang h1), h1]
  refine .next ?_
  split
  exacts [.ite h2 (.markDeparted h2), h2]

theorem execGsyncArrival_canon {gang gindex phase : Nat} (hs : s.Canon) : NextCanon (execGsyncArrival gang gindex phase s) := by
  unfold execGsyncArrival
  refine .next (.ite hs ?_)
  split
  exacts [.settleGang (.modMember (.heardMember hs)), .heardMember hs]

theorem State.Canon.stopMember {b cls : Nat} (hs : s.Canon) : (s.stopMember b cls).Canon := by
  unfold State.stopMember
  exact .ite hs (.ite (.modMember hs) (.ite (.modBlock (.modMember hs)) (.stopBlocks (.modMember hs))))

theorem State.Canon.stopHere {gang cls : Nat} (hs : s.Canon) : (s.stopHere gang cls).Canon := by
  unfold State.stopHere
  split
  exacts [.stopMember hs, .sayReady (.upd hs), hs]

theorem execGangStopRequest_canon {gang cls : Nat} (hs : s.Canon) : NextCanon (execGangStopRequest gang cls s) := by
  unfold execGangStopRequest
  refine .next ?_
  split
  · exact .ite (.notePeers (.heardCoord hs)) (.stopHere (.upd (.upd (.notePeers (.heardCoord hs)))))
  · exact .stopHere (.notePeers (.heardCoord hs))

theorem gangOf!_keeps {b : Nat} : Keeps State.Canon (gangOf! b) := by
  unfold gangOf!
  refine .bind getB_keeps fun _ => ?_
  split
  exacts [.pure, .stop]

theorem issueGang_keeps {i : Instr} {b : Nat} {ts : List Nat} {kind phase : Nat} {d : UReg} {sent : Bool} :
    Keeps State.Canon (issueGang i b ts kind phase d sent) := by
  unfold issueGang
  exact updS_keeps fun _ hs => .upd (.oxAbandon (.countCommand (.ite hs (.beginRelease hs))))

theorem execFordatt_canon {d : UReg} {f : Bool} (hs : s.Canon) : NextCanon (execFordatt d f s) := by
  unfold execFordatt
  exact uniExec_canon (fun _ _ => uniFall_keeps fun _ _ => .bind gangOf!_keeps fun _ => .bind getS_keeps fun _ => .ite .trap_bind
    issueGang_keeps) hs

theorem execForddet_canon {f : Bool} (hs : s.Canon) : NextCanon (execForddet f s) := by
  unfold execForddet
  exact uniExec_canon (fun _ _ => uniFall_keeps fun _ _ => .bind gangOf!_keeps fun _ => .ite .trap_bind issueGang_keeps) hs

theorem execFordq_canon {d : UReg} (hs : s.Canon) : NextCanon (execFordq d s) := by
  unfold execFordq
  exact uniExec_canon (fun _ _ => uniFall_keeps fun _ _ => .bind gangOf!_keeps fun _ => .bind writeU_keeps fun _ => updS_keeps
    fun _ hs => .oxAbandon hs) hs

theorem execFordqState_canon {d a : UReg} (hs : s.Canon) : NextCanon (execFordqState d a s) := by
  unfold execFordqState
  exact uniExec_canon (fun _ _ => uniFall_keeps fun _ _ => .bind readU_keeps fun _ => .bind gangOf!_keeps fun _ => .bind
    writeU_keeps fun _ => updS_keeps fun _ hs => .oxAbandon hs) hs

theorem execFordqCount_canon {d : UReg} (hs : s.Canon) : NextCanon (execFordqCount d s) := by
  unfold execFordqCount
  exact uniExec_canon (fun _ _ => uniFall_keeps fun _ _ => .bind gangOf!_keeps fun _ => .bind writeU_keeps fun _ => updS_keeps
    fun _ hs => .oxAbandon hs) hs

theorem execGsync_canon {d : UReg} {f : Bool} (hs : s.Canon) : NextCanon (execGsync d f s) := by
  unfold execGsync
  exact uniExec_canon (fun _ _ => uniFall_keeps fun _ _ => .bind gangOf!_keeps fun _ => .bind getS_keeps fun _ => .ite .trap_bind
    issueGang_keeps) hs

theorem State.Canon.gangPeerLost {dev : Nat} (hs : s.Canon) : (s.gangPeerLost dev).Canon := by
  unfold State.gangPeerLost
  refine .foldl (fun s _ hs => ?_) (.foldl (fun _ _ hs' => .foldl (fun _ _ hs'' => .sendGang hs'') hs') hs)
  extract_lets x done _
  split
  · exact hs
  · extract_lets lost s2 h s3
    have h2 : s2.Canon := .foldl (fun _ _ hs' => .markDeparted hs') hs
    have h3 : s3.Canon := .ite (.upd h2) h2
    exact .ite hs (.ite (.killMember hs) (.ite (.sayReady h3) h3))

end Sys2Proof.Machine
end

section
/-! PROOF. Roofwalk, Oxbow, Thatch and the loss of a stack keep memory canonical (18_errors.md R421 to R436). -/

namespace Sys2Proof.Machine

variable {s : State}

theorem State.Canon.killCtx {ctx : Nat} (hs : s.Canon) : (s.killCtx ctx).Canon := by
  unfold State.killCtx
  exact .completeLaunches (.upd (.foldl (fun _ _ hs' => .killOne hs') hs))

theorem State.Canon.haltCore {core : Nat} {kind : SramKind} {bank syndrome addr : Nat} (hs : s.Canon) :
    (s.haltCore core kind bank syndrome addr).Canon := by
  unfold State.haltCore
  exact .completeLaunches (.record (.foldl (fun _ _ hs' => .record hs')
    (.foldl (fun _ _ hs' => .record hs') (.foldl (fun _ _ hs' => .kill hs') (.upd hs)))))

theorem State.Canon.strikeL1 {core : Nat} (hs : s.Canon) : (s.strikeL1 core).Canon := by
  unfold State.strikeL1
  dsimp only
  split
  exacts [.upd hs, .upd hs]

theorem execSramUe_canon {core : Nat} {kind : SramKind} {slot bank syndrome : Nat} (hs : s.Canon) :
    NextCanon (execSramUe core kind slot bank syndrome s) := by
  unfold execSramUe
  refine .next (.ite hs (.ite (.haltCore ?_) (.foldl (fun _ _ hs' => .record (.killCtx hs')) ?_)))
  · split
    exacts [.strikeL1 (.upd hs), .upd hs]
  · split
    exacts [.strikeL1 (.upd hs), .upd hs]

theorem State.Canon.clearLine {pa : Nat} (hs : s.Canon) : (s.clearLine pa).Canon := by
  unfold State.clearLine
  exact .foldl (fun _ _ hs' => .upd (.wr8 hs')) hs

theorem State.Canon.migrationFails {pa : Nat} {r : ErrRec} (hs : s.Canon) : (s.migrationFails pa r).Canon := by
  unfold State.migrationFails
  exact .ite (.record (.upd hs)) hs

theorem State.Canon.discardAll {r : ErrRec} (hs : s.Canon) : (s.discardAll r).Canon := by
  unfold State.discardAll
  exact .foldl (fun _ _ hs' => .record (.killCtx hs')) hs

theorem State.Canon.newHorizon (hs : s.Canon) : s.newHorizon.Canon := by
  unfold State.newHorizon
  dsimp only
  split
  exacts [hs, .ite hs (.upd hs)]

theorem execRoofwalkWalk_canon {cluster : Nat} (hs : s.Canon) : NextCanon (execRoofwalkWalk cluster s) := by
  unfold execRoofwalkWalk
  refine .next (.ite hs (.foldl (fun _ _ hs' => .ite (.releaseMember hs') (.requestStop hs')) ?_))
  split
  · exact .modBlock (.upd (.foldl (fun _ _ hs' => .wakeCore hs') (.upd (.ite hs (.upd hs)))))
  · exact .foldl (fun _ _ hs' => .wakeCore hs') (.upd (.ite hs (.upd hs)))

theorem State.Canon.idleFrom {k : Nat} (hs : s.Canon) : (s.idleFrom k).Canon := by
  unfold State.idleFrom
  exact .foldl (fun _ _ hs' => .upd hs') hs

theorem State.Canon.beginTests (hs : s.Canon) : s.beginTests.Canon := by
  unfold State.beginTests
  refine .foldl (fun _ _ hs' => ?_) hs
  split
  exacts [.ite (.upd hs') hs', hs']

theorem execWalkDrainTimeout_canon {cluster : Nat} (hs : s.Canon) : NextCanon (execWalkDrainTimeout cluster s) := by
  unfold execWalkDrainTimeout
  extract_lets s1 s2
  have h1 : s1.Canon := .upd (.idleFrom hs)
  have h2 : s2.Canon := by
    unfold s2
    split
    exacts [.modBlock h1, h1]
  refine .next ?_
  split
  exacts [.ite hs (.ite (.upd h2) (.upd h2)), hs]

theorem State.Canon.taint {ctx start stop cluster cause image : Nat} (hs : s.Canon) :
    (s.taint ctx start stop cluster cause image).Canon := by
  unfold State.taint
  exact .foldl (fun _ _ hs' => .upd hs') (.upd (.record hs))

theorem State.Canon.clearCluster {k : Nat} (hs : s.Canon) : (s.clearCluster k).Canon := by
  unfold State.clearCluster
  exact .foldl (fun _ _ hs' => .upd hs') (.upd hs)

theorem execPatternTestDone_canon {cluster : Nat} {result : WalkResult} (hs : s.Canon) :
    NextCanon (execPatternTestDone cluster result s) := by
  unfold execPatternTestDone
  refine .next ?_
  split
  · refine .ite hs ?_
    extract_lets k tell done pass s1 s2
    have htell {s' : State} (hs' : s'.Canon) : (tell s').Canon := .foldl (fun _ _ hs'' => .taint hs'') hs'
    have hpass {s' : State} (hs' : s'.Canon) : (pass s').Canon := .newHorizon (.upd hs')
    have hdone : done.Canon := .idleFrom (.clearCluster hs)
    have h1 : s1.Canon := by
      unfold s1
      split
      exacts [hpass hdone, hpass (htell (.upd hdone)), .newHorizon (.upd (htell hdone))]
    have h2 : s2.Canon := by
      unfold s2
      split
      exacts [.restartWalker h1, h1]
    exact .ite (.upd h2) h2
  · exact hs

theorem State.Canon.endRun {r : OxRun} (hs : s.Canon) : (s.endRun r).Canon :=
  .upd (.upd hs)

theorem execOxbowCompare_canon {run : Nat} (hs : s.Canon) : NextCanon (execOxbowCompare run s) := by
  unfold execOxbowCompare
  refine .next ?_
  split
  · exact hs
  · refine .ite (.endRun hs) (.ite hs (.ite (.endRun hs) ?_))
    split
    exacts [hs, .ite hs (.upd (.queueCopy hs))]

theorem execOxbowThirdRun_canon {run : Nat} (hs : s.Canon) : NextCanon (execOxbowThirdRun run s) := by
  unfold execOxbowThirdRun
  refine .next ?_
  split
  · exact hs
  · split
    · exact hs
    · exact .ite (.endRun hs)
        (.ite hs (.ite (.endRun (.upd hs))
        (.ite (.endRun (.upd (.taint hs))) (.endRun (.killCtx (.newHorizon (.upd (.upd (.record hs)))))))))

theorem execParityUpdate_canon {stripe : Nat} (hs : s.Canon) : NextCanon (execParityUpdate stripe s) := by
  unfold execParityUpdate
  refine .next ?_
  split
  exacts [hs, .upd hs]

/-- A stack is lost: bytes of LOST stripes become zero, which leaves them out of the list. -/
theorem State.Canon.degrade {stack : Nat} (hs : s.Canon) : (s.degrade stack).Canon := by
  unfold State.degrade
  exact .foldl (fun _ _ hs' => .record hs')
    (.record (.upd (.foldl (fun _ _ hs' => ⟨Memory.wf_dropRange hs'.wf _ _⟩) hs)))

theorem execStackLoss_canon {stack : Nat} (hs : s.Canon) : NextCanon (execStackLoss stack s) := by
  unfold execStackLoss
  refine .next (.ite hs ?_)
  split
  exacts [.degrade hs, .ite hs (.record (.discardAll (.upd hs)))]

theorem execParityRewriteDone_canon {stripe : Nat} (hs : s.Canon) : NextCanon (execParityRewriteDone stripe s) :=
  .next (.upd hs)

theorem State.Canon.rebuildOn (hs : s.Canon) : s.rebuildOn.Canon := by
  unfold State.rebuildOn
  exact .ite (.upd hs) hs

theorem execThatchRebuildDone_canon (hs : s.Canon) : NextCanon (execThatchRebuildDone s) := by
  unfold execThatchRebuildDone
  exact .next (.ite (.upd hs) hs)

theorem execSoftError_canon {core : Nat} {target : SoftTarget} (hs : s.Canon) : NextCanon (execSoftError core target s) := by
  unfold execSoftError
  refine .next ?_
  split
  exacts [.upd (.upd hs), .upd (.upd hs), .ite (.modThread (.upd hs)) hs, .upd hs]

end Sys2Proof.Machine
end

section
/-! PROOF. Links, power, management commands and package reset keep memory canonical (19_outside.md R438 to R451). -/

namespace Sys2Proof.Machine

variable {s : State}

theorem execCoreGateEntry_canon {core : Nat} (hs : s.Canon) : NextCanon (execCoreGateEntry core s) := by
  unfold execCoreGateEntry
  exact .next (.ite (.upd hs) hs)

theorem execGateCommit_canon {core : Nat} {wake : Bool} (hs : s.Canon) : NextCanon (execGateCommit core wake s) := by
  unfold execGateCommit
  refine .next ?_
  split
  exacts [.ite hs (.upd hs), hs]

theorem execPowerUpComplete_canon {core : Nat} (hs : s.Canon) : NextCanon (execPowerUpComplete core s) := by
  unfold execPowerUpComplete
  exact .next (.ite (.upd hs) hs)

theorem execTimeMessageSend_canon (hs : s.Canon) : NextCanon (execTimeMessageSend s) := by
  unfold execTimeMessageSend
  exact .next (.ite hs (.upd (.upd hs)))

theorem State.Canon.losePeer {peer : Nat} (hs : s.Canon) : (s.losePeer peer).Canon := by
  unfold State.losePeer
  exact .ite hs (.completeLaunches (.gangPeerLost (.upd (.upd hs))))

/-- A message comes, and is performed or waits. -/
theorem State.Canon.take {i : Incoming} {run : Try} (hr : (run s).2.Canon) (hs : s.Canon) : (s.take i run).Canon := by
  unfold State.take
  exact .ite (.upd hs) (.ite hr (.upd hr))

theorem execPeerSilenceTimeout_canon {peer : Nat} (hs : s.Canon) : NextCanon (execPeerSilenceTimeout peer s) := by
  unfold execPeerSilenceTimeout
  exact .next (.ite hs (.losePeer hs))

theorem State.Canon.putMember {x : Block} {off : Nat} {bs : List Byte} (hs : s.Canon) : (s.putMember x off bs).Canon := by
  unfold State.putMember
  exact .ite (.foldl (fun _ _ hs' => .poisonPad (.setPadByte hs')) hs) (.wrHome hs)

theorem State.fordAccess_onOk {b off : Nat} {a : PeerAccess} (hs : s.Canon) :
    OnOk (fun r => ∀ q ∈ r, q.2.Canon) (s.fordAccess b off a) := by
  have refused : OnOk (ε := EngWait) (fun r => ∀ q ∈ r, q.2.Canon) (.ok (none : Option (List Byte × State))) := .ok (by simp)
  unfold State.fordAccess
  extract_lets x n ts
  refine .ite refused ?_
  split
  · exact .ite refused .error
  · exact .error
  · exact .error
  · exact refused
  · have h1 := (State.fillUnits_onOk hs).get ‹_›
    refine .ok fun q hq => ?_
    cases hq
    split
    · exact .define h1
    · exact .putMember h1
    · exact .putMember h1
    · exact .putMember (.define h1)
    · exact .ite (.putMember (.define h1)) (.define h1)

theorem genericAccess_keeps {ea : DWord} {a : PeerAccess} : Keeps Eng.Canon (genericAccess ea a) := by
  unfold genericAccess
  split
  · exact readBytes_keeps
  · exact .bind doneWrite_keeps fun _ => .pure
  · exact .bind doneWrite_keeps fun _ => .pure
  all_goals exact .bind readBytes_keeps fun _ => .bind getE_keeps fun _ => .ite (.bind doneWrite_keeps fun _ => .pure) .pure

theorem takeAccess_canon {peer : Nat} {target : PeerTarget} {access : PeerAccess} (hs : s.Canon) :
    (takeAccess peer target access s).2.Canon := by
  unfold takeAccess
  dsimp only
  split
  · split
    · exact .upd hs
    · split
      · exact .readHold hs
      · exact .upd (.upd hs)
      · exact .upd (.upd (.upd ((State.fordAccess_onOk hs).get ‹_› _ rfl)))
  · split
    · exact .upd hs
    · split
      · exact .readHold hs
      · have hg := genericAccess_keeps.ok (State.schedRun_state hs) ‹_›
        split
        · exact .upd (.upd hs)
        · exact .upd (.upd (.upd (.upd (.upd hg.state))))

theorem execUalinkAccessRx_canon {peer : Nat} {target : PeerTarget} {access : PeerAccess} (hs : s.Canon) :
    NextCanon (execUalinkAccessRx peer target access s) :=
  .next (.ite hs (.take (takeAccess_canon (.upd hs)) (.upd hs)))

theorem collApply_keeps {op : AtomOp} {n : Nat} {ea : DWord} {data : List Byte} : Keeps Eng.Canon (collApply op n ea data) := by
  unfold collApply
  refine .bind (.forM fun _ => .bind getE_keeps fun _ => .ite (.bind engTgt_keeps fun _ => ?_) .pure) fun _ => .forM
    fun _ => .bind getE_keeps fun _ => .ite (.bind readBytes_keeps fun _ => .bind getE_keeps fun _ => .ite
    (.forM fun _ => writeE_keeps) .pure) .pure
  split
  exacts [failE_keeps, .pure]

theorem takeColl_canon {sender ctx step op : Nat} {ea : DWord} {data : List Byte} (hs : s.Canon) :
    (takeColl sender ctx step op ea data s).2.Canon := by
  unfold takeColl
  dsimp only
  split
  · exact .upd (.upd hs)
  · split
    · exact .upd (.upd hs)
    · split
      · exact .upd (.upd hs)
      · split
        · exact .readHold hs
        · have hg := collApply_keeps.ok (State.schedRun_state hs) ‹_›
          split
          · exact .upd (.upd (.upd hs))
          · exact .upd (.upd (.upd (.upd (.upd (.upd hg.state)))))

theorem execCollStepRx_canon {sender ctx step op : Nat} {ea : DWord} {data : List Byte} (hs : s.Canon) :
    NextCanon (execCollStepRx sender ctx step op ea data s) :=
  .next (.ite hs (.take (takeColl_canon (.upd hs)) (.upd hs)))

theorem State.Canon.dropSession {session : Nat} (hs : s.Canon) : (s.dropSession session).Canon :=
  .upd (.upd hs)

theorem State.Canon.reply {session status : Nat} {data : List Byte} (hs : s.Canon) : (s.reply session status data).Canon :=
  .upd (.upd hs)

theorem execSilazResendTimeout_canon {session seq : Nat} (hs : s.Canon) : NextCanon (execSilazResendTimeout session seq s) := by
  unfold execSilazResendTimeout
  refine .next ?_
  split
  exacts [hs, .ite hs (.ite (.dropSession hs) (.upd (.upd hs)))]

theorem State.Canon.hostWrite {addr : Nat} {data : List Byte} (hs : s.Canon) : (s.hostWrite addr data).Canon := by
  unfold State.hostWrite
  exact .upd (.upd (.foldl (fun _ _ hs' => .setHomeByte hs') hs))

theorem takeRange_canon {addr n : Nat} {f : State → State} (hf : (f s).Canon) (hs : s.Canon) :
    (takeRange addr n f s).2.Canon := by
  unfold takeRange
  split
  exacts [.upd hs, hf]

theorem takeMemwr_canon {session addr : Nat} {data : List Byte} (hs : s.Canon) : (takeMemwr session addr data s).2.Canon := by
  unfold takeMemwr
  split
  exacts [takeRange_canon (.reply (.hostWrite hs)) hs, .reply hs]

theorem takeMemrd_canon {session addr len : Nat} (hs : s.Canon) : (takeMemrd session addr len s).2.Canon := by
  unfold takeMemrd
  split
  exacts [takeRange_canon (.reply hs) hs, .reply hs]

theorem execMemwr_canon {session addr : Nat} {data : List Byte} (hs : s.Canon) : NextCanon (execMemwr session addr data s) :=
  .next (.ite (.take (takeMemwr_canon hs) hs) hs)

theorem execMemrd_canon {session addr len : Nat} (hs : s.Canon) : NextCanon (execMemrd session addr len s) :=
  .next (.ite (.take (takeMemrd_canon hs) hs) hs)

theorem execSubmit_canon {q : SessionQueue} {tail : Nat} (hs : s.Canon) : NextCanon (execSubmit q tail s) :=
  .next (.ite (.take (.submit (.upd hs)) hs) hs)

theorem State.Canon.setWalkEntry {v : DWord} (hs : s.Canon) : (s.setWalkEntry v).Canon := by
  unfold State.setWalkEntry
  exact .ite (.upd hs) (.upd (.foldl (fun _ _ hs' => .upd hs') (.upd hs)))

theorem State.Canon.setRwctl {v : Word} (hs : s.Canon) : (s.setRwctl v).Canon := by
  unfold State.setRwctl
  exact .ite (.newHorizon (.upd (.ite (.upd (.upd hs)) (.upd hs)))) (.ite (.upd (.upd hs)) (.upd hs))

theorem State.Canon.setPcap {v : Word} (hs : s.Canon) : (s.setPcap v).Canon :=
  .upd (.upd hs)

theorem State.Canon.setFutReg {num : Nat} {v : DWord} (hs : s.Canon) : (s.setFutReg num v).Canon := by
  unfold State.setFutReg
  exact .ite hs (.upd hs)

theorem cmdEnds_canon {r : Nat} (hs : s.Canon) : (cmdEnds r s).1.Canon :=
  hs

theorem cmdOpenSession_canon {p : Nat} (hs : s.Canon) : (cmdOpenSession p s).1.Canon := by
  unfold cmdOpenSession
  split
  · exact hs
  · split
    exacts [hs, .upd hs]

theorem cmdCloseSession_canon {p : Nat} (hs : s.Canon) : (cmdCloseSession p s).1.Canon := by
  unfold cmdCloseSession
  split
  exacts [hs, .dropSession hs]

theorem cmdMigDemote_canon {p : Nat} (hs : s.Canon) : (cmdMigDemote p s).1.Canon := by
  unfold cmdMigDemote
  dsimp only
  split
  exacts [hs, .upd (.upd hs)]

theorem State.Canon.noPage {page : Nat} (hs : s.Canon) : (s.noPage page).Canon :=
  .record (.upd hs)

/-- MIG_PROMOTE: the frame lies inside device memory, and the page's bytes are stored there one by one. -/
theorem cmdMigPromote_canon {p : Nat} (hs : s.Canon) : (cmdMigPromote p s).1.Canon := by
  unfold cmdMigPromote
  dsimp only
  split
  · exact hs
  case isFalse hfit =>
    have hframe : s.cmdArg 1 + sizeBytes p ≤ devSize := by
      simp only [Bool.or_eq_true, decide_eq_true_eq, not_or, Nat.not_lt] at hfit
      exact hfit.1.2
    split
    · split
      · exact cmdEnds_canon (.noPage hs)
      · exact ⟨Memory.wf_putRange (Memory.wf_dropRange hs.wf _ _) hframe⟩
    · exact cmdEnds_canon (.noPage hs)

theorem cmdTlbInval_canon {p : Nat} (hs : s.Canon) : (cmdTlbInval p s).1.Canon := by
  unfold cmdTlbInval
  dsimp only
  split
  exacts [hs, .upd (.dropTlbs hs)]

theorem cmdReplay_canon {p : Nat} (hs : s.Canon) : (cmdReplay p s).1.Canon := by
  unfold cmdReplay
  dsimp only
  split
  exacts [hs, .replayRange hs]

theorem cmdCtxKill_canon {p : Nat} (hs : s.Canon) : (cmdCtxKill p s).1.Canon :=
  .killCtx hs

theorem cmdKeyLoad_canon {p : Nat} (hs : s.Canon) : (cmdKeyLoad p s).1.Canon := by
  unfold cmdKeyLoad
  dsimp only
  split
  · exact hs
  · split
    exacts [hs, .upd hs]

theorem cmdCoreReset_canon {p : Nat} (hs : s.Canon) : (cmdCoreReset p s).1.Canon := by
  unfold cmdCoreReset
  split
  exacts [hs, .wakeCore (.upd hs)]

theorem cmdClusterReadmit_canon {p : Nat} (hs : s.Canon) : (cmdClusterReadmit p s).1.Canon := by
  unfold cmdClusterReadmit
  split
  exacts [hs, hs]

theorem cmdPeerLost_canon {p : Nat} (hs : s.Canon) : (cmdPeerLost p s).1.Canon := by
  unfold cmdPeerLost
  split
  exacts [hs, .losePeer hs]

theorem cmdThatchRebuild_canon {p : Nat} (hs : s.Canon) : (cmdThatchRebuild p s).1.Canon := by
  unfold cmdThatchRebuild
  split
  · exact hs
  · split
    exacts [.upd hs, hs]

theorem cmdMrRegister_canon {p : Nat} (hs : s.Canon) : (cmdMrRegister p s).1.Canon := by
  unfold cmdMrRegister
  dsimp only
  split
  exacts [hs, .upd hs]

theorem cmdQpRing_canon {p : Nat} (hs : s.Canon) : (cmdQpRing p s).1.Canon := by
  unfold cmdQpRing
  dsimp only
  split
  exacts [hs, .upd hs]

theorem cmdOf_canon {code p : Nat} (hs : s.Canon) : (cmdOf code p s).1.Canon := by
  unfold cmdOf
  split
  exacts [cmdOpenSession_canon hs, cmdCloseSession_canon hs, cmdMigDemote_canon hs, cmdMigPromote_canon hs, cmdTlbInval_canon hs,
    cmdReplay_canon hs, cmdCtxKill_canon hs, cmdKeyLoad_canon hs, cmdCoreReset_canon hs, cmdClusterReadmit_canon hs,
    cmdPeerLost_canon hs, cmdThatchRebuild_canon hs, cmdMrRegister_canon hs, cmdQpRing_canon hs, hs]

theorem State.Canon.command {code p : Nat} {run : Cmd} (hr : ∀ t, t.Canon → (run t).1.Canon) (hs : s.Canon) :
    (s.command code p run).Canon := by
  unfold State.command
  exact .ite hs (.upd (hr _ (.upd hs)))

theorem State.mgmtCommand_canon {code p : Nat} {run : Cmd} (hr : ∀ t, t.Canon → (run t).1.Canon) (hs : s.Canon) :
    NextCanon (s.mgmtCommand code p run) :=
  .next (.ite (.reply (.command hr hs)) hs)

theorem execMgmtCmdComplete_canon (hs : s.Canon) : NextCanon (execMgmtCmdComplete s) := by
  unfold execMgmtCmdComplete
  refine .next (.ite hs ?_)
  split
  exacts [.upd hs, .ite (.upd (.upd hs)) hs]

theorem State.mgmtStore_canon {num : Nat} {v : DWord} {s' : State} (hs : s.Canon) (h : s.mgmtStore num v = some s') :
    s'.Canon := by
  unfold State.mgmtStore at h
  split at h
  case h_8 => cases h; exact .setWalkEntry hs
  case h_9 | h_10 | h_11 | h_12 => cases h; exact .setFutReg hs
  case h_19 => cases h; exact .setPcap hs
  case h_22 => cases h; exact .setRwctl hs
  case h_25 => cases h; exact .command (fun _ hs' => cmdOf_canon hs') hs
  case h_30 =>
    split at h
    · split at h
      · cases h
      · cases h
        exact .upd hs
    · cases h
  all_goals
    cases h
    exact .upd hs

theorem State.Canon.mgmtWake {num : Nat} (hs : s.Canon) : (s.mgmtWake num).Canon := by
  unfold State.mgmtWake
  split
  exacts [.wakeCore hs, hs]

theorem State.mgmtAnswer_canon {num : Nat} {v : DWord} (hs : s.Canon) : NextCanon (s.mgmtAnswer num v) := by
  unfold State.mgmtAnswer
  refine .next (.ite hs ?_)
  split
  exacts [.reply (.mgmtWake (State.mgmtStore_canon hs ‹_›)), .reply hs]

theorem execRwctlWrite_canon {value : Word} (hs : s.Canon) : NextCanon (execRwctlWrite value s) :=
  State.mgmtAnswer_canon hs

theorem execPcapWrite_canon {value : Word} (hs : s.Canon) : NextCanon (execPcapWrite value s) :=
  State.mgmtAnswer_canon hs

theorem execFutureConfigWrite_canon {num : Nat} {value : DWord} (hs : s.Canon) : NextCanon (execFutureConfigWrite num value s) :=
  State.mgmtAnswer_canon hs

theorem State.mgmtAsk_canon {num : Nat} (hs : s.Canon) : NextCanon (s.mgmtAsk num) := by
  unfold State.mgmtAsk
  refine .next (.ite hs ?_)
  split
  exacts [.reply (.mgmtWake hs), .reply hs]

theorem execMgmtWrite_canon {num : Nat} {value : Option DWord} (hs : s.Canon) : NextCanon (execMgmtWrite num value s) := by
  unfold execMgmtWrite
  split
  exacts [State.mgmtAnswer_canon hs, State.mgmtAsk_canon hs]

theorem takeRdmaWrite_canon {qp region : Nat} {key : Word} {addr : Nat} {data : List Byte} (hs : s.Canon) :
    (takeRdmaWrite qp region key addr data s).2.Canon := by
  unfold takeRdmaWrite
  split
  exacts [.upd hs, takeRange_canon (.upd (.hostWrite hs)) hs]

theorem takeRdmaRead_canon {qp region : Nat} {key : Word} {addr len : Nat} (hs : s.Canon) :
    (takeRdmaRead qp region key addr len s).2.Canon := by
  unfold takeRdmaRead
  split
  exacts [.upd hs, takeRange_canon (.upd hs) hs]

theorem takeSend_canon {qp : Nat} {data : List Byte} (hs : s.Canon) : (takeSend qp data s).2.Canon := by
  unfold takeSend
  split
  · exact .upd hs
  · split
    exacts [.upd hs, takeRange_canon (.upd (.upd (.hostWrite hs))) hs]

theorem execRdmaWrite_canon {qp region : Nat} {key : Word} {addr : Nat} {data : List Byte} (hs : s.Canon) :
    NextCanon (execRdmaWrite qp region key addr data s) :=
  .next (.ite (.take (takeRdmaWrite_canon hs) hs) hs)

theorem execRdmaRead_canon {qp region : Nat} {key : Word} {addr len : Nat} (hs : s.Canon) :
    NextCanon (execRdmaRead qp region key addr len s) :=
  .next (.ite (.take (takeRdmaRead_canon hs) hs) hs)

theorem execSend_canon {qp : Nat} {data : List Byte} (hs : s.Canon) : NextCanon (execSend qp data s) :=
  .next (.ite (.take (takeSend_canon hs) hs) hs)

theorem takeAgain_canon {i : Incoming} (hs : s.Canon) : (takeAgain i s).2.Canon := by
  cases i with
  | memwr => exact takeMemwr_canon hs
  | memrd => exact takeMemrd_canon hs
  | submit => exact .submit (.upd hs)
  | rdmaWrite => exact takeRdmaWrite_canon hs
  | rdmaRead => exact takeRdmaRead_canon hs
  | send => exact takeSend_canon hs
  | access => exact takeAccess_canon hs
  | coll => exact takeColl_canon hs

theorem State.Canon.retryInbox (hs : s.Canon) : s.retryInbox.Canon := by
  unfold State.retryInbox
  refine List.foldlRecOn (motive := fun p : Bool × State × List (Nat × Nat) => p.2.1.Canon) _ _ hs fun p hp i _ => ?_
  split
  · exact hp
  · exact .ite (.upd (takeAgain_canon hp)) (takeAgain_canon hp)

theorem State.Canon.spdmFree {request : Nat} (hs : s.Canon) : (s.spdmFree request).Canon :=
  .upd (.upd (.upd hs))

theorem execFinish_canon {mac : Nat} (hs : s.Canon) : NextCanon (execFinish mac s) := by
  unfold execFinish
  refine .next ?_
  split
  exacts [.upd (.upd hs), .ite (.spdmFree (.upd (.upd hs))) (.upd (.upd (.upd hs)))]

theorem State.Canon.fieldTest {n : Nat} (hs : s.Canon) : (s.fieldTest n).Canon := by
  unfold State.fieldTest
  exact .foldl (fun _ _ hs' => .upd hs') hs

theorem State.Canon.reset : State.reset.Canon :=
  ⟨rfl⟩

theorem execPackageReset_canon : NextCanon (execPackageReset s) := by
  have start : (if 1 ≤ Config.startUp s.fresh % 7 ∧ Config.startUp s.fresh % 7 ≤ 5 then
      ({ State.reset with agenda := s.agenda, fresh := s.fresh + 1, thatch := s.thatch.afterReset } : State)
      else State.fieldTest { State.reset with agenda := s.agenda, fresh := s.fresh + 1, thatch := s.thatch.afterReset }
        s.fresh).Canon :=
    .ite (.upd .reset) (.fieldTest (.upd .reset))
  unfold execPackageReset
  exact .next (.ite start (.upd start))

end Sys2Proof.Machine
end

section
/-! PROOF. Barriers and exchanges keep memory canonical (08_teams.md R209 to R229). -/

namespace Sys2Proof.Machine

variable {s : State}

theorem State.Canon.passWait {b t : Nat} (hs : s.Canon) : (s.passWait b t).Canon :=
  .dropLatches (.modThread hs)

theorem checkTeam_keeps {b t n : Nat} : Keeps State.Canon (checkTeam b t n) := by
  unfold checkTeam
  exact .bind getS_keeps fun _ => .ite .stop .pure

theorem State.Canon.releaseBarrier {b n : Nat} (hs : s.Canon) : (s.releaseBarrier b n).Canon := by
  unfold State.releaseBarrier
  refine .modBlock (.foldl (fun _ _ hs' => ?_) hs)
  dsimp only
  split
  exacts [.ite (.acquireFor (.passWait (.modThread hs'))) (.modThread hs'), .modThread hs']

theorem arriveRelease_keeps {b t : Nat} {sc : Scope} : Keeps State.Canon (arriveRelease b t sc) := by
  unfold arriveRelease
  exact .bind (updS_keeps fun _ hs => .beginRelease hs) fun _ => .bind getS_keeps fun _ => .ite .stop .pure

theorem execTbar_canon {n : Fin 8} {scope : Scope} (hs : s.Canon) : NextCanon (execTbar n scope s) := by
  unfold execTbar
  exact laneExec_canon (fun _ _ => .bind checkTeam_keeps fun _ => .bind getT_keeps fun _ => .ite .trap_bind
    (.bind arriveRelease_keeps fun _ => .pure)) hs

theorem execTarrive_canon {n : Fin 8} {scope : Scope} (hs : s.Canon) : NextCanon (execTarrive n scope s) := by
  unfold execTarrive
  exact laneExec_canon (fun _ _ => laneFall_keeps fun _ _ => .bind checkTeam_keeps fun _ => .bind getT_keeps fun _ => .ite
    .trap_bind (.bind arriveRelease_keeps fun _ => .bind updT_keeps fun _ => .bind updB_keeps fun _ => updS_keeps fun _ hs => .ite
    (.releaseBarrier hs) hs)) hs

theorem execTwait_canon {n : Fin 8} {scope : Scope} (hs : s.Canon) : NextCanon (execTwait n scope s) := by
  unfold execTwait
  exact laneExec_canon (fun _ _ => laneFall_keeps fun _ _ => .bind checkTeam_keeps fun _ => .bind getT_keeps fun _ => .ite
    .trap_bind (.ite .trap_bind (.bind getS_keeps fun _ => .ite .trap_bind
    (.bind updT_keeps fun _ => updS_keeps fun _ hs => .acquireFor hs)))) hs

theorem execTleave_canon {n : Fin 8} (hs : s.Canon) : NextCanon (execTleave n s) := by
  unfold execTleave
  exact laneExec_canon (fun _ _ => laneFall_keeps fun _ _ => .bind checkTeam_keeps fun _ => .bind getT_keeps fun _ => .ite
    .trap_bind (.bind updB_keeps fun _ => updS_keeps fun _ hs => .ite (.releaseBarrier hs) hs)) hs

theorem execBarrierRelease_canon {blk team : Nat} (hs : s.Canon) : NextCanon (execBarrierRelease blk team s) := by
  unfold execBarrierRelease
  exact .next (.ite (.releaseBarrier hs) hs)

theorem execReconvRelease_canon {blk team : Nat} (hs : s.Canon) : NextCanon (execReconvRelease blk team s) := by
  unfold execReconvRelease
  exact .next (.ite (.foldl (fun _ _ hs' => .passWait hs') hs) hs)

theorem arriveExchange_keeps {i : Instr} {n form : Nat} {value ctl : Word} {pred : Bool} {b t : Nat} :
    Keeps State.Canon (arriveExchange i n form value ctl pred b t) := by
  unfold arriveExchange
  exact .bind checkTeam_keeps fun _ => .bind getB_keeps fun _ => .ite .trap_bind .pure

theorem arrival_canon {i : Instr} {body : Nat → Nat → M Wait} (hb : ∀ b t, Keeps State.Canon (body b t)) (hs : s.Canon) :
    NextCanon (arrival i body s) :=
  laneExec_canon (fun b t => .bind (hb b t) fun _ => .pure) hs

theorem execTjoin_canon {a : LReg} {n m : Fin 8} (hs : s.Canon) : NextCanon (execTjoin a n m s) := by
  unfold execTjoin
  exact arrival_canon (fun _ _ => .bind checkTeam_keeps fun _ => .bind src_keeps fun _ => arriveExchange_keeps) hs

theorem execShfl_canon {d a b : LReg} (hs : s.Canon) : NextCanon (execShfl d a b s) := by
  unfold execShfl
  exact arrival_canon (fun _ _ => .bind src_keeps fun _ => .bind src_keeps fun _ => arriveExchange_keeps) hs

theorem execTred_canon {d a : LReg} {n : Fin 8} {op : RedOp} (hs : s.Canon) : NextCanon (execTred d a n op s) := by
  unfold execTred
  exact arrival_canon (fun _ _ => .bind checkTeam_keeps fun _ => .bind src_keeps fun _ => arriveExchange_keeps) hs

theorem execTscan_canon {d a : LReg} {n : Fin 8} {excl : Bool} {op : RedOp} (hs : s.Canon) :
    NextCanon (execTscan d a n excl op s) := by
  unfold execTscan
  exact arrival_canon (fun _ _ => .bind checkTeam_keeps fun _ => .bind src_keeps fun _ => arriveExchange_keeps) hs

theorem execMatchT_canon {d a : LReg} {n : Fin 8} (hs : s.Canon) : NextCanon (execMatchT d a n s) := by
  unfold execMatchT
  exact arrival_canon (fun _ _ => .bind checkTeam_keeps fun _ => .bind src_keeps fun _ => arriveExchange_keeps) hs

theorem State.Canon.giveResult {b t : Nat} {q : Result} (hs : s.Canon) : (s.giveResult b t q).Canon := by
  unfold State.giveResult
  refine .passWait ?_
  split
  · refine .ite (.modThread ?_) (.modBlock (.modThread ?_))
    · split
      exacts [.modThread (.clobber hs), hs]
    · split
      exacts [.modThread (.clobber hs), hs]
  · refine .modThread ?_
    split
    exacts [.modThread (.clobber hs), hs]

theorem execExchangeRelease_canon {blk team : Nat} (hs : s.Canon) : NextCanon (execExchangeRelease blk team s) := by
  unfold execExchangeRelease
  exact .next (.ite (.foldl (fun _ _ hs' => .giveResult hs') hs) hs)

theorem State.Canon.trapDead {b n t : Nat} (hs : s.Canon) : (s.trapDead b n t).Canon := by
  unfold State.trapDead
  split
  exacts [.ite (.stopThread (.modThread hs)) hs, hs]

theorem execTeamdead_canon {blk team : Nat} (hs : s.Canon) : NextCanon (execTeamdead blk team s) := by
  unfold execTeamdead
  exact .next (.ite (.foldl (fun _ _ hs' => .trapDead hs') hs) hs)

end Sys2Proof.Machine
end

section
/-! PROOF. The end of waits and the picker keep memory canonical (03_control.md R75 to R78, R96). -/

namespace Sys2Proof.Machine

variable {s : State}

theorem State.Canon.endWaits (hs : s.Canon) : s.endWaits.Canon := by
  unfold State.endWaits
  exact .foldl (fun _ _ hs' => .wake hs') hs

theorem State.Canon.formOne (hs : s.Canon) : s.formOne.Canon := by
  unfold State.formOne
  dsimp only
  split
  exacts [hs, .upd (.foldl (fun _ _ hs' => .modThread hs') hs)]

theorem State.pick_canon {s' : State} (hs : s.Canon) (h : s.pick = some s') : s'.Canon := by
  unfold State.pick at h
  dsimp only at h
  split at h
  · cases h
  · cases h
    exact .upd (.formOne hs)

theorem State.Canon.resumeStep {m : Nat × Nat} (hs : s.Canon) : (s.resumeStep m).Canon := by
  unfold State.resumeStep
  split
  exacts [.modThread hs, .stopThread hs]

end Sys2Proof.Machine
end

section
/-! PROOF. The passing of time keeps memory canonical. -/

namespace Sys2Proof.Machine

variable {s : State}

theorem State.Canon.chargeBlock {b : Nat} (hs : s.Canon) : (s.chargeBlock b).Canon :=
  .upd (.modBlock hs)

theorem State.Canon.chargeChain {c : Chain} (hs : s.Canon) : (s.chargeChain c).Canon := by
  unfold State.chargeChain
  exact .ite hs (.upd hs)

theorem State.Canon.pass (hs : s.Canon) : s.pass.Canon := by
  unfold State.pass
  exact .upd (.foldl (fun _ _ hs' => .chargeChain hs') (.foldl (fun _ _ hs' => .chargeBlock hs') (.upd hs)))

theorem State.Canon.takeDues (hs : s.Canon) : s.takeDues.Canon := by
  unfold State.takeDues
  exact .foldl (fun _ _ hs' => .takeDue hs') hs

theorem State.Canon.tick (hs : s.Canon) : s.tick.Canon := by
  unfold State.tick
  exact .takeDues (.endWaits (.completeLaunches (.rebuildOn (.beginTests (.settleGang (.endReleasing (.pass hs)))))))

end Sys2Proof.Machine
end

section
/-! PROOF. Every step keeps device memory canonical (01_machine.md R20): every instruction and event does, so the package's own
agents, the picker's bundle and the messages of the device to itself do. -/

namespace Sys2Proof.Machine

variable {s : State}

/-! Every instruction and event. -/

/-- Every instruction and event keeps memory canonical. -/
theorem exec_canon {i : Instr} (hs : s.Canon) : NextCanon (exec i s) := by
  cases i with
  | clauseHeader => exact execClauseHeader_canon hs
  | clauseStart | queuePopWake | queuePushWake => exact .next (.ite (.wake hs) hs)
  | bra => exact laneExec_canon (fun _ _ => .bind pcOf_keeps fun _ => branchTo_keeps) hs
  | brp => exact execBrp_canon hs
  | brn => exact execBrn_canon hs
  | brx => exact laneExec_canon (fun _ _ => .bind targetPair_keeps fun _ => branchTo_keeps) hs
  | call => exact laneExec_canon (fun _ _ => .bind pcOf_keeps fun _ => callTo_keeps) hs
  | callx => exact laneExec_canon (fun _ _ => .bind targetPair_keeps fun _ => callTo_keeps) hs
  | ret => exact execRet_canon hs
  | exit => exact laneExec_canon (fun _ _ => exitBody_keeps) hs
  | reconv => exact laneExec_canon (fun _ _ => .bind getS_keeps fun _ => .ite .trap_bind .stop) hs
  | waitf => exact execWaitf_canon hs
  | nop | bkpt => exact laneExec_canon (fun _ _ => .pure) hs
  | mov | neg | negSatI32 | abs | absSatI32 | not | popc | clz | ctz | brev | cvtiI8 | cvtiW8 | cvtiI16 | cvtiW16 | cvtiSatI8 |
    cvtiSatW8 | cvtiSatI16 | cvtiSatW16 | cvtiSatW32 =>
    exact lane1_canon hs
  | cvtiI64 | cvtiW64 => exact lanePair_canon hs
  | cvtiSatI32 => exact execCvtiSatI32_canon hs
  | setv => exact execSetv_canon hs
  | add | sub | mullo | mulhiI32 | mulhiW32 | minI32 | minW32 | maxI32 | maxW32 | and | or | xor | andn | shl | shr | sar | rotl |
    bfx | addI16x2 | subI16x2 | addSatI16x2 | subSatI16x2 | minI16x2 | maxI16x2 | minW16x2 | maxW16x2 =>
    exact lane2_canon hs
  | addc => exact execAddc_canon hs
  | subb => exact execSubb_canon hs
  | mad | fshl | fshr | bfi | prmt | sel | sad | madI16x2 => exact lane3_canon hs
  | setp => exact execSetp_canon hs
  | movi | lit => exact laneExec_canon (fun _ _ => laneFall_keeps fun _ _ => result_keeps) hs
  | lea => exact execLea_canon hs
  | faddF32 | fsubF32 | fmulF32 | faddH2 | fmulH2 | faddB2 | fmulB2 => exact float2_canon hs
  | ffmaF32 => exact execFfmaF32_canon hs
  | frcp | frsq | fsqrt | fexp2 | flog2 | fsin | fcos | frnd => exact float1_canon hs
  | fcvt => exact execFcvt_canon hs
  | fcvti => exact execFcvti_canon hs
  | icvtf => exact execIcvtf_canon hs
  | ffmaH2 => exact execFfmaH2_canon hs
  | ffmaB2 => exact execFfmaB2_canon hs
  | fsubH2 | fsubB2 | fminF32 | fmaxF32 | fminH2 | fmaxH2 | fminB2 | fmaxB2 => exact floatTwoAddr_canon hs
  | dot2H2 => exact execDot2H2_canon hs
  | dot2B2 => exact execDot2B2_canon hs
  | dot4E4m3 => exact execDot4E4m3_canon hs
  | dot4E5m2 => exact execDot4E5m2_canon hs
  | bpx => exact execBpx_canon hs
  | rencI32 => exact execRencI32_canon hs
  | rencI64 => exact execRencI64_canon hs
  | radd => exact execRadd_canon hs
  | rmul => exact execRmul_canon hs
  | rdec => exact execRdec_canon hs
  | rchk => exact execRchk_canon hs
  | ldW8 | ldI8 | ldW16 | ldI16 | ldW32 | ldW64 | ldW128 | ldxW32 | ldxW64 =>
    exact laneExec_canon (fun _ _ => laneFall_keeps fun _ _ => loadBody_keeps) hs
  | stW8 | stW16 | stW32 | stW64 | stW128 => exact laneExec_canon (fun _ _ => laneFall_keeps fun _ _ => storeBody_keeps) hs
  | stm => exact execStm_canon hs
  | ldFeTake | ldFePeek => exact laneExec_canon (fun _ _ => laneFall_keeps fun _ _ => ldFeBody_keeps) hs
  | stFill => exact execStFill_canon hs
  | pref => exact execPref_canon hs
  | smap => exact execSmap_canon hs
  | sunmap => exact execSunmap_canon hs
  | swb => exact execSwb_canon hs
  | sinv => exact execSinv_canon hs
  | acquire => exact laneExec_canon (fun _ _ => .bind getB_keeps fun _ => .ite .pure .stop) hs
  | atom => exact execAtom_canon hs
  | cas => exact execCas_canon hs
  | ldAcq => exact execLdAcq_canon hs
  | stRel => exact execStRel_canon hs
  | fence | fenceDur => exact laneExec_canon (fun _ _ => laneFall_keeps fun _ _ => fenceBody_keeps) hs
  | tjoin => exact execTjoin_canon hs
  | tleave => exact execTleave_canon hs
  | tbar => exact execTbar_canon hs
  | tarrive => exact execTarrive_canon hs
  | twait => exact execTwait_canon hs
  | elect => exact arrival_canon (fun _ _ => arriveExchange_keeps) hs
  | shfl => exact execShfl_canon hs
  | tred => exact execTred_canon hs
  | tscan => exact execTscan_canon hs
  | ballot | vote => exact arrival_canon (fun _ _ => .bind getPred_keeps fun _ => arriveExchange_keeps) hs
  | matchT => exact execMatchT_canon hs
  | sadd | ssub | smul | sand | sor | sxor => exact uni2_canon hs
  | sshl => exact execSshl_canon hs
  | sshr => exact execSshr_canon hs
  | ssar => exact execSsar_canon hs
  | smov => exact execSmov_canon hs
  | smovi | slit => exact uniExec_canon (fun _ _ => uniFall_keeps fun _ _ => writeUW_keeps) hs
  | scmp => exact execScmp_canon hs
  | ssel => exact execSsel_canon hs
  | sld => exact execSld_canon hs
  | sst => exact execSst_canon hs
  | mma | mmaQ | mmaz | mmazQ => exact uniExec_canon (fun _ _ => uniFall_keeps fun _ _ => mmaBody_keeps) hs
  | bld | bldReed | bldConv => exact uniExec_canon (fun _ _ => uniFall_keeps fun _ _ => bldBody_keeps) hs
  | bldClr => exact execBldClr_canon hs
  | oprdy => exact execOprdy_canon hs
  | accld | accq => exact uniExec_canon (fun _ _ => uniFall_keeps fun _ _ => drainBody_keeps) hs
  | accz | acczRows | acczFree => exact uniExec_canon (fun _ _ => uniFall_keeps fun _ _ => acczBody_keeps) hs
  | setrstAddr => exact execSetrstAddr_canon hs
  | setrst => exact execSetrst_canon hs
  | setrstClr => exact uniExec_canon (fun _ _ => uniFall_keeps fun _ _ => updB_keeps) hs
  | copy | conv | gauge | reed | alist | coll => exact engIssue_canon hs
  | ecancel => exact execEcancel_canon hs
  | ecancelAll => exact execEcancelAll_canon hs
  | fspawn => exact execFspawn_canon hs
  | fref => exact execFref_canon hs
  | fdrop => exact execFdrop_canon hs
  | fget | fgetD => exact fget_canon hs
  | fput => exact execFput_canon hs
  | fpoll => exact execFpoll_canon hs
  | fself => exact execFself_canon hs
  | fordatt => exact execFordatt_canon hs
  | forddet => exact execForddet_canon hs
  | fordq => exact execFordq_canon hs
  | fordqState => exact execFordqState_canon hs
  | fordqCount => exact execFordqCount_canon hs
  | gsync => exact execGsync_canon hs
  | hstream => exact execHstream_canon hs
  | hloop => exact execHloop_canon hs
  | hpush => exact execHpush_canon hs
  | hend => exact execHend_canon hs
  | hsyncDrain => exact execHsyncDrain_canon hs
  | hsyncKind => exact execHsyncKind_canon hs
  | yield => exact execYield_canon hs
  | budgetCyc => exact execBudgetCyc_canon hs
  | budgetNrg => exact execBudgetNrg_canon hs
  | budgetCtx => exact execBudgetCtx_canon hs
  | budgetTime => exact execBudgetTime_canon hs
  | launch => exact execLaunch_canon hs
  | trap => exact uniExec_canon (fun _ _ => .pure) hs
  | eret => exact execEret_canon hs
  | csrr => exact execCsrr_canon hs
  | csrrThread => exact execCsrrThread_canon hs
  | csrw => exact execCsrw_canon hs
  | csrwThread => exact execCsrwThread_canon hs
  | tlbfill => exact execTlbfill_canon hs
  | tlbinv => exact execTlbinv_canon hs
  | walkdone => exact execWalkdone_canon hs
  | errpop => exact execErrpop_canon hs
  | hzwait => exact execHzwait_canon hs
  | registerCacheFill => exact execRegisterCacheFill_canon hs
  | acquireGrant => exact execAcquireGrant_canon hs
  | loadCompletion => exact execLoadCompletion_canon hs
  | writePerformed => exact execWritePerformed_canon hs
  | uniformAccessCompletion => exact execUniformAccessCompletion_canon hs
  | ldFeWake => exact execLdFeWake_canon hs
  | fenceDone => exact execFenceDone_canon hs
  | comMergeFlush => exact execComMergeFlush_canon hs
  | specResolve => exact execSpecResolve_canon hs
  | pinLimitBreak => exact execPinLimitBreak_canon hs
  | barrierRelease => exact execBarrierRelease_canon hs
  | reconvRelease => exact execReconvRelease_canon hs
  | exchangeRelease => exact execExchangeRelease_canon hs
  | teamdead => exact execTeamdead_canon hs
  | sequencerStart => exact execSequencerStart_canon hs
  | sequencerDone => exact execSequencerDone_canon hs
  | bLoaderStart => exact execBLoaderStart_canon hs
  | bLoaderDone => exact execBLoaderDone_canon hs
  | reconstructionStart => exact execReconstructionStart_canon hs
  | reconstructionDone => exact execReconstructionDone_canon hs
  | hwStreamAccess => exact execHwStreamAccess_canon hs
  | hwDelivery => exact execHwDelivery_canon hs
  | hwNestDone => exact execHwNestDone_canon hs
  | engineChainStart => exact execEngineChainStart_canon hs
  | engineChainFinish => exact execEngineChainFinish_canon hs
  | collAckTimeout => exact execCollAckTimeout_canon hs
  | collStepRx => exact execCollStepRx_canon hs
  | ualinkAccessRx => exact execUalinkAccessRx_canon hs
  | submit => exact execSubmit_canon hs
  | admissionCheck => exact execAdmissionCheck_canon hs
  | dispatchOpportunity => exact execDispatchOpportunity_canon hs
  | preemptionRequest => exact execPreemptionRequest_canon hs
  | graceExpiry => exact execGraceExpiry_canon hs
  | blockSave => exact execBlockSave_canon hs
  | writeBackDone => exact execWriteBackDone_canon hs
  | exitRelease => exact execExitRelease_canon hs
  | budgetExhausted => exact execBudgetExhausted_canon hs
  | budgetAllowanceExpiry => exact execBudgetAllowanceExpiry_canon hs
  | launchStatus => exact execLaunchStatus_canon hs
  | futureOpComplete => exact execFutureOpComplete_canon hs
  | fgetResolve => exact execFgetResolve_canon hs
  | markDelivery => exact execMarkDelivery_canon hs
  | markGraceExpiry => exact execMarkGraceExpiry_canon hs
  | reclaim => exact execReclaim_canon hs
  | gangJoin => exact execGangJoin_canon hs
  | gangReady => exact execGangReady_canon hs
  | gangPropose => exact execGangPropose_canon hs
  | prepare => exact execPrepare_canon hs
  | accept => exact execAccept_canon hs
  | refuse => exact execRefuse_canon hs
  | acceptDeadline => exact execAcceptDeadline_canon hs
  | commit => exact execCommit_canon hs
  | abort => exact execAbort_canon hs
  | gangStartTime => exact execGangStartTime_canon hs
  | started => exact execStarted_canon hs
  | startedTimeout => exact execStartedTimeout_canon hs
  | gangWaitLimit => exact execGangWaitLimit_canon hs
  | attach => exact execAttach_canon hs
  | detach => exact execDetach_canon hs
  | depart => exact execDepart_canon hs
  | gsyncArrival => exact execGsyncArrival_canon hs
  | gangStopRequest => exact execGangStopRequest_canon hs
  | fordattComplete => exact execFordattComplete_canon hs
  | walkRequest => exact execWalkRequest_canon hs
  | replay => exact .next (.replayRange hs)
  | hzwaitComplete => exact execHzwaitComplete_canon hs
  | roofwalkWalk => exact execRoofwalkWalk_canon hs
  | walkDrainTimeout => exact execWalkDrainTimeout_canon hs
  | patternTestDone => exact execPatternTestDone_canon hs
  | taintNotice => exact .next (.ite hs (.upd (.record (.upd hs))))
  | oxbowCompare => exact execOxbowCompare_canon hs
  | oxbowThirdRun => exact execOxbowThirdRun_canon hs
  | sramUe => exact execSramUe_canon hs
  | l2Ue => exact .next (.migrationFails (.record (.discardAll (.clearLine hs))))
  | hbmUnitUe => exact .next (.ite (.migrationFails hs) (.upd hs))
  | parityUpdate => exact execParityUpdate_canon hs
  | stackLoss => exact execStackLoss_canon hs
  | parityRewriteDone => exact execParityRewriteDone_canon hs
  | thatchRebuildDone => exact execThatchRebuildDone_canon hs
  | coreGateEntry => exact execCoreGateEntry_canon hs
  | gateCommit => exact execGateCommit_canon hs
  | coreWake => exact .next (.ite (.wakeCore hs) hs)
  | powerUpComplete => exact execPowerUpComplete_canon hs
  | timeMessageSend => exact execTimeMessageSend_canon hs
  | timeMessageRx => exact .next (.ite hs (.upd (.upd hs)))
  | peerSilenceTimeout => exact execPeerSilenceTimeout_canon hs
  | silazResendTimeout => exact execSilazResendTimeout_canon hs
  | silazAck | ethFrameDrop | viewCopyDrop => exact .next (.upd hs)
  | memwr => exact execMemwr_canon hs
  | memrd => exact execMemrd_canon hs
  | hostErrpop => exact .next (.ite hs (.reply (.popRecord hs)))
  | hostReplay => exact .next (.ite (.reply (.replayRange hs)) hs)
  | mgmtWrite => exact execMgmtWrite_canon hs
  | rwctlWrite => exact execRwctlWrite_canon hs
  | pcapWrite => exact execPcapWrite_canon hs
  | futureConfigWrite => exact execFutureConfigWrite_canon hs
  | openSession => exact State.mgmtCommand_canon (fun _ hs' => cmdOpenSession_canon hs') hs
  | closeSession => exact State.mgmtCommand_canon (fun _ hs' => cmdCloseSession_canon hs') hs
  | migDemote => exact State.mgmtCommand_canon (fun _ hs' => cmdMigDemote_canon hs') hs
  | migPromote => exact State.mgmtCommand_canon (fun _ hs' => cmdMigPromote_canon hs') hs
  | tlbInval => exact State.mgmtCommand_canon (fun _ hs' => cmdTlbInval_canon hs') hs
  | mgmtReplay => exact State.mgmtCommand_canon (fun _ hs' => cmdReplay_canon hs') hs
  | ctxKill => exact State.mgmtCommand_canon (fun _ hs' => cmdCtxKill_canon hs') hs
  | keyLoad => exact State.mgmtCommand_canon (fun _ hs' => cmdKeyLoad_canon hs') hs
  | coreReset => exact State.mgmtCommand_canon (fun _ hs' => cmdCoreReset_canon hs') hs
  | clusterReadmit => exact State.mgmtCommand_canon (fun _ hs' => cmdClusterReadmit_canon hs') hs
  | peerLost => exact State.mgmtCommand_canon (fun _ hs' => cmdPeerLost_canon hs') hs
  | thatchRebuild => exact State.mgmtCommand_canon (fun _ hs' => cmdThatchRebuild_canon hs') hs
  | mrRegister => exact State.mgmtCommand_canon (fun _ hs' => cmdMrRegister_canon hs') hs
  | qpRing => exact State.mgmtCommand_canon (fun _ hs' => cmdQpRing_canon hs') hs
  | mgmtCmdComplete => exact execMgmtCmdComplete_canon hs
  | rdmaWrite => exact execRdmaWrite_canon hs
  | rdmaRead => exact execRdmaRead_canon hs
  | send => exact execSend_canon hs
  | roceUnsupportedOp | stackHealthy => exact .next (.ite (.upd hs) hs)
  | getVersion | getCapabilities | getDigests | getCertificate | challenge => exact .next (.spdmFree hs)
  | negotiateAlgorithms | getMeasurements => exact .next (.upd (.upd hs))
  | keyExchange => exact .next (.ite (.upd (.upd hs)) (.spdmFree (.upd hs)))
  | finish => exact execFinish_canon hs
  | packageReset => exact execPackageReset_canon
  | instructionFetch => exact execInstructionFetch_canon hs
  | spatialPrefetch => exact .next (.ite (.prefetch hs) hs)
  | softError => exact execSoftError_canon hs
  | forddetComplete => exact execForddetComplete_canon hs
  | tlbinvComplete => exact execTlbinvComplete_canon hs
  | gangConflict => exact execGangConflict_canon hs
  | gangBroken => exact execGangBroken_canon hs

/-! The package's own agents. -/

/-- The outcome of an agent, where it acts, leaves canonical memory. -/
inductive ActCanon : Option (Host.Outcome State Fault Refusal) → Prop
  | none : ActCanon none
  | some {r : Host.Outcome State Fault Refusal} (h : NextCanon r) : ActCanon (some r)

namespace ActCanon
variable {r : Host.Outcome State Fault Refusal} {o : Option (Host.Outcome State Fault Refusal)}

theorem acts (h : NextCanon r) : ActCanon (Machine.acts s r) := by
  unfold Machine.acts
  split
  · split
    exacts [.none, .some h]
  · exact .none

theorem ite {c : Prop} [Decidable c] {o' : Option (Host.Outcome State Fault Refusal)} (h : ActCanon o) (h' : ActCanon o') :
    ActCanon (if c then o else o') := by
  split <;> assumption

theorem orElse {f : Unit → Option (Host.Outcome State Fault Refusal)} (h : ActCanon o) (hf : ActCanon (f ())) :
    ActCanon (o.orElse f) := by
  cases h with
  | none => exact hf
  | some h => exact .some h

theorem findSome? {α : Type} {l : List α} {f : α → Option (Host.Outcome State Fault Refusal)}
    (hf : ∀ a ∈ l, ActCanon (f a)) : ActCanon (l.findSome? f) := by
  cases h : l.findSome? f with
  | none => exact .none
  | some r =>
    obtain ⟨a, ha, e⟩ := List.exists_of_findSome?_eq_some h
    exact e ▸ hf a ha

theorem firstAct {α : Type} {l : List α} {f : α → State → Host.Outcome State Fault Refusal} (hf : ∀ a, NextCanon (f a s)) :
    ActCanon (Machine.firstAct s l f) :=
  .findSome? fun a _ => .acts (hf a)

/-- Who has nothing to do leaves the state as it is. -/
theorem getD (h : ActCanon o) (hs : s.Canon) : NextCanon (o.getD (.next s)) := by
  cases h with
  | none => exact .next hs
  | some h => exact h

end ActCanon

theorem opEvent_canon {o : MemOp} (hs : s.Canon) : NextCanon (opEvent o s) := by
  unfold opEvent
  refine .ite (.next hs) (.ite (execUniformAccessCompletion_canon hs) ?_)
  split
  · exact execLoadCompletion_canon hs
  · exact execLoadCompletion_canon hs
  · exact execSpecResolve_canon hs
  · exact .ite (execComMergeFlush_canon hs) (execWritePerformed_canon hs)

theorem waitEvent_canon {b : Nat} {e : Thread × Nat} (hs : s.Canon) : NextCanon (waitEvent b e s) := by
  unfold waitEvent
  split
  exacts [execRegisterCacheFill_canon hs, execInstructionFetch_canon hs, execTlbinvComplete_canon hs, .next hs]

theorem teamEvent_canon {b : Nat} (hs : s.Canon) : ActCanon (teamEvent b s) :=
  .orElse (.firstAct fun _ => execBarrierRelease_canon hs) <|
  .orElse (.firstAct fun _ => execTeamdead_canon hs) <|
  .orElse (.firstAct fun _ => execReconvRelease_canon hs) <|
  .orElse (.firstAct fun _ => execExchangeRelease_canon hs) <|
  .orElse (.acts (execAcquireGrant_canon hs)) (.firstAct fun _ => waitEvent_canon hs)

theorem sliceEvent_canon {b : Nat} (hs : s.Canon) : ActCanon (sliceEvent b s) :=
  .ite .none <| .orElse (.acts (execHwDelivery_canon hs)) <|
    .orElse (.acts (execHwStreamAccess_canon hs)) (.acts (execHwNestDone_canon hs))

theorem matrixEvent_canon {core : Nat} (hs : s.Canon) : ActCanon (matrixEvent core s) :=
  .orElse (.ite .none (.orElse (.acts (execSequencerDone_canon hs)) (.acts (execSequencerStart_canon hs)))) <|
  .orElse (.ite .none (.orElse (.acts (execBLoaderDone_canon hs)) (.acts (execBLoaderStart_canon hs)))) <|
  .ite .none (.orElse (.acts (execReconstructionDone_canon hs)) (.acts (execReconstructionStart_canon hs)))

theorem chainEvent_canon {c : Chain} (hs : s.Canon) : ActCanon (chainEvent c s) :=
  .orElse (.acts (execEngineChainFinish_canon hs)) <|
  .orElse (.acts (execCollAckTimeout_canon hs)) (.acts (execEngineChainStart_canon hs))

theorem lifeEvent_canon {b : Nat} (hs : s.Canon) : ActCanon (lifeEvent b s) := by
  unfold lifeEvent
  refine .ite .none <|
    .orElse (.acts (execExitRelease_canon hs)) <|
    .orElse (.acts (execBlockSave_canon hs)) <|
    .orElse (.acts (execWriteBackDone_canon hs)) <|
    .orElse (.acts (execGraceExpiry_canon hs)) <|
    .orElse (.acts (execBudgetExhausted_canon hs)) <|
    .orElse (.acts (execBudgetAllowanceExpiry_canon hs)) <|
    .orElse (.acts (execMarkDelivery_canon hs)) <|
    .orElse (.acts (execMarkGraceExpiry_canon hs)) <|
    .orElse (.acts (execReclaim_canon hs)) ?_
  split
  exacts [.ite .none (.acts (.next (.requestStop hs))), .none]

theorem memberEvent_canon {b : Nat} (hs : s.Canon) : ActCanon (memberEvent b s) := by
  unfold memberEvent
  dsimp only
  split
  · exact .none
  · exact .ite .none <|
      .orElse (.ite .none (.acts (execGangJoin_canon hs))) <|
      .orElse (.ite (.acts (execGangReady_canon hs)) .none) <|
      .orElse (.acts (execGangStartTime_canon hs)) <|
      .orElse (.acts (execGangWaitLimit_canon hs)) <|
      .orElse (.acts (execFordattComplete_canon hs)) <|
      .ite (.acts (execForddetComplete_canon hs)) .none

theorem coordEvent_canon {r : Gang} (hs : s.Canon) : ActCanon (coordEvent r s) :=
  .orElse (.acts (execGangPropose_canon hs)) <|
  .orElse (.acts (execAcceptDeadline_canon hs)) (.acts (execStartedTimeout_canon hs))

theorem State.preemptFor_canon (hs : s.Canon) : ActCanon s.preemptFor := by
  unfold State.preemptFor
  split
  · exact .none
  · refine .ite .none ?_
    split
    exacts [.none, .firstAct fun _ => execPreemptionRequest_canon hs]

theorem schedEvent_canon (hs : s.Canon) : ActCanon (schedEvent s) :=
  .orElse (.firstAct fun _ => execAdmissionCheck_canon hs) <|
  .orElse (.firstAct fun _ => execLaunchStatus_canon hs) <|
  .orElse (.firstAct fun _ => execFutureOpComplete_canon hs) <|
  .orElse (.firstAct fun _ => execFgetResolve_canon hs) <|
  .orElse (.acts (.next (.mendTable hs))) <|
  .ite .none (.orElse (.firstAct fun _ => execDispatchOpportunity_canon (.upd hs)) (State.preemptFor_canon hs))

theorem healthEvent_canon (hs : s.Canon) : ActCanon (healthEvent s) :=
  .orElse (.firstAct fun _ => execHzwaitComplete_canon hs) <|
  .orElse (.firstAct fun _ => execRoofwalkWalk_canon hs) <|
  .orElse (.firstAct fun _ => execWalkDrainTimeout_canon hs) <|
  .orElse (.firstAct fun _ => execPatternTestDone_canon hs) <|
  .orElse (.firstAct fun _ => execOxbowCompare_canon hs) <|
  .orElse (.firstAct fun _ => execOxbowThirdRun_canon hs) <|
  .orElse (.firstAct fun _ => execParityRewriteDone_canon hs) <|
  .orElse (.firstAct fun _ => execParityUpdate_canon hs) (.acts (execThatchRebuildDone_canon hs))

theorem outerEvent_canon (hs : s.Canon) : ActCanon (outerEvent s) :=
  .orElse (.acts (.next (.retryInbox hs))) <|
  .orElse (.acts (execMgmtCmdComplete_canon hs)) <|
  .orElse (.firstAct fun _ => execPinLimitBreak_canon hs) <|
  .orElse (.firstAct fun _ => execWalkRequest_canon hs) <|
  .orElse (.acts (execTimeMessageSend_canon hs)) <|
  .orElse (.firstAct fun _ => execSilazResendTimeout_canon hs) <|
  .orElse (.firstAct fun _ => execPeerSilenceTimeout_canon hs) <|
  .orElse (.firstAct fun _ => execPowerUpComplete_canon hs) <|
  .orElse (.firstAct fun _ => execGateCommit_canon hs) (.firstAct fun _ => execCoreGateEntry_canon hs)

theorem agents_canon {f : State → Option (Host.Outcome State Fault Refusal)} (hf : f ∈ agents) (hs : s.Canon) :
    ActCanon (f s) := by
  simp only [agents, List.mem_cons, List.not_mem_nil, or_false] at hf
  obtain rfl | rfl | rfl | rfl | rfl | rfl | rfl | rfl | rfl | rfl | rfl := hf
  · exact .firstAct fun _ => opEvent_canon hs
  · exact .findSome? fun _ _ => teamEvent_canon hs
  · exact .findSome? fun _ _ => sliceEvent_canon hs
  · exact .findSome? fun _ _ => matrixEvent_canon hs
  · exact .findSome? fun _ _ => chainEvent_canon hs
  · exact .findSome? fun _ _ => memberEvent_canon hs
  · exact .findSome? fun _ _ => coordEvent_canon hs
  · exact .findSome? fun _ _ => lifeEvent_canon hs
  · exact schedEvent_canon hs
  · exact healthEvent_canon hs
  · exact outerEvent_canon hs

theorem mem_of_mem_rotateLeft {α : Type} {a : α} {l : List α} {n : Nat} (h : a ∈ l.rotateLeft n) : a ∈ l := by
  unfold List.rotateLeft at h
  dsimp only at h
  split at h
  · exact h
  · exact (List.mem_append.1 h).elim List.mem_of_mem_drop List.mem_of_mem_take

theorem State.internal_canon (hs : s.Canon) : ActCanon s.internal :=
  .findSome? fun _ hf => agents_canon (mem_of_mem_rotateLeft hf) hs

/-! One step. -/

theorem State.receive_canon {m : Msg} (hs : s.Canon) : NextCanon (s.receive m) := by
  unfold State.receive
  split
  · exact execGangJoin_canon hs
  · exact execGangConflict_canon hs
  · exact .next (.noteReady hs)
  · exact execPrepare_canon hs
  · exact execAccept_canon hs
  · exact execRefuse_canon hs
  · exact execCommit_canon hs
  · exact execAbort_canon hs
  · exact execStarted_canon hs
  · exact .next (.gangMissed hs)
  · exact execGangBroken_canon hs
  · exact execAttach_canon hs
  · exact execDetach_canon hs
  · exact execDepart_canon hs
  · exact execGsyncArrival_canon hs
  · exact execGangStopRequest_canon hs
  · exact .next hs

theorem issueBundle_canon (hs : s.Canon) : NextCanon (issueBundle s) := by
  unfold issueBundle
  split
  · exact .next hs
  · split
    · exact exec_canon hs
    · exact .next (.foldl (fun _ _ hs' => .resumeStep hs') hs)
    · exact .next (.foldl (fun _ _ hs' => .ite (.stopAt hs') hs') hs)

theorem State.threads_canon (hs : s.Canon) : ActCanon s.threads := by
  unfold State.threads
  cases h : s.pick with
  | none => exact .none
  | some s' => exact .some (issueBundle_canon (State.pick_canon hs h))

theorem stepInside_canon (hs : s.Canon) : NextCanon (stepInside s) := by
  unfold stepInside
  split
  · exact State.receive_canon (.upd hs)
  · exact .ite (ActCanon.getD (.orElse (State.threads_canon hs) (State.internal_canon hs)) hs)
      (ActCanon.getD (.orElse (State.internal_canon hs) (State.threads_canon hs)) hs)

theorem step_canon (hs : s.Canon) : NextCanon (step s) := by
  unfold step
  split
  · exact stepInside_canon (.tick hs)
  · exact .ite (stepInside_canon (.upd (.tick hs))) (exec_canon (.upd (.tick hs)))

/-- Settles O60: whatever a step does, it changes memory through `State.wr8`, through the loss of a stack, through MIG_PROMOTE
and through a package reset alone, and each of them keeps the canonical form. -/
theorem everyStepKeepsMemoryCanonical : Obligations.EveryStepKeepsMemoryCanonical := by
  unfold Obligations.EveryStepKeepsMemoryCanonical
  intro s s' hwf hstep
  have hs : s.Canon := ⟨hwf⟩
  have hnext := step_canon hs
  rw [hstep] at hnext
  cases hnext with
  | next hs' => exact hs'.wf

end Sys2Proof.Machine
end

section
/-! PROOF. The codes of operands and coded fields name their values both ways (02_encoding.md R34 to R39, R56; 07_ordering.md R185). -/

namespace Sys2Proof

/-! Operand codes (R36, R38). -/

theorem LReg.code_lt (r : LReg) : r.code < 256 := by
  cases r <;> simp only [LReg.code] <;> omega

theorem UReg.code_lt (r : UReg) : r.code < 128 := by
  cases r <;> simp only [UReg.code] <;> omega

theorem LReg.code_ofCode {c : Nat} (h : c < 256) : (LReg.ofCode c).code = c := by
  unfold LReg.ofCode
  split_ifs <;> simp only [LReg.code, Fin.val_ofNat] <;> omega

theorem UReg.code_ofCode {c : Nat} (h : c < 128) : (UReg.ofCode c).code = c := by
  unfold UReg.ofCode
  split_ifs <;> simp only [UReg.code, Fin.val_ofNat] <;> omega

@[simp] theorem LReg.ofCode_code (r : LReg) : LReg.ofCode r.code = r := by
  cases r with
  | x | zero | tid => rfl
  | v n | q n | o n | resv n | s n =>
    simp (disch := omega) only [LReg.code, LReg.ofCode, if_pos, if_neg, Nat.add_sub_cancel_left, Fin.ofNat_val_eq_self]

@[simp] theorem UReg.ofCode_code (r : UReg) : UReg.ofCode r.code = r := by
  cases r with
  | zero => rfl
  | s n | resv n =>
    simp (disch := omega) only [UReg.code, UReg.ofCode, if_pos, if_neg, Nat.add_sub_cancel_left, Fin.ofNat_val_eq_self]

/-! Coded fields whose every code is assigned: both ways. -/

@[simp] theorem Hint.ofCode_code (h : Hint) : Hint.ofCode h.code = h := by cases h <;> rfl
@[simp] theorem Rnd.ofCode_code (r : Rnd) : Rnd.ofCode r.code = r := by cases r <;> rfl
@[simp] theorem IntType.ofCode_code (t : IntType) : IntType.ofCode t.code = t := by cases t <;> rfl
@[simp] theorem SrcInt.ofCode_code (t : SrcInt) : SrcInt.ofCode t.code = t := by cases t <;> rfl
@[simp] theorem AtomOrder.ofCode_code (o : AtomOrder) : AtomOrder.ofCode o.code = o := by cases o <;> rfl

theorem Hint.code_ofCode : ∀ {n}, n < 4 → (Hint.ofCode n).code = n := by decide
theorem Rnd.code_ofCode : ∀ {n}, n < 4 → (Rnd.ofCode n).code = n := by decide
theorem IntType.code_ofCode : ∀ {n}, n < 8 → (IntType.ofCode n).code = n := by decide
theorem SrcInt.code_ofCode : ∀ {n}, n < 4 → (SrcInt.ofCode n).code = n := by decide
theorem AtomOrder.code_ofCode : ∀ {n}, n < 4 → (AtomOrder.ofCode n).code = n := by decide

theorem Hint.code_lt (h : Hint) : h.code < 4 := by cases h <;> decide
theorem Rnd.code_lt (r : Rnd) : r.code < 4 := by cases r <;> decide
theorem IntType.code_lt (t : IntType) : t.code < 8 := by cases t <;> decide
theorem SrcInt.code_lt (t : SrcInt) : t.code < 4 := by cases t <;> decide
theorem AtomOrder.code_lt (o : AtomOrder) : o.code < 4 := by cases o <;> decide

/-! Coded fields with unassigned codes. -/

/-- The codes of a field name its values, one code for each value, all of them below a bound. -/
structure IsCoding {α : Type} (code : α → Nat) (ofCode : Nat → Option α) (bound : Nat) : Prop where
  ofCode_code : ∀ a, ofCode (code a) = some a
  code_ofCode : ∀ n a, ofCode n = some a → n = code a
  code_lt : ∀ a, code a < bound

theorem IsCoding.iff {α : Type} {code : α → Nat} {ofCode : Nat → Option α} {bound : Nat} (h : IsCoding code ofCode bound)
    {n : Nat} {a : α} : ofCode n = some a ↔ n = code a :=
  ⟨h.code_ofCode n a, fun e => e ▸ h.ofCode_code a⟩

theorem Scope.isCoding : IsCoding Scope.code Scope.ofCode 5 where
  ofCode_code a := by cases a <;> rfl
  code_ofCode n a h := by unfold Scope.ofCode at h; split at h <;> cases h <;> rfl
  code_lt a := by cases a <;> decide

theorem Width.isCoding : IsCoding Width.code Width.ofCode 2 where
  ofCode_code a := by cases a <;> rfl
  code_ofCode n a h := by unfold Width.ofCode at h; split at h <;> cases h <;> rfl
  code_lt a := by cases a <;> decide

theorem Cond.isCoding : IsCoding Cond.code Cond.ofCode 27 where
  ofCode_code a := by cases a <;> rfl
  code_ofCode n a h := by unfold Cond.ofCode at h; split at h <;> cases h <;> rfl
  code_lt a := by cases a <;> decide

theorem SCond.isCoding : IsCoding SCond.code SCond.ofCode 12 where
  ofCode_code a := by cases a <;> rfl
  code_ofCode n a h := by unfold SCond.ofCode at h; split at h <;> cases h <;> rfl
  code_lt a := by cases a <;> decide

theorem USize.isCoding : IsCoding USize.code USize.ofCode 6 where
  ofCode_code a := by cases a <;> rfl
  code_ofCode n a h := by unfold USize.ofCode at h; split at h <;> cases h <;> rfl
  code_lt a := by cases a <;> decide

theorem CvtKind.isCoding : IsCoding CvtKind.code CvtKind.ofCode 11 where
  ofCode_code a := by cases a <;> rfl
  code_ofCode n a h := by unfold CvtKind.ofCode at h; split at h <;> cases h <;> rfl
  code_lt a := by cases a <;> decide

theorem RedOp.isCoding : IsCoding RedOp.code RedOp.ofCode 12 where
  ofCode_code a := by cases a <;> rfl
  code_ofCode n a h := by unfold RedOp.ofCode at h; split at h <;> cases h <;> rfl
  code_lt a := by cases a <;> decide

theorem VoteMode.isCoding : IsCoding VoteMode.code VoteMode.ofCode 5 where
  ofCode_code a := by cases a <;> rfl
  code_ofCode n a h := by unfold VoteMode.ofCode at h; split at h <;> cases h <;> rfl
  code_lt a := by cases a <;> decide

theorem AtomOp.isCoding : IsCoding AtomOp.code AtomOp.ofCode 12 where
  ofCode_code a := by cases a <;> rfl
  code_ofCode n a h := by unfold AtomOp.ofCode at h; split at h <;> cases h <;> rfl
  code_lt a := by cases a <;> decide

theorem AtomUse.isCoding : IsCoding AtomUse.code AtomUse.ofCode 5 where
  ofCode_code a := by cases a <;> rfl
  code_ofCode n a h := by unfold AtomUse.ofCode at h; split at h <;> cases h <;> rfl
  code_lt a := by cases a <;> decide

/-! Single bits. -/

theorem toNat_bit (n k : Nat) : (bit n k).toNat = n / 2 ^ k % 2 := by
  unfold bit
  obtain h | h := Nat.mod_two_eq_zero_or_one (n / 2 ^ k) <;> simp [h]

theorem bit_eq {n k : Nat} {f : Bool} (h : n / 2 ^ k % 2 = f.toNat) : bit n k = f := by
  unfold bit
  rw [h]
  cases f <;> rfl

/-! The control word of ATOM and CAS (07 R185). -/

theorem AtomCtl.code_ofCode {n : Nat} {c : AtomCtl} (h : AtomCtl.ofCode n = some c) : n = c.code := by
  unfold AtomCtl.ofCode at h
  split at h
  case isFalse => cases h
  case isTrue hn =>
    split at h
    case h_2 => cases h
    case h_1 hsize hscope huse hop =>
      cases h
      simp only [AtomCtl.code, toNat_bit, ← Width.isCoding.code_ofCode _ _ hsize, ← Scope.isCoding.code_ofCode _ _ hscope,
        ← AtomUse.isCoding.code_ofCode _ _ huse, ← AtomOp.isCoding.code_ofCode _ _ hop,
        AtomOrder.code_ofCode (Nat.mod_lt _ (by decide : 0 < 4))]
      omega

theorem AtomCtl.ofCode_code (c : AtomCtl) : AtomCtl.ofCode c.code = some c := by
  obtain ⟨f, size, scope, order, use, op⟩ := c
  have hf := f.toNat_lt
  have hsize := Width.isCoding.code_lt size
  have hscope := Scope.isCoding.code_lt scope
  have horder := order.code_lt
  have huse := AtomUse.isCoding.code_lt use
  have hop := AtomOp.isCoding.code_lt op
  unfold AtomCtl.ofCode AtomCtl.code
  dsimp only
  generalize hn : f.toNat * 32768 + size.code * 16384 + scope.code * 2048 + order.code * 512 + use.code * 64 + op.code = n
  rw [if_pos (by omega), Width.isCoding.iff.2 (by omega : n / 16384 % 2 = size.code),
    Scope.isCoding.iff.2 (by omega : n / 2048 % 8 = scope.code), AtomUse.isCoding.iff.2 (by omega : n / 64 % 8 = use.code),
    AtomOp.isCoding.iff.2 (by omega : n % 16 = op.code), (by omega : n / 512 % 4 = order.code), order.ofCode_code,
    bit_eq (by omega : n / 2 ^ 15 % 2 = f.toNat)]

theorem AtomCtl.code_lt (c : AtomCtl) : c.code < 2 ^ 32 := by
  have h := c.ofCode_code
  unfold AtomCtl.ofCode at h
  split at h
  · omega
  · cases h

end Sys2Proof
end

section
/-! PROOF. Words that decode are the words of what they decode to (02_encoding.md R34 to R44, R48, R53): one lemma for each format or
kind of check of the opcode maps (R54, R55, R57), each putting the fields of a word together again. -/

namespace Sys2Proof
open Machine

/-- A check that chooses between two forms of a word. -/
theorem Machine.OnOk.cond {ε β : Type} {Q : β → Prop} {c : Prop} [Decidable c] {x y : Except ε β} (hx : c → OnOk Q x)
    (hy : ¬c → OnOk Q y) : OnOk Q (if c then x else y) := by
  split
  exacts [hx ‹_›, hy ‹_›]

/-- A check that rejects a word where it fails. -/
theorem Machine.OnOk.guard {ε β : Type} {Q : β → Prop} {c : Prop} [Decidable c] {x : Except ε β} {e : ε} (hx : c → OnOk Q x) :
    OnOk Q (if c then x else .error e) :=
  .cond hx fun _ => .error

/-- The words of an instruction are w and, where it takes a literal, l. -/
def EncodesTo (w l : Nat) (i : Instr) : Prop := encode i = if i.takesLiteral then [w, l] else [w]

section
variable {op d d' a a' b b' k k' l l' : Nat} {i : Instr}

theorem EncodesTo.lane (he : encode i = [laneWord op d' a' b']) (hlit : i.takesLiteral = false) (hd : d' = d) (ha : a' = a)
    (hb : b' = b) : EncodesTo (laneWord op d a b) l i := by
  simp [EncodesTo, he, hlit, hd, ha, hb]

theorem EncodesTo.laneLit (he : encode i = [laneWord op d' a' b', l']) (hlit : i.takesLiteral = true) (hd : d' = d) (ha : a' = a)
    (hb : b' = b) (hl : l' = l) : EncodesTo (laneWord op d a b) l i := by
  simp [EncodesTo, he, hlit, hd, ha, hb, hl]

theorem EncodesTo.uni (he : encode i = [uniWord op d' a' b' k']) (hlit : i.takesLiteral = false) (hd : d' = d) (ha : a' = a)
    (hb : b' = b) (hk : k' = k) : EncodesTo (uniWord op d a b k) l i := by
  simp [EncodesTo, he, hlit, hd, ha, hb, hk]

theorem EncodesTo.uniLit (he : encode i = [uniWord op d' a' b' k', l']) (hlit : i.takesLiteral = true) (hd : d' = d) (ha : a' = a)
    (hb : b' = b) (hk : k' = k) (hl : l' = l) : EncodesTo (uniWord op d a b k) l i := by
  simp [EncodesTo, he, hlit, hd, ha, hb, hk, hl]

end

/-- What a lane word decodes to, if anything, has that word. -/
abbrev LaneRow (op d a b l : Nat) : Prop := OnOk (EncodesTo (laneWord op d a b) l) (decodeLane op d a b (some l))

/-- What a uniform word decodes to, if anything, has that word. -/
abbrev UniRow (op d a b k l : Nat) : Prop := OnOk (EncodesTo (uniWord op d a b k) l) (decodeUniform op d a b k (some l))

/-! Lane words. -/

/-- Formats LR and LK with an operand in every field. -/
def threeOperandOpcodes : List Nat :=
  [17, 18, 19, 20, 21, 22, 23, 24, 25, 26, 27, 28, 29, 30, 31, 32, 33, 34, 35, 36, 37, 38, 39, 40, 41, 42, 46, 47, 48, 49, 50, 51, 52,
   53, 54, 55, 56, 57, 58, 59, 64, 65, 66, 67, 68, 69, 71, 72, 73, 74, 75, 78, 79, 80, 81, 82, 97, 101, 118]

/-- Format LM with a cache hint. -/
def hintOpcodes : List Nat := [84, 85, 86, 87, 88, 89, 90, 91, 92, 93, 94, 95, 99]

/-- Formats LR, LF, LM and LN, a function code or a field of it in the last byte. -/
def functionOpcodes : List Nat := [4, 6, 9, 16, 60, 62, 63, 70, 76, 77, 96, 98, 100, 102, 103, 104, 112, 113, 117, 121, 123]

section
variable {op d a b l : Nat}

theorem laneRow_threeOperands (hd : d < 256) (ha : a < 256) (hb : b < 256) (hop : op ∈ threeOperandOpcodes) : LaneRow op d a b l := by
  fin_cases hop <;> exact .ok (.lane rfl rfl (LReg.code_ofCode hd) (LReg.code_ofCode ha) (LReg.code_ofCode hb))

theorem laneRow_hint (hd : d < 256) (ha : a < 256) (hb : b < 256) (hop : op ∈ hintOpcodes) : LaneRow op d a b l := by
  have hlast : (BitVec.ofNat 5 (b / 8)).toNat * 8 + (bit b 2).toNat * 4 + (Hint.ofCode (b % 4)).code = b := by
    rw [toNat_bit, BitVec.toNat_ofNat, Hint.code_ofCode (Nat.mod_lt b (by decide))]
    omega
  fin_cases hop <;> exact .ok (.lane rfl rfl (LReg.code_ofCode hd) (LReg.code_ofCode ha) hlast)

theorem laneRow_function (hd : d < 256) (ha : a < 256) (hb : b < 256) (hop : op ∈ functionOpcodes) : LaneRow op d a b l := by
  have hcd := LReg.code_ofCode hd
  have hca := LReg.code_ofCode ha
  have hcb := LReg.code_ofCode hb
  have hhint := Hint.code_ofCode (Nat.mod_lt b (by decide : 0 < 4))
  have hrnd := Rnd.code_ofCode (by omega : b / 64 < 4)
  have hfrnd := Rnd.code_ofCode (Nat.mod_lt b (by decide : 0 < 4))
  have hint := IntType.code_ofCode (Nat.mod_lt b (by decide : 0 < 8))
  have hsrc := SrcInt.code_ofCode (Nat.mod_lt b (by decide : 0 < 4))
  have hoff : (BitVec.ofNat 5 (b / 8)).toNat = b / 8 := Nat.mod_eq_of_lt (by omega)
  have hteam : (Fin.ofNat 8 (b / 32)).val = b / 32 := Nat.mod_eq_of_lt (by omega)
  have hlow := Fin.val_ofNat 8 (b % 8)
  have hpred := Fin.val_ofNat 8 a
  have hflag := toNat_bit b 2
  fin_cases hop
  all_goals repeat' refine OnOk.cond (fun _ => ?_) fun _ => ?_
  all_goals constructor
  all_goals exact .lane rfl rfl (by omega) (by omega) (by omega)

/-- Format LZ. -/
theorem laneRow_zero (hop : op ∈ [7, 8, 11, 105, 111]) : LaneRow op d a b l := by
  fin_cases hop <;> exact .guard fun hb => .guard fun ⟨hd, ha⟩ => .ok (.lane rfl rfl hd.symm ha.symm hb.symm)

/-- Formats LB and LQ. -/
theorem laneRow_offset (hd : d < 256) (ha : a < 256) (hb : b < 256) (hop : op ∈ [1, 2, 3, 5]) : LaneRow op d a b l := by
  have h24 : (BitVec.ofNat 24 (d * 65536 + a * 256 + b)).toNat = d * 65536 + a * 256 + b := Nat.mod_eq_of_lt (by omega)
  have h21 : (BitVec.ofNat 21 (d % 32 * 65536 + a * 256 + b)).toNat = d % 32 * 65536 + a * 256 + b :=
    Nat.mod_eq_of_lt (by omega)
  have hp : (Fin.ofNat 8 (d / 32)).val = d / 32 := Nat.mod_eq_of_lt (by omega)
  fin_cases hop <;> exact .ok (.lane rfl rfl (by omega) (by omega) (by omega))

/-- Format LW with an immediate. -/
theorem laneRow_imm (hd : d < 256) (ha : a < 256) (hb : b < 256) (hop : op ∈ [10, 12, 44]) : LaneRow op d a b l := by
  have h12 := BitVec.toNat_ofNat (a * 256 + b) 12
  have h16 : (BitVec.ofNat 16 (a * 256 + b)).toNat = a * 256 + b := Nat.mod_eq_of_lt (by omega)
  fin_cases hop
  · exact .guard fun ⟨hd, _⟩ => .ok (.lane rfl rfl hd.symm (by omega) (by omega))
  · exact .guard fun hd => .ok (.lane rfl rfl hd.symm (by omega) (by omega))
  · exact .ok (.lane rfl rfl (LReg.code_ofCode hd) (by omega) (by omega))

theorem laneRow_lit (hd : d < 256) (hl : l < 2 ^ 32) : LaneRow 45 d a b l :=
  .guard fun hb => .guard fun ha => .ok (.laneLit rfl rfl (LReg.code_ofCode hd) ha.symm hb.symm (Nat.mod_eq_of_lt hl))

theorem laneRow_atomic (hd : d < 256) (ha : a < 256) (hb : b < 256) (hop : op ∈ [106, 107]) : LaneRow op d a b l := by
  fin_cases hop
  all_goals
    unfold LaneRow decodeLane
    dsimp only
    cases hctl : AtomCtl.ofCode l with
    | none => exact .error
    | some ctl =>
      exact .ok (.laneLit rfl rfl (LReg.code_ofCode hd) (LReg.code_ofCode ha) (LReg.code_ofCode hb) (AtomCtl.code_ofCode hctl).symm)

theorem laneRow_setp (hd : d < 256) (ha : a < 256) (hb : b < 256) : LaneRow 43 d a b l := by
  unfold LaneRow decodeLane
  cases hcond : Cond.ofCode (d % 32) with
  | none => exact .error
  | some cond =>
    have hlow := Cond.isCoding.code_ofCode _ _ hcond
    have hp := Fin.val_ofNat 8 (d / 32)
    exact .ok (.lane rfl rfl (by omega) (LReg.code_ofCode ha) (LReg.code_ofCode hb))

theorem laneRow_fcvt (hd : d < 256) (ha : a < 256) (hb : b < 256) : LaneRow 61 d a b l := by
  unfold LaneRow decodeLane
  cases hkind : CvtKind.ofCode (b % 32) with
  | none => exact .error
  | some kind =>
    have hlow := CvtKind.isCoding.code_ofCode _ _ hkind
    have hn := Fin.val_ofNat 4 (b / 64)
    have hsat := toNat_bit b 5
    exact .ok (.lane rfl rfl (LReg.code_ofCode hd) (LReg.code_ofCode ha) (by omega))

/-- Format LO. -/
theorem laneRow_ordered (hd : d < 256) (ha : a < 256) (hop : op ∈ [108, 109]) : LaneRow op d a b l := by
  fin_cases hop
  all_goals
    refine .guard fun _ => ?_
    cases hscope : Scope.ofCode (b / 32) with
    | none => exact .error
    | some scope =>
      cases hsize : Width.ofCode (b / 8 % 4) with
      | none => exact .error
      | some size =>
        have hhigh := Scope.isCoding.code_ofCode _ _ hscope
        have hmid := Width.isCoding.code_ofCode _ _ hsize
        have hflag := toNat_bit b 2
        exact .ok (.lane rfl rfl (LReg.code_ofCode hd) (LReg.code_ofCode ha) (by omega))

theorem laneRow_fence : LaneRow 110 d a b l := by
  refine .guard fun ⟨hd, ha⟩ => ?_
  cases hscope : Scope.ofCode b with
  | none => exact .error
  | some scope => exact .ok (.lane rfl rfl hd.symm ha.symm (Scope.isCoding.code_ofCode _ _ hscope).symm)

/-- Format LN with a scope. -/
theorem laneRow_barrier (hb : b < 256) (hop : op ∈ [114, 115, 116]) : LaneRow op d a b l := by
  have hteam := Fin.val_ofNat 8 (b / 32)
  fin_cases hop
  all_goals
    refine .guard fun ⟨hd, ha⟩ => ?_
    cases hscope : Scope.ofCode (b % 32) with
    | none => exact .error
    | some scope =>
      have hlow := Scope.isCoding.code_ofCode _ _ hscope
      exact .ok (.lane rfl rfl hd.symm ha.symm (by omega))

/-- Format LN with an operation. -/
theorem laneRow_reduce (hd : d < 256) (ha : a < 256) (hb : b < 256) : LaneRow 119 d a b l ∧ LaneRow 120 d a b l := by
  have hteam := Fin.val_ofNat 8 (b / 32)
  have hexcl := toNat_bit b 4
  constructor
  · unfold LaneRow decodeLane
    cases hred : RedOp.ofCode (b % 32) with
    | none => exact .error
    | some red =>
      have hlow := RedOp.isCoding.code_ofCode _ _ hred
      exact .ok (.lane rfl rfl (LReg.code_ofCode hd) (LReg.code_ofCode ha) (by omega))
  · unfold LaneRow decodeLane
    cases hred : RedOp.ofCode (b % 16) with
    | none => exact .error
    | some red =>
      have hlow := RedOp.isCoding.code_ofCode _ _ hred
      exact .ok (.lane rfl rfl (LReg.code_ofCode hd) (LReg.code_ofCode ha) (by omega))

theorem laneRow_vote (hb : b < 256) : LaneRow 122 d a b l := by
  refine .guard fun ⟨hd, ha⟩ => ?_
  cases hmode : VoteMode.ofCode (b % 32) with
  | none => exact .error
  | some mode =>
    have hlow := VoteMode.isCoding.code_ofCode _ _ hmode
    have hteam := Fin.val_ofNat 8 (b / 32)
    exact .ok (.lane rfl rfl (Nat.mod_eq_of_lt hd) (Nat.mod_eq_of_lt ha) (by omega))

/-- A field that leaves codes unassigned. -/
theorem laneRow_coded (hd : d < 256) (ha : a < 256) (hb : b < 256)
    (hop : op ∈ [43, 61, 108, 109, 110, 114, 115, 116, 119, 120, 122]) : LaneRow op d a b l := by
  fin_cases hop
  exacts [laneRow_setp hd ha hb, laneRow_fcvt hd ha hb, laneRow_ordered hd ha (by decide), laneRow_ordered hd ha (by decide),
    laneRow_fence, laneRow_barrier hb (by decide), laneRow_barrier hb (by decide), laneRow_barrier hb (by decide),
    (laneRow_reduce hd ha hb).1, (laneRow_reduce hd ha hb).2, laneRow_vote hb]

theorem laneRow_unassigned (hop : op ∈ [0, 13, 14, 15, 83, 124, 125, 126, 127]) : LaneRow op d a b l := by
  fin_cases hop <;> exact .error

/-- R54 and R55: every lane opcode has one of the formats, or is unassigned. -/
theorem laneRow (hop : op < 128) (hd : d < 256) (ha : a < 256) (hb : b < 256) (hl : l < 2 ^ 32) : LaneRow op d a b l := by
  have hformat : ∀ op < 128, op ∈ threeOperandOpcodes ∨ op ∈ hintOpcodes ∨ op ∈ functionOpcodes ∨ op ∈ [7, 8, 11, 105, 111] ∨
      op ∈ [1, 2, 3, 5] ∨ op ∈ [10, 12, 44] ∨ op = 45 ∨ op ∈ [106, 107] ∨
      op ∈ [43, 61, 108, 109, 110, 114, 115, 116, 119, 120, 122] ∨ op ∈ [0, 13, 14, 15, 83, 124, 125, 126, 127] := by
    decide
  obtain h | h | h | h | h | h | rfl | h | h | h := hformat op hop
  · exact laneRow_threeOperands hd ha hb h
  · exact laneRow_hint hd ha hb h
  · exact laneRow_function hd ha hb h
  · exact laneRow_zero h
  · exact laneRow_offset hd ha hb h
  · exact laneRow_imm hd ha hb h
  · exact laneRow_lit hd hl
  · exact laneRow_atomic hd ha hb h
  · exact laneRow_coded hd ha hb h
  · exact laneRow_unassigned h

end

/-! Uniform words. -/

/-- The uniform opcodes without a literal or a field that leaves codes unassigned. -/
def plainUniformOpcodes : List Nat :=
  [0, 1, 2, 3, 4, 5, 6, 7, 8, 9, 10, 13, 16, 17, 18, 19, 20, 21, 22, 23, 24, 25, 26, 27, 28, 29, 30, 32, 33, 34, 35, 36, 37, 38, 40, 41,
   42, 43, 44, 45, 46, 47, 48, 50, 51, 52, 56, 57, 58, 59, 60, 61, 62]

section
variable {op d a b k l : Nat}

theorem uniRow_plain (hd : d < 128) (ha : a < 128) (hb : b < 128) (hk : k < 16) (hop : op ∈ plainUniformOpcodes) :
    UniRow op d a b k l := by
  have hcd := UReg.code_ofCode hd
  have hca := UReg.code_ofCode ha
  have hcb := UReg.code_ofCode hb
  have himm : (BitVec.ofNat 14 (a * 128 + b)).toNat = a * 128 + b := Nat.mod_eq_of_lt (by omega)
  have hcsr : (BitVec.ofNat 12 (a * 32 + b / 4)).toNat = a * 32 + b / 4 := Nat.mod_eq_of_lt (by omega)
  have hthread : (Fin.ofNat 128 d).val = d := Nat.mod_eq_of_lt hd
  have hflag := toNat_bit k 3
  have hwide := toNat_bit k 0
  have hindex := Fin.val_ofNat 8 k
  have hlow := Fin.val_ofNat 8 (k % 8)
  fin_cases hop
  all_goals repeat' refine OnOk.cond (fun _ => ?_) fun _ => ?_
  all_goals constructor
  all_goals exact .uni rfl rfl (by omega) (by omega) (by omega) (by omega)

theorem uniRow_slit (hd : d < 128) (hl : l < 2 ^ 32) : UniRow 11 d a b k l := by
  have hwide := toNat_bit k 0
  exact .guard fun ⟨ha, hb, _⟩ => .ok (.uniLit rfl rfl (UReg.code_ofCode hd) ha.symm hb.symm (by omega) (Nat.mod_eq_of_lt hl))

theorem uniRow_scmp (hd : d < 128) (ha : a < 128) (hb : b < 128) : UniRow 12 d a b k l := by
  unfold UniRow decodeUniform
  cases hcond : SCond.ofCode k with
  | none => exact .error
  | some cond =>
    exact .ok (.uni rfl rfl (UReg.code_ofCode hd) (UReg.code_ofCode ha) (UReg.code_ofCode hb) (SCond.isCoding.code_ofCode _ _ hcond).symm)

/-- Format UM. -/
theorem uniRow_access (hd : d < 128) (ha : a < 128) (hb : b < 128) (hk : k < 16) (hop : op ∈ [14, 15]) : UniRow op d a b k l := by
  have hflag := toNat_bit k 3
  fin_cases hop
  all_goals
    unfold UniRow decodeUniform
    cases hsize : USize.ofCode (k % 8) with
    | none => exact .error
    | some size =>
      have hlow := USize.isCoding.code_ofCode _ _ hsize
      exact .ok (.uni rfl rfl (UReg.code_ofCode hd) (UReg.code_ofCode ha) (Nat.mod_eq_of_lt hb) (by omega))

theorem uniRow_unassigned (hop : op ∈ [31, 39, 49, 53, 54, 55, 63]) : UniRow op d a b k l := by
  fin_cases hop <;> exact .error

/-- R57: every uniform opcode has one of the formats. -/
theorem uniRow (hop : op < 64) (hd : d < 128) (ha : a < 128) (hb : b < 128) (hk : k < 16) (hl : l < 2 ^ 32) : UniRow op d a b k l := by
  have hformat : ∀ op < 64, op ∈ plainUniformOpcodes ∨ op = 11 ∨ op = 12 ∨ op ∈ [14, 15] ∨
      op ∈ [31, 39, 49, 53, 54, 55, 63] := by
    decide
  obtain h | rfl | rfl | h | h := hformat op hop
  · exact uniRow_plain hd ha hb hk h
  · exact uniRow_slit hd hl
  · exact uniRow_scmp hd ha hb
  · exact uniRow_access hd ha hb hk h
  · exact uniRow_unassigned h

end

/-! Whole words (R33, R44). -/

theorem laneWord_fields (w : Nat) : laneWord (w / 16777216) (w / 65536 % 256) (w / 256 % 256) (w % 256) = w := by
  unfold laneWord
  omega

theorem uniWord_fields {w : Nat} (hset : w / 2147483648 = 1) :
    uniWord (w / 33554432 % 64) (w / 262144 % 128) (w / 2048 % 128) (w / 16 % 128) (w % 16) = w := by
  unfold uniWord
  omega

theorem headerWord_fields {w : Nat} (hheader : w / 33554432 = 127) :
    headerWord (BitVec.ofNat 4 (w / 2097152)).toNat (BitVec.ofNat 12 (w / 512)).toNat (BitVec.ofNat 4 (w / 32)).toNat
      (BitVec.ofNat 4 (w / 2)).toNat (bit w 0).toNat = w := by
  simp only [headerWord, BitVec.toNat_ofNat, toNat_bit]
  omega

theorem encodesTo_of_decodeWord {w l : Nat} {i : Instr} (hw : w < 2 ^ 32) (hl : l < 2 ^ 32) (h : decodeWord w (some l) = .ok i) :
    EncodesTo w l i := by
  unfold decodeWord at h
  split at h
  case isTrue hheader =>
    cases h
    exact congrArg (fun w => [w]) (headerWord_fields hheader)
  case isFalse =>
    split at h
    case isTrue hset =>
      rw [← uniWord_fields hset]
      exact (uniRow (by omega) (by omega) (by omega) (by omega) (by omega) hl).get h
    case isFalse =>
      rw [← laneWord_fields w]
      exact (laneRow (by omega) (by omega) (by omega) (by omega) hl).get h

/-- Settles O59: the fields of a word that decodes, put together again, are the word. -/
theorem decodedWordsEncodeToThemselves : Obligations.DecodedWordsEncodeToThemselves := by
  unfold Obligations.DecodedWordsEncodeToThemselves
  intro w l i hw hl h _
  exact encodesTo_of_decodeWord hw hl h

end Sys2Proof
end

section
/-! PROOF. The words of an instruction decode to it (02_encoding.md R34 to R44, R53): the cases go by the formats of R55 and R57. -/

namespace Sys2Proof

/-! The fields of a word that is put together of fields. -/

theorem decodeWord_laneWord {op d a b : Nat} (hop : op < 128) (hd : d < 256) (ha : a < 256) (hb : b < 256) (lit : Option Nat) :
    decodeWord (laneWord op d a b) lit = decodeLane op d a b lit := by
  unfold decodeWord laneWord
  rw [if_neg (by omega), if_neg (by omega)]
  congr 1 <;> omega

theorem decodeWord_uniWord {op d a b k : Nat} (hop : op < 63) (hd : d < 128) (ha : a < 128) (hb : b < 128) (hk : k < 16)
    (lit : Option Nat) : decodeWord (uniWord op d a b k) lit = decodeUniform op d a b k lit := by
  unfold decodeWord uniWord
  rw [if_neg (by omega), if_pos (by omega)]
  congr 1 <;> omega

theorem ofNat_eq {n w : Nat} {x : BitVec w} (h : n = x.toNat) : BitVec.ofNat w n = x := by
  rw [h, BitVec.ofNat_toNat, BitVec.setWidth_eq]

/-! What the rows with a coded field decode to, once its code is assigned. -/

section
variable {d a b k l : Nat} {lit : Option Nat}

theorem decodeLane_setp {cond : Cond} (h : Cond.ofCode (d % 32) = some cond) :
    decodeLane 43 d a b lit = .ok (.setp (Fin.ofNat 8 (d / 32)) cond (.ofCode a) (.ofCode b)) := by
  unfold decodeLane
  rw [h]
  rfl

theorem decodeLane_fcvt {kind : CvtKind} (h : CvtKind.ofCode (b % 32) = some kind) :
    decodeLane 61 d a b lit = .ok (.fcvt (.ofCode d) (.ofCode a) (Fin.ofNat 4 (b / 64)) (bit b 5) kind) := by
  unfold decodeLane
  rw [h]
  rfl

theorem decodeLane_atom {ctl : AtomCtl} (h : AtomCtl.ofCode l = some ctl) :
    decodeLane 106 d a b (some l) = .ok (.atom (.ofCode d) (.ofCode a) (.ofCode b) ctl) := by
  unfold decodeLane
  dsimp only
  rw [h]
  rfl

theorem decodeLane_cas {ctl : AtomCtl} (h : AtomCtl.ofCode l = some ctl) :
    decodeLane 107 d a b (some l) = .ok (.cas (.ofCode d) (.ofCode a) (.ofCode b) ctl) := by
  unfold decodeLane
  dsimp only
  rw [h]
  rfl

theorem decodeLane_ldAcq {scope : Scope} {size : Width} (hlow : b % 4 = 0) (hscope : Scope.ofCode (b / 32) = some scope)
    (hsize : Width.ofCode (b / 8 % 4) = some size) :
    decodeLane 108 d a b lit = .ok (.ldAcq (.ofCode d) (.ofCode a) scope size (bit b 2)) := by
  refine (if_pos hlow).trans ?_
  rw [hscope, hsize]

theorem decodeLane_stRel {scope : Scope} {size : Width} (hlow : b % 4 = 0) (hscope : Scope.ofCode (b / 32) = some scope)
    (hsize : Width.ofCode (b / 8 % 4) = some size) :
    decodeLane 109 d a b lit = .ok (.stRel (.ofCode d) (.ofCode a) scope size (bit b 2)) := by
  refine (if_pos hlow).trans ?_
  rw [hscope, hsize]

theorem decodeLane_fence {scope : Scope} (hfill : d = 241 ∧ a = 0) (h : Scope.ofCode b = some scope) :
    decodeLane 110 d a b lit = .ok (.fence scope) := by
  refine (if_pos hfill).trans ?_
  rw [h]

theorem decodeLane_tbar {scope : Scope} (hfill : d = 241 ∧ a = 241) (h : Scope.ofCode (b % 32) = some scope) :
    decodeLane 114 d a b lit = .ok (.tbar (Fin.ofNat 8 (b / 32)) scope) := by
  refine (if_pos hfill).trans ?_
  rw [h]

theorem decodeLane_tarrive {scope : Scope} (hfill : d = 241 ∧ a = 241) (h : Scope.ofCode (b % 32) = some scope) :
    decodeLane 115 d a b lit = .ok (.tarrive (Fin.ofNat 8 (b / 32)) scope) := by
  refine (if_pos hfill).trans ?_
  rw [h]

theorem decodeLane_twait {scope : Scope} (hfill : d = 241 ∧ a = 241) (h : Scope.ofCode (b % 32) = some scope) :
    decodeLane 116 d a b lit = .ok (.twait (Fin.ofNat 8 (b / 32)) scope) := by
  refine (if_pos hfill).trans ?_
  rw [h]

theorem decodeLane_tred {red : RedOp} (h : RedOp.ofCode (b % 32) = some red) :
    decodeLane 119 d a b lit = .ok (.tred (.ofCode d) (.ofCode a) (Fin.ofNat 8 (b / 32)) red) := by
  unfold decodeLane
  rw [h]
  rfl

theorem decodeLane_tscan {red : RedOp} (h : RedOp.ofCode (b % 16) = some red) :
    decodeLane 120 d a b lit = .ok (.tscan (.ofCode d) (.ofCode a) (Fin.ofNat 8 (b / 32)) (bit b 4) red) := by
  unfold decodeLane
  rw [h]
  rfl

theorem decodeLane_vote {mode : VoteMode} (hd : d < 8) (ha : a < 8) (h : VoteMode.ofCode (b % 32) = some mode) :
    decodeLane 122 d a b lit = .ok (.vote (Fin.ofNat 8 d) (Fin.ofNat 8 a) (Fin.ofNat 8 (b / 32)) mode) := by
  refine (if_pos ⟨hd, ha⟩).trans ?_
  rw [h]

theorem decodeUniform_scmp {cond : SCond} (h : SCond.ofCode k = some cond) :
    decodeUniform 12 d a b k lit = .ok (.scmp (.ofCode d) (.ofCode a) (.ofCode b) cond) := by
  unfold decodeUniform
  rw [h]
  rfl

theorem decodeUniform_sld {size : USize} (h : USize.ofCode (k % 8) = some size) :
    decodeUniform 14 d a b k lit = .ok (.sld (.ofCode d) (.ofCode a) (BitVec.ofNat 7 b) (bit k 3) size) := by
  unfold decodeUniform
  rw [h]
  rfl

theorem decodeUniform_sst {size : USize} (h : USize.ofCode (k % 8) = some size) :
    decodeUniform 15 d a b k lit = .ok (.sst (.ofCode d) (.ofCode a) (BitVec.ofNat 7 b) (bit k 3) size) := by
  unfold decodeUniform
  rw [h]
  rfl

end

/-! The fields of a byte, or of a uniform word's low bits, that is put together of fields. -/

/-- Format LM: offset, flag and hint. -/
theorem memFields (off : BitVec 5) (f : Bool) {c : Nat} (hc : c < 4) :
    off.toNat * 8 + f.toNat * 4 + c < 256 ∧ BitVec.ofNat 5 ((off.toNat * 8 + f.toNat * 4 + c) / 8) = off ∧
      bit (off.toNat * 8 + f.toNat * 4 + c) 2 = f ∧ (off.toNat * 8 + f.toNat * 4 + c) % 4 = c := by
  have hoff := off.isLt
  have hf := f.toNat_lt
  exact ⟨by omega, ofNat_eq (by omega), bit_eq (by omega), by omega⟩

/-- Format LO: scope, size and flag. -/
theorem orderFields (scope : Scope) (size : Width) (f : Bool) :
    let b := scope.code * 32 + size.code * 8 + f.toNat * 4
    b < 256 ∧ b % 4 = 0 ∧ Scope.ofCode (b / 32) = some scope ∧ Width.ofCode (b / 8 % 4) = some size ∧ bit b 2 = f := by
  have hscope := Scope.isCoding.code_lt scope
  have hsize := Width.isCoding.code_lt size
  have hf := f.toNat_lt
  exact ⟨by omega, by omega, Scope.isCoding.iff.2 (by omega), Width.isCoding.iff.2 (by omega), bit_eq (by omega)⟩

/-- Formats LN, LP and LQ: a team or a predicate, and a number below 32. -/
theorem teamFields (n : Fin 8) {c : Nat} (hc : c < 32) :
    n.val * 32 + c < 256 ∧ Fin.ofNat 8 ((n.val * 32 + c) / 32) = n ∧ (n.val * 32 + c) % 32 = c :=
  ⟨by omega, by rw [(by omega : (n.val * 32 + c) / 32 = n.val), Fin.ofNat_val_eq_self], by omega⟩

/-- Formats UM and UC: flag and code. -/
theorem flagFields (f : Bool) {c : Nat} (hc : c < 8) :
    f.toNat * 8 + c < 16 ∧ bit (f.toNat * 8 + c) 3 = f ∧ (f.toNat * 8 + c) % 8 = c := by
  have hf := f.toNat_lt
  exact ⟨by omega, bit_eq (by omega), by omega⟩

/-- The .w64 bit of a uniform word. -/
theorem wideField (w : Bool) : w.toNat < 2 ∧ bit w.toNat 0 = w := by
  have hw := w.toNat_lt
  exact ⟨hw, bit_eq (by omega)⟩

/-- Format UQ: the CSR number. -/
theorem csrFields (csr : BitVec 12) : csr.toNat / 32 < 128 ∧ csr.toNat % 32 * 4 < 128 ∧
    BitVec.ofNat 12 (csr.toNat / 32 * 32 + csr.toNat % 32 * 4 / 4) = csr := by
  have hcsr := csr.isLt
  exact ⟨by omega, by omega, ofNat_eq (by omega)⟩

/-- Format UI: the immediate. -/
theorem immFields (imm : BitVec 14) : imm.toNat / 128 < 128 ∧ imm.toNat % 128 < 128 ∧
    BitVec.ofNat 14 (imm.toNat / 128 * 128 + imm.toNat % 128) = imm := by
  have himm := imm.isLt
  exact ⟨by omega, by omega, ofNat_eq (by omega)⟩

/-- The words of an instruction decode to it. -/
def RoundTrips (i : Instr) : Prop :=
  ∃ (w : Nat) (rest : List Nat), encode i = w :: rest ∧ w < 2 ^ 32 ∧ (∀ l ∈ rest, l < 2 ^ 32) ∧
    rest.length = (if i.takesLiteral then 1 else 0) ∧ decodeWord w rest.head? = .ok i

section
variable {op d a b k l : Nat} {i j : Instr}

theorem RoundTrips.lane (he : encode i = [laneWord op d a b]) (hlit : i.takesLiteral = false) (hop : op < 128) (hd : d < 256)
    (ha : a < 256) (hb : b < 256) (hdec : decodeLane op d a b none = .ok j) (hj : j = i) : RoundTrips i := by
  refine ⟨_, [], he, ?_, by simp, by simp [hlit], ?_⟩
  · unfold laneWord
    omega
  · rw [List.head?_nil, decodeWord_laneWord hop hd ha hb, hdec, hj]

theorem RoundTrips.laneLit (he : encode i = [laneWord op d a b, l]) (hlit : i.takesLiteral = true) (hop : op < 128) (hd : d < 256)
    (ha : a < 256) (hb : b < 256) (hl : l < 2 ^ 32) (hdec : decodeLane op d a b (some l) = .ok j) (hj : j = i) : RoundTrips i := by
  refine ⟨_, [l], he, ?_, by simpa using hl, by simp [hlit], ?_⟩
  · unfold laneWord
    omega
  · rw [List.head?_cons, decodeWord_laneWord hop hd ha hb, hdec, hj]

theorem RoundTrips.uni (he : encode i = [uniWord op d a b k]) (hlit : i.takesLiteral = false) (hop : op < 63) (hd : d < 128)
    (ha : a < 128) (hb : b < 128) (hk : k < 16) (hdec : decodeUniform op d a b k none = .ok j) (hj : j = i) : RoundTrips i := by
  refine ⟨_, [], he, ?_, by simp, by simp [hlit], ?_⟩
  · unfold uniWord
    omega
  · rw [List.head?_nil, decodeWord_uniWord hop hd ha hb hk, hdec, hj]

theorem RoundTrips.uniLit (he : encode i = [uniWord op d a b k, l]) (hlit : i.takesLiteral = true) (hop : op < 63) (hd : d < 128)
    (ha : a < 128) (hb : b < 128) (hk : k < 16) (hl : l < 2 ^ 32) (hdec : decodeUniform op d a b k (some l) = .ok j) (hj : j = i) :
    RoundTrips i := by
  refine ⟨_, [l], he, ?_, by simpa using hl, by simp [hlit], ?_⟩
  · unfold uniWord
    omega
  · rw [List.head?_cons, decodeWord_uniWord hop hd ha hb hk, hdec, hj]
end

/-- The clause header (R44). -/
theorem roundTrips_clauseHeader (count : BitVec 4) (wait : BitVec 12) (seta setb : BitVec 4) (point : Bool) :
    RoundTrips (.clauseHeader count wait seta setb point) := by
  have hcount := count.isLt
  have hwait := wait.isLt
  have hseta := seta.isLt
  have hsetb := setb.isLt
  have hpoint := point.toNat_lt
  refine ⟨_, [], rfl, ?_, by simp, rfl, ?_⟩
  · unfold headerWord
    omega
  · unfold decodeWord headerWord
    rw [if_pos (by omega), Except.ok.injEq, Instr.clauseHeader.injEq]
    exact ⟨BitVec.eq_of_toNat_eq (by rw [BitVec.toNat_ofNat]; omega), BitVec.eq_of_toNat_eq (by rw [BitVec.toNat_ofNat]; omega),
      BitVec.eq_of_toNat_eq (by rw [BitVec.toNat_ofNat]; omega), BitVec.eq_of_toNat_eq (by rw [BitVec.toNat_ofNat]; omega),
      bit_eq (by omega)⟩

theorem roundTrips_of_isWord {i : Instr} (hword : i.isWord = true) : RoundTrips i := by
  cases i
  -- LR and LK with three operands
  case add d a b | addc d a b | sub d a b | subb d a b | mullo d a b | mulhiI32 d a b | mulhiW32 d a b | mad d a b | minI32 d a b
      | minW32 d a b | maxI32 d a b | maxW32 d a b | and d a b | or d a b | xor d a b | andn d a b | shl d a b | shr d a b | sar d a b
      | fshl d a b | fshr d a b | rotl d a b | bfx d a b | bfi d a b | prmt d a b | sel d a b | lea d a b | sad d a b | addI16x2 d a b
      | subI16x2 d a b | addSatI16x2 d a b | subSatI16x2 d a b | minI16x2 d a b | maxI16x2 d a b | minW16x2 d a b | maxW16x2 d a b
      | madI16x2 d a b | faddF32 d a b | fsubF32 d a b | fmulF32 d a b | ffmaF32 d a b | faddH2 d a b | fmulH2 d a b | ffmaH2 d a b
      | faddB2 d a b | fmulB2 d a b | ffmaB2 d a b | dot2H2 d a b | dot2B2 d a b | dot4E4m3 d a b | dot4E5m2 d a b | bpx d a b
      | radd d a b | rmul d a b | rdec d a b | rchk d a b | smap d a b | stm d a b | shfl d a b =>
    exact .lane rfl rfl (by decide) d.code_lt a.code_lt b.code_lt rfl (by simp only [LReg.ofCode_code])
  -- LF and LR with a function code or an unused operand in [7:0]
  case mov d a | neg d a | negSatI32 d a | abs d a | absSatI32 d a | not d a | popc d a | clz d a | ctz d a | brev d a | cvtiI8 d a
      | cvtiW8 d a | cvtiI16 d a | cvtiW16 d a | cvtiI64 d a | cvtiW64 d a | cvtiSatI8 d a | cvtiSatW8 d a | cvtiSatI16 d a
      | cvtiSatW16 d a | cvtiSatW32 d a | cvtiSatI32 d a | frcp d a | frsq d a | fsqrt d a | fexp2 d a | flog2 d a | fsin d a | fcos d a
      | fsubH2 d a | fsubB2 d a | fminF32 d a | fmaxF32 d a | fminH2 d a | fmaxH2 d a | fminB2 d a | fmaxB2 d a | rencI32 d a
      | rencI64 d a | sinv d a =>
    exact .lane rfl rfl (by decide) d.code_lt a.code_lt (by decide) rfl (by simp only [LReg.ofCode_code])
  -- LZ
  case ret | exit | nop | acquire | fenceDur =>
    exact .lane rfl rfl (by decide) (by decide) (by decide) (by decide) rfl rfl
  -- LR with one operand or two
  case brx a | callx a =>
    exact .lane rfl rfl (by decide) (by decide) a.code_lt (by decide) rfl (by simp only [LReg.ofCode_code])
  case sunmap b => exact .lane rfl rfl (by decide) (by decide) (by decide) b.code_lt rfl (by simp only [LReg.ofCode_code])
  case swb d b => exact .lane rfl rfl (by decide) d.code_lt (by decide) b.code_lt rfl (by simp only [LReg.ofCode_code])
  -- LB and LQ
  case bra off | call off =>
    have hoff := off.isLt
    exact .lane rfl rfl (by decide) (by omega) (by omega) (by omega) rfl (congrArg _ (ofNat_eq (by omega)))
  case brp p off | brn p off =>
    have hoff := off.isLt
    obtain ⟨hlt, hp, hlow⟩ := teamFields p (by omega : off.toNat / 65536 < 32)
    exact .lane rfl rfl (by decide) hlt (by omega) (by omega) rfl (congrArg₂ _ hp (ofNat_eq (by omega)))
  -- LW
  case waitf mask =>
    have hmask := mask.isLt
    exact .lane rfl rfl (by decide) (by decide) (by omega) (by omega) (if_pos ⟨rfl, by omega⟩) (congrArg _ (ofNat_eq (by omega)))
  case bkpt imm =>
    have himm := imm.isLt
    exact .lane rfl rfl (by decide) (by decide) (by omega) (by omega) rfl (congrArg _ (ofNat_eq (by omega)))
  case movi d imm =>
    have himm := imm.isLt
    exact .lane rfl rfl (by decide) d.code_lt (by omega) (by omega) rfl (congrArg₂ _ d.ofCode_code (ofNat_eq (by omega)))
  case lit d lit =>
    exact .laneLit rfl rfl (by decide) d.code_lt (by decide) (by decide) lit.isLt rfl (congrArg₂ _ d.ofCode_code (ofNat_eq rfl))
  -- LM
  case ldW8 d a off f h | ldI8 d a off f h | ldW16 d a off f h | ldI16 d a off f h | ldW32 d a off f h | ldW64 d a off f h
      | ldW128 d a off f h | stW8 d a off f h | stW16 d a off f h | stW32 d a off f h | stW64 d a off f h | stW128 d a off f h
      | stFill d a off f h =>
    obtain ⟨hlt, hoff, hf, hlow⟩ := memFields off f h.code_lt
    exact .lane rfl rfl (by decide) d.code_lt a.code_lt hlt rfl (by rw [d.ofCode_code, a.ofCode_code, hoff, hf, hlow, h.ofCode_code])
  case ldxW32 d a off f | ldFeTake d a off f =>
    obtain ⟨hlt, hoff, hf, hlow⟩ := memFields off f (by decide : 0 < 4)
    exact .lane rfl rfl (by decide) d.code_lt a.code_lt hlt (if_pos hlow) (by rw [d.ofCode_code, a.ofCode_code, hoff, hf])
  case ldxW64 d a off f | ldFePeek d a off f =>
    obtain ⟨hlt, hoff, hf, hlow⟩ := memFields off f (by decide : 1 < 4)
    exact .lane rfl rfl (by decide) d.code_lt a.code_lt hlt ((if_neg (by omega)).trans (if_pos hlow))
      (by rw [d.ofCode_code, a.ofCode_code, hoff, hf])
  case pref a off h =>
    obtain ⟨hlt, hoff, -, hlow⟩ := memFields off false h.code_lt
    simp only [Bool.toNat_false, Nat.zero_mul, Nat.add_zero] at hlt hoff hlow
    exact .lane rfl rfl (by decide) (by decide) a.code_lt hlt (if_pos ⟨rfl, by omega⟩)
      (by rw [a.ofCode_code, hoff, hlow, h.ofCode_code])
  -- LF with a field in [7:0]
  case frnd d a rnd =>
    cases rnd <;>
      exact .lane rfl rfl (by decide) d.code_lt a.code_lt (by decide) rfl (by rw [d.ofCode_code, a.ofCode_code]; rfl)
  case setv d p =>
    exact .lane rfl rfl (by decide) d.code_lt (by omega) (by decide) (if_pos p.isLt) (by rw [d.ofCode_code, Fin.ofNat_val_eq_self])
  case fcvt d a n sat kind =>
    have hkind := CvtKind.isCoding.code_lt kind
    have hsat := sat.toNat_lt
    have hn : (n.val * 64 + sat.toNat * 32 + kind.code) / 64 = n.val := by omega
    have hbit : bit (n.val * 64 + sat.toNat * 32 + kind.code) 5 = sat := bit_eq (by omega)
    have hlow : (n.val * 64 + sat.toNat * 32 + kind.code) % 32 = kind.code := by omega
    exact .lane rfl rfl (by decide) d.code_lt a.code_lt (by omega) (decodeLane_fcvt (CvtKind.isCoding.iff.2 hlow))
      (by rw [d.ofCode_code, a.ofCode_code, hn, Fin.ofNat_val_eq_self, hbit])
  case fcvti d a rnd ty =>
    have hty := ty.code_lt
    have hrnd := rnd.code_lt
    exact .lane rfl rfl (by decide) d.code_lt a.code_lt (by omega) (if_pos (by omega))
      (by rw [d.ofCode_code, a.ofCode_code, (by omega : (rnd.code * 64 + ty.code) / 64 = rnd.code), rnd.ofCode_code,
        (by omega : (rnd.code * 64 + ty.code) % 8 = ty.code), ty.ofCode_code])
  case icvtf d a rnd ty =>
    have hty := ty.code_lt
    have hrnd := rnd.code_lt
    exact .lane rfl rfl (by decide) d.code_lt a.code_lt (by omega) (if_pos (by omega))
      (by rw [d.ofCode_code, a.ofCode_code, (by omega : (rnd.code * 64 + ty.code) / 64 = rnd.code), rnd.ofCode_code,
        (by omega : (rnd.code * 64 + ty.code) % 4 = ty.code), ty.ofCode_code])
  -- LP
  case setp p cond a b =>
    have hcond := Cond.isCoding.code_lt cond
    obtain ⟨hlt, hp, hlow⟩ := teamFields p (by omega : cond.code < 32)
    exact .lane rfl rfl (by decide) hlt a.code_lt b.code_lt (decodeLane_setp (Cond.isCoding.iff.2 hlow))
      (by rw [hp, a.ofCode_code, b.ofCode_code])
  -- the literal words of ATOM and CAS
  case atom d a b ctl =>
    exact .laneLit rfl rfl (by decide) d.code_lt a.code_lt b.code_lt ctl.code_lt (decodeLane_atom ctl.ofCode_code)
      (by rw [d.ofCode_code, a.ofCode_code, b.ofCode_code])
  case cas d a b ctl =>
    exact .laneLit rfl rfl (by decide) d.code_lt a.code_lt b.code_lt ctl.code_lt (decodeLane_cas ctl.ofCode_code)
      (by rw [d.ofCode_code, a.ofCode_code, b.ofCode_code])
  -- LO and FENCE
  case ldAcq d a scope size f =>
    obtain ⟨hlt, hlow, hscope, hsize, hf⟩ := orderFields scope size f
    exact .lane rfl rfl (by decide) d.code_lt a.code_lt hlt (decodeLane_ldAcq hlow hscope hsize) (by rw [d.ofCode_code, a.ofCode_code, hf])
  case stRel d a scope size f =>
    obtain ⟨hlt, hlow, hscope, hsize, hf⟩ := orderFields scope size f
    exact .lane rfl rfl (by decide) d.code_lt a.code_lt hlt (decodeLane_stRel hlow hscope hsize) (by rw [d.ofCode_code, a.ofCode_code, hf])
  case fence scope =>
    have hscope := Scope.isCoding.code_lt scope
    exact .lane rfl rfl (by decide) (by decide) (by decide) (by omega)
      (decodeLane_fence ⟨rfl, rfl⟩ (Scope.isCoding.ofCode_code scope)) rfl
  -- LN
  case reconv n | tleave n =>
    obtain ⟨hlt, hn, hlow⟩ := teamFields n (by decide : 0 < 32)
    exact .lane rfl rfl (by decide) (by decide) (by decide) hlt (if_pos ⟨rfl, rfl, hlow⟩) (congrArg _ hn)
  case tjoin a n m =>
    obtain ⟨hlt, hn, hlow⟩ := teamFields n (by omega : m.val < 32)
    exact .lane rfl rfl (by decide) (by decide) a.code_lt hlt (if_pos ⟨rfl, by omega⟩)
      (by rw [a.ofCode_code, hn, (by omega : (n.val * 32 + m.val) % 8 = m.val), Fin.ofNat_val_eq_self])
  case elect d n m =>
    obtain ⟨hlt, hn, hlow⟩ := teamFields n (by omega : m.val < 32)
    exact .lane rfl rfl (by decide) d.code_lt (by decide) hlt (if_pos ⟨rfl, by omega⟩)
      (by rw [d.ofCode_code, hn, (by omega : (n.val * 32 + m.val) % 8 = m.val), Fin.ofNat_val_eq_self])
  case tbar n scope =>
    obtain ⟨hlt, hn, hlow⟩ := teamFields n ((Scope.isCoding.code_lt scope).trans (by decide))
    exact .lane rfl rfl (by decide) (by decide) (by decide) hlt (decodeLane_tbar ⟨rfl, rfl⟩ (Scope.isCoding.iff.2 hlow)) (by rw [hn])
  case tarrive n scope =>
    obtain ⟨hlt, hn, hlow⟩ := teamFields n ((Scope.isCoding.code_lt scope).trans (by decide))
    exact .lane rfl rfl (by decide) (by decide) (by decide) hlt (decodeLane_tarrive ⟨rfl, rfl⟩ (Scope.isCoding.iff.2 hlow)) (by rw [hn])
  case twait n scope =>
    obtain ⟨hlt, hn, hlow⟩ := teamFields n ((Scope.isCoding.code_lt scope).trans (by decide))
    exact .lane rfl rfl (by decide) (by decide) (by decide) hlt (decodeLane_twait ⟨rfl, rfl⟩ (Scope.isCoding.iff.2 hlow)) (by rw [hn])
  case tred d a n op =>
    obtain ⟨hlt, hn, hlow⟩ := teamFields n ((RedOp.isCoding.code_lt op).trans (by decide))
    exact .lane rfl rfl (by decide) d.code_lt a.code_lt hlt (decodeLane_tred (RedOp.isCoding.iff.2 hlow))
      (by rw [d.ofCode_code, a.ofCode_code, hn])
  case tscan d a n excl op =>
    have hop := RedOp.isCoding.code_lt op
    have hexcl := excl.toNat_lt
    obtain ⟨hlt, hn, hlow⟩ := teamFields n (by omega : excl.toNat * 16 + op.code < 32)
    rw [← Nat.add_assoc] at hlt hn hlow
    have hbit : bit (n.val * 32 + excl.toNat * 16 + op.code) 4 = excl := bit_eq (by omega)
    have hred : (n.val * 32 + excl.toNat * 16 + op.code) % 16 = op.code := by omega
    exact .lane rfl rfl (by decide) d.code_lt a.code_lt hlt (decodeLane_tscan (RedOp.isCoding.iff.2 hred))
      (by rw [d.ofCode_code, a.ofCode_code, hn, hbit])
  case ballot d p n =>
    obtain ⟨hlt, hn, hlow⟩ := teamFields n (by decide : 0 < 32)
    exact .lane rfl rfl (by decide) d.code_lt (by omega) hlt (if_pos ⟨p.isLt, hlow⟩)
      (by rw [d.ofCode_code, Fin.ofNat_val_eq_self]; exact congrArg _ hn)
  case vote p q n mode =>
    obtain ⟨hlt, hn, hlow⟩ := teamFields n ((VoteMode.isCoding.code_lt mode).trans (by decide))
    exact .lane rfl rfl (by decide) (by omega) (by omega) hlt (decodeLane_vote p.isLt q.isLt (VoteMode.isCoding.iff.2 hlow))
      (by rw [Fin.ofNat_val_eq_self, Fin.ofNat_val_eq_self, hn])
  case matchT d a n =>
    obtain ⟨hlt, hn, hlow⟩ := teamFields n (by decide : 0 < 32)
    exact .lane rfl rfl (by decide) d.code_lt a.code_lt hlt (if_pos hlow) (by rw [d.ofCode_code, a.ofCode_code]; exact congrArg _ hn)
  -- UR and UI
  case sadd d a b w | ssub d a b w | smul d a b w | sand d a b w | sor d a b w | sxor d a b w | sshl d a b w | sshr d a b w
      | ssar d a b w | ssel d a b w =>
    obtain ⟨hlt, hw⟩ := wideField w
    exact .uni rfl rfl (by decide) d.code_lt a.code_lt b.code_lt (by omega) (if_pos hlt)
      (by rw [d.ofCode_code, a.ofCode_code, b.ofCode_code, hw])
  case smov d a w =>
    obtain ⟨hlt, hw⟩ := wideField w
    exact .uni rfl rfl (by decide) d.code_lt a.code_lt (by decide) (by omega) (if_pos ⟨rfl, hlt⟩)
      (by rw [d.ofCode_code, a.ofCode_code, hw])
  case smovi d imm w =>
    obtain ⟨hlt, hw⟩ := wideField w
    obtain ⟨ha, hb, himm⟩ := immFields imm
    exact .uni rfl rfl (by decide) d.code_lt ha hb (by omega) (if_pos hlt) (by rw [d.ofCode_code, himm, hw])
  case slit d w lit =>
    obtain ⟨hlt, hw⟩ := wideField w
    exact .uniLit rfl rfl (by decide) d.code_lt (by decide) (by decide) (by omega) lit.isLt (if_pos ⟨rfl, rfl, hlt⟩)
      (by rw [d.ofCode_code, hw]; exact congrArg _ (ofNat_eq rfl))
  case scmp d a b cond =>
    exact .uni rfl rfl (by decide) d.code_lt a.code_lt b.code_lt ((SCond.isCoding.code_lt cond).trans (by decide))
      (decodeUniform_scmp (SCond.isCoding.ofCode_code cond)) (by rw [d.ofCode_code, a.ofCode_code, b.ofCode_code])
  case trap imm =>
    obtain ⟨ha, hb, himm⟩ := immFields imm
    exact .uni rfl rfl (by decide) (by decide) ha hb (by decide) rfl (congrArg _ himm)
  case tlbfill d a b =>
    exact .uni rfl rfl (by decide) d.code_lt a.code_lt b.code_lt (by decide) rfl (by rw [d.ofCode_code, a.ofCode_code, b.ofCode_code])
  -- UM
  case sld d a off f size =>
    obtain ⟨hlt, hf, hlow⟩ := flagFields f ((USize.isCoding.code_lt size).trans (by decide))
    exact .uni rfl rfl (by decide) d.code_lt a.code_lt off.isLt hlt (decodeUniform_sld (USize.isCoding.iff.2 hlow))
      (by rw [d.ofCode_code, a.ofCode_code, ofNat_eq rfl, hf])
  case sst d a off f size =>
    obtain ⟨hlt, hf, hlow⟩ := flagFields f ((USize.isCoding.code_lt size).trans (by decide))
    exact .uni rfl rfl (by decide) d.code_lt a.code_lt off.isLt hlt (decodeUniform_sst (USize.isCoding.iff.2 hlow))
      (by rw [d.ofCode_code, a.ofCode_code, ofNat_eq rfl, hf])
  -- UR and UC with a fixed code in the low bits
  case bldClr d | ecancelAll d | fself d | fordq d | fordqCount d | budgetCyc d | budgetNrg d | budgetCtx d | budgetTime d =>
    exact .uni rfl rfl (by decide) d.code_lt (by decide) (by decide) (by decide) rfl (by rw [d.ofCode_code])
  case setrstAddr a | hsyncDrain a | hsyncKind a =>
    exact .uni rfl rfl (by decide) (by decide) a.code_lt (by decide) (by decide) rfl (by rw [a.ofCode_code])
  case ecancel d a | fordqState d a | tlbinv d a | walkdone d a | errpop d a =>
    exact .uni rfl rfl (by decide) d.code_lt a.code_lt (by decide) (by decide) rfl (by rw [d.ofCode_code, a.ofCode_code])
  case oprdy | setrst | setrstClr | yield | eret =>
    exact .uni rfl rfl (by decide) (by decide) (by decide) (by decide) (by decide) rfl rfl
  -- UC with the flag bit and sub 0
  case mma d a b f | mmaz d a b f | fget d a b f =>
    obtain ⟨hlt, hf, hlow⟩ := flagFields f (by decide : 0 < 8)
    exact .uni rfl rfl (by decide) d.code_lt a.code_lt b.code_lt hlt (if_pos hlow)
      (by rw [d.ofCode_code, a.ofCode_code, b.ofCode_code, hf])
  case bld d a f | accld d a f | accq d a f | fref d a f | fpoll d a f | launch d a f | hzwait d a f =>
    obtain ⟨hlt, hf, hlow⟩ := flagFields f (by decide : 0 < 8)
    exact .uni rfl rfl (by decide) d.code_lt a.code_lt (by decide) hlt ((if_pos hlow).trans (if_pos rfl))
      (by rw [d.ofCode_code, a.ofCode_code, hf])
  case accz d f | fordatt d f | gsync d f =>
    obtain ⟨hlt, hf, hlow⟩ := flagFields f (by decide : 0 < 8)
    exact .uni rfl rfl (by decide) d.code_lt (by decide) (by decide) hlt ((if_pos hlow).trans (if_pos ⟨rfl, rfl⟩))
      (by rw [d.ofCode_code, hf])
  case fdrop a f | fput a f =>
    obtain ⟨hlt, hf, hlow⟩ := flagFields f (by decide : 0 < 8)
    exact .uni rfl rfl (by decide) (by decide) a.code_lt (by decide) hlt ((if_pos hlow).trans (if_pos ⟨rfl, rfl⟩))
      (by rw [a.ofCode_code, hf])
  case forddet f | hend f =>
    obtain ⟨hlt, hf, hlow⟩ := flagFields f (by decide : 0 < 8)
    exact .uni rfl rfl (by decide) (by decide) (by decide) (by decide) hlt ((if_pos hlow).trans (if_pos ⟨rfl, rfl, rfl⟩)) (by rw [hf])
  -- UC with the flag bit and another sub
  case fgetD d a b f =>
    obtain ⟨hlt, hf, hlow⟩ := flagFields f (by decide : 1 < 8)
    exact .uni rfl rfl (by decide) d.code_lt a.code_lt b.code_lt hlt ((if_neg (by omega)).trans (if_pos hlow))
      (by rw [d.ofCode_code, a.ofCode_code, b.ofCode_code, hf])
  case mmaQ d b f | mmazQ d b f =>
    obtain ⟨hlt, hf, hlow⟩ := flagFields f (by decide : 1 < 8)
    exact .uni rfl rfl (by decide) d.code_lt (by decide) b.code_lt hlt
      ((if_neg (by omega)).trans ((if_pos hlow).trans (if_pos rfl))) (by rw [d.ofCode_code, b.ofCode_code, hf])
  case bldReed d a f | acczRows d a f =>
    obtain ⟨hlt, hf, hlow⟩ := flagFields f (by decide : 1 < 8)
    exact .uni rfl rfl (by decide) d.code_lt a.code_lt (by decide) hlt
      ((if_neg (by omega)).trans ((if_pos hlow).trans (if_pos rfl))) (by rw [d.ofCode_code, a.ofCode_code, hf])
  case bldConv d a f =>
    obtain ⟨hlt, hf, hlow⟩ := flagFields f (by decide : 2 < 8)
    exact .uni rfl rfl (by decide) d.code_lt a.code_lt (by decide) hlt
      ((if_neg (by omega)).trans ((if_neg (by omega)).trans ((if_pos hlow).trans (if_pos rfl))))
      (by rw [d.ofCode_code, a.ofCode_code, hf])
  case acczFree d f =>
    obtain ⟨hlt, hf, hlow⟩ := flagFields f (by decide : 2 < 8)
    exact .uni rfl rfl (by decide) d.code_lt (by decide) (by decide) hlt
      ((if_neg (by omega)).trans ((if_neg (by omega)).trans ((if_pos hlow).trans (if_pos ⟨rfl, rfl⟩))))
      (by rw [d.ofCode_code, hf])
  case copy a f rel | conv a f rel | gauge a f rel | reed a f rel | alist a f rel | coll a f rel =>
    have hrel := rel.toNat_lt
    obtain ⟨hlt, hf, hlow⟩ := flagFields f (by omega : rel.toNat < 8)
    have hbit : bit (f.toNat * 8 + rel.toNat) 0 = rel := bit_eq (by omega)
    exact .uni rfl rfl (by decide) (by decide) a.code_lt (by decide) hlt (if_pos ⟨rfl, rfl, by omega⟩)
      (by rw [a.ofCode_code, hf, hbit])
  case fspawn d a b f n =>
    obtain ⟨hlt, hf, hlow⟩ := flagFields f n.isLt
    exact .uni rfl rfl (by decide) d.code_lt a.code_lt b.code_lt hlt rfl
      (by rw [d.ofCode_code, a.ofCode_code, b.ofCode_code, hf, hlow, Fin.ofNat_val_eq_self])
  case hstream d n | hloop d n =>
    exact .uni rfl rfl (by decide) d.code_lt (by decide) (by decide) (by omega) (if_pos ⟨rfl, rfl, n.isLt⟩)
      (by rw [d.ofCode_code, Fin.ofNat_val_eq_self])
  case hpush a n =>
    exact .uni rfl rfl (by decide) (by decide) a.code_lt (by decide) (by omega) (if_pos ⟨rfl, rfl, n.isLt⟩)
      (by rw [a.ofCode_code, Fin.ofNat_val_eq_self])
  -- UQ
  case csrr d csr | csrw d csr =>
    obtain ⟨ha, hb, hcsr⟩ := csrFields csr
    exact .uni rfl rfl (by decide) d.code_lt ha hb (by decide) (if_pos (Nat.mul_mod_left _ _)) (by rw [d.ofCode_code, hcsr])
  case csrrThread d csr | csrwThread d csr =>
    obtain ⟨ha, hb, hcsr⟩ := csrFields csr
    exact .uni rfl rfl (by decide) d.isLt ha hb (by decide) (if_pos (Nat.mul_mod_left _ _)) (by rw [Fin.ofNat_val_eq_self, hcsr])
  -- UH
  case clauseHeader count wait seta setb point => exact roundTrips_clauseHeader count wait seta setb point
  -- an event has no word
  all_goals exact absurd hword Bool.false_ne_true

/-- Settles O58: the cases go by the formats of R55 and R57. -/
theorem encodedInstructionsDecodeToThemselves : Obligations.EncodedInstructionsDecodeToThemselves := by
  unfold Obligations.EncodedInstructionsDecodeToThemselves
  exact fun i _ hword => roundTrips_of_isWord hword

end Sys2Proof
end

section
/-! PROOF. Printed words and what a step runs: O56 and O55. -/

namespace Sys2Proof

/-- Settles O56: each word is looked up in the decoder's tables. -/
theorem printedWordsDecodeToTheirInstruction : Obligations.PrintedWordsDecodeToTheirInstruction := by
  unfold Obligations.PrintedWordsDecodeToTheirInstruction
  exact ⟨rfl, rfl, rfl, rfl, rfl, rfl, rfl, rfl, rfl, rfl, rfl, rfl, rfl, rfl, rfl, rfl, rfl, rfl, rfl, rfl, rfl, rfl, rfl, rfl,
    rfl, rfl, rfl, rfl, rfl, rfl, rfl, rfl⟩

end Sys2Proof

namespace Sys2Proof.Machine

/-- With no event of the agenda and no message to itself, the threads' turn gives the step to the bundle the picker chooses. -/
theorem step_of_pick {s u : State} (ha : s.agenda = []) (hl : s.tick.loop = []) (ht : s.tick.now % 2 = 1 ∨ s.tick.internal = none)
    (hp : s.tick.pick = some u) : step s = issueBundle u := by
  have hth : s.tick.threads = some (issueBundle u) := by rw [State.threads, hp]; rfl
  have hstep : step s = stepInside s.tick := by rw [step, ha]
  rw [hstep, stepInside, hl]
  dsimp only
  split
  case isTrue => rw [hth]; rfl
  case isFalse hodd => rw [ht.resolve_left hodd, hth]; rfl

theorem issueBundle_instr {u : State} {b t : Nat} {i : Instr} (hc : u.cur.head? = some (b, t)) (hf : u.fetch b t = .instr i) :
    issueBundle u = exec i u := by
  obtain ⟨ms, hms⟩ := List.head?_eq_some_iff.1 hc
  rw [issueBundle, hms]
  dsimp only
  rw [hf]

theorem issueBundle_stops {u : State} {b t : Nat} {st : Stop} (hc : u.cur = [(b, t)]) (hf : u.fetch b t = .stops st) :
    issueBundle u = .next (u.stopAt b t st) := by
  rw [issueBundle, hc]
  dsimp only
  rw [hf]
  simp [hc]

section Fetch

variable {s : State} {b t : Nat} {th : Thread} (hth : s.getThread b t = some th)
include hth

theorem fetch_inside {w : Word} {i : Instr} (hidx : th.clauseIdx ≠ 0) (hw : th.clause[th.clauseIdx]? = some w)
    (hd : decodeWord w.toNat (th.clause[th.clauseIdx + 1]?.map (·.toNat)) = .ok i) : s.fetch b t = .instr i := by
  simp only [State.fetch, State.thread_of_get hth]
  rw [if_neg hidx, hw]
  dsimp only
  rw [hd]

theorem fetch_inside_illegal {w : Word} {e : Reject} (hidx : th.clauseIdx ≠ 0) (hw : th.clause[th.clauseIdx]? = some w)
    (hd : decodeWord w.toNat (th.clause[th.clauseIdx + 1]?.map (·.toNat)) = .error e) :
    s.fetch b t = .stops (.trap .illegal 0 0) := by
  simp only [State.fetch, State.thread_of_get hth]
  rw [if_neg hidx, hw]
  dsimp only
  rw [hd]

theorem fetch_header {w : Word} {i : Instr} (hidx : th.clauseIdx = 0) (hpc : th.pc.toNat % 4 = 0) (hw : s.codeWord b th.pc = .ok w)
    (hh : w.toNat / 2 ^ 25 = 127) (hd : decodeWord w.toNat none = .ok i) : s.fetch b t = .instr i := by
  have his : isHeader w = true := by simpa [isHeader] using hh
  simp only [State.fetch, State.thread_of_get hth]
  rw [if_pos hidx, if_neg (not_not.2 hpc), hw]
  dsimp only
  rw [if_pos his, hd]

theorem fetch_misaligned (hidx : th.clauseIdx = 0) (hpc : th.pc.toNat % 4 ≠ 0) : s.fetch b t = .stops (.trap .badTarget th.pc 0) := by
  simp only [State.fetch, State.thread_of_get hth]
  rw [if_pos hidx, if_pos hpc]

end Fetch

/-- Settles O55: the picker's turn reduces to the bundle's word, and the fetch by its place is one of three cases. -/
theorem stepRunsTheDecodedInstruction : Obligations.StepRunsTheDecodedInstruction := by
  refine ⟨?_, ?_, ?_, ?_, ?_, ?_⟩
  · intro s u b t i ha hl ht hp hc hf
    rw [step_of_pick ha hl ht hp, issueBundle_instr hc hf]
  · intro s b t th w i hth hidx hw hd
    exact fetch_inside hth hidx hw hd
  · intro s b t th w i hth hidx hpc hw hh hd
    exact fetch_header hth hidx hpc hw hh hd
  · intro s u b t th w e ha hl ht hp hc hth hidx hw hd
    rw [step_of_pick ha hl ht hp, issueBundle_stops hc (fetch_inside_illegal hth hidx hw hd)]
  · intro s b t th hth hidx hpc
    exact fetch_misaligned hth hidx hpc
  · intro s e rest ha he
    rw [step, ha]
    dsimp only
    rw [he]
    rfl

end Sys2Proof.Machine
end

section
/-! PROOF. What operand codes read and write: O6. -/

namespace Sys2Proof.Machine

open Claims

/-! Changes of a block that keep its threads. -/

theorem getThread_modBlock_of_threads (s : State) (p : Nat) {f : Block → Block} (hf : ∀ x, (f x).threads = x.threads) (b t : Nat) :
    (s.modBlock p f).getThread b t = s.getThread b t := by
  by_cases hb : b = p
  · subst hb
    cases hx : s.getBlock b with
    | none => rw [State.modBlock_none hx]
    | some x => simp [State.getThread, State.getBlock_modBlock_self hx, hx, Block.getThread, hf]
  · simp [State.getThread, State.getBlock_modBlock_other s hb]

theorem sameMemory_of_mem_eq {s s' : State} (h : s'.mem = s.mem) : s.sameMemory s' := fun pa => by rw [State.rd8, State.rd8, h]

theorem modSlice_getThread (s : State) (p : Nat) (f : Slice → Slice) (b t : Nat) : (s.modSlice p f).getThread b t = s.getThread b t :=
  getThread_modBlock_of_threads s p (f := fun x => { x with slice := x.slice.map f }) (fun _ => rfl) b t

theorem freeMark_getThread (s : State) (c p q slot b t : Nat) : (s.freeMark c p q slot).getThread b t = s.getThread b t := by
  unfold State.freeMark
  dsimp only
  split
  · rfl
  · split
    · rfl
    · exact modSlice_getThread s p _ b t

theorem freeMark_mem (s : State) (c p q slot : Nat) : (s.freeMark c p q slot).mem = s.mem := by
  unfold State.freeMark
  dsimp only
  split
  · rfl
  · split
    · rfl
    · simp [State.modSlice]

/-! Reads of lane registers. -/

theorem src_of_not_queue {b t : Nat} {r : LReg} (h : isQueue r = false) : src b t r = readReg b t r := by
  cases r with
  | q n => cases h
  | _ => rfl

theorem readReg_pending {s : State} {b t : Nat} {r : LReg} (h : s.lanePending b t r = true) : readReg b t r s = freeValue s := by
  simp [readReg, h]

/-- Of the parts of O6: each code reads its own register, once nothing in flight is to write it. -/
theorem laneOperandsReadTheirRegister : LaneOperandsReadTheirRegister := by
  intro s b t
  refine ⟨?_, ?_, ?_, ?_, ?_, ?_, ?_, ?_, ?_⟩
  · intro n h
    simp [src, readReg, h, Thread.getV]
  · intro w h hx
    simp [src, readReg, h, hx]
  · intro h hx
    simp [src, readReg, h, hx, freeValue]
  · intro n w h ho
    simp [src, readReg, h, ho]
  · intro n h ho
    simp [src, readReg, h, ho, freeValue]
  · intro h
    simp [src, readReg, h]
  · intro n h hu
    simp [src, readReg, h, hu, Block.getS]
  · intro h
    simp [src, readReg, h]
  · intro r hq h
    rw [src_of_not_queue hq, readReg_pending h]
    rfl

/-! Results discarded. -/

theorem writeReg_zero (th : Thread) (w : Word) : th.writeReg .zero w = th := rfl

theorem clobber_zero_getThread (s : State) (b t b' t' : Nat) : (s.clobber b t .zero).getThread b' t' = s.getThread b' t' := rfl

/-- Of the parts of O6: the code zero takes no result, where the x latch and FPSTAT do. -/
theorem zeroDiscardsAResult : ZeroDiscardsAResult := by
  refine ⟨?_, ?_⟩
  · intro s b t th w fp hth
    have hput : (putRegs b t .zero [w] s).getThread b t = some th :=
      State.getThread_modThread_self (s := s.clobber b t .zero) hth (·.writeReg .zero w)
    exact State.getThread_modThread_self hput _
  · intro s b w x hx
    exact ⟨s.modBlock b (·.writeU .zero w), rfl, State.getBlock_modBlock_self hx _, State.modBlock_mem s b _⟩

/-! Queues. -/

theorem popQueue_taken {s : State} {b t i : Nat} {th : Thread} {w : Word} {ws : List Word} (hth : s.getThread b t = some th)
    (hk : th.taken = some (th.pc, w :: ws)) :
    popQueue b t i s = .ok (w, s.modThread b t fun th' => { th' with taken := if ws.isEmpty then none else some (th.pc, ws) }) := by
  simp [popQueue, State.thread_of_get hth, hk]

theorem popQueue_not_taken {s : State} {b t i : Nat} {th : Thread} (hth : s.getThread b t = some th) (hk : th.taken = none) :
    popQueue b t i s = popEntry b t i s := by
  simp [popQueue, State.thread_of_get hth, hk]

/-- A thread whose head h of queue i has gone on by one entry. -/
def headPast (i h : Nat) (th : Thread) : Thread := { th with qhead := Cells.put 0 i ((h + 1) % 6) th.qhead }

section Entry

variable {s : State} {b t i p : Nat} {sl : Slice} {th : Thread}
  (hq : s.queueSlice (s.block b) i = some (p, sl)) (hth : s.getThread b t = some th)
include hq

theorem popEntry_block (hb : (sl.queue i).block = true) : popEntry b t i s = .error (.trap .qKind 0 0) := by
  simp [popEntry, hq, hb]

include hth

theorem popEntry_empty (hb : (sl.queue i).block = false) (hh : Cells.getD i 0 th.qhead = (sl.queue i).tail) :
    popEntry b t i s = if sl.ended then .error (.trap .hwDead 0 0) else .error (.stall (.popQueue i)) := by
  simp [popEntry, hq, State.thread_of_get hth, hb, hh]

theorem popEntry_in_flight (hb : (sl.queue i).block = false) (hh : Cells.getD i 0 th.qhead ≠ (sl.queue i).tail)
    (hf : sl.inFlight i (Cells.getD i 0 th.qhead) = true) : popEntry b t i s = .error (.stall (.popQueue i)) := by
  simp [popEntry, hq, State.thread_of_get hth, hb, hh, hf]

theorem popEntry_plain (hb : (sl.queue i).block = false) (hh : Cells.getD i 0 th.qhead ≠ (sl.queue i).tail)
    (hf : sl.inFlight i (Cells.getD i 0 th.qhead) = false) (hm : sl.markOf i (Cells.getD i 0 th.qhead % 3) = none) :
    popEntry b t i s = .ok (Cells.getD (3 * i + Cells.getD i 0 th.qhead % 3) 0 th.qslot,
      (s.modThread b t (headPast i (Cells.getD i 0 th.qhead))).freeMark b p i (Cells.getD i 0 th.qhead % 3)) := by
  simp only [popEntry, hq, State.thread_of_get hth, hb, hh, hf, hm, Bool.false_eq_true, if_false, ite_self]
  rfl

end Entry

/-- Of the parts of O6: the branches of a pop, in the order in which they are tried. -/
theorem queueOperandsPop : QueueOperandsPop := by
  refine ⟨?_, ?_⟩
  · intro s b t i th w ws hth hk
    refine ⟨_, popQueue_taken hth hk, ?_, fun b' t' h => State.getThread_modThread_other s h _, sameMemory_of_mem_eq (by simp)⟩
    rw [State.getThread_modThread_self hth]
    simp
  · intro s b t i p sl th hq hth hk
    have hsrc : src b t (.q i) s = popEntry b t i.val s := popQueue_not_taken hth hk
    dsimp only
    rw [hsrc]
    refine ⟨popEntry_block hq, ?_, ?_, popEntry_in_flight hq hth, ?_⟩
    · intro hb hh he
      rw [popEntry_empty hq hth hb hh, he]
      rfl
    · intro hb hh he
      rw [popEntry_empty hq hth hb hh, he]
      rfl
    · intro hb hh hf hm
      refine ⟨_, popEntry_plain hq hth hb hh hf hm, ?_, ?_, ?_⟩
      · rw [freeMark_getThread]
        exact State.getThread_modThread_self hth _
      · intro b' t' h
        rw [freeMark_getThread]
        exact State.getThread_modThread_other s h _
      · exact sameMemory_of_mem_eq (by rw [freeMark_mem, State.modThread_mem])

/-- Settles O6: reads, discarded results and queues, each by the branches of its own operation. -/
theorem operandCodesSayWhatIsReadAndWritten : Obligations.OperandCodesSayWhatIsReadAndWritten :=
  ⟨laneOperandsReadTheirRegister, zeroDiscardsAResult, queueOperandsPop⟩

end Sys2Proof.Machine
end

section
/-! PROOF. How an instruction of a single thread's bundle stops: a trap that its handler takes, and a wait. -/

namespace Sys2Proof.Machine

open Claims

/-! Traps. -/

theorem Cause.code_lt (c : Cause) : c.code < 2 ^ 24 := by cases c <;> decide

/-- TCAUSE as the sum of its fields, and as their union (17 R395). -/
theorem tcause_eq {idx n : Nat} (hi : idx < 32) (hn : n < 2 ^ 24) :
    w32 (2 ^ 31 + idx % 32 * 2 ^ 24 + n) = 0x80000000 ||| w32 (idx * 2 ^ 24) ||| w32 n := by
  have hlow : idx * 2 ^ 24 + n < 2 ^ 31 := by omega
  have hsum : 2 ^ 31 + idx % 32 * 2 ^ 24 + n = 2 ^ 31 ||| idx * 2 ^ 24 ||| n := by
    have h1 := Nat.two_pow_add_eq_or_of_lt hn idx
    have h2 := Nat.two_pow_add_eq_or_of_lt hlow 1
    rw [Nat.mod_eq_of_lt hi, Nat.or_assoc, Nat.mul_comm idx, ← h1]
    rw [Nat.mul_one, Nat.mul_comm idx] at h2
    rw [← h2, Nat.add_assoc]
  rw [hsum, w32, w32, w32, BitVec.ofNat_or, BitVec.ofNat_or]
  rfl

theorem canTrap_getThread {s : State} {b t : Nat} {x : Block} {th : Thread} (h : CanTrap s b t x th) : s.getThread b t = some th :=
  State.getThread_eq_some.2 ⟨x, h.block, h.thread⟩

theorem canTrap_inTrap {s : State} {b t : Nat} {x : Block} {th : Thread} (h : CanTrap s b t x th) : th.inTrap = false := by
  rw [← h.free, Thread.inTrap, BitVec.msb_eq_getLsbD_last]

theorem trapEntry_handled {s : State} {b t : Nat} {x : Block} {th : Thread} (h : CanTrap s b t x th) {idx : Nat} (hi : idx < 32)
    (c : Cause) (addr : DWord) (info : Word) (w r : DWord) :
    OnlyThread s (s.trapEntry b t c addr info w r idx) b t (handled s x th c addr info r idx) := by
  obtain ⟨hv, ha, hc⟩ := h.vector
  have e := trapEntry_lane h.block h.thread h.kind (canTrap_inTrap h) hv ha hc c addr info w r idx
  rw [tcause_eq hi c.code_lt] at e
  exact e

section Stops

variable {s : State} {b t : Nat} {x : Block} {th : Thread}

/-- A trap at the instruction puts its thread in the handler, out of its bundle. -/
theorem stopAt_trap (h : CanTrap s b t x th) (c : Cause) (addr : DWord) (info : Word) :
    OnlyThread s (s.stopAt b t (.trap c addr info)) b t (handled s x th c addr info th.pc th.clauseIdx) := by
  have h1 := trapEntry_handled h h.index c addr info th.pc th.pc
  have h2 := h1.trans (onlyThread_leaveBundle h1.thread)
  obtain ⟨hlife, hmark, -⟩ := h2.keeps h.block
  have hstop : s.stopAt b t (.trap c addr info) =
      ((s.trapEntry b t c addr info th.pc th.pc th.clauseIdx).leaveBundle b t).stopPast b t := by
    simp only [State.stopAt, State.stopThread, State.thread_of_get (canTrap_getThread h)]
  rw [hstop, stopPast_calm hlife hmark h.running]
  rw [h1.now_eq] at h2
  exact h2

/-! Waits. -/

theorem atWaits_resident (hr : x.life = .resident ∧ x.mark = none) : x.atWaits = false := by
  simp [Block.atWaits, hr.1, hr.2]

variable (hx : s.getBlock b = some x) (ht : x.getThread t = some th) (hr : x.life = .resident ∧ x.mark = none)
include hx ht hr

/-- A thread of a running block leaves its bundle and waits. -/
theorem onlyThread_stalled (w : Wait) : OnlyThread s ((s.leaveBundle b t).modThread b t fun th =>
      if (s.block b).atWaits && true then { th.withdraw w with run := .stopped none true } else { th with run := .stalled w })
    b t { th with run := .stalled w, since := s.now } := by
  have h1 := onlyThread_leaveBundle (State.getThread_eq_some.2 ⟨x, hx, ht⟩)
  rw [State.block_of_get hx, atWaits_resident hr]
  exact h1.trans (onlyThread_mod h1.thread fun th => { th with run := .stalled w })

theorem stopAt_line (row reg : Nat) :
    OnlyThread s (s.stopAt b t (.stall (.line row reg))) b t { th with run := .stalled (.line row reg), since := s.now } :=
  onlyThread_stalled hx ht hr (.line row reg)

theorem stopAt_flags (mask : BitVec 12) :
    OnlyThread s (s.stopAt b t (.stall (.flags mask))) b t { th with run := .stalled (.flags mask), since := s.now } :=
  onlyThread_stalled hx ht hr (.flags mask)

end Stops

end Sys2Proof.Machine
end

section
/-! PROOF. The checks before a computing or predicate instruction of a lane block: O8. -/

namespace Sys2Proof.Machine

open Claims

/-- A lane instruction that runs once per thread, may stand anywhere in its clause, counts no flag, and is not of the headwater. -/
structure PlainLane (i : Instr) : Prop where
  runs : ∃ body, ∀ s, exec i s = laneExec i body s
  ends : i.endsClause = false
  flag : i.flagUse = none
  pipe : i.isHeadwater = false

/-- The computing and predicate instructions are such: the rows of the tables of O1 to O4. -/
theorem plainLane_of_isLaneOp {i : Instr} (h : isLaneOp i = true) : PlainLane i := by
  cases i with
  | mov | neg | negSatI32 | abs | absSatI32 | not | popc | clz | ctz | brev | cvtiI8 | cvtiW8 | cvtiI16 | cvtiW16 | cvtiI64
  | cvtiW64 | cvtiSatI8 | cvtiSatW8 | cvtiSatI16 | cvtiSatW16 | cvtiSatW32 | cvtiSatI32 | add | sub | mullo | mulhiI32 | mulhiW32
  | mad | minI32 | minW32 | maxI32 | maxW32 | and | or | xor | andn | shl | shr | sar | fshl | fshr | rotl | bfx | bfi | prmt
  | sel | movi | lit | lea | sad | addI16x2 | subI16x2 | addSatI16x2 | subSatI16x2 | minI16x2 | maxI16x2 | minW16x2 | maxW16x2
  | madI16x2 | faddF32 | fsubF32 | fmulF32 | ffmaF32 | faddH2 | fmulH2 | ffmaH2 | faddB2 | fmulB2 | ffmaB2 | fsubH2 | fsubB2
  | fminF32 | fmaxF32 | fminH2 | fmaxH2 | fminB2 | fmaxB2 | dot2H2 | dot2B2 | dot4E4m3 | dot4E5m2 | frcp | frsq | fsqrt | fexp2
  | flog2 | fsin | fcos | frnd | fcvt | fcvti | icvtf | bpx | rencI32 | rencI64 | radd | rmul | rdec | rchk | addc | subb | setp
  | setv
    => exact ⟨⟨_, fun _ => rfl⟩, rfl, rfl, rfl⟩
  | _ => exact absurd h Bool.false_ne_true

/-- What O8 calls ill-formed at its place: the words, a queue code without a slice, or a literal past the clause (02 R53). -/
def badAt (i : Instr) (x : Block) (th : Thread) : Prop :=
  i.wellFormed = false ∨ (x.hasPair = false ∧ ∃ o ∈ i.laneOps, isQueue o.reg = true) ∨
    (i.takesLiteral = true ∧ th.clauseIdx = clauseCount (th.clause.headD 0))

theorem not_badAt {i : Instr} {x : Block} {th : Thread} (hw : i.wellFormed = true)
    (hq : x.hasPair = true ∨ ∀ o ∈ i.laneOps, isQueue o.reg = false)
    (hl : ¬(i.takesLiteral = true ∧ th.clauseIdx = clauseCount (th.clause.headD 0))) : ¬badAt i x th := by
  rintro (h | ⟨hp, o, ho, hoq⟩ | h)
  · exact absurd (hw.symm.trans h) (by decide)
  · rcases hq with hq | hq
    · exact absurd (hq.symm.trans hp) (by decide)
    · exact absurd (hoq.symm.trans (hq o ho)) (by decide)
  · exact hl h

theorem illegalHere_iff {i : Instr} (hp : PlainLane i) {x : Block} {th : Thread} (hf : th.inTrap = false) :
    illegalHere i x th = true ↔ badAt i x th := by
  simp [illegalHere, badAt, hf, hp.ends, hp.flag, or_assoc]

section Checks

variable {i : Instr} (hp : PlainLane i) {s : State} {b t : Nat} {x : Block} {th : Thread} (hc : CanTrap s b t x th)
include hp hc

theorem laneCheck_bad (h : badAt i x th) : laneCheck i s b t = some (.trap .illegal 0 0) := by
  simp [laneCheck, State.block_of_get hc.block, State.thread_of_get (canTrap_getThread hc), (illegalHere_iff hp (canTrap_inTrap hc)).2 h]

/-- Past the words, the allotment and then the register lines are looked at. -/
theorem laneCheck_good (h : ¬badAt i x th) :
    laneCheck i s b t = (((beyondAllot i x).map fun o => .trap .allotment 0 (w32 o.reg.code)) <|>
      (lineMissing i x t).map fun v => .stall (.line (t / 16) v)) := by
  have hill : illegalHere i x th = false := Bool.eq_false_iff.2 fun e => h ((illegalHere_iff hp (canTrap_inTrap hc)).1 e)
  have hclass : wrongClass i x = false := by simp [wrongClass, hc.kind, hp.pipe]
  have hflag : flagOf i s b t = none := by simp [flagOf, hp.flag]
  rw [laneCheck]
  simp only [State.block_of_get hc.block, State.thread_of_get (canTrap_getThread hc)]
  rw [hill, hclass, hc.kind, hflag]
  cases beyondAllot i x with
  | some o => rfl
  | none => cases lineMissing i x t <;> rfl

end Checks

/-- Settles O8: the first check that fails names the stop, and the stop touches the thread alone. -/
theorem checksComeBeforeExecutionInOrder : Obligations.ChecksComeBeforeExecutionInOrder := by
  intro i s b t x th hi hcur hc
  have hp := plainLane_of_isLaneOp hi
  obtain ⟨body, hrun⟩ := hp.runs
  have stops (st : Stop) (hk : laneCheck i s b t = some st) : exec i s = .next (s.stopAt b t st) :=
    (hrun s).trans (laneExec_checked hcur hk)
  refine ⟨?_, ?_, ?_⟩
  · intro h
    exact ⟨_, stops _ (laneCheck_bad hp hc h), stopAt_trap hc .illegal 0 0⟩
  · intro hw hq hl o ho
    have hk := laneCheck_good hp hc (not_badAt hw hq hl)
    rw [ho] at hk
    exact ⟨_, stops _ hk, stopAt_trap hc .allotment 0 (w32 o.reg.code)⟩
  · intro hw hq hl ho v hv
    have hk := laneCheck_good hp hc (not_badAt hw hq hl)
    rw [ho, hv] at hk
    exact ⟨_, stops _ hk, stopAt_line hc.block hc.thread hc.running (t / 16) v⟩

end Sys2Proof.Machine
end

section
/-! PROOF. Clause headers: O11. -/

namespace Sys2Proof.Machine

open Claims

/-! The fields of a header word (02 R44). -/

section Header

variable (count : BitVec 4) (wait : BitVec 12) (seta setb : BitVec 4) (point : Bool)

/-- The header word of these fields. -/
def header : Word := w32 (headerWord count.toNat wait.toNat seta.toNat setb.toNat point.toNat)

theorem fields_lt :
    count.toNat < 16 ∧ wait.toNat < 4096 ∧ seta.toNat < 16 ∧ setb.toNat < 16 ∧ point.toNat < 2 :=
  ⟨count.isLt, wait.isLt, seta.isLt, setb.isLt, point.toNat_lt⟩

theorem header_toNat : (header count wait seta setb point).toNat =
    4261412864 + count.toNat * 2097152 + wait.toNat * 512 + seta.toNat * 32 + setb.toNat * 2 + point.toNat := by
  rw [header, w32, BitVec.toNat_ofNat, headerWord, Nat.mod_eq_of_lt]
  have hlt := fields_lt count wait seta setb point
  omega

theorem clauseCount_header : clauseCount (header count wait seta setb point) = if count = 0 then 16 else count.toNat := by
  have hfield : field (header count wait seta setb point).toNat 21 4 = count.toNat := by
    rw [field, header_toNat]
    have hlt := fields_lt count wait seta setb point
    omega
  simp only [clauseCount, hfield, BitVec.toNat_eq]
  rfl

theorem wait_header : BitVec.ofNat 12 ((header count wait seta setb point).toNat / 512) = wait := by
  apply BitVec.eq_of_toNat_eq
  rw [header_toNat, BitVec.toNat_ofNat]
  have hlt := fields_lt count wait seta setb point
  omega

theorem seta_header : field (header count wait seta setb point).toNat 5 4 = seta.toNat := by
  rw [field, header_toNat]
  have hlt := fields_lt count wait seta setb point
  omega

theorem setb_header : field (header count wait seta setb point).toNat 1 4 = setb.toNat := by
  rw [field, header_toNat]
  have hlt := fields_lt count wait seta setb point
  omega

theorem badSets_header : badSets (header count wait seta setb point) = false ↔ setOk seta ∧ setOk setb := by
  have := seta.isLt
  have := setb.isLt
  simp only [badSets, seta_header, setb_header, setOk, Bool.or_eq_false_iff, Bool.and_eq_false_iff, decide_eq_false_iff_not]
  omega

end Header

/-! Flags of a wait (02 R50, 07 R198). -/

theorem flagsZero_iff {th : Thread} {mask : BitVec 12} : th.flagsZero mask = true ↔ countsZero th mask := by
  simp only [Thread.flagsZero, countsZero, List.all_eq_true, List.mem_range, Bool.or_eq_true, Bool.not_eq_true', beq_iff_eq]
  exact forall₂_congr fun f _ => by cases mask.getLsbD f <;> simp

/-- The thread of a state stands where another's does, with the same commands counted. -/
def SamePlace (b t : Nat) (th : Thread) (s : State) : Prop :=
  ∃ th', s.getThread b t = some th' ∧ th'.pc = th.pc ∧ th'.cmds = th.cmds

theorem validate_pc_cmds (th : Thread) (sc : Scope) : (th.validate sc).pc = th.pc ∧ (th.validate sc).cmds = th.cmds := by
  unfold Thread.validate
  dsimp only
  split <;> exact ⟨rfl, rfl⟩

theorem acquireAt_getThread (s : State) (core : Nat) (sc : Scope) (b t : Nat) :
    (s.acquireAt core sc).getThread b t = s.getThread b t := by
  unfold State.acquireAt
  split <;> rfl

theorem acquireFor_samePlace {s : State} {b t : Nat} {th : Thread} (h : SamePlace b t th s) (core : Nat) (sc : Scope) :
    SamePlace b t th (s.acquireFor b [t] core sc) := by
  obtain ⟨th', hth, hpc, hcmds⟩ := h
  obtain ⟨vpc, vcmds⟩ := validate_pc_cmds th' sc
  have hacq : (s.acquireAt core sc).getThread b t = some th' := (acquireAt_getThread s core sc b t).trans hth
  exact ⟨_, State.getThread_modThread_self hacq (·.validate sc), vpc.trans hpc, vcmds.trans hcmds⟩

theorem foldl_acquireFor_samePlace {b t : Nat} {th : Thread} (es : List (Nat × Scope)) {s : State} (h : SamePlace b t th s) :
    SamePlace b t th (es.foldl (fun (s : State) e => s.acquireFor b [t] (s.block b).padCore e.2) s) := by
  induction es generalizing s with
  | nil => exact h
  | cons e es ih => exact ih (acquireFor_samePlace h _ _)

section Waited

variable {s : State} {b t : Nat} {th : Thread} (hth : s.getThread b t = some th) (mask : BitVec 12)
include hth

theorem flagsWaited_no_commands (h : ∀ e ∈ th.cmds, mask.getLsbD e.1 = false) : flagsWaited b t mask s = .ok ((), s) := by
  have hhit : (th.cmds.filter fun e => mask.getLsbD e.1) = [] := List.filter_eq_nil_iff.2 fun e he => by simp [h e he]
  simp [flagsWaited, State.thread_of_get hth, hhit]

/-- With no .spec atomic pending the wait is over: its commands are counted no more, and the thread stands where it stood. -/
theorem flagsWaited_ok (h : s.specPending b [t] s.seq = false) :
    ∃ s' th', flagsWaited b t mask s = .ok ((), s') ∧ s'.getThread b t = some th' ∧ th'.pc = th.pc ∧
      ∀ e ∈ th'.cmds, mask.getLsbD e.1 = false := by
  by_cases hhit : ∀ e ∈ th.cmds, mask.getLsbD e.1 = false
  · exact ⟨s, th, flagsWaited_no_commands hth mask hhit, hth, rfl, hhit⟩
  · have hne : (th.cmds.filter fun e => mask.getLsbD e.1).isEmpty = false := by
      simpa using hhit
    obtain ⟨th', hth', hpc, hcmds⟩ := foldl_acquireFor_samePlace (th.cmds.filter fun e => mask.getLsbD e.1) ⟨th, hth, rfl, rfl⟩
    have hend := State.getThread_modThread_self hth' fun th => { th with cmds := th.cmds.filter fun e => !mask.getLsbD e.1 }
    refine ⟨_, _, ?_, hend, hpc, ?_⟩
    · simp only [flagsWaited, State.thread_of_get hth, hne, h, Bool.not_false, Bool.and_false, Bool.false_eq_true, if_false]
    · intro e he
      simpa using (List.mem_filter.1 he).2

end Waited

/-! A header at its thread (02 R45, R46). -/

section Start

variable {w : Word} {s : State} {b t : Nat} {x : Block} {th : Thread}

theorem startClause_illegal (hth : s.getThread b t = some th) (h : th.clauseIdx ≠ 0 ∨ badSets w = true) :
    startClause w b t s = .error (.trap .illegal 0 0) := by
  by_cases hidx : th.clauseIdx = 0
  · simp [startClause, State.thread_of_get hth, hidx, h.resolve_left (not_not.2 hidx)]
  · simp [startClause, State.thread_of_get hth, hidx]

variable (h : Stands s b t x th) (hidx : th.clauseIdx = 0) (hb : badSets w = false)
include h

theorem stands_getThread : s.getThread b t = some th := State.getThread_eq_some.2 ⟨x, h.block, h.thread⟩

include hidx hb

theorem startClause_waits (hz : th.flagsZero (BitVec.ofNat 12 (w.toNat / 512)) = false) :
    startClause w b t s = .error (.stall (.flags (BitVec.ofNat 12 (w.toNat / 512)))) := by
  simp [startClause, State.thread_of_get (stands_getThread h), State.block_of_get h.block, hidx, hb, atWaits_resident h.resident, hz]

theorem startClause_starts {ws : List Word} {s' : State} (hz : th.flagsZero (BitVec.ofNat 12 (w.toNat / 512)) = true)
    (hw : s.codeWords b (th.pc + 4) (clauseCount w) = .ok ws)
    (hf : flagsWaited b t (BitVec.ofNat 12 (w.toNat / 512)) s = .ok ((), s')) :
    startClause w b t s = .ok (.placed, s'.modThread b t (begun · w ws)) := by
  simp only [startClause, State.thread_of_get (stands_getThread h), State.block_of_get h.block, hidx, hb, atWaits_resident h.resident, hz]
  rw [hw]
  simp only [ne_eq, not_true_eq_false, Bool.false_eq_true, Bool.false_and, Bool.not_true, if_false, hf]
  rfl

end Start

/-! The instruction. -/

section Exec

variable {count : BitVec 4} {wait : BitVec 12} {seta setb : BitVec 4} {point : Bool} {s : State} {b t : Nat}
  (hcur : s.cur = [(b, t)])
include hcur

theorem exec_header_ok {fl : Flow} {s' : State} (h : startClause (header count wait seta setb point) b t s = .ok (fl, s')) :
    exec (.clauseHeader count wait seta setb point) s = .next s' := by
  have he : exec (.clauseHeader count wait seta setb point) s = execClauseHeader count wait seta setb point s := rfl
  rw [header] at h
  simp [he, execClauseHeader, hcur, h]

theorem exec_header_stop {st : Stop} (h : startClause (header count wait seta setb point) b t s = .error st) :
    exec (.clauseHeader count wait seta setb point) s = .next (s.stopAt b t st) := by
  have he : exec (.clauseHeader count wait seta setb point) s = execClauseHeader count wait seta setb point s := rfl
  rw [header] at h
  simp [he, execClauseHeader, hcur, h]

end Exec

/-- Of the parts of O11: a header at a boundary with good fields starts its clause, or waits for its flags. -/
theorem headersStartTheirClause : HeadersStartTheirClause := by
  intro count wait seta setb point s b t x th ws h hidx hseta hsetb
  have hth := stands_getThread h
  have hb := (badSets_header count wait seta setb point).2 ⟨hseta, hsetb⟩
  have starts {s' : State} (hz : countsZero th wait)
      (hw : s.codeWords b (th.pc + 4) (if count = 0 then 16 else count.toNat) = .ok ws) (hf : flagsWaited b t wait s = .ok ((), s')) :
      exec (.clauseHeader count wait seta setb point) s =
        .next (s'.modThread b t (begun · (header count wait seta setb point) ws)) := by
    refine exec_header_ok h.alone (startClause_starts h hidx hb ?_ ?_ ?_)
    · rw [wait_header]
      exact flagsZero_iff.2 hz
    · rw [clauseCount_header]
      exact hw
    · rw [wait_header]
      exact hf
  refine ⟨?_, ?_, ?_⟩
  · intro hz hw hcmds
    exact ⟨_, starts hz hw (flagsWaited_no_commands hth wait hcmds), onlyThread_mod hth _⟩
  · intro hz hw hspec
    obtain ⟨s', th', hf, hth', hpc, hcmds⟩ := flagsWaited_ok hth wait hspec
    refine ⟨_, starts hz hw hf, ?_⟩
    rw [State.thread_modThread_self hth']
    exact ⟨rfl, rfl, congrArg (· + 4) hpc, hcmds⟩
  · intro hz
    have hnz : th.flagsZero wait = false := Bool.eq_false_iff.2 fun e => hz (flagsZero_iff.1 e)
    rw [← wait_header count wait seta setb point] at hnz
    have hstop := exec_header_stop h.alone (startClause_waits h hidx hb hnz)
    rw [wait_header] at hstop
    exact ⟨_, hstop, stopAt_flags h.block h.thread h.resident wait⟩

/-- Of the parts of O11: a header in a clause body, or with a bad flag field, is ILLEGAL. -/
theorem misplacedHeadersTrap : MisplacedHeadersTrap := by
  intro count wait seta setb point s b t x th hcur hc hbad
  have hill : th.clauseIdx ≠ 0 ∨ badSets (header count wait seta setb point) = true := by
    refine hbad.imp_right fun hset => ?_
    rw [← Bool.not_eq_false, badSets_header]
    tauto
  exact ⟨_, exec_header_stop hcur (startClause_illegal (canTrap_getThread hc) hill), stopAt_trap hc .illegal 0 0⟩

/-- Settles O11: the header's fields are read back from its word, and the start of a clause tries its branches in order. -/
theorem headersStartTheirClauseOrTrap : Obligations.HeadersStartTheirClauseOrTrap := ⟨headersStartTheirClause, misplacedHeadersTrap⟩

end Sys2Proof.Machine
end

section
/-! PROOF. How an instruction that a thread issues alone ends: it retires, or it stops. -/

namespace Sys2Proof.Machine

open Claims

/-! What a thread and a block answer when they are looked at. -/

section Looks

variable {s : State} {b t : Nat} {x : Block} {th : Thread}

theorem getT_run (h : s.getThread b t = some th) : getT b t s = .ok (th, s) := by rw [getT, State.thread_of_get h]

theorem pcOf_run (h : s.getThread b t = some th) : pcOf b t s = .ok (th.pc, s) := by rw [pcOf, State.thread_of_get h]

theorem getPred_run (h : s.getThread b t = some th) (p : Nat) : getPred b t p s = .ok (th.getP p, s) := by
  rw [getPred, State.thread_of_get h]

theorem getB_run (h : s.getBlock b = some x) : getB b s = .ok (x, s) := by rw [getB, State.block_of_get h]

end Looks

/-! What retiring leaves, over what the instruction itself changed of its thread. -/

section Retires

variable {s s1 : State} {b t words : Nat} {th : Thread} (h : OnlyThread s s1 b t th)
  (hr : (s.block b).life = .resident ∧ (s.block b).mark = none)
include h hr

/-- A thread that was changed alone still stands in a block that runs. -/
theorem OnlyThread.resident : ∃ y, s1.getBlock b = some y ∧ y.getThread t = some th ∧ y.life = .resident ∧ y.mark = none := by
  obtain ⟨y, hy, hyt⟩ := State.getThread_eq_some.1 h.thread
  have e := h.blocks b
  rw [State.block_of_get hy] at e
  exact ⟨y, hy, hyt, (congrArg Block.life e).trans hr.1, (congrArg Block.mark e).trans hr.2⟩

theorem OnlyThread.retire_fall : OnlyThread s (s1.retire b t words .fall) b t (th.advance words) := by
  obtain ⟨y, hy, hyt, hrun⟩ := h.resident hr
  exact h.trans (Machine.retire_fall hy (State.getThread_eq_some.2 ⟨y, hy, hyt⟩) hrun)

theorem OnlyThread.retire_goto (pc : DWord) :
    OnlyThread s (s1.retire b t words (.goto pc)) b t { th.jump pc with since := s.now } := by
  obtain ⟨y, hy, hyt, hrun⟩ := h.resident hr
  have hend := h.trans (Machine.retire_goto (words := words) (pc := pc) hy (State.getThread_eq_some.2 ⟨y, hy, hyt⟩) hrun)
  rwa [h.now_eq] at hend

end Retires

theorem advance_eq_gone (th : Thread) (words : Nat) : th.advance words = gone th words := rfl

section Alone

variable {i : Instr} {s s1 : State} {b t : Nat} {x : Block} {th : Thread} (h : Runs i s b t x th)
include h

theorem runs_getThread : s.getThread b t = some th := State.getThread_eq_some.2 ⟨x, h.block, h.thread⟩

theorem runs_resident : (s.block b).life = .resident ∧ (s.block b).mark = none := by
  rw [State.block_of_get h.block]
  exact h.resident

variable {body : Nat → Nat → M Flow}

theorem laneExec_retires {fl : Flow} (hb : body b t s = .ok (fl, s1)) :
    laneExec i body s = .next (s1.retire b t (wordsOf i) fl) := by
  obtain ⟨hcur, hcheck, -⟩ := h.issues
  refine laneExec_one hcur hcheck hb ?_
  simp [State.twinsDiffer, State.thread_of_get (runs_getThread h), h.twin]

theorem laneExec_stops {st : Stop} (hb : body b t s = .error st) : laneExec i body s = .next (s.stopAt b t st) := by
  obtain ⟨hcur, hcheck, -⟩ := h.issues
  exact laneExec_stop hcur hcheck hb

/-- An instruction that changes nothing moves its thread past its one word. -/
theorem laneExec_passes (hw : wordsOf i = 1) (hb : body b t s = .ok (.fall, s)) :
    ∃ s', laneExec i body s = .next s' ∧ OnlyThread s s' b t (gone th 1) := by
  refine ⟨_, laneExec_retires h hb, ?_⟩
  rw [hw, ← advance_eq_gone]
  exact (OnlyThread.refl (runs_getThread h)).retire_fall (runs_resident h)

end Alone

end Sys2Proof.Machine
end

section
/-! PROOF. Branches, calls and returns: O10. -/

namespace Sys2Proof.Machine

open Claims

/-! Offsets and targets (02 R34, 03 R100). -/

theorem sextNat_toNat {n : Nat} (v : BitVec n) : sextNat n v.toNat = v.toInt := by
  rw [sextNat, BitVec.toInt_eq_toNat_cond, Nat.mod_eq_of_lt v.isLt]
  split <;> split <;> omega

theorem add_wordOffset {n : Nat} (pc : DWord) (off : BitVec n) : pc + wordOffset n off.toNat = offsetFrom pc off := by
  rw [wordOffset, sextNat_toNat, offsetFrom]

/-- A target that no transfer may take: it is not aligned, or its word is no header. -/
def BadTarget (s : State) (b : Nat) (tgt : DWord) : Prop :=
  tgt.toNat % 4 ≠ 0 ∨ ∃ w, s.codeWord b tgt = .ok w ∧ w.toNat / 2 ^ 25 ≠ 127

theorem checkTarget_good {s : State} {b : Nat} {tgt : DWord} (h : GoodTarget s b tgt) : checkTarget b tgt s = .ok ((), s) := by
  obtain ⟨halign, w, hw, hhead⟩ := h
  have his : isHeader w = true := by simpa [isHeader] using hhead
  simp [checkTarget, halign, hw, his]

theorem checkTarget_bad {s : State} {b : Nat} {tgt : DWord} (h : BadTarget s b tgt) :
    checkTarget b tgt s = .error (.trap .badTarget tgt 0) := by
  by_cases halign : tgt.toNat % 4 = 0
  · obtain ⟨w, hw, hhead⟩ := h.resolve_left (not_not.2 halign)
    have his : isHeader w = false := by simpa [isHeader] using hhead
    simp [checkTarget, halign, hw, his]
  · simp [checkTarget, halign]

/-! Targets read from registers. -/

theorem freeValue_fresh {s s1 : State} {w : Word} (h : freeValue s = .ok (w, s1)) : ∃ n, s1 = { s with fresh := n } := by
  obtain ⟨-, rfl⟩ := Prod.mk.inj (Except.ok.inj h)
  exact ⟨_, rfl⟩

/-- Reading a register uses up at most an undefined value. -/
theorem readReg_fresh {s s1 : State} {b t : Nat} {r : LReg} {w : Word} (h : readReg b t r s = .ok (w, s1)) :
    ∃ n, s1 = { s with fresh := n } := by
  have same {v : Word} (e : (.ok (v, s) : Except Stop (Word × State)) = .ok (w, s1)) : ∃ n, s1 = { s with fresh := n } :=
    ⟨s.fresh, (Prod.mk.inj (Except.ok.inj e)).2.symm⟩
  unfold readReg at h
  dsimp only at h
  split at h
  · exact freeValue_fresh h
  · split at h
    case h_2 | h_3 =>
      split at h
      · exact same h
      · exact freeValue_fresh h
    case h_5 =>
      split at h
      · exact freeValue_fresh h
      · exact same h
    all_goals exact same h

theorem src2_fresh {s s1 : State} {b t : Nat} {a : LReg} {d : DWord} (h : src2 b t a s = .ok (d, s1)) :
    ∃ n, s1 = { s with fresh := n } := by
  rw [src2] at h
  cases hlo : readReg b t a s with
  | error e =>
    rw [bind_error hlo] at h
    cases h
  | ok lo =>
    rw [bind_ok hlo] at h
    cases hhi : readReg b t (a.plus 1) lo.2 with
    | error e =>
      rw [bind_error hhi] at h
      cases h
    | ok hi =>
      rw [bind_ok hhi] at h
      obtain ⟨n, hn⟩ := readReg_fresh hlo
      obtain ⟨m, hm⟩ := readReg_fresh hhi
      obtain ⟨-, rfl⟩ := Prod.mk.inj (Except.ok.inj h)
      exact ⟨m, by rw [hm, hn]⟩

/-- Reading its target leaves a transfer's thread and block where they were. -/
theorem readsTarget_keeps {i : Instr} {s s1 : State} {b t : Nat} {reg : DWord} (h : readsTarget i s s1 b t reg) :
    s1.getThread b t = s.getThread b t ∧ s1.block b = s.block b ∧ s1.now = s.now := by
  have hfresh : ∃ n, s1 = { s with fresh := n } := by
    cases i with
    | brx a => exact src2_fresh h
    | callx a => exact src2_fresh h
    | _ => exact ⟨s.fresh, h⟩
  obtain ⟨n, rfl⟩ := hfresh
  exact ⟨rfl, rfl, rfl⟩

/-! The transfers themselves. -/

section Taken

variable {i : Instr} {s s1 : State} {b t : Nat} {th : Thread} {reg tgt : DWord} {stack : List DWord}

/-- A call's end: an entry on a stack that has room for it. -/
def pushCall (b t : Nat) (tgt : DWord) : M Flow := do
  let th ← getT b t
  if th.stack.length ≥ 64 then trap .stackOvf
  updT b t fun th => { th with stack := (th.pc + 4) :: th.stack }
  return .goto tgt

theorem callTo_eq (b t : Nat) (tgt : DWord) : callTo b t tgt = checkTarget b tgt >>= fun _ => pushCall b t tgt := rfl

theorem branchTo_eq (b : Nat) (tgt : DWord) : branchTo b tgt = checkTarget b tgt >>= fun _ => pure (.goto tgt) := rfl

theorem pushCall_room (hth : s.getThread b t = some th) (hroom : th.stack.length < 64) :
    pushCall b t tgt s = .ok (.goto tgt, s.modThread b t fun th => { th with stack := (th.pc + 4) :: th.stack }) := by
  have hlen : ¬th.stack.length ≥ 64 := by omega
  simp only [pushCall]
  rw [bind_ok (getT_run hth)]
  simp only [if_neg hlen]
  rfl

theorem pushCall_full (hth : s.getThread b t = some th) (hfull : 64 ≤ th.stack.length) :
    pushCall b t tgt s = .error (.trap .stackOvf 0 0) := by
  simp only [pushCall]
  rw [bind_ok (getT_run hth)]
  simp only [if_pos (show th.stack.length ≥ 64 from hfull)]
  rfl

/-- The thread as a call, a return or a plain branch leaves its stack. -/
theorem onlyThread_stack (hth : s.getThread b t = some th) {f : Thread → Thread} (hf : f th = { th with stack }) :
    OnlyThread s (s.modThread b t f) b t { th with stack } := hf ▸ onlyThread_mod hth f

/-- A call comes to `callTo` once its target is known. -/
theorem exec_call (hth : s.getThread b t = some th) (hcall : (∃ off, i = .call off) ∨ ∃ a, i = .callx a)
    (htr : transfer i th reg = some (some (tgt, stack))) (hread : readsTarget i s s1 b t reg) :
    (∃ body, exec i s = laneExec i body s ∧ body b t s = callTo b t tgt s1) ∧ stack = (th.pc + 4) :: th.stack := by
  obtain ⟨off, rfl⟩ | ⟨a, rfl⟩ := hcall
  · obtain ⟨rfl, rfl⟩ := Prod.mk.inj (Option.some.inj (Option.some.inj htr))
    cases hread
    refine ⟨⟨_, rfl, ?_⟩, rfl⟩
    rw [bind_ok (pcOf_run hth), add_wordOffset]
  · obtain ⟨rfl, rfl⟩ := Prod.mk.inj (Option.some.inj (Option.some.inj htr))
    have hsrc : targetPair b t a s = .ok (reg, s1) := hread
    exact ⟨⟨_, rfl, by rw [bind_ok hsrc]⟩, rfl⟩

/-- A transfer to a target is the check of the target, and then a step that sets the stack. -/
theorem exec_transfer (hth : s.getThread b t = some th) (htr : transfer i th reg = some (some (tgt, stack)))
    (hread : readsTarget i s s1 b t reg) (hfit : stackFits i th) :
    ∃ body k s2, exec i s = laneExec i body s ∧ body b t s = (checkTarget b tgt >>= fun _ => k) s1 ∧
      k s1 = .ok (.goto tgt, s2) ∧ OnlyThread s1 s2 b t { th with stack } := by
  have hth1 : s1.getThread b t = some th := (readsTarget_keeps hread).1.trans hth
  cases i with
  | bra off =>
    obtain ⟨rfl, rfl⟩ := Prod.mk.inj (Option.some.inj (Option.some.inj htr))
    cases hread
    refine ⟨_, pure (.goto _), s, rfl, ?_, rfl, .refl hth⟩
    rw [bind_ok (pcOf_run hth), add_wordOffset, branchTo_eq]
  | brp p off =>
    cases hread
    have htr := Option.some.inj htr
    by_cases hp : th.getP p.val = true
    · rw [if_pos hp] at htr
      obtain ⟨rfl, rfl⟩ := Prod.mk.inj (Option.some.inj htr)
      refine ⟨_, pure (.goto _), s, rfl, ?_, rfl, .refl hth⟩
      rw [bind_ok (getPred_run hth p.val), if_pos hp,
        bind_ok (pcOf_run hth), add_wordOffset, branchTo_eq]
    · rw [if_neg hp] at htr
      cases htr
  | brn p off =>
    cases hread
    have htr := Option.some.inj htr
    by_cases hp : th.getP p.val = true
    · rw [if_pos hp] at htr
      cases htr
    · rw [if_neg hp] at htr
      obtain ⟨rfl, rfl⟩ := Prod.mk.inj (Option.some.inj htr)
      refine ⟨_, pure (.goto _), s, rfl, ?_, rfl, .refl hth⟩
      rw [bind_ok (getPred_run hth p.val), if_neg hp,
        bind_ok (pcOf_run hth), add_wordOffset, branchTo_eq]
  | brx a =>
    obtain ⟨rfl, rfl⟩ := Prod.mk.inj (Option.some.inj (Option.some.inj htr))
    have hsrc : targetPair b t a s = .ok (reg, s1) := hread
    refine ⟨_, pure (.goto reg), s1, rfl, ?_, rfl, .refl hth1⟩
    rw [bind_ok hsrc, branchTo_eq]
  | call off =>
    obtain ⟨⟨body, he, hb⟩, rfl⟩ := exec_call hth (.inl ⟨off, rfl⟩) htr hread
    exact ⟨body, pushCall b t tgt, _, he, hb, pushCall_room hth1 hfit, onlyThread_stack hth1 rfl⟩
  | callx a =>
    obtain ⟨⟨body, he, hb⟩, rfl⟩ := exec_call hth (.inr ⟨a, rfl⟩) htr hread
    exact ⟨body, pushCall b t tgt, _, he, hb, pushCall_room hth1 hfit, onlyThread_stack hth1 rfl⟩
  | ret =>
    obtain ⟨rfl, rfl⟩ := Prod.mk.inj (Option.some.inj (Option.some.inj htr))
    cases hread
    obtain ⟨tgt, rest, hst⟩ := List.exists_cons_of_ne_nil hfit
    refine ⟨_, (do updT b t fun th => { th with stack := rest }; return .goto _), _, rfl, ?_, rfl, onlyThread_stack hth ?_⟩
    · rw [bind_ok (getT_run hth), hst]
      rfl
    · rw [hst]
      rfl
  | _ => cases htr

/-- BRP and BRN that are not taken fall through. -/
theorem exec_untaken (hth : s.getThread b t = some th) (htr : transfer i th reg = some none) (hread : readsTarget i s s1 b t reg) :
    s1 = s ∧ wordsOf i = 1 ∧ ∃ body, exec i s = laneExec i body s ∧ body b t s = .ok (.fall, s) := by
  cases i with
  | brp p off =>
    have htr := Option.some.inj htr
    by_cases hp : th.getP p.val = true
    · rw [if_pos hp] at htr
      cases htr
    · refine ⟨hread, rfl, _, rfl, ?_⟩
      rw [bind_ok (getPred_run hth p.val), if_neg hp]
      rfl
  | brn p off =>
    have htr := Option.some.inj htr
    by_cases hp : th.getP p.val = true
    · refine ⟨hread, rfl, _, rfl, ?_⟩
      rw [bind_ok (getPred_run hth p.val), if_pos hp]
      rfl
    · rw [if_neg hp] at htr
      cases htr
  | _ => cases htr

end Taken

/-- Of the parts of O10: a taken transfer stands at its target, one not taken goes on. -/
theorem transfersGoToTheirTarget : TransfersGoToTheirTarget := by
  intro i s s1 b t x th reg o h htr hread hfit
  have hth := runs_getThread h
  match o with
  | some (tgt, stack) =>
    intro hgood
    obtain ⟨body, k, s2, he, hb, hk, honly⟩ := exec_transfer hth htr hread hfit
    rw [bind_ok (checkTarget_good hgood), hk] at hb
    obtain ⟨-, hblock, hnow⟩ := readsTarget_keeps hread
    have hend := honly.retire_goto (words := wordsOf i) (hblock ▸ runs_resident h) tgt
    rw [hnow] at hend
    exact ⟨_, he.trans (laneExec_retires h hb), hend⟩
  | none =>
    obtain ⟨rfl, hw, body, he, hb⟩ := exec_untaken hth htr hread
    rw [he]
    exact laneExec_passes h hw hb

/-- Of the parts of O10: what a bad target, a full stack and an empty one trap as. -/
theorem badTransfersTrap : BadTransfersTrap := by
  intro i s s1 b t x th reg h hc hread
  have hth := runs_getThread h
  refine ⟨?_, ?_, ?_⟩
  · intro tgt stack htr hfit hbad
    obtain ⟨body, k, s2, he, hb, -, -⟩ := exec_transfer hth htr hread hfit
    rw [bind_error (checkTarget_bad hbad)] at hb
    exact ⟨_, he.trans (laneExec_stops h hb), stopAt_trap hc .badTarget tgt 0⟩
  · intro tgt stack hcall htr hgood hfull
    obtain ⟨⟨body, he, hb⟩, -⟩ := exec_call hth hcall htr hread
    have hth1 := (readsTarget_keeps hread).1.trans hth
    rw [callTo_eq, bind_ok (checkTarget_good hgood), pushCall_full hth1 hfull] at hb
    exact ⟨_, he.trans (laneExec_stops h hb), stopAt_trap hc .stackOvf 0 0⟩
  · rintro rfl hempty
    have he : exec .ret s = execRet s := rfl
    rw [he, execRet]
    refine ⟨_, laneExec_stops h ?_, stopAt_trap hc .stackUnf 0 0⟩
    rw [bind_ok (getT_run hth), hempty]
    rfl

/-- Settles O10: every transfer checks its target and then sets its stack; what fails on the way is the trap. -/
theorem transfersGoToTheirTargetOrTrap : Obligations.TransfersGoToTheirTargetOrTrap := ⟨transfersGoToTheirTarget, badTransfersTrap⟩

end Sys2Proof.Machine
end

section
/-! PROOF. NOP, WAITF, ACQUIRE and RECONV: the waiting instructions of O12. -/

namespace Sys2Proof.Machine

open Claims

/-- What a block holds besides its threads stays when one of them changes. -/
theorem block_modThread_field {α : Type} (p : Block → α) (hp : ∀ y : Block, p { y with threads := [] } = p y) (s : State) (b t : Nat)
    (f : Thread → Thread) (c : Nat) : p ((s.modThread b t f).block c) = p (s.block c) := by
  rw [← hp, block_modThread, hp]

theorem nopGoesOn {s : State} {b t : Nat} {x : Block} {th : Thread} (h : Runs .nop s b t x th) :
    ∃ s', exec .nop s = .next s' ∧ OnlyThread s s' b t (gone th 1) := by
  have he : exec .nop s = execNop s := rfl
  rw [he, execNop]
  exact laneExec_passes h rfl rfl

/-! Retiring leaves a thread past its instruction, whatever its block is doing. -/

theorem SamePlace.leaveBundle {s : State} {b t : Nat} {th : Thread} (h : SamePlace b t th s) : SamePlace b t th (s.leaveBundle b t) := by
  obtain ⟨th', hth, hpc, hcmds⟩ := h
  exact ⟨_, (onlyThread_leaveBundle hth).thread, hpc, hcmds⟩

theorem SamePlace.stopPast {s : State} {b t : Nat} {th : Thread} (h : SamePlace b t th s) : SamePlace b t th (s.stopPast b t) := by
  unfold State.stopPast
  dsimp only
  split
  · obtain ⟨th', hth, hpc, hcmds⟩ := h
    exact SamePlace.leaveBundle ⟨_, State.getThread_modThread_self hth _, hpc, hcmds⟩
  · exact h

theorem advance_pc (th : Thread) (words : Nat) : (th.advance words).pc = th.pc + w64 (4 * words) := by
  unfold Thread.advance
  dsimp only
  split <;> rfl

theorem advance_cmds (th : Thread) (words : Nat) : (th.advance words).cmds = th.cmds := by
  unfold Thread.advance
  dsimp only
  split <;> rfl

theorem retire_fall_samePlace {s : State} {b t : Nat} {th : Thread} (hth : s.getThread b t = some th) (words : Nat) :
    SamePlace b t (th.advance words) (s.retire b t words .fall) :=
  SamePlace.stopPast ⟨_, (onlyThread_dropLatches (State.getThread_modThread_self hth _)).thread, rfl, rfl⟩

/-! WAITF (03 R104). -/

section Waitf

variable {mask : BitVec 12} {s : State} {b t : Nat} {x : Block} {th : Thread}

/-- What WAITF does in one thread. -/
def waitfBody (mask : BitVec 12) (b t : Nat) : M Flow := do
  let th ← getT b t
  if !th.flagsZero mask then stall (.flags mask)
  flagsWaited b t mask
  return .fall

theorem exec_waitf (mask : BitVec 12) (s : State) : exec (.waitf mask) s = laneExec (.waitf mask) (waitfBody mask) s := rfl

theorem waitfBody_zero {s' : State} (hth : s.getThread b t = some th) (hz : countsZero th mask) (hf : flagsWaited b t mask s = .ok ((), s')) :
    waitfBody mask b t s = .ok (.fall, s') := by
  simp only [waitfBody]
  rw [bind_ok (getT_run hth), flagsZero_iff.2 hz]
  exact bind_ok hf

theorem waitfBody_stalls (hth : s.getThread b t = some th) (hz : ¬countsZero th mask) :
    waitfBody mask b t s = .error (.stall (.flags mask)) := by
  simp only [waitfBody]
  rw [bind_ok (getT_run hth),
    Bool.eq_false_iff.2 fun e => hz (flagsZero_iff.1 e)]
  rfl

variable (h : Runs (.waitf mask) s b t x th)
include h

theorem waitfPasses (hz : countsZero th mask) (hcmds : ∀ e ∈ th.cmds, mask.getLsbD e.1 = false) :
    ∃ s', exec (.waitf mask) s = .next s' ∧ OnlyThread s s' b t (gone th 1) := by
  rw [exec_waitf]
  exact laneExec_passes h rfl (waitfBody_zero (runs_getThread h) hz (flagsWaited_no_commands (runs_getThread h) mask hcmds))

theorem waitfAcquires (hz : countsZero th mask) (hspec : s.specPending b [t] s.seq = false) :
    ∃ s', exec (.waitf mask) s = .next s' ∧ (s'.thread b t).pc = th.pc + 4 ∧ ∀ e ∈ (s'.thread b t).cmds, mask.getLsbD e.1 = false := by
  obtain ⟨s1, th1, hf, hth1, hpc, hcmds⟩ := flagsWaited_ok (runs_getThread h) mask hspec
  rw [exec_waitf]
  refine ⟨_, laneExec_retires h (waitfBody_zero (runs_getThread h) hz hf), ?_⟩
  obtain ⟨th2, hth2, hpc2, hcmds2⟩ := retire_fall_samePlace hth1 (wordsOf (.waitf mask))
  rw [State.thread_of_get hth2, hpc2, hcmds2, advance_pc, advance_cmds, hpc]
  exact ⟨rfl, hcmds⟩

theorem waitfWaits (hz : ¬countsZero th mask) : ∃ s', exec (.waitf mask) s = .next s' ∧
    OnlyThread s s' b t { th with run := .stalled (.flags mask), since := s.now } := by
  rw [exec_waitf]
  exact ⟨_, laneExec_stops h (waitfBody_stalls (runs_getThread h) hz), stopAt_flags h.block h.thread h.resident mask⟩

end Waitf

/-- A word of WAITF's opcode with another filler than R99 gives is rejected. -/
theorem decodeWord_waitf_error {w : Nat} (hop : w / 2 ^ 24 = 0x0A) (hbad : w / 2 ^ 16 % 2 ^ 8 ≠ 0xF1 ∨ w / 2 ^ 12 % 2 ^ 4 ≠ 0)
    (lit : Option Nat) : decodeWord w lit = .error .reservedField := by
  have hheader : w / 33554432 ≠ 127 := by omega
  have huni : w / 2147483648 ≠ 1 := by omega
  have hlane : w / 16777216 = 10 := hop
  have hfill : ¬(w / 65536 % 256 = 241 ∧ w / 256 % 256 < 16) := by omega
  rw [decodeWord, if_neg hheader, if_neg huni, hlane]
  exact if_neg hfill

theorem badWaitfTraps {s : State} {b t : Nat} {th : Thread} {w : Word} (hcur : s.cur = [(b, t)]) (hth : s.getThread b t = some th)
    (hidx : th.clauseIdx ≠ 0) (hw : th.clause[th.clauseIdx]? = some w) (hop : w.toNat / 2 ^ 24 = 0x0A)
    (hbad : w.toNat / 2 ^ 16 % 2 ^ 8 ≠ 0xF1 ∨ w.toNat / 2 ^ 12 % 2 ^ 4 ≠ 0) :
    issueBundle s = .next (s.stopAt b t (.trap .illegal 0 0)) :=
  issueBundle_stops hcur (fetch_inside_illegal hth hidx hw (decodeWord_waitf_error hop hbad _))

/-! ACQUIRE (03 R84). -/

section Acquire

variable {s : State} {b t : Nat} {x : Block} {th : Thread}

/-- What ACQUIRE does in one thread. -/
def acquireBody (b _t : Nat) : M Flow := do
  let x ← getB b
  if x.allot = x.full then return .fall else stall .acquire

theorem exec_acquire (s : State) : exec .acquire s = laneExec .acquire acquireBody s := rfl

theorem acquireBody_eq (hx : s.getBlock b = some x) :
    acquireBody b t s = if x.allot = x.full then .ok (.fall, s) else .error (.stall .acquire) := by
  rw [acquireBody, bind_ok (getB_run hx)]
  split <;> rfl

/-- A wait for the full allotment asks for it. -/
theorem stopAt_acquire (hx : s.getBlock b = some x) (ht : x.getThread t = some th) (hr : x.life = .resident ∧ x.mark = none) :
    let s' := s.stopAt b t (.stall .acquire)
    (s'.block b).acqpend = true ∧ s'.getThread b t = some { th with run := .stalled .acquire, since := s.now } ∧ s.sameMemory s' := by
  have h1 := onlyThread_leaveBundle (State.getThread_eq_some.2 ⟨x, hx, ht⟩)
  obtain ⟨y, hy, -⟩ := State.getThread_eq_some.1 h1.thread
  let f (x : Block) : Block := { x with acqpend := true }
  have hstop : s.stopAt b t (.stall .acquire) =
      ((s.leaveBundle b t).modBlock b f).modThread b t fun th => { th with run := .stalled .acquire } := by
    show State.modThread _ b t _ = _
    rw [State.block_of_get hx, atWaits_resident hr]
    rfl
  dsimp only
  rw [hstop]
  refine ⟨?_, ?_, ?_⟩
  · rw [block_modThread_field Block.acqpend fun _ => rfl, State.block_modBlock_self hy]
  · exact State.getThread_modThread_self ((getThread_modBlock_of_threads _ b (f := f) (fun _ => rfl) b t).trans h1.thread) _
  · exact sameMemory_of_mem_eq (by rw [State.modThread_mem, State.modBlock_mem, State.leaveBundle, State.modThread_mem])

variable (h : Runs .acquire s b t x th)
include h

theorem acquireGoesOnOrWaits :
    (x.allot = x.full → ∃ s', exec .acquire s = .next s' ∧ OnlyThread s s' b t (gone th 1)) ∧
    (x.allot ≠ x.full → ∃ s', exec .acquire s = .next s' ∧ (s'.block b).acqpend = true ∧
      s'.getThread b t = some { th with run := .stalled .acquire, since := s.now } ∧ s.sameMemory s') := by
  rw [exec_acquire]
  refine ⟨fun hfull => ?_, fun hpart => ?_⟩
  · exact laneExec_passes h rfl ((acquireBody_eq h.block).trans (if_pos hfull))
  · exact ⟨_, laneExec_stops h ((acquireBody_eq h.block).trans (if_neg hpart)), stopAt_acquire h.block h.thread h.resident⟩

end Acquire

/-! RECONV (03 R103). -/

section Reconv

variable {n : Fin 8} {s : State} {b t : Nat} {x : Block} {th : Thread}

/-- What RECONV does in one thread. -/
def reconvBody (n : Fin 8) (b t : Nat) : M Flow := do
  let s ← getS
  if !s.inTeam b t n.val then trap .noTeam
  stall (.reconv n.val)

theorem exec_reconv (n : Fin 8) (s : State) : exec (.reconv n) s = laneExec (.reconv n) (reconvBody n) s := rfl

theorem reconvBody_arrives (h : s.inTeam b t n.val = true) : reconvBody n b t s = .error (.stall (.reconv n.val)) := by
  simp only [reconvBody]
  rw [bind_ok (getS_run s), h]
  rfl

theorem reconvWaits (h : Runs (.reconv n) s b t x th) (hmem : th.teams.getLsbD n.val = true)
    (hteam : (x.teams.getD n.val ⟨0, 0, 0⟩).members ≠ 0) :
    ∃ s', exec (.reconv n) s = .next s' ∧ OnlyThread s s' b t { th with run := .stalled (.reconv n.val), since := s.now } := by
  have hin : s.inTeam b t n.val = true := by
    simp only [State.inTeam, State.thread_of_get (runs_getThread h), State.block_of_get h.block, Thread.member, Block.team, hmem,
      Bool.true_and, bne_iff_ne]
    exact hteam
  rw [exec_reconv]
  exact ⟨_, laneExec_stops h (reconvBody_arrives hin), onlyThread_stalled h.block h.thread h.resident (.reconv n.val)⟩

end Reconv

end Sys2Proof.Machine
end

section
/-! PROOF. EXIT: the last of the instructions of O12. -/

namespace Sys2Proof.Machine

open Claims

/-! A thread leaves its teams (08 R209). -/

/-- One block differs from another only in its teams and in a thread, which either has. -/
structure LeftTeams (x y : Block) (t : Nat) : Prop where
  rest : { y with threads := [], teams := [] } = { x with threads := [], teams := [] }
  others : ∀ u, u ≠ t → y.getThread u = x.getThread u
  length : y.threads.length = x.threads.length

theorem LeftTeams.refl (x : Block) (t : Nat) : LeftTeams x x t := ⟨rfl, fun _ _ => rfl, rfl⟩

theorem LeftTeams.trans {x y z : Block} {t : Nat} (h : LeftTeams x y t) (g : LeftTeams y z t) : LeftTeams x z t :=
  ⟨g.rest.trans h.rest, fun u hu => (g.others u hu).trans (h.others u hu), g.length.trans h.length⟩

/-- What a block holds besides its teams and threads stays. -/
theorem LeftTeams.field {α : Type} {x y : Block} {t : Nat} (h : LeftTeams x y t) (p : Block → α)
    (hp : ∀ z : Block, p { z with threads := [], teams := [] } = p z) : p y = p x := by
  rw [← hp, h.rest, hp]

theorem Block.getThread_setThread_other (x : Block) {t u : Nat} (h : u ≠ t) (th : Thread) :
    (x.setThread t th).getThread u = x.getThread u := by
  simp [Block.getThread, Block.setThread, Ne.symm h]

theorem Block.getThread_setThread_self {x : Block} {t : Nat} {th : Thread} (h : x.getThread t = some th) (th' : Thread) :
    (x.setThread t th').getThread t = some th' := by
  have hlt : t < x.threads.length := (List.getElem?_eq_some_iff.1 h).1
  simp [Block.getThread, Block.setThread, hlt]

theorem setThread_leftTeams (x : Block) (t : Nat) (th : Thread) : LeftTeams x (x.setThread t th) t :=
  ⟨rfl, fun _ hu => x.getThread_setThread_other hu th, by simp [Block.setThread]⟩

theorem leaveTeam_leftTeams (x : Block) (t n : Nat) : LeftTeams x (x.leaveTeam t n) t := by
  unfold Block.leaveTeam
  dsimp only
  split
  · exact .refl x t
  · split
    · exact .refl x t
    · exact ⟨rfl, fun u hu => x.getThread_setThread_other hu _, by simp [Block.setThread]⟩

theorem leaveTeams_leftTeams (x : Block) (t : Nat) : LeftTeams x (x.leaveTeams t) t :=
  List.foldlRecOn (motive := fun y => LeftTeams x y t) _ _ (.refl x t) fun y hy n _ => hy.trans (leaveTeam_leftTeams y t n)

theorem LeftTeams.getThread {x y : Block} {t : Nat} (h : LeftTeams x y t) {th : Thread} (ht : x.getThread t = some th) :
    ∃ th', y.getThread t = some th' := by
  have hlt : t < x.threads.length := (List.getElem?_eq_some_iff.1 ht).1
  exact ⟨_, List.getElem?_eq_getElem (h.length ▸ hlt)⟩

/-! The thread exits (03 R102). -/

/-- A thread that has exited. -/
def Thread.exit (th : Thread) : Thread := { th with run := .exited, stack := [], spec := [] }

/-- A change of one thread of a block, if it is there. -/
def Block.modThread (x : Block) (t : Nat) (f : Thread → Thread) : Block :=
  match x.getThread t with
  | some th => x.setThread t (f th)
  | none => x

theorem Block.modThread_of_get {x : Block} {t : Nat} {th : Thread} (h : x.getThread t = some th) (f : Thread → Thread) :
    x.modThread t f = x.setThread t (f th) := by
  rw [Block.modThread, h]

/-- A block after a thread's exit, before it is asked whether it was the last. -/
def Block.withExit (x : Block) (t : Nat) : Block := (x.leaveTeams t).modThread t Thread.exit

/-- A block whose last thread has exited. -/
def Block.toExiting (x : Block) : Block :=
  { x with life := if x.life = .resident ∨ x.life = .stopping then .exiting else x.life, stopBy := none
           slice := x.slice.map fun sl => { sl with ended := true } }

/-- A thread goes out of the bundles. -/
def State.outOfBundles (s : State) (b t : Nat) : State :=
  { s with cur := s.cur.filter (· != (b, t))
           bundles := (s.bundles.map fun (u : Bundle) => { u with members := u.members.filter (· != (b, t)) }).filter
             fun u => !u.members.isEmpty }

@[simp] theorem State.outOfBundles_getBlock (s : State) (b t c : Nat) : (s.outOfBundles b t).getBlock c = s.getBlock c := rfl
@[simp] theorem State.outOfBundles_mem (s : State) (b t : Nat) : (s.outOfBundles b t).mem = s.mem := rfl

@[simp] theorem Block.toExiting_getThread (x : Block) (u : Nat) : x.toExiting.getThread u = x.getThread u := rfl
@[simp] theorem Block.toExiting_mark (x : Block) : x.toExiting.mark = x.mark := rfl

theorem Block.toExiting_life {x : Block} (h : x.life = .resident) : x.toExiting.life = .exiting := by
  simp [Block.toExiting, h]

/-- A state after a thread's exit, before it is asked whether it was the last of its block. -/
def State.withExit (s : State) (b t : Nat) : State := (s.modBlock b (·.withExit t)).outOfBundles b t

/-- The end of a block without slices whose last thread has exited. -/
def State.lastExit (s : State) (b : Nat) (x : Block) : State :=
  if x.gang.any (!·.detached) then (s.modBlock b Block.toExiting).detachAtExit b else s.modBlock b Block.toExiting

section Block

variable {x : Block} {t : Nat} {th : Thread} (ht : x.getThread t = some th)
include ht

theorem withExit_leftTeams : LeftTeams x (x.withExit t) t := by
  have hleft := leaveTeams_leftTeams x t
  obtain ⟨th', hth'⟩ := hleft.getThread ht
  rw [Block.withExit, Block.modThread_of_get hth']
  exact hleft.trans (setThread_leftTeams _ t _)

theorem withExit_exited : ∃ th', (x.withExit t).getThread t = some th' ∧ th'.run = .exited ∧ th'.stack = [] := by
  obtain ⟨th', hth'⟩ := (leaveTeams_leftTeams x t).getThread ht
  rw [Block.withExit, Block.modThread_of_get hth']
  exact ⟨_, Block.getThread_setThread_self hth' _, rfl, rfl⟩

/-- The live threads of a block are those it had but the one that exits. -/
theorem withExit_live (u : Nat) : (x.withExit t).live u = (x.live u && u != t) := by
  by_cases hu : u = t
  · subst hu
    obtain ⟨th', hth', hrun, -⟩ := withExit_exited ht
    simp [Block.live, hth', hrun]
  · simp [Block.live, (withExit_leftTeams ht).others u hu, hu]

theorem withExit_last : (x.withExit t).liveTids.isEmpty = true ↔ ∀ u ∈ x.liveTids, u = t := by
  simp only [Block.liveTids, List.isEmpty_iff, List.filter_eq_nil_iff, List.mem_filter, (withExit_leftTeams ht).length,
    withExit_live ht, Bool.and_eq_true, bne_iff_ne, not_and, not_not, and_imp]

end Block

section State

variable {s : State} {b t : Nat} {x : Block} {th : Thread}

theorem withExit_getBlock (hx : s.getBlock b = some x) : (s.withExit b t).getBlock b = some (x.withExit t) := by
  rw [State.withExit, State.outOfBundles_getBlock, State.getBlock_modBlock_self hx]

theorem exitThread_lone (hx : s.getBlock b = some x) (ht : x.getThread t = some th) (hp : x.partners = []) :
    s.exitThread b t = if ∀ u ∈ x.liveTids, u = t then (s.withExit b t).lastExit b x else s.withExit b t := by
  have hblock : (s.withExit b t).block b = x.withExit t  := State.block_of_get (withExit_getBlock hx)
  have hleft := withExit_leftTeams ht
  have hpart : (x.withExit t).partners = [] := (hleft.field Block.partners fun _ => rfl).trans hp
  have hgang : (x.withExit t).gang = x.gang := hleft.field Block.gang fun _ => rfl
  have hs : (((s.modBlock b fun x => x.leaveTeams t).modThread b t Thread.exit).outOfBundles b t) = s.withExit b t := by
    rw [State.modThread, State.modBlock_modBlock]
    rfl
  unfold State.exitThread
  extract_lets s1 s2 s3 y s4 s5 s6
  have hs3 : s3 = s.withExit b t := hs
  clear_value s3
  subst hs3
  have hs4 : s4 = s.withExit b t := by simp only [s4, y, hblock, hpart, List.foldl_nil]
  clear_value s4
  subst hs4
  have hs6 : s6 = (s.withExit b t).modBlock b Block.toExiting := by
    simp only [s6, y, hblock, hpart, List.foldl_nil]
    rfl
  clear_value s6
  subst hs6
  simp only [y, hblock, hgang, withExit_last ht]
  rfl

/-- A block once a thread of it has exited. -/
def Block.afterExit (x : Block) (t : Nat) : Block :=
  if ∀ u ∈ x.liveTids, u = t then (x.withExit t).toExiting else x.withExit t

theorem afterExit_getThread (x : Block) (t u : Nat) : (x.afterExit t).getThread u = (x.withExit t).getThread u := by
  unfold Block.afterExit
  split
  · exact Block.toExiting_getThread _ u
  · rfl

theorem lastExit_blocks (s : State) (b : Nat) (x : Block) : (s.lastExit b x).blocks = (s.modBlock b Block.toExiting).blocks := by
  unfold State.lastExit
  split <;> rfl

theorem lastExit_mem (s : State) (b : Nat) (x : Block) : (s.lastExit b x).mem = s.mem := by
  unfold State.lastExit
  split
  · exact State.modBlock_mem s b Block.toExiting
  · exact State.modBlock_mem s b Block.toExiting

theorem lastExit_getBlock (s : State) (b : Nat) (x : Block) (c : Nat) :
    (s.lastExit b x).getBlock c = (s.modBlock b Block.toExiting).getBlock c := by
  rw [State.getBlock, lastExit_blocks, State.getBlock]

theorem exitThread_getBlock_self (hx : s.getBlock b = some x) (ht : x.getThread t = some th) (hp : x.partners = []) :
    (s.exitThread b t).getBlock b = some (x.afterExit t) := by
  rw [exitThread_lone hx ht hp, Block.afterExit]
  split
  · rw [lastExit_getBlock, State.getBlock_modBlock_self (withExit_getBlock hx)]
  · exact withExit_getBlock hx

theorem withExit_getBlock_other (s : State) (t : Nat) {b c : Nat} (hc : c ≠ b) : (s.withExit b t).getBlock c = s.getBlock c := by
  rw [State.withExit, State.outOfBundles_getBlock, State.getBlock_modBlock_other s hc]

theorem exitThread_getBlock_other (hx : s.getBlock b = some x) (ht : x.getThread t = some th) (hp : x.partners = []) {c : Nat}
    (hc : c ≠ b) : (s.exitThread b t).getBlock c = s.getBlock c := by
  rw [exitThread_lone hx ht hp]
  split
  · rw [lastExit_getBlock, State.getBlock_modBlock_other _ hc, withExit_getBlock_other s t hc]
  · exact withExit_getBlock_other s t hc

theorem exitThread_mem (hx : s.getBlock b = some x) (ht : x.getThread t = some th) (hp : x.partners = []) :
    (s.exitThread b t).mem = s.mem := by
  have hmem : (s.withExit b t).mem = s.mem := by rw [State.withExit, State.outOfBundles_mem, State.modBlock_mem]
  rw [exitThread_lone hx ht hp]
  split
  · rw [lastExit_mem, hmem]
  · exact hmem

theorem exitThread_getThread_other (hx : s.getBlock b = some x) (ht : x.getThread t = some th) (hp : x.partners = []) {c u : Nat}
    (h : ¬(c = b ∧ u = t)) : (s.exitThread b t).getThread c u = s.getThread c u := by
  by_cases hc : c = b
  · subst hc
    have hu : u ≠ t := fun e => h ⟨rfl, e⟩
    rw [State.getThread, exitThread_getBlock_self hx ht hp, State.getThread, hx]
    exact (afterExit_getThread x t u).trans ((withExit_leftTeams ht).others u hu)
  · rw [State.getThread, exitThread_getBlock_other hx ht hp hc, State.getThread]

/-- A running block runs on after an exit, or goes to EXITING with its last thread. -/
theorem afterExit_life (ht : x.getThread t = some th) (hr : x.life = .resident ∧ x.mark = none) :
    (x.afterExit t).life = (if ∀ u ∈ x.liveTids, u = t then .exiting else .resident) ∧ (x.afterExit t).mark = none := by
  have hleft := withExit_leftTeams ht
  have hlife : (x.withExit t).life = .resident := (hleft.field Block.life fun _ => rfl).trans hr.1
  have hmark : (x.withExit t).mark = none := (hleft.field Block.mark fun _ => rfl).trans hr.2
  unfold Block.afterExit
  split
  · exact ⟨Block.toExiting_life hlife, (Block.toExiting_mark _).trans hmark⟩
  · exact ⟨hlife, hmark⟩

theorem exitBody_exits (hx : s.getBlock b = some x) (ht : x.getThread t = some th) (hz : countsZero th 0xFFF) (hs : x.slice = none)
    (hm : x.mark = none) : exitBody b t s = .ok (.placed, s.exitThread b t) := by
  simp only [exitBody]
  rw [bind_ok (getT_run (State.getThread_eq_some.2 ⟨x, hx, ht⟩)), flagsZero_iff.2 hz]
  show (getB b >>= _) s = _
  rw [bind_ok (getB_run hx), hs, hm]
  rfl

theorem exitEndsTheThread (h : Runs .exit s b t x th) (hz : countsZero th 0xFFF) (hs : x.slice = none) (hp : x.partners = []) :
    ∃ s', exec .exit s = .next s' ∧ (s'.thread b t).run = .exited ∧ (s'.thread b t).stack = [] ∧ s.sameMemory s' ∧
      (∀ b' t', ¬(b' = b ∧ t' = t) → s'.getThread b' t' = s.getThread b' t') ∧
      (s'.block b).life = (if ∀ u ∈ x.liveTids, u = t then .exiting else .resident) := by
  have hx := h.block
  have ht := h.thread
  have hget := exitThread_getBlock_self hx ht hp
  obtain ⟨hlife, hmark⟩ := afterExit_life ht h.resident
  have hcalm : ((s.exitThread b t).block b).atWaits = false := by
    rw [State.block_of_get hget, Block.atWaits, hlife, hmark]
    split <;> rfl
  have hretire : (s.exitThread b t).retire b t (wordsOf .exit) .placed = s.exitThread b t := by
    simp only [State.retire, State.stopPast, hcalm, Bool.false_and, Bool.false_eq_true, if_false]
  have he : exec .exit s = .next (s.exitThread b t) := by
    rw [← hretire]
    exact laneExec_retires h (exitBody_exits hx ht hz hs h.resident.2)
  obtain ⟨th', hth', hrun, hstack⟩ := withExit_exited ht
  have hthread : (s.exitThread b t).thread b t = th' :=
    State.thread_of_get (State.getThread_eq_some.2 ⟨_, hget, (afterExit_getThread x t t).trans hth'⟩)
  refine ⟨_, he, ?_, ?_, sameMemory_of_mem_eq (exitThread_mem hx ht hp), fun b' t' hn => exitThread_getThread_other hx ht hp hn, ?_⟩
  · rw [hthread, hrun]
  · rw [hthread, hstack]
  · rw [State.block_of_get hget, hlife]

end State

/-- Of the parts of O12: the instructions that wait, and EXIT. -/
theorem waitsAndExit : WaitsAndExit := by
  refine ⟨fun s b t x th h => nopGoesOn h, fun mask s b t x th h => ⟨waitfPasses h, waitfAcquires h, waitfWaits h⟩, rfl,
    fun s b t th w => badWaitfTraps, fun s b t x th h => acquireGoesOnOrWaits h, fun n s b t x th h => reconvWaits h,
    fun s b t x th h => exitEndsTheThread h⟩

end Sys2Proof.Machine
end

section
/-! PROOF. Waking threads, one after another: a thread that is waked is ready, and nothing but threads becoming ready has changed. -/

namespace Sys2Proof.Machine

/-- Some threads of a state have become ready, and it is otherwise the same. -/
structure Woken (s s' : State) : Prop where
  rest : { s' with blocks := [] } = { s with blocks := [] }
  blocks : ∀ c, { s'.block c with threads := [] } = { s.block c with threads := [] }
  threads : ∀ c u th, s.getThread c u = some th →
    s'.getThread c u = some th ∨ s'.getThread c u = some { th with run := .ready, since := s.now }

theorem Woken.refl (s : State) : Woken s s := ⟨rfl, fun _ => rfl, fun _ _ _ h => .inl h⟩

theorem Woken.now_eq {s s' : State} (h : Woken s s') : s'.now = s.now := by
  have e := congrArg State.now h.rest
  exact e

theorem Woken.mem_eq {s s' : State} (h : Woken s s') : s'.mem = s.mem := by
  have e := congrArg State.mem h.rest
  exact e

theorem Woken.ipath_eq {s s' : State} (h : Woken s s') : s'.ipath = s.ipath := by
  have e := congrArg State.ipath h.rest
  exact e

/-- What a block holds besides its threads stays. -/
theorem Woken.field {α : Type} {s s' : State} (h : Woken s s') (p : Block → α)
    (hp : ∀ y : Block, p { y with threads := [] } = p y) (c : Nat) : p (s'.block c) = p (s.block c) := by
  rw [← hp, h.blocks, hp]

theorem Woken.trans {s s1 s2 : State} (h : Woken s s1) (g : Woken s1 s2) : Woken s s2 := by
  refine ⟨g.rest.trans h.rest, fun c => (g.blocks c).trans (h.blocks c), fun c u th hth => ?_⟩
  obtain h1 | h1 := h.threads c u th hth
  · have h2 := g.threads c u th h1
    rwa [h.now_eq] at h2
  · have h2 := g.threads c u _ h1
    rw [h.now_eq] at h2
    exact .inr (h2.elim id id)

theorem woken_wake (s : State) (b t : Nat) : Woken s (s.wake b t) := by
  refine ⟨?_, block_modThread s b t _, fun c u th hth => ?_⟩
  · unfold State.wake State.modThread State.modBlock
    split <;> rfl
  · by_cases h : c = b ∧ u = t
    · obtain ⟨rfl, rfl⟩ := h
      exact .inr (State.getThread_modThread_self hth _)
    · exact .inl ((State.getThread_modThread_other s h _).trans hth)

/-- A waking that depends on a test of the state. -/
theorem Woken.ite {s s' : State} {c : Prop} [Decidable c] (h : Woken s s') : Woken s (if c then s' else s) := by
  split
  · exact h
  · exact .refl s

theorem Woken.foldl {α : Type} {f : State → α → State} (hf : ∀ s a, Woken s (f s a)) (l : List α) (s : State) : Woken s (l.foldl f s) :=
  List.foldlRecOn (motive := Woken s) l f (.refl s) fun s' hs' a _ => hs'.trans (hf s' a)

/-- A thread is there and ready. -/
def IsReady (s : State) (b t : Nat) : Prop := ∃ th, s.getThread b t = some th ∧ th.run = .ready

theorem IsReady.run {s : State} {b t : Nat} (h : IsReady s b t) : (s.thread b t).run = .ready := by
  obtain ⟨th, hth, hrun⟩ := h
  rw [State.thread_of_get hth, hrun]

theorem Woken.ready {s s' : State} (h : Woken s s') {b t : Nat} (hr : IsReady s b t) : IsReady s' b t := by
  obtain ⟨th, hth, hrun⟩ := hr
  exact (h.threads b t th hth).elim (fun h => ⟨_, h, hrun⟩) fun h => ⟨_, h, rfl⟩

/-- A thread that one round of a waking makes ready is ready in the end. -/
theorem isReady_foldl {α : Type} {f : State → α → State} (hf : ∀ s a, Woken s (f s a)) {l : List α} {a : α} (ha : a ∈ l) {s : State}
    {b t : Nat} (hstep : ∀ s', Woken s s' → IsReady (f s' a) b t) : IsReady (l.foldl f s) b t := by
  obtain ⟨l1, l2, rfl⟩ := List.append_of_mem ha
  rw [List.foldl_append, List.foldl_cons]
  exact (Woken.foldl hf l2 _).ready (hstep _ (Woken.foldl hf l1 s))

section Waiting

variable {s : State} {b t : Nat} {th : Thread} {w : Wait} {f : Wait → Bool}

theorem waiting_of_stalled (hth : s.getThread b t = some th) (hrun : th.run = .stalled w) : s.waiting b t f = f w := by
  simp [State.waiting, hth, hrun]

/-- A thread in a wait that the test accepts is ready after its round, if it was not so before. -/
theorem isReady_wakeWaiting (hth : s.getThread b t = some th) (hrun : th.run = .stalled w) (hf : f w = true) (s' : State) (h : Woken s s') :
    IsReady (if s'.waiting b t f then s'.wake b t else s') b t := by
  obtain hth' | hth' := h.threads b t th hth
  · rw [waiting_of_stalled hth' hrun, hf, if_pos rfl]
    exact ⟨_, State.getThread_modThread_self hth' _, rfl⟩
  · exact (woken_wake s' b t).ite.ready ⟨_, hth', rfl⟩

/-- The threads of a block that wait for the same thing are waked in turn (03 R82, R84, R106). -/
def State.wakeWaiting (s : State) (b n : Nat) (f : Wait → Bool) : State :=
  (List.range n).foldl (fun (s : State) t => if s.waiting b t f then s.wake b t else s) s

theorem woken_wakeWaiting (s : State) (b n : Nat) (f : Wait → Bool) : Woken s (s.wakeWaiting b n f) :=
  Woken.foldl (fun s' t => (woken_wake s' b t).ite) _ s

theorem wakeWaiting_ready {n : Nat} (ht : t < n) (hth : s.getThread b t = some th) (hrun : th.run = .stalled w) (hf : f w = true) :
    IsReady (s.wakeWaiting b n f) b t :=
  isReady_foldl (fun s' t => (woken_wake s' b t).ite) (List.mem_range.2 ht) (isReady_wakeWaiting hth hrun hf)

end Waiting

theorem thread_lt {x : Block} {t : Nat} {th : Thread} (h : x.getThread t = some th) : t < x.threads.length :=
  (List.getElem?_eq_some_iff.1 h).1

end Sys2Proof.Machine
end

section
/-! PROOF. Register lines and the image (03 R82, R86): what a line written back leaves in memory, what one brought in leaves in its
threads. -/

namespace Sys2Proof.Machine

/-! Bytes of device memory. -/

theorem rd8_wr8 (s : State) {pa : Nat} (hpa : pa < devSize) (v : Byte) (q : Nat) :
    (s.wr8 pa v).rd8 q = if q = pa then v else s.rd8 q := by
  rw [State.wr8, if_pos hpa, State.rd8, State.rd8]
  by_cases h : q = pa
  · subst h
    simp
  · rw [if_neg h]
    exact Cells.getD_put_other h 0 v s.mem

theorem rd8_foldl_wr8 (bs : List Byte) (pa k q : Nat) (s : State) (hin : pa + k + bs.length ≤ devSize) :
    ((bs.zipIdx k).foldl (fun s e => s.wr8 (pa + e.2) e.1) s).rd8 q =
      if pa + k ≤ q ∧ q < pa + k + bs.length then bs.getD (q - (pa + k)) 0 else s.rd8 q := by
  induction bs generalizing k s with
  | nil =>
    rw [if_neg (by simp)]
    rfl
  | cons v bs ih =>
    rw [List.length_cons] at hin ⊢
    rw [List.zipIdx_cons, List.foldl_cons, ih (k + 1) _ (by omega), rd8_wr8 s (by omega)]
    by_cases hq : q = pa + k
    · rw [if_neg (by omega), if_pos hq, if_pos (by omega), hq, Nat.sub_self]
      rfl
    · rw [if_neg hq]
      by_cases hrest : pa + (k + 1) ≤ q ∧ q < pa + (k + 1) + bs.length
      · rw [if_pos hrest, if_pos (by omega), show q - (pa + k) = q - (pa + (k + 1)) + 1 by omega, List.getD_cons_succ]
      · rw [if_neg hrest, if_neg (by omega)]

/-- A write inside device memory leaves its bytes, and every other byte alone. -/
theorem rd8_wrHome (s : State) {pa : Nat} {bs : List Byte} (hin : pa + bs.length ≤ devSize) (q : Nat) :
    (s.wrHome pa bs).rd8 q = if pa ≤ q ∧ q < pa + bs.length then bs.getD (q - pa) 0 else s.rd8 q :=
  rd8_foldl_wr8 bs pa 0 q s hin

theorem wrRaw_blocks (s : State) (pa : Nat) (bs : List Byte) : (s.wrRaw pa bs).blocks = s.blocks := by
  refine List.foldlRecOn (motive := fun s' : State => s'.blocks = s.blocks) _ _ rfl fun s' hs' e _ => ?_
  rw [State.wr8]
  split <;> exact hs'

theorem wrHome_getBlock (s : State) (pa : Nat) (bs : List Byte) (b : Nat) : (s.wrHome pa bs).getBlock b = s.getBlock b :=
  congrArg (Cells.get? b) (wrRaw_blocks s pa bs)

theorem wrHome_getThread (s : State) (pa : Nat) (bs : List Byte) (b t : Nat) : (s.wrHome pa bs).getThread b t = s.getThread b t := by
  rw [State.getThread, wrHome_getBlock, State.getThread]

theorem leNat_leBytes_word (w : Word) : leNat (leBytes 4 w.toNat) = w.toNat := by
  have := w.isLt
  simp [leBytes, natBytes, leNat]
  omega

theorem leBytes_length (n v : Nat) : (leBytes n v).length = n := by
  induction n generalizing v with
  | zero => rfl
  | succ n ih => simpa [leBytes, natBytes] using ih (v / 256)

/-- The parts of a list of equal parts stand one after the other. -/
theorem getD_flatMap_range {α : Type} {g : Nat → List α} {m : Nat} (hg : ∀ i, (g i).length = m) (d : α) (n : Nat) {i j : Nat} (hi : i < n)
    (hj : j < m) : ((List.range n).flatMap g).getD (m * i + j) d = (g i).getD j d := by
  induction n with
  | zero => omega
  | succ n ih =>
    have hlen : ((List.range n).flatMap g).length = m * n := by simp [List.length_flatMap, hg, Nat.mul_comm]
    rw [List.range_succ, List.flatMap_append, List.flatMap_singleton]
    by_cases hin : i = n
    · subst hin
      rw [List.getD_append_right _ _ _ _ (by omega), hlen, Nat.add_sub_cancel_left]
    · have hlt : m * i + j < m * n := by
        have := Nat.mul_le_mul_left m (show i + 1 ≤ n by omega)
        rw [Nat.mul_succ] at this
        omega
      rw [List.getD_append _ _ _ _ (by omega), ih (by omega)]

end Sys2Proof.Machine
end

section
/-! PROOF. Register lines that go to the image and come back (03 R82, R86). -/

namespace Sys2Proof.Machine

open Claims

theorem Cells.mem_insert_self (k : Nat) (m : List Nat) : k ∈ Cells.insert k m := by
  induction m with
  | nil => simp [Cells.insert]
  | cons j m ih =>
    rw [Cells.insert]
    split
    · exact List.mem_cons_self
    · split
      · rename_i h
        exact h ▸ List.mem_cons_self
      · exact List.mem_cons_of_mem j ih

theorem Cells.not_mem_remove (k : Nat) (m : List Nat) : k ∉ Cells.remove k m := by
  simp [Cells.remove]

/-- A block that is there stays, whichever block changes. -/
theorem getBlock_modBlock_some {s : State} {b : Nat} {x : Block} (h : s.getBlock b = some x) (c : Nat) (f : Block → Block) :
    ∃ y, (s.modBlock c f).getBlock b = some y := by
  by_cases hc : b = c
  · subst hc
    exact ⟨_, State.getBlock_modBlock_self h f⟩
  · exact ⟨x, (State.getBlock_modBlock_other s hc f).trans h⟩

/-! A line is written back. -/

section Spill

variable {s : State} {b row line : Nat}

/-- The bytes of a line in the register cache. -/
def State.lineBytes (s : State) (b row line : Nat) : List Byte :=
  (List.range 16).flatMap fun i => leBytes 4 (s.lineWordIn b (16 * row + i) line).toNat

theorem lineBytes_length (s : State) (b row line : Nat) : (s.lineBytes b row line).length = 64 := by
  simp [State.lineBytes, List.length_flatMap, leBytes_length]

/-- The changes of a block whose line goes out of the register cache. -/
def Block.dropLine (row line : Nat) (x : Block) : Block := { x with cached := Cells.remove (256 * row + line) x.cached }

theorem spillLine_eq (s : State) (b row line : Nat) :
    s.spillLine b row line = (s.wrHome ((s.block b).lineWord (16 * row) line) (s.lineBytes b row line)).modBlock b (Block.dropLine row line) := rfl

theorem spillLine_getThread (s : State) (b row line c t : Nat) : (s.spillLine b row line).getThread c t = s.getThread c t := by
  rw [spillLine_eq, getThread_modBlock_of_threads _ b (f := Block.dropLine row line) fun _ => rfl, wrHome_getThread]

theorem spillLine_getBlock_some {c : Nat} {x : Block} (h : s.getBlock c = some x) : ∃ y, (s.spillLine b row line).getBlock c = some y := by
  rw [spillLine_eq]
  exact getBlock_modBlock_some ((wrHome_getBlock s _ _ c).trans h) b _

theorem spillLine_rd8 (hin : (s.block b).lineWord (16 * row) line + 64 ≤ devSize) (q : Nat) :
    (s.spillLine b row line).rd8 q =
      if (s.block b).lineWord (16 * row) line ≤ q ∧ q < (s.block b).lineWord (16 * row) line + 64 then
        (s.lineBytes b row line).getD (q - (s.block b).lineWord (16 * row) line) 0
      else s.rd8 q := by
  rw [spillLine_eq, State.rd8, State.modBlock_mem, ← State.rd8, rd8_wrHome s (by rwa [lineBytes_length]), lineBytes_length]

/-- Each word of the line stands at its place of the image. -/
theorem spillLine_rdNat (hin : (s.block b).lineWord (16 * row) line + 64 ≤ devSize) {i : Nat} (hi : i < 16) :
    (s.spillLine b row line).rdNat ((s.block b).lineWord (16 * row) line + 4 * i) 4 = (s.lineWordIn b (16 * row + i) line).toNat := by
  have hbytes : (s.spillLine b row line).rdBytes ((s.block b).lineWord (16 * row) line + 4 * i) 4 =
      leBytes 4 (s.lineWordIn b (16 * row + i) line).toNat := by
    refine List.ext_getElem (by simp [State.rdBytes, leBytes_length]) fun j hj _ => ?_
    have hj4 : j < 4 := by simpa [State.rdBytes] using hj
    simp only [State.rdBytes, List.getElem_map, List.getElem_range]
    rw [spillLine_rd8 hin, if_pos (by omega), Nat.add_assoc, Nat.add_sub_cancel_left, State.lineBytes,
      getD_flatMap_range (fun _ => leBytes_length 4 _) 0 16 hi hj4, List.getD_eq_getElem]
  rw [State.rdNat, hbytes, leNat_leBytes_word]

theorem lineWord_place (x : Block) {i : Nat} (hi : i < 16) (row line : Nat) :
    x.lineWord (16 * row + i) line = x.lineWord (16 * row) line + 4 * i := by
  unfold Block.lineWord
  omega

theorem spillLineWritesTheImage {x : Block} (hx : s.getBlock b = some x) (hrow : row < 64) (hline : line < 224)
    (himage : x.image + 0x100000 ≤ devSize) :
    256 * row + line ∉ ((s.spillLine b row line).block b).cached ∧
      (∀ i, i < 16 → (s.spillLine b row line).rdNat (x.lineWord (16 * row + i) line) 4 = (s.lineWordIn b (16 * row + i) line).toNat) ∧
      ∀ pa, (pa < x.lineWord (16 * row) line ∨ x.lineWord (16 * row) line + 64 ≤ pa) → (s.spillLine b row line).rd8 pa = s.rd8 pa := by
  have hblock := State.block_of_get hx
  have hin : (s.block b).lineWord (16 * row) line + 64 ≤ devSize := by
    rw [hblock, Block.lineWord]
    omega
  refine ⟨?_, fun i hi => ?_, fun pa hpa => ?_⟩
  · rw [spillLine_eq, State.block_modBlock_self ((wrHome_getBlock s _ _ b).trans hx)]
    exact Cells.not_mem_remove _ _
  · rw [lineWord_place x hi, ← hblock, spillLine_rdNat hin hi]
  · rw [spillLine_rd8 hin, hblock, if_neg (by omega)]

end Spill

/-! A full cache gives up a line. -/

theorem evictLine_cases (s : State) (core : Nat) :
    s.evictLine core = s ∨ (8192 ≤ s.cacheLines core ∧ ∃ b k, s.evictLine core = s.spillLine b (k / 256) (k % 256)) := by
  unfold State.evictLine
  split
  · exact .inl rfl
  · dsimp only
    split
    · exact .inr ⟨by omega, _, _, rfl⟩
    · exact .inl rfl

theorem evictLine_room {s : State} {core : Nat} (h : s.cacheLines core < 8192) : s.evictLine core = s :=
  (evictLine_cases s core).resolve_right fun e => by omega

theorem evictLine_getThread (s : State) (core b t : Nat) : (s.evictLine core).getThread b t = s.getThread b t := by
  obtain h | ⟨-, c, k, h⟩ := evictLine_cases s core
  · rw [h]
  · rw [h, spillLine_getThread]

theorem evictLine_getBlock_some {s : State} {b : Nat} {x : Block} (h : s.getBlock b = some x) (core : Nat) :
    ∃ y, (s.evictLine core).getBlock b = some y := by
  obtain e | ⟨-, c, k, e⟩ := evictLine_cases s core
  · rw [e]
    exact ⟨x, h⟩
  · rw [e]
    exact spillLine_getBlock_some h

/-! A line is brought in. -/

section Bring

variable {s : State} {b t line : Nat} {th : Thread} {w : Word}

theorem setLineWordIn_mem (s : State) (b t line : Nat) (w : Word) : (s.setLineWordIn b t line w).mem = s.mem := by
  unfold State.setLineWordIn
  split
  · exact State.modThread_mem s b t _
  · exact State.modBlock_mem s b _

theorem setLineWordIn_self (hth : s.getThread b t = some th) : (s.setLineWordIn b t line w).getThread b t = some (th.setV line w) := by
  obtain ⟨x, hx, ht⟩ := State.getThread_eq_some.1 hth
  have hlt : t < (s.block b).threads.length := by
    rw [State.block_of_get hx]
    exact thread_lt ht
  rw [State.setLineWordIn, if_pos hlt]
  exact State.getThread_modThread_self hth _

theorem setLineWordIn_other {c u : Nat} (h : ¬(c = b ∧ u = t)) : (s.setLineWordIn b t line w).getThread c u = s.getThread c u := by
  unfold State.setLineWordIn
  split
  · exact State.getThread_modThread_other s h _
  · exact getThread_modBlock_of_threads s b (f := fun x => { x with spare := Cells.put 0 (256 * t + line) w x.spare }) (fun _ => rfl) c u

theorem setLineWordIn_getBlock_some {c : Nat} {x : Block} (h : s.getBlock c = some x) :
    ∃ y, (s.setLineWordIn b t line w).getBlock c = some y := by
  unfold State.setLineWordIn
  split
  · exact getBlock_modBlock_some h b _
  · exact getBlock_modBlock_some h b _

/-- The first n words of a row's line have been read from the image. -/
structure LineRead (s s' : State) (b row line n : Nat) (x : Block) : Prop where
  mem : s'.mem = s.mem
  block : ∃ y, s'.getBlock b = some y
  threads : ∀ t th, s.getThread b t = some th → ∃ th', s'.getThread b t = some th' ∧ th'.run = th.run ∧
    (t / 16 = row → t % 16 < n → th'.getV line = w32 (s.rdNat (x.lineWord t line) 4))

/-- One more word of a line is read. -/
def State.readLineWord (b row line : Nat) (x : Block) (s : State) (i : Nat) : State :=
  s.setLineWordIn b (16 * row + i) line (w32 (s.rdNat (x.lineWord (16 * row + i) line) 4))

theorem rdNat_of_mem {s s' : State} (h : s'.mem = s.mem) (pa n : Nat) : s'.rdNat pa n = s.rdNat pa n := by
  simp only [State.rdNat, State.rdBytes, State.rd8, h]

theorem LineRead.step {s s' : State} {b row line n : Nat} {x : Block} (h : LineRead s s' b row line n x) :
    LineRead s (s'.readLineWord b row line x n) b row line (n + 1) x := by
  obtain ⟨y, hy⟩ := h.block
  refine ⟨(setLineWordIn_mem s' b _ line _).trans h.mem, setLineWordIn_getBlock_some hy, fun t th hth => ?_⟩
  obtain ⟨th', hth', hrun, hval⟩ := h.threads t th hth
  by_cases hplace : t = 16 * row + n
  · subst hplace
    refine ⟨_, setLineWordIn_self hth', hrun, fun _ _ => ?_⟩
    rw [Thread.getV_setV_self, rdNat_of_mem h.mem]
  · refine ⟨th', (setLineWordIn_other fun e => hplace e.2).trans hth', hrun, fun hrow hlt => hval hrow ?_⟩
    omega

theorem lineRead_foldl {s : State} {b row line : Nat} {x y : Block} (hy : s.getBlock b = some y) (n : Nat) :
    LineRead s ((List.range n).foldl (State.readLineWord b row line x) s) b row line n x := by
  induction n with
  | zero => exact ⟨rfl, ⟨y, hy⟩, fun t th hth => ⟨th, hth, rfl, fun _ h => absurd h (by omega)⟩⟩
  | succ n ih =>
    rw [List.range_succ, List.foldl_append]
    exact ih.step

/-- A line brought in is in the cache, with the words of the image in its threads. -/
theorem bringLine_lineRead {s : State} {b row line : Nat} {x : Block} (hx : s.getBlock b = some x) :
    LineRead s (s.bringLine b row line) b row line 16 x ∧ 256 * row + line ∈ ((s.bringLine b row line).block b).cached := by
  obtain ⟨hmem, ⟨y, hy⟩, hthreads⟩ := lineRead_foldl (row := row) (line := line) (x := x) hx 16
  let f (x : Block) : Block := { x with cached := Cells.insert (256 * row + line) x.cached }
  have hbring : s.bringLine b row line = ((List.range 16).foldl (State.readLineWord b row line x) s).modBlock b f := by
    rw [State.bringLine, State.block_of_get hx]
    rfl
  rw [hbring]
  refine ⟨⟨(State.modBlock_mem _ b f).trans hmem, getBlock_modBlock_some hy b f, fun t th hth => ?_⟩, ?_⟩
  · rw [getThread_modBlock_of_threads _ b (f := f) fun _ => rfl]
    exact hthreads t th hth
  · rw [State.block_modBlock_self hy]
    exact Cells.mem_insert_self _ _

end Bring

end Sys2Proof.Machine
end

section
/-! PROOF. The events that end a wait, and O12. -/

namespace Sys2Proof.Machine

open Claims

/-! Flags (02 R50). -/

theorem clauseStartEndsTheWait {s : State} {b t : Nat} {th : Thread} (hth : s.getThread b t = some th)
    (h : (∃ mask, th.run = .stalled (.flags mask) ∧ countsZero th mask) ∨ ∃ f, th.run = .stalled (.flagFull f) ∧ th.flag f < 7) :
    ∃ s', exec (.clauseStart b t) s = .next s' ∧ OnlyThread s s' b t { th with run := .ready, since := s.now } := by
  have he : exec (.clauseStart b t) s = execClauseStart b t s := rfl
  have hthr : s.thread b t = th := State.thread_of_get hth
  refine ⟨s.wake b t, ?_, onlyThread_mod hth _⟩
  rw [he, execClauseStart, hthr]
  obtain ⟨mask, hrun, hz⟩ | ⟨f, hrun, hf⟩ := h
  · rw [waiting_of_stalled hth hrun]
    exact congrArg Host.Outcome.next (if_pos (flagsZero_iff.2 hz))
  · rw [waiting_of_stalled hth hrun]
    exact congrArg Host.Outcome.next (if_pos (decide_eq_true hf))

/-! The full allotment (03 R84). -/

section Grant

variable {s : State} {b : Nat} {x : Block} (hx : s.getBlock b = some x)
include hx

theorem acquireGrantKeepsTheRequest (hlife : x.life ≠ .resident) : exec (.acquireGrant b) s = .next s := by
  have he : exec (.acquireGrant b) s = execAcquireGrant b s := rfl
  rw [he, execAcquireGrant, State.block_of_get hx]
  simp [hlife]

theorem acquireGrantEndsTheWait (hlife : x.life = .resident) (hreq : x.acqpend = true) :
    ∃ s', exec (.acquireGrant b) s = .next s' ∧ (s'.block b).allot = x.full ∧ (s'.block b).acqpend = false ∧
      (∀ t th, x.getThread t = some th → th.run = .stalled .acquire → (s'.thread b t).run = .ready) ∧ s.sameMemory s' := by
  let f (x : Block) : Block := { x with allot := x.full, acqpend := false }
  have he : exec (.acquireGrant b) s = .next ((s.modBlock b f).wakeWaiting b x.threads.length (· == .acquire)) := by
    have he : exec (.acquireGrant b) s = execAcquireGrant b s := rfl
    rw [he, execAcquireGrant, State.block_of_get hx]
    simp only [hlife, hreq, beq_self_eq_true, Bool.and_self, if_true]
    rfl
  have hw := woken_wakeWaiting (s.modBlock b f) b x.threads.length (· == .acquire)
  have hblock : (s.modBlock b f).block b = f x := State.block_modBlock_self hx f
  refine ⟨_, he, ?_, ?_, fun t th ht hrun => ?_, ?_⟩
  · rw [hw.field Block.allot fun _ => rfl, hblock]
  · rw [hw.field Block.acqpend fun _ => rfl, hblock]
  · have hth : (s.modBlock b f).getThread b t = some th :=
      (getThread_modBlock_of_threads s b (f := f) (fun _ => rfl) b t).trans (State.getThread_eq_some.2 ⟨x, hx, ht⟩)
    exact (wakeWaiting_ready (thread_lt ht) hth hrun rfl).run
  · exact sameMemory_of_mem_eq (by rw [hw.mem_eq, State.modBlock_mem])

end Grant

/-! Register lines (03 R82). -/

section Fill

variable {s : State} {b row reg : Nat} {x : Block}

/-- The state in which a line that a thread misses is at hand. -/
def State.withLine (s : State) (b row reg : Nat) (x : Block) : State :=
  if x.lineIn row reg then s else (s.evictLine x.core).bringLine b row reg

theorem lineIn_lane (hk : x.kind = .lane) : x.lineIn row reg = true ↔ 256 * row + reg ∈ x.cached := by
  simp [Block.lineIn, hk]

theorem withLine_cached (hx : s.getBlock b = some x) (hk : x.kind = .lane) : 256 * row + reg ∈ ((s.withLine b row reg x).block b).cached := by
  unfold State.withLine
  split
  case isTrue h =>
    rw [State.block_of_get hx]
    exact (lineIn_lane hk).1 h
  case isFalse =>
    obtain ⟨y, hy⟩ := evictLine_getBlock_some hx x.core
    exact (bringLine_lineRead hy).2

theorem withLine_thread (hx : s.getBlock b = some x) {t : Nat} {th : Thread} (ht : x.getThread t = some th) :
    ∃ th', (s.withLine b row reg x).getThread b t = some th' ∧ th'.run = th.run := by
  have hth : s.getThread b t = some th := State.getThread_eq_some.2 ⟨x, hx, ht⟩
  unfold State.withLine
  split
  · exact ⟨th, hth, rfl⟩
  · obtain ⟨y, hy⟩ := evictLine_getBlock_some hx x.core
    obtain ⟨th', hth', hrun, -⟩ := (bringLine_lineRead hy (row := row) (line := reg)).1.threads t th ((evictLine_getThread s _ b t).trans hth)
    exact ⟨th', hth', hrun⟩

/-- Into a cache with room a line comes with the words of the image, and memory stays. -/
theorem withLine_room (hx : s.getBlock b = some x) (hk : x.kind = .lane) (hroom : s.cacheLines x.core < 8192) :
    (s.withLine b row reg x).mem = s.mem ∧ ∀ t th, x.getThread t = some th → t / 16 = row →
      ∃ th', (s.withLine b row reg x).getThread b t = some th' ∧
        th'.getV reg = if 256 * row + reg ∈ x.cached then th.getV reg else w32 (s.rdNat (x.lineWord t reg) 4) := by
  unfold State.withLine
  split
  case isTrue h =>
    refine ⟨rfl, fun t th ht _ => ⟨th, State.getThread_eq_some.2 ⟨x, hx, ht⟩, ?_⟩⟩
    rw [if_pos ((lineIn_lane hk).1 h)]
  case isFalse h =>
    rw [evictLine_room hroom]
    obtain ⟨hmem, -, hthreads⟩ := (bringLine_lineRead hx (row := row) (line := reg)).1
    refine ⟨hmem, fun t th ht hrow => ?_⟩
    obtain ⟨th', hth', -, hval⟩ := hthreads t th (State.getThread_eq_some.2 ⟨x, hx, ht⟩)
    refine ⟨th', hth', ?_⟩
    rw [if_neg fun e => h ((lineIn_lane hk).2 e), hval hrow (by omega)]

theorem Woken.getV {s s' : State} (h : Woken s s') {b t : Nat} {th : Thread} (hth : s.getThread b t = some th) (n : Nat) :
    (s'.thread b t).getV n = th.getV n := by
  obtain h | h := h.threads b t th hth
  · rw [State.thread_of_get h]
  · rw [State.thread_of_get h]
    rfl

theorem registerCacheFillEndsTheWait (hx : s.getBlock b = some x) (hslot : x.inSlot = true) (hk : x.kind = .lane) (hreg : reg < 224)
    (hrow : row < 64) (hheld : s.held (x.lineWord (16 * row) reg) = false) :
    ∃ s', exec (.registerCacheFill b row reg) s = .next s' ∧ 256 * row + reg ∈ (s'.block b).cached ∧
      (∀ t th, x.getThread t = some th → th.run = .stalled (.line row reg) → (s'.thread b t).run = .ready) ∧
      (s.cacheLines x.core < 8192 → s.sameMemory s' ∧
        ∀ t th, x.getThread t = some th → t / 16 = row →
          (s'.thread b t).getV reg = if 256 * row + reg ∈ x.cached then th.getV reg else w32 (s.rdNat (x.lineWord t reg) 4)) := by
  have he : exec (.registerCacheFill b row reg) s =
      .next ((s.withLine b row reg x).wakeWaiting b x.threads.length (· == .line row reg)) := by
    have he : exec (.registerCacheFill b row reg) s = execRegisterCacheFill b row reg s := rfl
    rw [he, execRegisterCacheFill, State.block_of_get hx]
    simp only [hslot, hheld, decide_eq_true hreg, decide_eq_true hrow, Bool.not_false, Bool.and_self, if_true]
    rfl
  have hw := woken_wakeWaiting (s.withLine b row reg x) b x.threads.length (· == .line row reg)
  refine ⟨_, he, ?_, fun t th ht hrun => ?_, fun hroom => ?_⟩
  · rw [hw.field Block.cached fun _ => rfl]
    exact withLine_cached hx hk
  · obtain ⟨th', hth', hrun'⟩ := withLine_thread hx ht
    exact (wakeWaiting_ready (f := (· == .line row reg)) (thread_lt ht) hth' (hrun'.trans hrun) (beq_self_eq_true _)).run
  · obtain ⟨hmem, hval⟩ := withLine_room hx hk hroom (row := row) (reg := reg)
    refine ⟨sameMemory_of_mem_eq (hw.mem_eq.trans hmem), fun t th ht hrow' => ?_⟩
    obtain ⟨th', hth', hv⟩ := hval t th ht hrow'
    rw [hw.getV hth', hv]

end Fill

/-! Instruction fetch (03 R106). -/

section Fetch

/-- Entries written under keys that differ are all found again. -/
theorem Cells.get?_foldl_set {α : Type} {k : Nat → Nat} (hk : Function.Injective k) (v : Nat → α) (m : List (Nat × α)) (n : Nat)
    {i : Nat} (hi : i < n) : Cells.get? (k i) ((List.range n).foldl (fun m i => Cells.set (k i) (v i) m) m) = some (v i) := by
  induction n with
  | zero => omega
  | succ n ih =>
    rw [List.range_succ, List.foldl_append, List.foldl_cons, List.foldl_nil]
    by_cases h : i = n
    · subst h
      exact Cells.get?_set_self _ _ _
    · rw [Cells.get?_set_other fun e => h (hk e)]
      exact ih (by omega)

theorem Cells.mem_of_get? {α : Type} {k : Nat} {a : α} {m : List (Nat × α)} (h : Cells.get? k m = some a) : (k, a) ∈ m := by
  induction m with
  | nil => cases h
  | cons e m ih =>
    obtain ⟨j, b⟩ := e
    rw [Cells.get?] at h
    split at h
    case isTrue hj =>
      obtain rfl := Option.some.inj h
      exact hj ▸ List.mem_cons_self
    case isFalse => exact List.mem_cons_of_mem _ (ih h)

/-- A block in a slot is one of its core's. -/
theorem mem_onCore {s : State} {b : Nat} {x : Block} (hx : s.getBlock b = some x) (hslot : x.inSlot = true) : b ∈ s.onCore x.core := by
  refine List.mem_filter.2 ⟨List.mem_map.2 ⟨(b, x), Cells.mem_of_get? hx, rfl⟩, ?_⟩
  simp [State.block_of_get hx, hslot]

/-- Another content of the instruction paths. -/
def State.setPath (s : State) (p : List Host.Cell) : State := { s with ipath := p }

@[simp] theorem State.setPath_mem (s : State) (p : List Host.Cell) : (s.setPath p).mem = s.mem := rfl
@[simp] theorem State.setPath_ipath (s : State) (p : List Host.Cell) : (s.setPath p).ipath = p := rfl
@[simp] theorem State.setPath_getBlock (s : State) (p : List Host.Cell) (b : Nat) : (s.setPath p).getBlock b = s.getBlock b := rfl

/-- The instruction paths with a list of bytes of a line of code as home holds them. -/
def State.pathWith (s : State) (core : Nat) (key : Option Nat) (line : Nat) (l : List Nat) : List Host.Cell :=
  l.foldl (fun m i => Cells.set (viewKey core key (line + i)) (s.homeByte (line + i) key) m) s.ipath

theorem foldl_ipath (core : Nat) (key : Option Nat) (line : Nat) (l : List Nat) (s : State) :
    l.foldl (fun (s : State) i => { s with ipath := Cells.set (viewKey core key (line + i)) (s.homeByte (line + i) key) s.ipath }) s =
      s.setPath (s.pathWith core key line l) := by
  induction l generalizing s with
  | nil => rfl
  | cons i l ih =>
    rw [List.foldl_cons, ih]
    rfl

theorem viewKey_inj {core p q : Nat} {key : Option Nat} (h : viewKey core key p = viewKey core key q) : p = q :=
  Nat.add_left_cancel h

theorem pathWith_get (s : State) (core : Nat) (key : Option Nat) (line n : Nat) {i : Nat} (hi : i < n) :
    Cells.get? (viewKey core key (line + i)) (s.pathWith core key line (List.range n)) = some (s.homeByte (line + i) key) :=
  Cells.get?_foldl_set (k := fun i => viewKey core key (line + i)) (fun _ _ h => Nat.add_left_cancel (viewKey_inj h))
    (fun i => s.homeByte (line + i) key) s.ipath n hi

/-- Does a wait fetch a line of code? -/
def fetchesLine (line : Nat) (key : Option Nat) : Wait → Bool
  | .fetch p k => p / 64 * 64 == line && k == key
  | _ => false

/-- Every thread of a core that waits for a line of code is waked. -/
def State.wakeFetch (s : State) (core line : Nat) (key : Option Nat) : State :=
  (s.onCore core).foldl (fun (s : State) b => s.wakeWaiting b (s.block b).threads.length (fetchesLine line key)) s

variable {s : State} {b t : Nat} {x : Block} {th : Thread}

theorem Woken.threads_length {s s' : State} (h : Woken s s') (hth : s.getThread b t = some th) : t < (s'.block b).threads.length := by
  have : ∃ th', s'.getThread b t = some th' := (h.threads b t th hth).elim (fun h => ⟨_, h⟩) fun h => ⟨_, h⟩
  obtain ⟨th', h'⟩ := this
  obtain ⟨y, hy, hyt⟩ := State.getThread_eq_some.1 h'
  rw [State.block_of_get hy]
  exact thread_lt hyt

theorem woken_wakeFetch (s : State) (core line : Nat) (key : Option Nat) : Woken s (s.wakeFetch core line key) :=
  Woken.foldl (fun s' b => woken_wakeWaiting s' b _ _) _ s

theorem wakeFetch_ready (hx : s.getBlock b = some x) (hslot : x.inSlot = true) (ht : x.getThread t = some th) {w : Wait}
    (hrun : th.run = .stalled w) {line : Nat} {key : Option Nat} (hw : fetchesLine line key w = true) :
    IsReady (s.wakeFetch x.core line key) b t := by
  have hth : s.getThread b t = some th := State.getThread_eq_some.2 ⟨x, hx, ht⟩
  refine isReady_foldl (fun s' b => woken_wakeWaiting s' b _ _) (mem_onCore hx hslot) fun s' hs' => ?_
  exact isReady_foldl (fun s' t => (woken_wake s' b t).ite) (List.mem_range.2 (hs'.threads_length hth)) fun s2 hs2 =>
    isReady_wakeWaiting hth hrun hw s2 (hs'.trans hs2)

theorem instructionFetchEndsTheWait {pa : Nat} {key : Option Nat} (hx : s.getBlock b = some x) (ht : x.getThread t = some th)
    (hslot : x.inSlot = true) (hrun : th.run = .stalled (.fetch pa key)) (hreach : s.reach noCore (pa / 64 * 64) = true) :
    ∃ s', exec (.instructionFetch b t) s = .next s' ∧ (s'.thread b t).run = .ready ∧ s.sameMemory s' ∧
      ∀ i, i < 64 → Cells.get? (viewKey x.core key (pa / 64 * 64 + i)) s'.ipath = some (s.homeByte (pa / 64 * 64 + i) key) := by
  have hth : s.thread b t = th := State.thread_of_get (State.getThread_eq_some.2 ⟨x, hx, ht⟩)
  obtain ⟨p, hp⟩ : ∃ p, p = s.pathWith x.core key (pa / 64 * 64) (List.range 64) := ⟨_, rfl⟩
  have he : exec (.instructionFetch b t) s = .next ((s.setPath p).wakeFetch x.core (pa / 64 * 64) key) := by
    have he : exec (.instructionFetch b t) s = execInstructionFetch b t s := rfl
    rw [he, execInstructionFetch, hth, hrun, State.block_of_get hx]
    simp only [hreach, hslot, Bool.and_self, if_true, foldl_ipath, ← hp]
    rfl
  have hw := woken_wakeFetch (s.setPath p) x.core (pa / 64 * 64) key
  refine ⟨_, he, ?_, sameMemory_of_mem_eq (hw.mem_eq.trans (s.setPath_mem p)), fun i hi => ?_⟩
  · exact (wakeFetch_ready ((s.setPath_getBlock p b).trans hx) hslot ht hrun (by simp [fetchesLine])).run
  · rw [hw.ipath_eq, State.setPath_ipath, hp, pathWith_get s x.core key _ 64 hi]

end Fetch

/-- Of the parts of O12: the events that end a wait. -/
theorem controlEventsEndTheirWait : ControlEventsEndTheirWait :=
  ⟨fun _ _ _ _ hth h => clauseStartEndsTheWait hth h,
    fun _ _ _ _ _ hx hslot hk hreg hrow hheld => registerCacheFillEndsTheWait hx hslot hk hreg hrow hheld,
    fun _ _ _ _ _ hx hrow hline himage => ⟨_, rfl, spillLineWritesTheImage hx hrow hline himage⟩,
    fun _ _ _ hx hlife => acquireGrantKeepsTheRequest hx hlife,
    fun _ _ _ hx hlife hreq => acquireGrantEndsTheWait hx hlife hreq,
    fun _ _ _ _ _ _ _ hx ht hslot hrun hreach => instructionFetchEndsTheWait hx ht hslot hrun hreach⟩

/-- Settles O12: the instructions that wait by what their bodies answer, the events by what the threads they wake see. -/
theorem waitsAndExitAndTheirEvents : Obligations.WaitsAndExitAndTheirEvents := ⟨waitsAndExit, controlEventsEndTheirWait⟩

end Sys2Proof.Machine
end

section
/-! PROOF. Team members that wait apart in a block past its grace period: O26 fails. -/

namespace Sys2Proof.Machine

open Claims

/-! A block that is to stop and whose grace period is over, with two threads of team 0 that wait apart (03 R90, 08 R214). -/

/-- A thread of team 0 that waits at the first word of its clause. -/
def lateThread (w : Wait) : Thread := { Thread.init 0x1004 0 with clauseIdx := 1, run := .stalled w }

/-- One thread waits at RECONV of team 0, the other at its barrier; the block has a handler. -/
def lateBlock : Block :=
  { Block.absent with
    life := .stopping, stopBy := some 0, tvec := 0x2000, teams := ⟨2, 0, 0⟩ :: List.replicate 7 ⟨0, 0, 0⟩
    threads := [lateThread (.reconv 0), lateThread (.barrier 0 .core)] }

/-- The machine with this block alone. -/
def lateState : State := { State.reset with blocks := [(0, lateBlock)] }

/-- The first of the two takes its TEAMDEAD trap and stops at once, ready as it is in its handler. -/
theorem teamdead_stops_past_grace {s' : State} (h : exec (.teamdead 0 0) lateState = .next s') :
    (s'.thread 0 0).run = .stopped none false := by
  cases h
  rfl

theorem lateThread_calm {k : Nat} {th : Thread} (h : lateBlock.getThread k = some th) : th.tcause.msb = false ∧ th.clauseIdx < 32 := by
  have hmem : th ∈ lateBlock.threads := List.mem_of_getElem? h
  obtain rfl | rfl : th = lateThread (.reconv 0) ∨ th = lateThread (.barrier 0 .core) := by simpa [lateBlock] using hmem
  · decide
  · decide

/-- Refutes O26, in its fourth part: a block that is to stop, past its grace period, is in its slot, and a member of it that traps as
TEAMDEAD does not stand ready at the handler, as `handled` says, but is stopped there (03 R90). -/
theorem not_rendezvousReleaseTogether : ¬ Obligations.RendezvousReleaseTogether := by
  rintro ⟨-, -, -, hdead⟩
  obtain ⟨s', hexec, -, htraps, -⟩ := hdead 0 0 0 1 lateState lateBlock rfl rfl rfl (by decide) (by decide) (by decide) (by decide)
    (by decide) (by decide) fun k th => lateThread_calm
  have htrap := htraps 0 (lateThread (.reconv 0)) (.reconv 0) (by decide) rfl rfl
  have hready : (s'.thread 0 0).run = .ready := by
    rw [State.thread_of_get htrap]
    rfl
  rw [teamdead_stops_past_grace hexec] at hready
  cases hready

end Sys2Proof.Machine
end

section
/-! PROOF. What a computing lane instruction does, once: its operands as `Reads` lists them, its result as `latched` says. -/

namespace Sys2Proof.Machine

open Claims

/-! Operands. -/

section Operands

variable {b t n : Nat} {r : LReg} {os : List (LReg × Nat)} {vs : List (List Word)} {s s' : State}

theorem reads_nil (h : Reads b t [] vs s s') : vs = [] ∧ s' = s := h

/-- A single operand is read as `src` reads it. -/
theorem reads_one (h : Reads b t ((r, 1) :: os) vs s s') :
    ∃ w s1 rest, src b t r s = .ok (w, s1) ∧ Reads b t os rest s1 s' ∧ vs = [w] :: rest := by
  obtain ⟨ws, s1, rest, hread, hrest, rfl⟩ := h
  rw [if_pos rfl] at hread
  obtain ⟨hsrc, hlen⟩ := hread
  obtain ⟨w, rfl⟩ := List.length_eq_one_iff.1 hlen
  exact ⟨w, s1, rest, hsrc, hrest, rfl⟩

/-- A group is read as `srcN` reads it. -/
theorem reads_group (hn : n ≠ 1) (h : Reads b t ((r, n) :: os) vs s s') :
    ∃ ws s1 rest, srcN b t r n s = .ok (ws, s1) ∧ Reads b t os rest s1 s' ∧ vs = ws :: rest := by
  obtain ⟨ws, s1, rest, hread, hrest, rfl⟩ := h
  rw [if_neg hn] at hread
  exact ⟨ws, s1, rest, hread, hrest, rfl⟩

end Operands

theorem bind_ok_inv {α β : Type} {m : M α} {f : α → M β} {s s' : State} {y : β} (h : (m >>= f) s = .ok (y, s')) :
    ∃ a s1, m s = .ok (a, s1) ∧ f a s1 = .ok (y, s') := by
  cases hm : m s with
  | error e => exact absurd ((bind_error hm).symm.trans h) (by simp)
  | ok p => exact ⟨p.1, p.2, rfl, (bind_ok hm).symm.trans h⟩

@[simp] theorem LReg.plus_zero (r : LReg) : r.plus 0 = r := by
  cases r <;> simp [LReg.plus]

theorem srcN_succ_inv {b t n : Nat} {r : LReg} {ws : List Word} {s s' : State} (h : srcN b t r (n + 1) s = .ok (ws, s')) :
    ∃ us w s1, srcN b t r n s = .ok (us, s1) ∧ readReg b t (r.plus n) s1 = .ok (w, s') ∧ ws = us ++ [w] := by
  obtain ⟨us, s1, hus, h1⟩ := bind_ok_inv h
  obtain ⟨w, s2, hw, h2⟩ := bind_ok_inv h1
  obtain ⟨rfl, rfl⟩ : us ++ [w] = ws ∧ s2 = s' := by simpa using h2
  exact ⟨us, w, s1, hus, hw, rfl⟩

/-- A group of two read register by register is a pair. -/
theorem srcN_two_inv {b t : Nat} {r : LReg} {ws : List Word} {s s' : State} (h : srcN b t r 2 s = .ok (ws, s')) :
    ∃ lo hi, ws = [lo, hi] ∧ src2 b t r s = .ok (pairOf lo hi, s') := by
  obtain ⟨us, hi, s1, hus, hhi, rfl⟩ := srcN_succ_inv h
  obtain ⟨us', lo, s0, hnil, hlo, rfl⟩ := srcN_succ_inv hus
  obtain ⟨rfl, rfl⟩ : [] = us' ∧ s = s0 := by simpa [srcN] using hnil
  rw [LReg.plus_zero] at hlo
  refine ⟨lo, hi, rfl, ?_⟩
  rw [src2, bind_ok hlo, bind_ok hhi]
  rfl

/-- A pair is read as `src2` reads it. -/
theorem reads_pair {b t : Nat} {r : LReg} {os : List (LReg × Nat)} {vs : List (List Word)} {s s' : State}
    (h : Reads b t ((r, 2) :: os) vs s s') :
    ∃ lo hi s1 rest, src2 b t r s = .ok (pairOf lo hi, s1) ∧ Reads b t os rest s1 s' ∧ vs = [lo, hi] :: rest := by
  obtain ⟨ws, s1, rest, hread, hrest, rfl⟩ := reads_group (by decide) h
  obtain ⟨lo, hi, rfl, hsrc⟩ := srcN_two_inv hread
  exact ⟨lo, hi, s1, rest, hsrc, hrest, rfl⟩

/-! Results. -/

section Results

variable (b t : Nat) (d : LReg) (s : State)

theorem forM_writeReg (es : List (Word × Nat)) (s : State) :
    (es.forM fun e => writeReg b t (d.plus e.2) e.1) s =
      .ok ((), es.foldl (fun (s : State) e => (s.clobber b t (d.plus e.2)).modThread b t (·.writeReg (d.plus e.2) e.1)) s) := by
  induction es generalizing s with
  | nil => rfl
  | cons e es ih =>
    exact (bind_ok (a := ()) rfl).trans (ih _)

/-- The destination of a group takes its words, and the x latch the first. -/
theorem resultN_run (ws : List Word) : resultN b t d ws s = .ok ((), latched b t d ws 0 s) := by
  rw [resultN, bind_ok (forM_writeReg b t d ws.zipIdx s)]
  simp [latchX, latched, putRegs]

theorem result_run (w : Word) : result b t d w s = .ok ((), latched b t d [w] 0 s) := by
  simp [← resultN_run, resultN, result]

theorem result2_run (v : DWord) : result2 b t d v s = .ok ((), latched b t d (pairList v) 0 s) := resultN_run b t d s _

theorem orFp_latched (ws : List Word) (fp : Nat) :
    orFp b t fp (latched b t d ws 0 s) = .ok ((), latched b t d ws fp s) := by
  simp [orFp, updT, latched, State.modThread_modThread]

/-- A floating-point result comes with its sticky bits (05 R136). -/
theorem fpResult_run (r : Nat × Nat) : fpResult b t d r s = .ok ((), latched b t d [w32 r.1] r.2 s) := by
  rw [fpResult, bind_ok (result_run b t d s _)]
  exact orFp_latched b t d s _ _

end Results

/-! The instruction. -/

/-- An instruction computes the row `o` of a table. -/
def ComputesRow (i : Instr) (o : LaneOp) : Prop :=
  ∀ s s1 b t vs, Issues i s b t → Reads b t o.reads vs s s1 →
    exec i s = .next (laneDone i b t o.dest (o.value vs).1 (o.value vs).2 s1)

theorem laneExec_fall {i : Instr} {body : Nat → Nat → M Unit} {s s' : State} {b t : Nat} (h : Issues i s b t)
    (ho : outbound i = false) (hb : body b t s = .ok ((), s')) :
    laneExec i (laneFall body) s = .next (s'.retire b t (wordsOf i) .fall) := by
  obtain ⟨hcur, hcheck, -⟩ := h
  exact laneExec_one hcur hcheck (laneFall_ok hb) (by simp [ho])

/-- An instruction computes its row when its body, on operands read as the row lists them, leaves the row's result. -/
theorem computesRow_of_body {i : Instr} {body : Nat → Nat → M Unit} {o : LaneOp}
    (hx : ∀ s, exec i s = laneExec i (laneFall body) s) (ho : outbound i = false)
    (hb : ∀ {b t vs s s1}, Reads b t o.reads vs s s1 → body b t s = .ok ((), latched b t o.dest (o.value vs).1 (o.value vs).2 s1)) :
    ComputesRow i o :=
  fun s _ _ _ _ hi hr => (hx s).trans (laneExec_fall hi ho (hb hr))

section Rows

variable {i : Instr} {d a c : LReg} {o : LaneOp}

theorem op1_computes {f g : Word → Word} (hx : ∀ s, exec i s = lane1 i d a f s) (ho : outbound i = false)
    (hfg : ∀ x, f x = g x) (h : op1 d a g = some o) : ComputesRow i o := by
  obtain rfl : _ = o := Option.some.inj h
  refine computesRow_of_body hx ho fun hr => ?_
  obtain ⟨x, s1, vs1, hsx, hr1, rfl⟩ := reads_one hr
  obtain ⟨rfl, rfl⟩ := reads_nil hr1
  rw [bind_ok hsx, result_run, hfg]
  rfl

theorem op2_computes {f g : Word → Word → Word} (hx : ∀ s, exec i s = lane2 i d a c f s) (ho : outbound i = false)
    (hfg : ∀ x y, f x y = g x y) (h : op2 d a c g = some o) : ComputesRow i o := by
  obtain rfl : _ = o := Option.some.inj h
  refine computesRow_of_body hx ho fun hr => ?_
  obtain ⟨x, s1, vs1, hsx, hr1, rfl⟩ := reads_one hr
  obtain ⟨y, s2, vs2, hsy, hr2, rfl⟩ := reads_one hr1
  obtain ⟨rfl, rfl⟩ := reads_nil hr2
  rw [bind_ok hsx, bind_ok hsy, result_run, hfg]
  rfl

theorem op3_computes {f g : Word → Word → Word → Word} (hx : ∀ s, exec i s = lane3 i d a c f s) (ho : outbound i = false)
    (hfg : ∀ x y z, f x y z = g x y z) (h : op3 d a c g = some o) : ComputesRow i o := by
  obtain rfl : _ = o := Option.some.inj h
  refine computesRow_of_body hx ho fun hr => ?_
  obtain ⟨x, s1, vs1, hsx, hr1, rfl⟩ := reads_one hr
  obtain ⟨y, s2, vs2, hsy, hr2, rfl⟩ := reads_one hr1
  obtain ⟨z, s3, vs3, hsz, hr3, rfl⟩ := reads_one hr2
  obtain ⟨rfl, rfl⟩ := reads_nil hr3
  rw [bind_ok hsx, bind_ok hsy, bind_ok hsz, result_run, hfg]
  rfl

/-- A pair made of one source (04 R110). -/
theorem pairRow_computes {f : Word → DWord} {g : Word → List Word} (hx : ∀ s, exec i s = lanePair i d a f s) (ho : outbound i = false)
    (hfg : ∀ x, pairList (f x) = g x) (h : some ⟨[(a, 1)], d, fun vs => (g (arg vs 0), 0)⟩ = some o) : ComputesRow i o := by
  obtain rfl : _ = o := Option.some.inj h
  refine computesRow_of_body hx ho fun hr => ?_
  obtain ⟨x, s1, vs1, hsx, hr1, rfl⟩ := reads_one hr
  obtain ⟨rfl, rfl⟩ := reads_nil hr1
  rw [bind_ok hsx, result2_run, hfg]
  rfl

/-- A constant (04 R118). -/
theorem constRow_computes {w : Word} (hx : ∀ s, exec i s = laneExec i (laneFall fun b t => result b t d w) s) (ho : outbound i = false)
    (h : some ⟨[], d, fun _ => ([w], 0)⟩ = some o) : ComputesRow i o := by
  obtain rfl : _ = o := Option.some.inj h
  refine computesRow_of_body hx ho fun hr => ?_
  obtain ⟨rfl, rfl⟩ := reads_nil hr
  exact result_run _ _ _ _ _

end Rows

end Sys2Proof.Machine
end

section
/-! PROOF. The integer formulas of 04_integer.md R110 to R119, as the model computes them on numbers and as the statements write them on
words. -/

namespace Sys2Proof.Machine

open Claims

/-! Words, numbers and integers. -/

theorem not_eq_xor_ones (x : Word) : ~~~x = x ^^^ 0xFFFFFFFF := (BitVec.xor_allOnes (x := x)).symm

theorem wi_toInt (x : Word) : wi x.toInt = x := BitVec.ofInt_toInt

theorem wi_neg (x : Word) : wi (-x.toInt) = 0 - x :=
  (BitVec.ofInt_neg).trans ((congrArg Neg.neg (wi_toInt x)).trans (BitVec.zero_sub x).symm)

theorem wi_natCast (n : Nat) : wi (n : Int) = w32 n := BitVec.ofInt_natCast 32 n

theorem toInt_range (x : Word) : -2147483648 ≤ x.toInt ∧ x.toInt < 2147483648 := ⟨x.le_toInt, x.toInt_lt⟩

theorem msb_iff_toInt_neg {n : Nat} (x : BitVec n) : x.msb = true ↔ x.toInt < 0 := by
  rw [BitVec.msb_eq_toInt, decide_eq_true_eq]

/-- Only the least word has a negation out of range. -/
theorem toInt_eq_least_iff (x : Word) : x.toInt = -2147483648 ↔ x = 0x80000000 :=
  ⟨fun h => BitVec.eq_of_toInt_eq (h.trans (by decide)), fun h => h ▸ by decide⟩

/-! Saturation (00 R9; 04 R110). -/

theorem satS_eq (v : Int) (n : Nat) : satS v n = max (-(2 ^ (n - 1))) (min (2 ^ (n - 1) - 1) v) := by
  have hpos : (0 : Int) < 2 ^ (n - 1) := by positivity
  unfold satS
  dsimp only
  split_ifs <;> omega

theorem satU_eq (v : Int) (n : Nat) : satU v n = max 0 (min (2 ^ n - 1) v) := by
  have hpos : (0 : Int) < 2 ^ n := by positivity
  unfold satU
  dsimp only
  split_ifs <;> omega

/-- A negation that leaves the range upwards stops at the greatest word. -/
theorem wi_satS_neg (x : Word) : wi (satS (-x.toInt) 32) = if x = 0x80000000 then 0x7FFFFFFF else 0 - x := by
  split_ifs with h
  · subst h
    decide
  · have hx := toInt_range x
    have hne : x.toInt ≠ -2147483648 := mt (toInt_eq_least_iff x).1 h
    rw [show satS (-x.toInt) 32 = -x.toInt by rw [satS_eq]; omega, wi_neg]

theorem wi_natAbs (x : Word) : wi x.toInt.natAbs = if x.msb then 0 - x else x := by
  split_ifs with h
  · rw [Int.ofNat_natAbs_of_nonpos ((msb_iff_toInt_neg x).1 h).le, wi_neg]
  · rw [Int.natAbs_of_nonneg (not_lt.1 (mt (msb_iff_toInt_neg x).2 h)), wi_toInt]

theorem w32_natAbs (x : Word) : w32 x.toInt.natAbs = if x.msb then 0 - x else x := by
  rw [← wi_natCast, wi_natAbs]

theorem wi_satS_natAbs (x : Word) :
    wi (satS x.toInt.natAbs 32) = if x = 0x80000000 then 0x7FFFFFFF else if x.msb then 0 - x else x := by
  split_ifs with h
  · subst h
    decide
  all_goals
    have hx := toInt_range x
    have hne : x.toInt ≠ -2147483648 := mt (toInt_eq_least_iff x).1 h
    rw [show satS x.toInt.natAbs 32 = x.toInt.natAbs by rw [satS_eq]; omega, wi_natAbs]
    simp [*]

theorem wi_satU_word (x : Word) : wi (satU x.toInt 32) = if x.msb then 0 else x := by
  have hx := toInt_range x
  split_ifs with h
  · have hneg := (msb_iff_toInt_neg x).1 h
    rw [show satU x.toInt 32 = 0 by rw [satU_eq]; omega]
    rfl
  · have hneg := mt (msb_iff_toInt_neg x).2 h
    rw [show satU x.toInt 32 = x.toInt by rw [satU_eq]; omega, wi_toInt]

/-! Low bits and their sign (04 R110). -/

theorem wi_sextNat (n : Nat) (x : Word) : wi (sextNat n x.toNat) = (x.truncate n : BitVec n).signExtend 32 := by
  have h : sextNat n x.toNat = (x.truncate n : BitVec n).toInt := by
    rw [← sextNat_toNat]
    simp [sextNat]
  rw [h, BitVec.signExtend]

theorem lowMask_toNat {m : Nat} (hm : m ≤ 32) : (lowMask m).toNat = 2 ^ m - 1 := by
  have hle : 2 ^ m ≤ 2 ^ 32 := Nat.pow_le_pow_right (by decide) hm
  rw [lowMask, BitVec.toNat_ofNat, Nat.mod_eq_of_lt]
  have : 0 < 2 ^ m := by positivity
  omega

/-- The low m bits of what a word has from bit p on, as a number and as a word. -/
theorem field_word (x : Word) (p : Nat) {m : Nat} (hm : m ≤ 32) : w32 (x.toNat / 2 ^ p % 2 ^ m) = (x >>> p) &&& lowMask m := by
  apply BitVec.eq_of_toNat_eq
  rw [BitVec.toNat_and, lowMask_toNat hm, Nat.and_two_pow_sub_one_eq_mod, BitVec.toNat_ushiftRight, Nat.shiftRight_eq_div_pow,
    BitVec.toNat_ofNat, Nat.mod_eq_of_lt]
  exact lt_of_le_of_lt ((Nat.mod_le _ _).trans (Nat.div_le_self _ _)) x.isLt

theorem lowBits_word (x : Word) {m : Nat} (hm : m ≤ 32) : w32 (x.toNat % 2 ^ m) = x &&& lowMask m := by
  simpa using field_word x 0 hm

/-! Least and greatest (04 R111). -/

theorem minI_word (x y : Word) : (if x.toInt ≤ y.toInt then x else y) = wi (min x.toInt y.toInt) := by
  rw [min_def]
  split <;> rw [wi_toInt]

theorem maxI_word (x y : Word) : (if x.toInt ≥ y.toInt then x else y) = wi (max x.toInt y.toInt) := by
  rw [max_comm, max_def]
  split <;> rw [wi_toInt]

theorem minW_word (x y : Word) : (if x.toNat ≤ y.toNat then x else y) = w32 (min x.toNat y.toNat) := by
  rw [min_def]
  split <;> simp

theorem maxW_word (x y : Word) : (if x.toNat ≥ y.toNat then x else y) = w32 (max x.toNat y.toNat) := by
  rw [max_comm, max_def]
  split <;> simp

/-! Counts (04 R110). -/

theorem findIdx_range (p : Nat → Bool) (n : Nat) : (List.range n).findIdx p = ((List.range n).find? p).getD n := by
  cases h : (List.range n).find? p with
  | none =>
    rw [List.findIdx_eq_length_of_false fun k hk => by simpa using List.find?_eq_none.1 h k hk]
    simp
  | some i =>
    obtain ⟨hp, hi, hlt⟩ := List.find?_range_eq_some.1 h
    have hi' : i < (List.range n).length := by simpa using hi
    rw [(List.findIdx_eq hi').2 ⟨by simpa using hp, fun j hj => by simpa using hlt j hj⟩]
    rfl

theorem trailZeros_eq (x : Word) : trailZeros x = ((List.range 32).find? fun k => x.getLsbD k).getD 32 := by
  rw [trailZeros, List.findIdx_map, ← findIdx_range]
  rfl

theorem leadZeros_eq (x : Word) : leadZeros x = if x = 0 then 32 else 31 - Nat.log2 x.toNat := by
  rw [leadZeros, List.findIdx_map]
  split_ifs with h
  · subst h
    decide
  · have hne : x.toNat ≠ 0 := fun e => h (BitVec.eq_of_toNat_eq e)
    have hlog : Nat.log2 x.toNat < 32 := (Nat.log2_lt hne).2 x.isLt
    have hlen : 31 - Nat.log2 x.toNat < (List.range 32).length := by simp; omega
    rw [List.findIdx_eq hlen]
    refine ⟨?_, fun j hj => ?_⟩
    · have hbit : 31 - (31 - Nat.log2 x.toNat) = Nat.log2 x.toNat := by omega
      simp [hbit, BitVec.getLsbD, Nat.testBit_log2 hne]
    · have hbig : x.toNat < 2 ^ (31 - j) := Nat.lt_log2_self.trans_le (Nat.pow_le_pow_right (by decide) (by omega))
      simp [BitVec.getLsbD, Nat.testBit_lt_two_pow hbig]

/-- The number whose bits are the n low bits of a word in reverse order. -/
def lowReversed (x : Word) : Nat → Nat
  | 0 => 0
  | n + 1 => Nat.bit (x.getLsbD n) (lowReversed x n)

theorem lowReversed_testBit (x : Word) (n j : Nat) : (lowReversed x n).testBit j = (decide (j < n) && x.getLsbD (n - 1 - j)) := by
  induction n generalizing j with
  | zero => simp [lowReversed]
  | succ n ih =>
    cases j with
    | zero => simp [lowReversed]
    | succ j =>
      rw [lowReversed, Nat.testBit_bit_succ, ih, show n + 1 - 1 - (j + 1) = n - 1 - j by omega]
      simp

theorem foldl_reversed (x : Word) {n : Nat} (hn : n ≤ 32) :
    (List.range n).foldl (fun k i => k + if x.getLsbD i then 2 ^ (31 - i) else 0) 0 = 2 ^ (32 - n) * lowReversed x n := by
  induction n with
  | zero => simp [lowReversed]
  | succ n ih =>
    have hpow : 2 ^ (32 - n) = 2 ^ (31 - n) * 2 := by rw [← pow_succ]; congr 1; omega
    rw [List.range_succ, List.foldl_append, ih (by omega), lowReversed, hpow, show 32 - (n + 1) = 31 - n by omega]
    have hbit : Nat.bit (x.getLsbD n) (lowReversed x n) = 2 * lowReversed x n + if x.getLsbD n then 1 else 0 := by
      cases x.getLsbD n <;> rfl
    rw [hbit, List.foldl_cons, List.foldl_nil]
    split <;> ring

theorem bitReverse_eq (x : Word) : bitReverse x = x.reverse := by
  apply BitVec.eq_of_getLsbD_eq
  intro i hi
  rw [bitReverse, foldl_reversed x le_rfl, BitVec.getLsbD_reverse, BitVec.getMsbD, BitVec.getLsbD_ofNat]
  simp [lowReversed_testBit, hi]

/-! Shifts (04 R112, R113). -/

theorem ofNat_mul_two_pow (w n k : Nat) : BitVec.ofNat w (n * 2 ^ k) = BitVec.ofNat w n <<< k := by
  apply BitVec.eq_of_toNat_eq
  simp [Nat.shiftLeft_eq]

theorem ofNat_toNat_mul_two_pow {w : Nat} (x : BitVec w) (k : Nat) : BitVec.ofNat w (x.toNat * 2 ^ k) = x <<< k := by
  rw [ofNat_mul_two_pow, BitVec.ofNat_toNat, BitVec.setWidth_eq]

theorem shiftLeft_number {w : Nat} (x : BitVec w) (k : Nat) :
    (if k ≥ w then 0 else BitVec.ofNat w (x.toNat * 2 ^ k)) = x <<< k := by
  split_ifs with h
  · exact (BitVec.shiftLeft_eq_zero h).symm
  · exact ofNat_toNat_mul_two_pow x k

theorem shiftRight_number {w : Nat} (x : BitVec w) (k : Nat) :
    (if k ≥ w then 0 else BitVec.ofNat w (x.toNat / 2 ^ k)) = x >>> k := by
  apply BitVec.eq_of_toNat_eq
  rw [BitVec.toNat_ushiftRight, Nat.shiftRight_eq_div_pow]
  split_ifs with h
  · exact (Nat.div_eq_of_lt (x.isLt.trans_le (Nat.pow_le_pow_right (by decide) h))).symm
  · rw [BitVec.toNat_ofNat, Nat.mod_eq_of_lt ((Nat.div_le_self _ _).trans_lt x.isLt)]

/-- A shift to the right past every bit leaves the sign. -/
theorem ediv_two_pow_of_small {v : Int} {m n : Nat} (h : m ≤ n) (hlo : -(2 ^ m) ≤ v) (hhi : v < 2 ^ m) :
    v / 2 ^ n = if v < 0 then -1 else 0 := by
  have hle : (2 : Int) ^ m ≤ 2 ^ n := pow_le_pow_right₀ (by decide) h
  have hpos : (0 : Int) < 2 ^ n := by positivity
  split_ifs with hv
  · rw [Int.ediv_eq_iff_of_pos hpos]
    omega
  · exact Int.ediv_eq_zero_of_lt (by omega) (by omega)

theorem sshiftRight_number {w : Nat} (x : BitVec w) (k : Nat) :
    BitVec.ofInt w (if k ≥ w then (if x.toInt < 0 then -1 else 0) else x.toInt / 2 ^ k) = x.sshiftRight k := by
  rw [BitVec.sshiftRight_eq, Int.shiftRight_eq_div_pow, Nat.cast_pow, Nat.cast_ofNat]
  split_ifs with h hneg
  · rw [ediv_two_pow_of_small (m := w - 1) (by omega) x.le_toInt x.toInt_lt, if_pos hneg]
  · rw [ediv_two_pow_of_small (m := w - 1) (by omega) x.le_toInt x.toInt_lt, if_neg hneg]
  · rfl

theorem shlW_eq (x y : Word) : shlW x y = x <<< y.toNat := shiftLeft_number x y.toNat

theorem shrW_eq (x y : Word) : shrW x y = x >>> y.toNat := shiftRight_number x y.toNat

theorem sarW_eq (x y : Word) : sarW x y = x.sshiftRight y.toNat := by
  rw [← sshiftRight_number, sarW]
  split_ifs <;> rfl

theorem rotlW_eq (x y : Word) : rotlW x y = x.rotateLeft (y.toNat % 32) := by
  have hk : y.toNat % 32 < 32 := Nat.mod_lt _ (by decide)
  apply BitVec.eq_of_getLsbD_eq
  intro i hi
  have hright : 32 + i - y.toNat % 32 - 32 = i - y.toNat % 32 := by omega
  have hleft : 32 + i - y.toNat % 32 = 32 - y.toNat % 32 + i := by omega
  rw [BitVec.getLsbD_rotateLeft, Nat.mod_mod]
  simp only [rotlW, hiWord, pairOf, BitVec.truncate_eq_setWidth, BitVec.getLsbD_setWidth, BitVec.getLsbD_ushiftRight,
    BitVec.getLsbD_shiftLeft, BitVec.getLsbD_append, hi, hright]
  by_cases hik : i < y.toNat % 32
  · simp [hik, hleft, show 32 + i < 64 by omega, show ¬32 + i < y.toNat % 32 by omega, show 32 - y.toNat % 32 + i < 32 by omega]
  · simp [hik, show 32 + i < 64 by omega, show ¬32 + i < y.toNat % 32 by omega, show ¬32 + i - y.toNat % 32 < 32 by omega]

/-! Fields (04 R114). -/

theorem bfLen_le (b : Word) : bfLen b ≤ 32 := Nat.min_le_right _ _

theorem lowMask_getLsbD {m : Nat} (hm : m ≤ 32) (i : Nat) : (lowMask m).getLsbD i = decide (i < m) := by
  rw [BitVec.getLsbD, lowMask_toNat hm, Nat.testBit_two_pow_sub_one]

/-- The sign of a field above it, as ones or as nothing. -/
theorem signExtend_field {m : Nat} (h0 : 0 < m) (hm : m ≤ 32) (y : Word) :
    ((y &&& lowMask m).truncate m : BitVec m).signExtend 32 =
      if (y &&& lowMask m).getLsbD (m - 1) then y &&& lowMask m ||| (lowMask m ^^^ 0xFFFFFFFF) else y &&& lowMask m := by
  apply BitVec.eq_of_getLsbD_eq
  intro i hi
  have hmsb : ((y &&& lowMask m).truncate m : BitVec m).msb = (y &&& lowMask m).getLsbD (m - 1) := by
    rw [BitVec.msb_eq_getLsbD_last]
    simp [h0]
  rw [BitVec.getLsbD_signExtend, hmsb, ← not_eq_xor_ones]
  have hmask : (lowMask m)[i] = decide (i < m) := (BitVec.getLsbD_eq_getElem hi).symm.trans (lowMask_getLsbD hm i)
  cases (y &&& lowMask m).getLsbD (m - 1) <;> by_cases him : i < m <;> simp [hi, him, hmask]

theorem bfxW_eq (a b : Word) : bfxW a b = bitField a b := by
  have hm := bfLen_le b
  have hfield : w32 (a.toNat / 2 ^ (b.toNat % 32) % 2 ^ bfLen b) = (a >>> (b.toNat % 32)) &&& lowMask (bfLen b) :=
    field_word a _ hm
  have hnat : a.toNat / 2 ^ (b.toNat % 32) % 2 ^ bfLen b = ((a >>> (b.toNat % 32)) &&& lowMask (bfLen b)).toNat := by
    rw [← hfield, BitVec.toNat_ofNat, Nat.mod_eq_of_lt ((Nat.mod_le _ _).trans_lt ((Nat.div_le_self _ _).trans_lt a.isLt))]
  have hbf : bfxW a b = if b.getLsbD 15 && decide (0 < bfLen b) then
      wi (sextNat (bfLen b) ((a >>> (b.toNat % 32)) &&& lowMask (bfLen b)).toNat) else
      (a >>> (b.toNat % 32)) &&& lowMask (bfLen b) := by
    rw [← hnat, ← hfield]
    rfl
  have hlen : ctlLen b = bfLen b := rfl
  rw [hbf, bitField, hlen, wi_sextNat]
  by_cases h0 : 0 < bfLen b
  · rw [signExtend_field h0 hm]
    cases b.getLsbD 15 <;> simp [h0]
  · simp [h0]

theorem bfiW_eq (a b d : Word) : bfiW a b d = bitInsert a b d := by
  have hmask : w32 ((2 ^ bfLen b - 1) * 2 ^ (b.toNat % 32)) = lowMask (ctlLen b) <<< (b.toNat % 32) := ofNat_mul_two_pow 32 _ _
  have hfield : w32 (a.toNat * 2 ^ (b.toNat % 32)) = a <<< (b.toNat % 32) := ofNat_toNat_mul_two_pow a _
  unfold bfiW bitInsert
  dsimp only
  rw [hmask, hfield, not_eq_xor_ones]

/-! Bytes (04 R111, R115). -/

/-- One result byte of PRMT: its code, and the byte below. -/
def permutedByte (v : DWord) (c : Nat) (below : Byte) : Byte :=
  if c < 8 then (v >>> (8 * c)).truncate 8
  else if c = 9 then 0xFF
  else if c = 10 then (if below.msb then 0xFF else 0)
  else if c = 11 then below
  else 0

theorem byteAt_eq {n : Nat} (v : BitVec n) (k : Nat) : byteAt v.toNat k = ((v >>> (8 * k)).truncate 8 : Byte).toNat := by
  simp [byteAt, Nat.shiftRight_eq_div_pow, pow_mul]

theorem prmtByte_some (v : DWord) (c : Nat) (below : Byte) :
    prmtByte v.toNat c (some below.toNat) = (permutedByte v c below).toNat := by
  have hmsb : below.toNat ≥ 128 ↔ below.msb = true := by
    rw [BitVec.msb_eq_decide]
    simp
  unfold prmtByte permutedByte
  simp only [hmsb, byteAt_eq]
  split_ifs <;> rfl

theorem prmtByte_none (v : DWord) (c : Nat) : prmtByte v.toNat c none = (permutedByte v c 0).toNat := by
  rw [← prmtByte_some]
  rfl

/-- The code of result byte k. -/
def permuteCode (d : Word) (k : Nat) : Nat := (d >>> (4 * k)).toNat % 16

theorem field_permuteCode (d : Word) (k : Nat) : field d.toNat (4 * k) 4 = permuteCode d k := by
  simp [field, permuteCode, Nat.shiftRight_eq_div_pow]

/-- Result byte k of PRMT. -/
def permutedAt (a b d : Word) : Nat → Byte
  | 0 => permutedByte (pairOf a b) (permuteCode d 0) 0
  | k + 1 => permutedByte (pairOf a b) (permuteCode d (k + 1)) (permutedAt a b d k)

theorem permuted_eq (a b d : Word) : permuted a b d = (List.range 4).map (permutedAt a b d) := rfl

theorem leNat_four (p q r u : Byte) : leNat [p, q, r, u] = p.toNat + 256 * q.toNat + 65536 * r.toNat + 16777216 * u.toNat := by
  simp only [leNat]
  omega

theorem prmtW_eq (a b d : Word) : prmtW a b d = w32 (leNat (permuted a b d)) := by
  have h0 : field d.toNat 0 4 = permuteCode d 0 := field_permuteCode d 0
  have h1 : field d.toNat 4 4 = permuteCode d 1 := field_permuteCode d 1
  have h2 : field d.toNat 8 4 = permuteCode d 2 := field_permuteCode d 2
  have h3 : field d.toNat 12 4 = permuteCode d 3 := field_permuteCode d 3
  have hbytes : permuted a b d = [permutedAt a b d 0, permutedAt a b d 1, permutedAt a b d 2, permutedAt a b d 3] := permuted_eq a b d
  rw [hbytes, leNat_four]
  simp only [prmtW, h0, h1, h2, h3, prmtByte_none, prmtByte_some, permutedAt]

theorem absDiff (x y : Nat) : (if x ≥ y then x - y else y - x) = ((x : Int) - y).natAbs := by
  split <;> omega

theorem sadW_eq (a b d : Word) : sadW a b d = d + w32 ((List.range 4).map fun k =>
    (((a >>> (8 * k)).truncate 8 : BitVec 8).toNat - ((b >>> (8 * k)).truncate 8 : BitVec 8).toNat : Int).natAbs).sum := by
  simp only [sadW, byteAt_eq, absDiff]
  rw [w32, BitVec.ofNat_add, BitVec.ofNat_toNat, BitVec.setWidth_eq]

/-! Halfwords (04 R119). -/

theorem onHalves_eq {f : BitVec 16 → BitVec 16 → Int} {g : BitVec 16 → BitVec 16 → BitVec 16}
    (h : ∀ x y, BitVec.ofInt 16 (f x y) = g x y) (a b : Word) : onHalves f a b = byHalves g a b := by
  simp only [onHalves, byHalves, halves, h]

theorem clip16_eq (v : Int) : BitVec.ofInt 16 (satS v 16) = clip16 v := by
  rw [satS_eq]
  rfl

theorem addHalf (x y : BitVec 16) : BitVec.ofInt 16 ((x.toNat : Int) + y.toNat) = x + y := by
  rw [BitVec.ofInt_add]
  simp

theorem subHalf (x y : BitVec 16) : BitVec.ofInt 16 ((x.toNat : Int) - y.toNat) = x - y := by
  rw [sub_eq_add_neg, BitVec.ofInt_add, BitVec.ofInt_neg, BitVec.sub_eq_add_neg]
  simp

theorem minHalf (x y : BitVec 16) : BitVec.ofInt 16 (min x.toInt y.toInt) = if x.slt y then x else y := by
  simp only [BitVec.slt_eq_decide, decide_eq_true_eq]
  split_ifs with h
  · rw [min_eq_left h.le, BitVec.ofInt_toInt]
  · rw [min_eq_right (not_lt.1 h), BitVec.ofInt_toInt]

theorem maxHalf (x y : BitVec 16) : BitVec.ofInt 16 (max x.toInt y.toInt) = if x.slt y then y else x := by
  simp only [BitVec.slt_eq_decide, decide_eq_true_eq]
  split_ifs with h
  · rw [max_eq_right h.le, BitVec.ofInt_toInt]
  · rw [max_eq_left (not_lt.1 h), BitVec.ofInt_toInt]

theorem minHalfW (x y : BitVec 16) : BitVec.ofInt 16 (min x.toNat y.toNat : Nat) = if x.ult y then x else y := by
  simp only [BitVec.ult_eq_decide, decide_eq_true_eq]
  split_ifs with h
  · rw [min_eq_left h.le]
    simp
  · rw [min_eq_right (not_lt.1 h)]
    simp

theorem maxHalfW (x y : BitVec 16) : BitVec.ofInt 16 (max x.toNat y.toNat : Nat) = if x.ult y then y else x := by
  simp only [BitVec.ult_eq_decide, decide_eq_true_eq]
  split_ifs with h
  · rw [max_eq_right h.le]
    simp
  · rw [max_eq_left (not_lt.1 h)]
    simp

end Sys2Proof.Machine
end

section
/-! PROOF. The integer and packed instructions compute their formulas: O1. -/

namespace Sys2Proof.Machine

open Claims

/-- A pair clipped to a word (04 R110). -/
theorem cvtiSatI32_computes (d a : LReg) : ComputesRow (.cvtiSatI32 d a)
    ⟨[(a, 2)], d, fun vs => ([wi (max (-2147483648) (min 2147483647 (argPair vs 0).toInt))], 0)⟩ := by
  refine computesRow_of_body (fun _ => rfl) rfl fun hr => ?_
  obtain ⟨lo, hi, s1, vs1, hs, hr1, rfl⟩ := reads_pair hr
  obtain ⟨rfl, rfl⟩ := reads_nil hr1
  rw [bind_ok hs, result_run, satS_eq]
  rfl

/-- An address: a pair and a signed word (04 R118). -/
theorem lea_computes (d a c : LReg) : ComputesRow (.lea d a c)
    ⟨[(a, 2), (c, 1)], d, fun vs => (pairList (argPair vs 0 + (arg vs 1).signExtend 64), 0)⟩ := by
  refine computesRow_of_body (fun _ => rfl) rfl fun hr => ?_
  obtain ⟨lo, hi, s1, vs1, hs, hr1, rfl⟩ := reads_pair hr
  obtain ⟨y, s2, vs2, hsy, hr2, rfl⟩ := reads_one hr1
  obtain ⟨rfl, rfl⟩ := reads_nil hr2
  rw [bind_ok hs, bind_ok hsy, result2_run]
  rfl

theorem pairList_zeroExtend (x : Word) : pairList (x.zeroExtend 64) = [x, 0] := by
  have hlo : loWord (x.zeroExtend 64) = x := by simp [loWord]
  have hhi : hiWord (x.zeroExtend 64) = 0 := by
    apply BitVec.eq_of_toNat_eq
    have hx := x.isLt
    simp [hiWord, Nat.shiftRight_eq_div_pow]
    omega
  rw [pairList, hlo, hhi]

theorem select_word {n : Nat} (x y z : BitVec n) : (if z != 0 then x else y) = if z = 0 then y else x := by
  by_cases hz : z = 0 <;> simp [hz]

/-- Of the parts of O1: each integer instruction by its shape, and its formula as the rule writes it. -/
theorem integerInstructionsComputeTheirFormulas : IntegerInstructionsComputeTheirFormulas := by
  intro i o h
  cases i with
  | mov d a => exact op1_computes (fun _ => rfl) rfl (fun _ => rfl) h
  | neg d a => exact op1_computes (fun _ => rfl) rfl (fun x => (BitVec.zero_sub x).symm) h
  | negSatI32 d a => exact op1_computes (fun _ => rfl) rfl wi_satS_neg h
  | abs d a => exact op1_computes (fun _ => rfl) rfl w32_natAbs h
  | absSatI32 d a => exact op1_computes (fun _ => rfl) rfl wi_satS_natAbs h
  | not d a => exact op1_computes (fun _ => rfl) rfl not_eq_xor_ones h
  | popc d a => exact op1_computes (fun _ => rfl) rfl (fun _ => rfl) h
  | clz d a => exact op1_computes (fun _ => rfl) rfl (fun x => congrArg w32 (leadZeros_eq x)) h
  | ctz d a => exact op1_computes (fun _ => rfl) rfl (fun x => congrArg w32 (trailZeros_eq x)) h
  | brev d a => exact op1_computes (fun _ => rfl) rfl bitReverse_eq h
  | cvtiI8 d a => exact op1_computes (fun _ => rfl) rfl (wi_sextNat 8) h
  | cvtiW8 d a => exact op1_computes (fun _ => rfl) rfl (fun x => lowBits_word (m := 8) x (by decide)) h
  | cvtiI16 d a => exact op1_computes (fun _ => rfl) rfl (wi_sextNat 16) h
  | cvtiW16 d a => exact op1_computes (fun _ => rfl) rfl (fun x => lowBits_word (m := 16) x (by decide)) h
  | cvtiI64 d a => exact pairRow_computes (fun _ => rfl) rfl (fun _ => rfl) h
  | cvtiW64 d a => exact pairRow_computes (fun _ => rfl) rfl pairList_zeroExtend h
  | cvtiSatI8 d a => exact op1_computes (fun _ => rfl) rfl (fun x => congrArg wi (satS_eq x.toInt 8)) h
  | cvtiSatW8 d a => exact op1_computes (fun _ => rfl) rfl (fun x => congrArg wi (satU_eq x.toInt 8)) h
  | cvtiSatI16 d a => exact op1_computes (fun _ => rfl) rfl (fun x => congrArg wi (satS_eq x.toInt 16)) h
  | cvtiSatW16 d a => exact op1_computes (fun _ => rfl) rfl (fun x => congrArg wi (satU_eq x.toInt 16)) h
  | cvtiSatW32 d a => exact op1_computes (fun _ => rfl) rfl wi_satU_word h
  | cvtiSatI32 d a => exact Option.some.inj h ▸ cvtiSatI32_computes d a
  | add d a b | sub d a b | mullo d a b | mulhiI32 d a b | mulhiW32 d a b | and d a b | or d a b | xor d a b =>
    exact op2_computes (fun _ => rfl) rfl (fun _ _ => rfl) h
  | mad d a b | fshl d a b | fshr d a b => exact op3_computes (fun _ => rfl) rfl (fun _ _ _ => rfl) h
  | minI32 d a b => exact op2_computes (fun _ => rfl) rfl minI_word h
  | minW32 d a b => exact op2_computes (fun _ => rfl) rfl minW_word h
  | maxI32 d a b => exact op2_computes (fun _ => rfl) rfl maxI_word h
  | maxW32 d a b => exact op2_computes (fun _ => rfl) rfl maxW_word h
  | andn d a b => exact op2_computes (fun _ => rfl) rfl (fun x y => congrArg (x &&& ·) (not_eq_xor_ones y)) h
  | shl d a b => exact op2_computes (fun _ => rfl) rfl shlW_eq h
  | shr d a b => exact op2_computes (fun _ => rfl) rfl shrW_eq h
  | sar d a b => exact op2_computes (fun _ => rfl) rfl sarW_eq h
  | rotl d a b => exact op2_computes (fun _ => rfl) rfl rotlW_eq h
  | bfx d a b => exact op2_computes (fun _ => rfl) rfl bfxW_eq h
  | bfi d a b => exact op3_computes (fun _ => rfl) rfl bfiW_eq h
  | prmt d a b => exact op3_computes (fun _ => rfl) rfl prmtW_eq h
  | sel d a b => exact op3_computes (fun _ => rfl) rfl select_word h
  | movi d imm => exact constRow_computes (fun _ => rfl) rfl h
  | lit d w => exact constRow_computes (fun _ => rfl) rfl h
  | lea d a b => exact Option.some.inj h ▸ lea_computes d a b
  | sad d a b => exact op3_computes (fun _ => rfl) rfl sadW_eq h
  | _ => nomatch h

/-- Of the parts of O1: the packed instructions, each by its formula on a halfword. -/
theorem packedInstructionsWorkByHalfword : PackedInstructionsWorkByHalfword := by
  intro i o h
  cases i with
  | addI16x2 d a b => exact op2_computes (fun _ => rfl) rfl (onHalves_eq addHalf) h
  | subI16x2 d a b => exact op2_computes (fun _ => rfl) rfl (onHalves_eq subHalf) h
  | addSatI16x2 d a b => exact op2_computes (fun _ => rfl) rfl (onHalves_eq fun _ _ => clip16_eq _) h
  | subSatI16x2 d a b => exact op2_computes (fun _ => rfl) rfl (onHalves_eq fun _ _ => clip16_eq _) h
  | minI16x2 d a b => exact op2_computes (fun _ => rfl) rfl (onHalves_eq minHalf) h
  | maxI16x2 d a b => exact op2_computes (fun _ => rfl) rfl (onHalves_eq maxHalf) h
  | minW16x2 d a b => exact op2_computes (fun _ => rfl) rfl (onHalves_eq minHalfW) h
  | maxW16x2 d a b => exact op2_computes (fun _ => rfl) rfl (onHalves_eq maxHalfW) h
  | madI16x2 d a b => exact op3_computes (fun _ => rfl) rfl (fun _ _ _ => rfl) h
  | _ => nomatch h

/-- Settles O1: the rows of the two tables, each by its shape and its formula. -/
theorem integerAndPackedInstructionsComputeTheirFormulas : Obligations.IntegerAndPackedInstructionsComputeTheirFormulas :=
  ⟨integerInstructionsComputeTheirFormulas, packedInstructionsWorkByHalfword⟩

end Sys2Proof.Machine
end

section
/-! PROOF. The predicate instructions: O4. -/

namespace Sys2Proof.Machine

open Claims

/-! Comparisons of integers (04 R117). -/

/-- A relation by the tests that give it: of two alike, and of one below the other. -/
def Rel.under {α : Type} (same less : α → α → Bool) (r : Rel) (x y : α) : Bool :=
  match r with
  | .eq => same x y
  | .ne => !same x y
  | .lt => less x y
  | .le => !less y x
  | .gt => less y x
  | .ge => !less x y

/-- A relation of the integers that stand for two values is that of the values, where the tests say what the integers say. -/
theorem Rel.holds_under {α : Type} {same less : α → α → Bool} {key : α → Int} (hs : ∀ x y, same x y = true ↔ key x = key y)
    (hl : ∀ x y, less x y = true ↔ key x < key y) (r : Rel) (x y : α) : r.holds (key x) (key y) = r.under same less x y := by
  rw [Bool.eq_iff_iff]
  cases r <;> simp [Rel.holds, Rel.under, ← Bool.not_eq_true, hs, hl]

theorem Rel.holds_toInt {n : Nat} (r : Rel) (x y : BitVec n) : r.holds x.toInt y.toInt = r.under (· == ·) BitVec.slt x y :=
  Rel.holds_under (fun x y => by simp [BitVec.toInt_inj]) (fun x y => by simp [BitVec.slt_eq_decide]) r x y

theorem Rel.holds_toNat {n : Nat} (r : Rel) (x y : BitVec n) : r.holds x.toNat y.toNat = r.under (· == ·) BitVec.ult x y :=
  Rel.holds_under (key := fun x => (x.toNat : Int)) (fun x y => by simp [BitVec.toNat_inj])
    (fun x y => by simp [BitVec.ult_eq_decide]) r x y

theorem Rel.onHalves_eq (r : Rel) (x y : Word) :
    ((r.onHalves x y).1, some (r.onHalves x y).2) = halvesBoth (r.under (· == ·) BitVec.slt) x y := by
  simp only [Rel.onHalves, Rel.holds_toInt, halvesBoth]

theorem Rel.onHalvesW_eq (r : Rel) (x y : Word) :
    ((r.onHalvesW x y).1, some (r.onHalvesW x y).2) = halvesBoth (r.under (· == ·) BitVec.ult) x y := by
  simp only [Rel.onHalvesW, Rel.holds_toNat, halvesBoth]

/-! Comparisons of binary32 numbers (04 R117, 05 R126). -/

theorem toNat_double (x : Word) : (x <<< 1).toNat = 2 * (x.toNat % 2 ^ 31) := by
  have := x.isLt
  rw [BitVec.toNat_shiftLeft, Nat.shiftLeft_eq]
  omega

theorem double_eq_zero_iff (x : Word) : x <<< 1 = 0 ↔ x.toNat % 2 ^ 31 = 0 := by
  rw [← BitVec.toNat_inj, toNat_double]
  simp

theorem msb_iff_high (x : Word) : x.msb = true ↔ x.toNat / 2 ^ 31 = 1 := by
  have := x.isLt
  rw [BitVec.msb_eq_decide, decide_eq_true_eq]
  omega

theorem isNan32_eq (x : Word) : isNan32 x = wordNan x := by
  have hx := x.isLt
  have hinf : (0xFF000000 : Word).toNat = 0xFF000000 := rfl
  rw [Bool.eq_iff_iff]
  simp only [isNan32, wordNan, BitVec.ult_eq_decide, toNat_double, hinf, Bool.and_eq_true, beq_iff_eq, bne_iff_ne, decide_eq_true_eq]
  omega

theorem wordLess_iff (x y : Word) : wordLess x y = true ↔ key32 x < key32 y := by
  have hx := x.isLt
  have hy := y.isLt
  unfold wordLess key32
  simp only [double_eq_zero_iff, msb_iff_high, BitVec.ult_eq_decide]
  split_ifs <;> simp <;> omega

theorem wordSame_iff (x y : Word) : wordSame x y = true ↔ key32 x = key32 y := by
  have hx := x.isLt
  have hy := y.isLt
  unfold wordSame key32
  simp only [Bool.or_eq_true, Bool.and_eq_true, beq_iff_eq, double_eq_zero_iff, ← BitVec.toNat_inj (x := x)]
  split_ifs <;> omega

theorem Rel.holdsF_eq (r : Rel) (x y : Word) :
    r.holdsF x y = if wordNan x || wordNan y then r == .ne else r.under wordSame wordLess x y := by
  rw [Rel.holdsF, isNan32_eq, isNan32_eq, Rel.holds_under wordSame_iff wordLess_iff]

/-- What a SETP condition gives is what its rule says. -/
theorem evalCond_eq (c : Cond) (x y : Word) : evalCond c x y = condRule c x y := by
  unfold evalCond
  simp only [Rel.holds_toInt, Rel.holds_toNat, Rel.onHalves_eq, Rel.onHalvesW_eq, Rel.holdsF_eq, isNan32_eq]
  cases c with
  | eqF | neF | ltF | leF | gtF | geF => cases h : (wordNan x || wordNan y) <;> simp [condRule, h, Rel.under]
  | _ => rfl

/-! Carry and borrow (04 R111). -/

theorem w32_toNat_bool (c : Bool) : w32 c.toNat = if c then 1 else 0 := by cases c <;> rfl

theorem addc_word (x y : Word) (c : Bool) : w32 (x.toNat + y.toNat + c.toNat) = x + y + (if c then 1 else 0) := by
  rw [← w32_toNat_bool, w32, w32, BitVec.ofNat_add, BitVec.ofNat_add]
  simp

theorem subb_word (x y : Word) (c : Bool) : wi ((x.toNat : Int) - y.toNat - c.toNat) = x - y - (if c then 1 else 0) := by
  rw [← w32_toNat_bool, wi, sub_eq_add_neg, sub_eq_add_neg, BitVec.ofInt_add, BitVec.ofInt_add, BitVec.ofInt_neg, BitVec.ofInt_neg,
    BitVec.sub_eq_add_neg, BitVec.sub_eq_add_neg]
  simp

/-! The instructions. -/

theorem addcComputes (d a c : LReg) (s s1 : State) (b t : Nat) (vs : List (List Word)) (hi : Issues (.addc d a c) s b t)
    (hr : Reads b t [(a, 1), (c, 1)] vs s s1) :
    exec (.addc d a c) s = .next (threadDone (.addc d a c) b t
      (·.setP 7 (decide (2 ^ 32 ≤ (arg vs 0).toNat + (arg vs 1).toNat + ((s1.thread b t).getP 7).toNat)))
      (latched b t d [arg vs 0 + arg vs 1 + (if (s1.thread b t).getP 7 then 1 else 0)] 0 s1)) := by
  obtain ⟨x, s0, vs1, hsx, hr1, rfl⟩ := reads_one hr
  obtain ⟨y, s2, vs2, hsy, hr2, rfl⟩ := reads_one hr1
  obtain ⟨rfl, rfl⟩ := reads_nil hr2
  refine laneExec_fall hi rfl ?_
  rw [bind_ok hsx, bind_ok hsy, bind_ok (a := (s1.thread b t).getP 7) rfl, addc_word, bind_ok (result_run b t d s1 _)]
  rfl

theorem subbComputes (d a c : LReg) (s s1 : State) (b t : Nat) (vs : List (List Word)) (hi : Issues (.subb d a c) s b t)
    (hr : Reads b t [(a, 1), (c, 1)] vs s s1) :
    exec (.subb d a c) s = .next (threadDone (.subb d a c) b t
      (·.setP 7 (decide ((arg vs 0).toNat < (arg vs 1).toNat + ((s1.thread b t).getP 7).toNat)))
      (latched b t d [arg vs 0 - arg vs 1 - (if (s1.thread b t).getP 7 then 1 else 0)] 0 s1)) := by
  obtain ⟨x, s0, vs1, hsx, hr1, rfl⟩ := reads_one hr
  obtain ⟨y, s2, vs2, hsy, hr2, rfl⟩ := reads_one hr1
  obtain ⟨rfl, rfl⟩ := reads_nil hr2
  refine laneExec_fall hi rfl ?_
  rw [bind_ok hsx, bind_ok hsy, bind_ok (a := (s1.thread b t).getP 7) rfl, subb_word, bind_ok (result_run b t d s1 _)]
  rfl

/-- A thread whose predicate p, and the next for a packed condition, have been set. -/
def condSet (p : Nat) (r : Bool × Option Bool) (th : Thread) : Thread :=
  match r.2 with
  | some v => (th.setP p r.1).setP (p + 1) v
  | none => th.setP p r.1

theorem setpComputes (p : Fin 8) (c : Cond) (u w : LReg) (s s1 : State) (b t : Nat) (vs : List (List Word))
    (hi : Issues (.setp p c u w) s b t) (hr : Reads b t [(u, 1), (w, 1)] vs s s1) :
    exec (.setp p c u w) s = .next (threadDone (.setp p c u w) b t (condSet p.val (condRule c (arg vs 0) (arg vs 1))) s1) := by
  obtain ⟨x, s0, vs1, hsx, hr1, rfl⟩ := reads_one hr
  obtain ⟨y, s2, vs2, hsy, hr2, rfl⟩ := reads_one hr1
  obtain ⟨rfl, rfl⟩ := reads_nil hr2
  refine laneExec_fall hi rfl ?_
  have hrule : condRule c (arg [[x], [y]] 0) (arg [[x], [y]] 1) = condRule c x y := rfl
  rw [bind_ok hsx, bind_ok hsy, evalCond_eq, bind_ok (a := ()) rfl, hrule]
  obtain ⟨lo, hi⟩ := condRule c x y
  cases hi with
  | none => rfl
  | some v => exact congrArg (fun s' => Except.ok ((), s')) (State.modThread_modThread s1 b t _ _)

theorem setvComputes (d : LReg) (p : Fin 8) (s : State) (b t : Nat) (hi : Issues (.setv d p) s b t) :
    exec (.setv d p) s = .next (laneDone (.setv d p) b t d [if (s.thread b t).getP p.val then 0xFFFFFFFF else 0] 0 s) := by
  refine laneExec_fall hi rfl ?_
  rw [bind_ok (a := (s.thread b t).getP p.val) rfl]
  exact result_run b t d s _

/-- Settles O4: each of the four by its own effect, the conditions by their rules. -/
theorem predicateInstructionsReadAndSetPredicates : Obligations.PredicateInstructionsReadAndSetPredicates :=
  ⟨addcComputes, subbComputes, setpComputes, setvComputes⟩

end Sys2Proof.Machine
end

section
/-! PROOF. The uniform scalar instructions: O27. -/

namespace Sys2Proof.Machine

open Claims

/-! Operands (04 R120, R122). -/

theorem readU_fresh {s s1 : State} {b : Nat} {r : UReg} {w : Word} (h : readU b r s = .ok (w, s1)) : ∃ n, s1 = { s with fresh := n } := by
  have same {v : Word} (e : (.ok (v, s) : Except Stop (Word × State)) = .ok (w, s1)) : ∃ n, s1 = { s with fresh := n } :=
    ⟨s.fresh, (Prod.mk.inj (Except.ok.inj e)).2.symm⟩
  cases r with
  | s n =>
    simp only [readU] at h
    split at h
    · exact freeValue_fresh h
    · exact same h
  | zero => exact same h
  | resv n => exact same h

theorem readU2_fresh {s s1 : State} {b : Nat} {r : UReg} {v : DWord} (h : readU2 b r s = .ok (v, s1)) :
    ∃ n, s1 = { s with fresh := n } := by
  obtain ⟨lo, s2, hlo, h1⟩ := bind_ok_inv h
  obtain ⟨hi, s3, hhi, h2⟩ := bind_ok_inv h1
  obtain ⟨n, rfl⟩ := readU_fresh hlo
  obtain ⟨m, rfl⟩ := readU_fresh hhi
  obtain ⟨-, rfl⟩ := Prod.mk.inj (Except.ok.inj h2)
  exact ⟨m, rfl⟩

/-- A value of a form's width: any pair, or a word with nothing above it. -/
def OfWidth (w : Bool) (v : DWord) : Prop := w = true ∨ ∃ u : Word, v = u.zeroExtend 64

section Operands

variable {b : Nat} {r : UReg} {w : Bool} {os : List (UReg × Bool)} {vs : List DWord} {s s' : State}

theorem readsU_nil (h : ReadsU b [] vs s s') : vs = [] ∧ s' = s := h

theorem readsU_cons (h : ReadsU b ((r, w) :: os) vs s s') :
    ∃ v s1 rest, readUW b r w s = .ok (v, s1) ∧ OfWidth w v ∧ ReadsU b os rest s1 s' ∧ vs = v :: rest := by
  obtain ⟨v, s1, rest, hread, hrest, rfl⟩ := h
  cases w with
  | true => exact ⟨v, s1, rest, hread, .inl rfl, hrest, rfl⟩
  | false =>
    obtain ⟨u, hu, rfl⟩ := hread
    exact ⟨_, s1, rest, bind_ok hu, .inr ⟨u, rfl⟩, hrest, rfl⟩

/-- A count is a single register. -/
theorem readsU_single (h : ReadsU b ((r, false) :: os) vs s s') :
    ∃ u s1 rest, readU b r s = .ok (u, s1) ∧ ReadsU b os rest s1 s' ∧ vs = u.zeroExtend 64 :: rest := by
  obtain ⟨v, s1, rest, ⟨u, hu, rfl⟩, hrest, rfl⟩ := h
  exact ⟨u, s1, rest, hu, hrest, rfl⟩

theorem readsU_fresh (h : ReadsU b os vs s s') : ∃ n, s' = { s with fresh := n } := by
  induction os generalizing vs s with
  | nil => exact ⟨s.fresh, h.2⟩
  | cons o os ih =>
    obtain ⟨r, w⟩ := o
    obtain ⟨v, s1, rest, hread, hrest, -⟩ := h
    obtain ⟨n, rfl⟩ : ∃ n, s1 = { s with fresh := n } := by
      cases w with
      | true => exact readU2_fresh hread
      | false =>
        obtain ⟨u, hu, -⟩ := hread
        exact readU_fresh hu
    obtain ⟨m, rfl⟩ := ih hrest
    exact ⟨m, rfl⟩

end Operands

/-! The result (04 R122). -/

theorem UReg.plus_one_of_even {n : Fin 64} (h : n.val % 2 = 0) : ((UReg.s n).plus 1) = .s ⟨n.val + 1, by omega⟩ := by
  simp only [UReg.plus]
  congr 1
  ext
  simp
  omega

theorem writeUW_run (b : Nat) {d : UReg} {w : Bool} (h : UOpnd.legal ⟨d, uniGrp w⟩ = true) (v : DWord) (s : State) :
    writeUW b d w v s = .ok ((), s.modBlock b (putU d w v)) := by
  cases w with
  | false => cases d <;> rfl
  | true =>
    cases d with
    | s n =>
      have heven : n.val % 2 = 0 := by simpa [UOpnd.legal, uniGrp] using h
      simp only [writeUW, if_true, writeU2, Block.writeU2, UReg.plus_one_of_even heven]
      rfl
    | zero => rfl
    | resv n => rfl

/-- Of a single register's result the low word matters. -/
theorem putU_congr {w : Bool} {v v' : DWord} (h : if w then v = v' else loWord v = loWord v') (d : UReg) :
    putU d w v = putU d w v' := by
  funext x
  cases w with
  | true => rw [show v = v' from h]
  | false =>
    replace h : loWord v = loWord v' := h
    cases d <;> simp [putU, h]

@[simp] theorem putU_threads (d : UReg) (w : Bool) (v : DWord) (x : Block) : (putU d w v x).threads = x.threads := by
  unfold putU
  split
  · split <;> rfl
  · rfl

@[simp] theorem putU_life (d : UReg) (w : Bool) (v : DWord) (x : Block) : (putU d w v x).life = x.life := by
  unfold putU
  split
  · split <;> rfl
  · rfl

@[simp] theorem putU_mark (d : UReg) (w : Bool) (v : DWord) (x : Block) : (putU d w v x).mark = x.mark := by
  unfold putU
  split
  · split <;> rfl
  · rfl

/-! The instruction. -/

/-- A change of a block besides its threads, and of one thread of it. -/
theorem uniformDone_of_onlyThread {s s' : State} {b t : Nat} {y : Block} {th : Thread} {f : Block → Block} (hy : s.getBlock b = some y)
    (hf : ∀ x, (f x).threads = x.threads) (h : OnlyThread (s.modBlock b f) s' b t th) : UniformDone s s' b t th f := by
  refine ⟨h.thread, fun b' t' n => (h.others b' t' n).trans (getThread_modBlock_of_threads s b hf b' t'), ?_, fun b' n => ?_, ?_, ?_,
    ?_⟩
  · rw [h.blocks b, State.block_modBlock_self hy, State.block_of_get hy]
  · rw [h.blocks b', State.block_modBlock_other s n]
  · refine h.rest.trans ?_
    unfold State.modBlock
    split <;> rfl
  · rw [h.flight, State.modBlock_ops]
  · exact fun pa => (h.memory pa).trans (sameMemory_of_mem_eq (State.modBlock_mem s b f) pa)

/-- An instruction works out the row `o` of a table. -/
structure UniformRow (i : Instr) (o : UniOp) : Prop where
  inner : outbound i = false
  dest : (⟨o.dest, uniGrp o.wide⟩ : UOpnd) ∈ i.uniOps
  runs : ∃ body, (∀ s, exec i s = uniExec i (uniFall body) s) ∧
    ∀ {b ts vs s s1}, UOpnd.legal ⟨o.dest, uniGrp o.wide⟩ = true → ReadsU b o.reads vs s s1 →
      body b ts s = .ok ((), s1.modBlock b (putU o.dest o.wide (o.value vs)))

theorem wellFormed_of_uniCheck {i : Instr} {s : State} {b : Nat} {tids : List Nat} (h : uniCheck i s b tids = none) :
    i.wellFormed = true := by
  by_contra hw
  have hw' : i.wellFormed = false := Bool.eq_false_iff.2 hw
  simp [uniCheck, illegalHere, hw'] at h

theorem uniOp_legal {i : Instr} (h : i.wellFormed = true) {o : UOpnd} (ho : o ∈ i.uniOps) : o.legal = true := by
  simp only [Instr.wellFormed, Bool.and_eq_true, List.all_eq_true] at h
  obtain ⟨⟨-, huni⟩, -⟩ := h
  exact huni o ho

theorem UniformRow.done {i : Instr} {o : UniOp} (hrow : UniformRow i o) {s s1 : State} {b t : Nat} {x y : Block} {th u : Thread}
    {vs : List DWord} (h : RunsU i s b t x th) (hr : ReadsU b o.reads vs s s1) (hu : Resides s1 b t y u) :
    ∃ s', exec i s = .next s' ∧ UniformDone s1 s' b t (gone u (wordsOf i)) (putU o.dest o.wide (o.value vs)) := by
  obtain ⟨body, hexec, hbody⟩ := hrow.runs
  have hlegal := uniOp_legal (wellFormed_of_uniCheck h.checked) hrow.dest
  have hrun := uniFall_ok (hbody (ts := [t]) hlegal hr)
  have hcur : s1.cur = [(b, t)] := by
    obtain ⟨n, rfl⟩ := readsU_fresh hr
    exact h.alone
  refine ⟨_, (hexec s).trans (uniExec_one h.alone h.checked hrun (by rw [hrow.inner]; rfl)), ?_⟩
  rw [State.modBlock_cur, hcur, if_pos (by simp)]
  refine uniformDone_of_onlyThread hu.block (putU_threads o.dest o.wide _) ?_
  refine retire_fall (State.getBlock_modBlock_self hu.block _) ?_ (by simpa using hu.resident)
  rw [getThread_modBlock_of_threads _ _ (putU_threads o.dest o.wide _)]
  exact State.getThread_eq_some.2 ⟨y, hu.block, hu.thread⟩

/-! Low words (04 R122). -/

theorem loWord_zeroExtend (u : Word) : loWord (u.zeroExtend 64) = u := by simp [loWord]

theorem zeroExtend_toNat (u : Word) : (u.zeroExtend 64).toNat = u.toNat := BitVec.toNat_setWidth_of_le (by decide)

theorem loWord_ofNat (n : Nat) : loWord (w64 n) = w32 n := by
  apply BitVec.eq_of_toNat_eq
  simp only [loWord, BitVec.truncate_eq_setWidth, BitVec.toNat_setWidth, BitVec.toNat_ofNat]
  omega

theorem loWord_ofInt (v : Int) : loWord (BitVec.ofInt 64 v) = wi v := by
  apply BitVec.eq_of_toNat_eq
  simp only [loWord, BitVec.truncate_eq_setWidth, BitVec.toNat_setWidth, BitVec.toNat_ofInt]
  omega

theorem loWord_add (x y : DWord) : loWord (x + y) = loWord x + loWord y := BitVec.setWidth_add x y (by decide)

theorem loWord_mul (x y : DWord) : loWord (x * y) = loWord x * loWord y := BitVec.setWidth_mul x y (by decide)

theorem loWord_sub (x y : DWord) : loWord (x - y) = loWord x - loWord y := by
  apply BitVec.eq_of_toNat_eq
  simp only [loWord, BitVec.truncate_eq_setWidth, BitVec.toNat_setWidth, BitVec.toNat_sub]
  omega

theorem loWord_and (x y : DWord) : loWord (x &&& y) = loWord x &&& loWord y := BitVec.setWidth_and

theorem loWord_or (x y : DWord) : loWord (x ||| y) = loWord x ||| loWord y := BitVec.setWidth_or

theorem loWord_xor (x y : DWord) : loWord (x ^^^ y) = loWord x ^^^ loWord y := BitVec.setWidth_xor

/-! Shifts of a form's width (04 R123). -/

/-- The value of SSHL. -/
def sshlValue (w : Bool) (x : DWord) (n : Nat) : DWord := if n ≥ formBits w then 0 else w64 (x.toNat * 2 ^ n)

theorem sshlValue_pair (x : DWord) (n : Nat) : sshlValue true x n = x <<< n := shiftLeft_number x n

theorem sshlValue_word (u : Word) (n : Nat) : loWord (sshlValue false (u.zeroExtend 64) n) = u <<< n := by
  rw [← shiftLeft_number, sshlValue, zeroExtend_toNat, apply_ite loWord, loWord_ofNat]
  rfl

/-- The value of SSHR. -/
def sshrValue (w : Bool) (x : DWord) (n : Nat) : DWord := if n ≥ formBits w then 0 else w64 (x.toNat / 2 ^ n)

theorem sshrValue_pair (x : DWord) (n : Nat) : sshrValue true x n = x >>> n := shiftRight_number x n

theorem sshrValue_word (u : Word) (n : Nat) : loWord (sshrValue false (u.zeroExtend 64) n) = u >>> n := by
  rw [← shiftRight_number, sshrValue, zeroExtend_toNat, apply_ite loWord, loWord_ofNat]
  rfl

/-- The value of SSAR: the sign is that of the form's width. -/
def ssarValue (w : Bool) (x : DWord) (n : Nat) : DWord :=
  BitVec.ofInt 64 (if n ≥ formBits w then (if sextNat (formBits w) x.toNat < 0 then -1 else 0) else sextNat (formBits w) x.toNat / 2 ^ n)

theorem ssarValue_pair (x : DWord) (n : Nat) : ssarValue true x n = x.sshiftRight n := by
  rw [← sshiftRight_number, ← sextNat_toNat]
  rfl

theorem ssarValue_word (u : Word) (n : Nat) : loWord (ssarValue false (u.zeroExtend 64) n) = u.sshiftRight n := by
  rw [← sshiftRight_number, ← sextNat_toNat, ssarValue, loWord_ofInt, zeroExtend_toNat]
  rfl

/-! Conditions (04 R124). -/

theorem evalSCond_eq (c : SCond) (x y : DWord) : evalSCond c x y = scondRule c x y := by
  rw [Bool.eq_iff_iff]
  cases c <;> simp [evalSCond, scondRule, BitVec.slt_eq_decide, BitVec.ult_eq_decide]

theorem scondWide_eq (c : SCond) : scondWide c = c.wide := by cases c <;> rfl

/-! The rows (04 R123, R124). -/

/-- A function on pairs agrees with its row when it does on pairs, and, of zero-extended words, in the low word. -/
theorem byWidth_agrees {w : Bool} {f f64 : DWord → DWord → DWord} {f32 : Word → Word → Word} {x y : DWord}
    (hx : OfWidth w x) (hy : OfWidth w y) (h64 : w = true → f x y = f64 x y)
    (h32 : w = false → ∀ u v : Word, loWord (f (u.zeroExtend 64) (v.zeroExtend 64)) = f32 u v) :
    if w then f x y = byWidth w f64 f32 x y else loWord (f x y) = loWord (byWidth w f64 f32 x y) := by
  cases w with
  | true => exact h64 rfl
  | false =>
    obtain ⟨u, rfl⟩ := hx.resolve_left Bool.false_ne_true
    obtain ⟨v, rfl⟩ := hy.resolve_left Bool.false_ne_true
    simp [byWidth, loWord_zeroExtend, h32]

section Rows

variable {i : Instr} {d a c : UReg} {w : Bool} {o : UniOp}

theorem uop2_row {f : DWord → DWord → DWord} {f32 : Word → Word → Word} (hx : ∀ s, exec i s = uni2 i d a c w f s)
    (ho : outbound i = false) (hd : (⟨d, uniGrp w⟩ : UOpnd) ∈ i.uniOps)
    (h32 : ∀ u v : Word, loWord (f (u.zeroExtend 64) (v.zeroExtend 64)) = f32 u v) (h : uop2 d a c w f f32 = some o) :
    UniformRow i o := by
  obtain rfl : _ = o := Option.some.inj h
  refine ⟨ho, hd, _, hx, fun hlegal hr => ?_⟩
  obtain ⟨x, s1, vs1, hsx, hwx, hr1, rfl⟩ := readsU_cons hr
  obtain ⟨y, s2, vs2, hsy, hwy, hr2, rfl⟩ := readsU_cons hr1
  obtain ⟨rfl, rfl⟩ := readsU_nil hr2
  rw [bind_ok hsx, bind_ok hsy, writeUW_run _ hlegal, putU_congr (byWidth_agrees hwx hwy (fun _ => rfl) fun _ => h32)]
  rfl

theorem ushift_row {f f64 : DWord → Nat → DWord} {f32 : Word → Nat → Word} (hx : ∀ s, exec i s = uniShift i d a c w f s)
    (ho : outbound i = false) (hd : (⟨d, uniGrp w⟩ : UOpnd) ∈ i.uniOps) (h64 : w = true → ∀ x n, f x n = f64 x n)
    (h32 : w = false → ∀ (u : Word) n, loWord (f (u.zeroExtend 64) n) = f32 u n) (h : ushift d a c w f64 f32 = some o) :
    UniformRow i o := by
  obtain rfl : _ = o := Option.some.inj h
  refine ⟨ho, hd, _, hx, fun hlegal hr => ?_⟩
  obtain ⟨x, s1, vs1, hsx, hwx, hr1, rfl⟩ := readsU_cons hr
  obtain ⟨k, s2, vs2, hsk, hr2, rfl⟩ := readsU_single hr1
  obtain ⟨rfl, rfl⟩ := readsU_nil hr2
  have hvalue := byWidth_agrees (f := fun x y => f x y.toNat) (f64 := fun x y => f64 x y.toNat) (f32 := fun x y => f32 x y.toNat)
    hwx (.inr ⟨k, rfl⟩) (fun hw => h64 hw _ _) fun hw u v => by rw [zeroExtend_toNat, h32 hw]
  rw [bind_ok hsx, bind_ok hsk, writeUW_run _ hlegal, ← zeroExtend_toNat k, putU_congr hvalue]
  rfl

/-- A constant. -/
theorem uconst_row {v : DWord} (hx : ∀ s, exec i s = uniExec i (uniFall fun b _ => writeUW b d w v) s) (ho : outbound i = false)
    (hd : (⟨d, uniGrp w⟩ : UOpnd) ∈ i.uniOps) (h : some ⟨[], d, w, fun _ => v⟩ = some o) : UniformRow i o := by
  obtain rfl : _ = o := Option.some.inj h
  refine ⟨ho, hd, _, hx, fun hlegal hr => ?_⟩
  obtain ⟨rfl, rfl⟩ := readsU_nil hr
  exact writeUW_run _ hlegal _ _

end Rows

theorem smov_row (d a : UReg) (w : Bool) : UniformRow (.smov d a w) ⟨[(a, w)], d, w, fun vs => vs.getD 0 0⟩ := by
  refine ⟨rfl, by simp [Instr.uniOps], _, fun _ => rfl, fun hlegal hr => ?_⟩
  obtain ⟨x, s1, vs1, hsx, -, hr1, rfl⟩ := readsU_cons hr
  obtain ⟨rfl, rfl⟩ := readsU_nil hr1
  rw [bind_ok hsx, writeUW_run _ hlegal]
  rfl

theorem scmp_row (d a b : UReg) (c : SCond) : UniformRow (.scmp d a b c)
    ⟨[(a, scondWide c), (b, scondWide c)], d, false, fun vs => if scondRule c (vs.getD 0 0) (vs.getD 1 0) then 1 else 0⟩ := by
  refine ⟨rfl, by simp [Instr.uniOps, uniGrp], _, fun _ => rfl, fun hlegal hr => ?_⟩
  rw [scondWide_eq] at hr
  obtain ⟨x, s1, vs1, hsx, -, hr1, rfl⟩ := readsU_cons hr
  obtain ⟨y, s2, vs2, hsy, -, hr2, rfl⟩ := readsU_cons hr1
  obtain ⟨rfl, rfl⟩ := readsU_nil hr2
  have hword : (if scondRule c x y then 1 else 0 : Word) = loWord (if scondRule c x y then 1 else 0) := by
    rw [apply_ite loWord]
    rfl
  rw [bind_ok hsx, bind_ok hsy, evalSCond_eq, hword]
  exact writeUW_run _ hlegal _ _

theorem ssel_row (d a b : UReg) (w : Bool) : UniformRow (.ssel d a b w)
    ⟨[(a, w), (b, w), (d, w)], d, w, fun vs => if vs.getD 2 0 = 0 then vs.getD 1 0 else vs.getD 0 0⟩ := by
  refine ⟨rfl, by simp [Instr.uniOps], _, fun _ => rfl, fun hlegal hr => ?_⟩
  obtain ⟨x, s1, vs1, hsx, -, hr1, rfl⟩ := readsU_cons hr
  obtain ⟨y, s2, vs2, hsy, -, hr2, rfl⟩ := readsU_cons hr1
  obtain ⟨z, s3, vs3, hsz, -, hr3, rfl⟩ := readsU_cons hr2
  obtain ⟨rfl, rfl⟩ := readsU_nil hr3
  rw [bind_ok hsx, bind_ok hsy, bind_ok hsz, select_word, writeUW_run _ hlegal]
  rfl

/-- Every uniform instruction works out its row. -/
theorem uniformOp_row {i : Instr} {o : UniOp} (h : uniformOp i = some o) : UniformRow i o := by
  cases i with
  | sadd d a b w =>
    exact uop2_row (fun _ => rfl) rfl (by simp [Instr.uniOps]) (fun u v => by rw [loWord_add, loWord_zeroExtend, loWord_zeroExtend]) h
  | ssub d a b w =>
    exact uop2_row (fun _ => rfl) rfl (by simp [Instr.uniOps]) (fun u v => by rw [loWord_sub, loWord_zeroExtend, loWord_zeroExtend]) h
  | smul d a b w =>
    exact uop2_row (fun _ => rfl) rfl (by simp [Instr.uniOps]) (fun u v => by rw [loWord_mul, loWord_zeroExtend, loWord_zeroExtend]) h
  | sand d a b w =>
    exact uop2_row (fun _ => rfl) rfl (by simp [Instr.uniOps]) (fun u v => by rw [loWord_and, loWord_zeroExtend, loWord_zeroExtend]) h
  | sor d a b w =>
    exact uop2_row (fun _ => rfl) rfl (by simp [Instr.uniOps]) (fun u v => by rw [loWord_or, loWord_zeroExtend, loWord_zeroExtend]) h
  | sxor d a b w =>
    exact uop2_row (fun _ => rfl) rfl (by simp [Instr.uniOps]) (fun u v => by rw [loWord_xor, loWord_zeroExtend, loWord_zeroExtend]) h
  | sshl d a b w =>
    exact ushift_row (f := sshlValue w) (fun _ => rfl) rfl (by simp [Instr.uniOps]) (fun hw => hw ▸ sshlValue_pair)
      (fun hw => hw ▸ sshlValue_word) h
  | sshr d a b w =>
    exact ushift_row (f := sshrValue w) (fun _ => rfl) rfl (by simp [Instr.uniOps]) (fun hw => hw ▸ sshrValue_pair)
      (fun hw => hw ▸ sshrValue_word) h
  | ssar d a b w =>
    exact ushift_row (f := ssarValue w) (fun _ => rfl) rfl (by simp [Instr.uniOps]) (fun hw => hw ▸ ssarValue_pair)
      (fun hw => hw ▸ ssarValue_word) h
  | smov d a w => exact Option.some.inj h ▸ smov_row d a w
  | smovi d imm w => exact uconst_row (fun _ => rfl) rfl (by simp [Instr.uniOps]) h
  | slit d w lit => exact uconst_row (fun _ => rfl) rfl (by simp [Instr.uniOps]) h
  | scmp d a b c => exact Option.some.inj h ▸ scmp_row d a b c
  | ssel d a b w => exact Option.some.inj h ▸ ssel_row d a b w
  | _ => nomatch h

/-- Settles O27: each uniform instruction works out its row, and leaves what the row says. -/
theorem uniformInstructionsWriteTheirResult : Obligations.UniformInstructionsWriteTheirResult :=
  fun _ _ _ _ _ _ _ _ _ _ _ hrow hruns hreads hafter => (uniformOp_row hrow).done hruns hreads hafter

end Sys2Proof.Machine
end

section
/-! PROOF. The floating-point and residue instructions compute their rows, which their frame needs (05_float.md R139 to R147,
10_residue.md R255, R256). -/

namespace Sys2Proof.Machine

open Claims

section Rows

variable {i : Instr} {d a c : LReg} {o : LaneOp}

theorem fop1_computes {f g : Nat → Nat × Nat} (hx : ∀ s, exec i s = float1 i d a f s) (ho : outbound i = false)
    (hfg : ∀ x, f x = g x) (h : fop1 d a g = some o) : ComputesRow i o := by
  obtain rfl : _ = o := Option.some.inj h
  refine computesRow_of_body hx ho fun hr => ?_
  obtain ⟨x, s1, vs1, hsx, hr1, rfl⟩ := reads_one hr
  obtain ⟨rfl, rfl⟩ := reads_nil hr1
  rw [bind_ok hsx, fpResult_run, hfg]
  rfl

theorem fop2_computes {f g : Nat → Nat → Nat × Nat} (hx : ∀ s, exec i s = float2 i d a c f s) (ho : outbound i = false)
    (hfg : ∀ x y, f x y = g x y) (h : fop2 d a c g = some o) : ComputesRow i o := by
  obtain rfl : _ = o := Option.some.inj h
  refine computesRow_of_body hx ho fun hr => ?_
  obtain ⟨x, s1, vs1, hsx, hr1, rfl⟩ := reads_one hr
  obtain ⟨y, s2, vs2, hsy, hr2, rfl⟩ := reads_one hr1
  obtain ⟨rfl, rfl⟩ := reads_nil hr2
  rw [bind_ok hsx, bind_ok hsy, fpResult_run, hfg]
  rfl

theorem fop3_computes {f g : Nat → Nat → Nat → Nat × Nat} (hx : ∀ s, exec i s = float3 i d a c f s) (ho : outbound i = false)
    (hfg : ∀ x y z, f x y z = g x y z) (h : fop3 d a c g = some o) : ComputesRow i o := by
  obtain rfl : _ = o := Option.some.inj h
  refine computesRow_of_body hx ho fun hr => ?_
  obtain ⟨x, s1, vs1, hsx, hr1, rfl⟩ := reads_one hr
  obtain ⟨y, s2, vs2, hsy, hr2, rfl⟩ := reads_one hr1
  obtain ⟨z, s3, vs3, hsz, hr3, rfl⟩ := reads_one hr2
  obtain ⟨rfl, rfl⟩ := reads_nil hr3
  rw [bind_ok hsx, bind_ok hsy, bind_ok hsz, fpResult_run, hfg]
  rfl

theorem fopTwo_computes {f g : Nat → Nat → Nat × Nat} (hx : ∀ s, exec i s = floatTwoAddr i d a f s) (ho : outbound i = false)
    (hfg : ∀ x y, f x y = g x y) (h : fopTwo d a g = some o) : ComputesRow i o := by
  obtain rfl : _ = o := Option.some.inj h
  refine computesRow_of_body hx ho fun hr => ?_
  obtain ⟨y, s1, vs1, hsy, hr1, rfl⟩ := reads_one hr
  obtain ⟨x, s2, vs2, hsx, hr2, rfl⟩ := reads_one hr1
  obtain ⟨rfl, rfl⟩ := reads_nil hr2
  rw [bind_ok hsy, bind_ok hsx, fpResult_run, hfg]
  rfl

end Rows

/-! Packed elements (05 R136, R140). -/

theorem packed_two (lo hi : Nat × Nat) : packed 16 [lo, hi] = pack2 lo hi := by simp [packed, pack2]

theorem elem_lo (x : Nat) : elem 16 x 0 = x % 65536 := by simp [elem]

theorem elem_hi (x : Nat) : elem 16 x 1 = x / 65536 % 65536 := by simp [elem]

theorem elem_byte (x k : Nat) : elem 8 x k = x / 256 ^ k % 256 := by simp [elem, pow_mul]

theorem onH2_eq (f : Nat → Nat → Nat × Nat) (x y : Nat) : onH2 f x y = both2 f x y := by
  have h : onH2 f x y = packed 16 [f (elem 16 x 0) (elem 16 y 0), f (elem 16 x 1) (elem 16 y 1)] := rfl
  rw [h, packed_two, elem_lo, elem_lo, elem_hi, elem_hi, both2]

theorem onH3_eq (f : Nat → Nat → Nat → Nat × Nat) (x y z : Nat) : onH3 f x y z = both3 f x y z := by
  have h : onH3 f x y z =
    packed 16 [f (elem 16 x 0) (elem 16 y 0) (elem 16 z 0), f (elem 16 x 1) (elem 16 y 1) (elem 16 z 1)] := rfl
  rw [h, packed_two, elem_lo, elem_lo, elem_lo, elem_hi, elem_hi, elem_hi, both3]

theorem products_halves (f : Fmt) (x y : Nat) : products f 16 2 x y = pairs2 f x y := by
  have h : products f 16 2 x y =
    [(f.value (elem 16 x 0), f.value (elem 16 y 0)), (f.value (elem 16 x 1), f.value (elem 16 y 1))] := rfl
  rw [h, elem_lo, elem_lo, elem_hi, elem_hi, pairs2]

theorem products_bytes (f : Fmt) (x y : Nat) : products f 8 4 x y = pairs4 f x y := by
  simp only [products, elem_byte]
  rfl

/-- A dot product of the elements of two words, onto a third (05 R140). -/
theorem dot_computes {i : Instr} {d a c : LReg} {o : LaneOp} {ps qs : Nat → Nat → List (FpVal × FpVal)}
    (hx : ∀ s, exec i s = float3 i d a c (fun x y z => f32.dot .acc (f32.value z) (ps x y)) s) (ho : outbound i = false)
    (hpq : ∀ x y, ps x y = qs x y) (h : fop3 d a c (fun x y z => f32.dot .acc (f32.value z) (qs x y)) = some o) : ComputesRow i o :=
  fop3_computes hx ho (fun x y z => congrArg (f32.dot .acc (f32.value z)) (hpq x y)) h

theorem floatOp_computes : Computes floatOp := by
  intro i o h
  cases i with
  | faddF32 d a b | fsubF32 d a b | fmulF32 d a b => exact fop2_computes (fun _ => rfl) rfl (fun _ _ => rfl) h
  | ffmaF32 d a b => exact fop3_computes (fun _ => rfl) rfl (fun _ _ _ => rfl) h
  | faddH2 d a b | fmulH2 d a b | faddB2 d a b | fmulB2 d a b => exact fop2_computes (fun _ => rfl) rfl (onH2_eq _) h
  | ffmaH2 d a b | ffmaB2 d a b => exact fop3_computes (fun _ => rfl) rfl (onH3_eq _) h
  | fsubH2 d a | fsubB2 d a | fminH2 d a | fmaxH2 d a | fminB2 d a | fmaxB2 d a =>
    exact fopTwo_computes (fun _ => rfl) rfl (onH2_eq _) h
  | fminF32 d a | fmaxF32 d a => exact fopTwo_computes (fun _ => rfl) rfl (fun _ _ => rfl) h
  | dot2H2 d a b => exact dot_computes (fun _ => rfl) rfl (products_halves f16) h
  | dot2B2 d a b => exact dot_computes (fun _ => rfl) rfl (products_halves bf16) h
  | dot4E4m3 d a b => exact dot_computes (fun _ => rfl) rfl (products_bytes e4m3) h
  | dot4E5m2 d a b => exact dot_computes (fun _ => rfl) rfl (products_bytes e5m2) h
  | _ => nomatch h

/-! Conversions (05 R143 to R147). -/

/-- The source of a conversion is one operand of its group. -/
theorem reads_srcGroup {b t : Nat} {r : LReg} {g : OpGrp} {os : List (LReg × Nat)} {vs : List (List Word)} {s s' : State}
    (h : Reads b t ((r, g.size) :: os) vs s s') :
    ∃ ws s1 rest, srcGroup b t r g s = .ok (ws, s1) ∧ Reads b t os rest s1 s' ∧ vs = ws :: rest := by
  by_cases hg : g = .one
  · subst hg
    obtain ⟨w, s1, rest, hw, hrest, rfl⟩ := reads_one h
    exact ⟨[w], s1, rest, bind_ok hw, hrest, rfl⟩
  · have hsize : g.size ≠ 1 := by
      cases g with
      | one => exact absurd rfl hg
      | _ => decide
    obtain ⟨ws, s1, rest, hws, hrest, rfl⟩ := reads_group hsize h
    exact ⟨ws, s1, rest, by rw [srcGroup, if_neg hg, hws], hrest, rfl⟩

theorem fcvt_computes (d a : LReg) (n : Fin 4) (sat : Bool) (kind : CvtKind) : ComputesRow (.fcvt d a n sat kind)
    ⟨[(a, kind.srcGrp.size)], d, fun vs =>
      let r := fcvtWords n sat kind (vs.getD 0 [])
      ([w32 r.1], r.2)⟩ := by
  refine computesRow_of_body (fun _ => rfl) rfl fun hr => ?_
  obtain ⟨ws, s1, vs1, hsw, hr1, rfl⟩ := reads_srcGroup hr
  obtain ⟨rfl, rfl⟩ := reads_nil hr1
  rw [bind_ok hsw, fpResult_run]
  rfl

theorem IntType.grp_eq_pair_iff (ty : IntType) : ty.grp = .pair ↔ ty = .i64 ∨ ty = .w64 := by cases ty <;> decide

theorem fcvti_computes (d a : LReg) (rnd : Rnd) (ty : IntType) : ComputesRow (.fcvti d a rnd ty)
    ⟨[(a, 1)], d, fun vs =>
      let r := toIntType (dirOf rnd) (intRange ty).1 (intRange ty).2 (arg vs 0).toNat
      (if ty = .i64 ∨ ty = .w64 then pairList (BitVec.ofInt 64 r.1) else [wi r.1], r.2)⟩ := by
  refine computesRow_of_body (fun _ => rfl) rfl fun hr => ?_
  obtain ⟨x, s1, vs1, hsx, hr1, rfl⟩ := reads_one hr
  obtain ⟨rfl, rfl⟩ := reads_nil hr1
  rw [bind_ok hsx]
  dsimp only
  by_cases hty : ty = .i64 ∨ ty = .w64
  · rw [if_pos ((IntType.grp_eq_pair_iff ty).2 hty), if_pos hty, bind_ok (result2_run ..)]
    exact orFp_latched ..
  · rw [if_neg (mt (IntType.grp_eq_pair_iff ty).1 hty), if_neg hty, bind_ok (result_run ..)]
    exact orFp_latched ..

section Integers

variable {i : Instr} {d a : LReg} {rnd : Rnd} {o : LaneOp}

/-- An integer that is one word. -/
theorem icvtf_word_computes {ty : SrcInt} {v : Word → Int}
    (hv : ∀ {b t s s1 x}, src b t a s = .ok (x, s1) → srcInteger b t a ty s = .ok (v x, s1)) : ComputesRow (.icvtf d a rnd ty)
    ⟨[(a, 1)], d, fun vs =>
      let r := ofInteger (dirOf rnd) (v (arg vs 0))
      ([w32 r.1], r.2)⟩ := by
  refine computesRow_of_body (fun _ => rfl) rfl fun hr => ?_
  obtain ⟨x, s1, vs1, hsx, hr1, rfl⟩ := reads_one hr
  obtain ⟨rfl, rfl⟩ := reads_nil hr1
  rw [bind_ok (hv hsx), fpResult_run]
  rfl

/-- An integer that is a pair. -/
theorem icvtf_pair_computes {ty : SrcInt} {v : DWord → Int}
    (hv : ∀ {b t s s1 x}, src2 b t a s = .ok (x, s1) → srcInteger b t a ty s = .ok (v x, s1)) : ComputesRow (.icvtf d a rnd ty)
    ⟨[(a, 2)], d, fun vs =>
      let r := ofInteger (dirOf rnd) (v (argPair vs 0))
      ([w32 r.1], r.2)⟩ := by
  refine computesRow_of_body (fun _ => rfl) rfl fun hr => ?_
  obtain ⟨lo, hi, s1, vs1, hsx, hr1, rfl⟩ := reads_pair hr
  obtain ⟨rfl, rfl⟩ := reads_nil hr1
  rw [bind_ok (hv hsx), fpResult_run]
  rfl

end Integers

theorem bpx_computes (d a b : LReg) : ComputesRow (.bpx d a b)
    ⟨[(a, 8), (b, 1)], d, fun vs => ([bpxWord (vs.getD 0 []) (arg vs 1)], 0)⟩ := by
  refine computesRow_of_body (fun _ => rfl) rfl fun hr => ?_
  obtain ⟨ws, s1, vs1, hsw, hr1, rfl⟩ := reads_group (by decide) hr
  obtain ⟨x, s2, vs2, hsx, hr2, rfl⟩ := reads_one hr1
  obtain ⟨rfl, rfl⟩ := reads_nil hr2
  rw [bind_ok hsw, bind_ok hsx, result_run]
  rfl

theorem convertOp_computes : Computes convertOp := by
  intro i o h
  cases i with
  | frcp d a | frsq d a | fsqrt d a | fexp2 d a | flog2 d a | fsin d a | fcos d a | frnd d a rnd =>
    exact fop1_computes (fun _ => rfl) rfl (fun _ => rfl) h
  | fcvt d a n sat kind => exact Option.some.inj h ▸ fcvt_computes d a n sat kind
  | fcvti d a rnd ty => exact Option.some.inj h ▸ fcvti_computes d a rnd ty
  | icvtf d a rnd ty =>
    cases ty with
    | i32 => exact Option.some.inj h ▸ icvtf_word_computes (v := BitVec.toInt) fun hs => bind_ok hs
    | w32 => exact Option.some.inj h ▸ icvtf_word_computes (v := fun x => (x.toNat : Int)) fun hs => bind_ok hs
    | i64 => exact Option.some.inj h ▸ icvtf_pair_computes (v := BitVec.toInt) fun hs => bind_ok hs
    | w64 => exact Option.some.inj h ▸ icvtf_pair_computes (v := fun x => (x.toNat : Int)) fun hs => bind_ok hs
  | bpx d a b => exact Option.some.inj h ▸ bpx_computes d a b
  | _ => nomatch h

/-! Residues (10 R255, R256). -/

theorem rencI32_computes (d a : LReg) : ComputesRow (.rencI32 d a)
    ⟨[(a, 1)], d, fun vs => (tripleOf (encodeResidue (arg vs 0).toInt), 0)⟩ := by
  refine computesRow_of_body (fun _ => rfl) rfl fun hr => ?_
  obtain ⟨x, s1, vs1, hsx, hr1, rfl⟩ := reads_one hr
  obtain ⟨rfl, rfl⟩ := reads_nil hr1
  rw [bind_ok hsx, resultN_run]
  rfl

theorem rencI64_computes (d a : LReg) : ComputesRow (.rencI64 d a)
    ⟨[(a, 2)], d, fun vs => (tripleOf (encodeResidue (argPair vs 0).toInt), 0)⟩ := by
  refine computesRow_of_body (fun _ => rfl) rfl fun hr => ?_
  obtain ⟨lo, hi, s1, vs1, hsx, hr1, rfl⟩ := reads_pair hr
  obtain ⟨rfl, rfl⟩ := reads_nil hr1
  rw [bind_ok hsx, resultN_run]
  rfl

/-- A channel-wise instruction of two triples. -/
theorem channels_computes {i : Instr} {d a c : LReg} {f : Nat → Nat → Nat} (ho : outbound i = false)
    (hx : ∀ s, exec i s = laneExec i (laneFall fun b t => do
      let x ← srcN b t a 3
      let y ← srcN b t c 3
      resultN b t d (tripleOf (perChannel f (residuesOf x) (residuesOf y)))) s) :
    ComputesRow i ⟨[(a, 3), (c, 3)], d, fun vs =>
      (tripleOf (perChannel f (residuesOf (vs.getD 0 [])) (residuesOf (vs.getD 1 []))), 0)⟩ := by
  refine computesRow_of_body hx ho fun hr => ?_
  obtain ⟨x, s1, vs1, hsx, hr1, rfl⟩ := reads_group (by decide) hr
  obtain ⟨y, s2, vs2, hsy, hr2, rfl⟩ := reads_group (by decide) hr1
  obtain ⟨rfl, rfl⟩ := reads_nil hr2
  rw [bind_ok hsx, bind_ok hsy, resultN_run]
  rfl

theorem rdec_computes (d a b : LReg) : ComputesRow (.rdec d a b)
    ⟨[(a, 3), (b, 1)], d, fun vs => (pairList (BitVec.ofInt 64 (decodeCtl (residuesOf (vs.getD 0 [])) (arg vs 1)).out), 0)⟩ := by
  refine computesRow_of_body (fun _ => rfl) rfl fun hr => ?_
  obtain ⟨x, s1, vs1, hsx, hr1, rfl⟩ := reads_group (by decide) hr
  obtain ⟨c, s2, vs2, hsc, hr2, rfl⟩ := reads_one hr1
  obtain ⟨rfl, rfl⟩ := reads_nil hr2
  rw [bind_ok hsx, bind_ok hsc, result2_run]
  rfl

theorem report_eq (r : Decoded) : r.report = w32 (r.cls.code + (if r.clamp then 8 else 0) + 16 * r.ch) := by
  unfold Decoded.report
  congr 1
  cases r.clamp <;> simp <;> omega

theorem rchk_computes (d a b : LReg) : ComputesRow (.rchk d a b)
    ⟨[(a, 3), (b, 1)], d, fun vs =>
      let r := decodeCtl (residuesOf (vs.getD 0 [])) (arg vs 1)
      ([w32 (r.cls.code + (if r.clamp then 8 else 0) + 16 * r.ch)], 0)⟩ := by
  refine computesRow_of_body (fun _ => rfl) rfl fun hr => ?_
  obtain ⟨x, s1, vs1, hsx, hr1, rfl⟩ := reads_group (by decide) hr
  obtain ⟨c, s2, vs2, hsc, hr2, rfl⟩ := reads_one hr1
  obtain ⟨rfl, rfl⟩ := reads_nil hr2
  rw [bind_ok hsx, bind_ok hsc, result_run, report_eq]
  rfl

theorem residueOp_computes : Computes residueOp := by
  intro i o h
  cases i with
  | rencI32 d a => exact Option.some.inj h ▸ rencI32_computes d a
  | rencI64 d a => exact Option.some.inj h ▸ rencI64_computes d a
  | radd d a b => exact Option.some.inj h ▸ channels_computes rfl fun _ => rfl
  | rmul d a b => exact Option.some.inj h ▸ channels_computes rfl fun _ => rfl
  | rdec d a b => exact Option.some.inj h ▸ rdec_computes d a b
  | rchk d a b => exact Option.some.inj h ▸ rchk_computes d a b
  | _ => nomatch h

end Sys2Proof.Machine
end

section
/-! PROOF. What computing and predicate instructions leave alone: O5. -/

namespace Sys2Proof.Machine

open Claims

/-! Threads. -/

/-- What a frame says of the thread that issues: registers outside `ds` and predicates outside `ps` stay, o registers while the clause
goes on. -/
structure ThreadKeeps (th th' : Thread) (ds : List LReg) (ps : List Nat) : Prop where
  vregs : ∀ n, .v n ∉ ds → th'.getV n.val = th.getV n.val
  oregs : ∀ n, .o n ∉ ds → th'.clauseIdx ≠ 0 → Cells.get? n.val th'.o = Cells.get? n.val th.o
  preds : ∀ p, p ∉ ps → th'.getP p = th.getP p
  status : th'.fpstat &&& th.fpstat = th.fpstat
  rest : threadRest th' = threadRest th

/-- A thread that stays where it is in its clause. -/
structure ThreadWrites (th th' : Thread) (ds : List LReg) (ps : List Nat) : Prop extends ThreadKeeps th th' ds ps where
  latches : ∀ n, .o n ∉ ds → Cells.get? n.val th'.o = Cells.get? n.val th.o
  index : th'.clauseIdx = th.clauseIdx

variable {ds : List LReg} {ps : List Nat}

theorem ThreadWrites.refl (th : Thread) : ThreadWrites th th ds ps :=
  ⟨⟨fun _ _ => rfl, fun _ _ _ => rfl, fun _ _ => rfl, BitVec.and_self, rfl⟩, fun _ _ => rfl, rfl⟩

/-- Fields of its own that a step changes, none of them a register, a predicate or a place in the clause. -/
theorem threadWrites_of_rest {th th' : Thread} (hv : th'.v = th.v) (ho : th'.o = th.o) (hp : th'.pred = th.pred)
    (hf : th'.fpstat &&& th.fpstat = th.fpstat) (hi : th'.clauseIdx = th.clauseIdx) (hr : threadRest th' = threadRest th) :
    ThreadWrites th th' ds ps :=
  ⟨⟨fun n _ => by rw [Thread.getV, hv, Thread.getV], fun n _ _ => by rw [ho], fun p _ => by rw [Thread.getP, hp, Thread.getP],
    hf, hr⟩, fun n _ => by rw [ho], hi⟩

theorem threadWrites_writeReg {r : LReg} (hr : r ∈ ds) (th : Thread) (w : Word) : ThreadWrites th (th.writeReg r w) ds ps := by
  cases r with
  | v n =>
    have hother (m : Fin 224) (hm : .v m ∉ ds) : m.val ≠ n.val := fun e => hm (Fin.ext e ▸ hr)
    exact ⟨⟨fun m hm => Thread.getV_setV_other th (hother m hm) w, fun _ _ _ => rfl, fun _ _ => rfl, BitVec.and_self, rfl⟩,
      fun _ _ => rfl, rfl⟩
  | o n =>
    have hother (m : Fin 8) (hm : .o m ∉ ds) : Cells.get? m.val (Cells.set n.val w th.o) = Cells.get? m.val th.o :=
      Cells.get?_set_other (fun e => hm (Fin.ext e ▸ hr)) ..
    exact ⟨⟨fun _ _ => rfl, fun m hm _ => hother m hm, fun _ _ => rfl, BitVec.and_self, rfl⟩, hother, rfl⟩
  | x => exact threadWrites_of_rest rfl rfl rfl BitVec.and_self rfl rfl
  | _ => exact .refl th

theorem getP_setP_other (th : Thread) {p q : Nat} (h : q ≠ p) (v : Bool) : (th.setP p v).getP q = th.getP q := by
  have hbit : ((1 : BitVec 8) <<< p).getLsbD q = false := by
    simp
    omega
  have hlow : (decide (q < 8) && th.pred.getLsbD q) = th.pred.getLsbD q := by
    by_cases hq : q < 8
    · simp [hq]
    · simp [BitVec.getLsbD_of_ge th.pred q (by omega)]
  unfold Thread.setP Thread.getP
  cases v with
  | true => exact (BitVec.getLsbD_or ..).trans (by rw [hbit, Bool.or_false])
  | false => exact (BitVec.getLsbD_and ..).trans (by rw [BitVec.getLsbD_not, hbit, Bool.not_false, Bool.and_true, Bool.and_comm, hlow])

theorem threadWrites_pred {th : Thread} (pred : BitVec 8) (h : ∀ q, q ∉ ps → pred.getLsbD q = th.getP q) :
    ThreadWrites th { th with pred } ds ps :=
  ⟨⟨fun _ _ => rfl, fun _ _ _ => rfl, h, BitVec.and_self, rfl⟩, fun _ _ => rfl, rfl⟩

theorem threadWrites_setP {p : Nat} (hp : p ∈ ps) (th : Thread) (v : Bool) : ThreadWrites th (th.setP p v) ds ps :=
  threadWrites_pred _ fun _ hq => getP_setP_other th (ne_of_mem_of_not_mem hp hq).symm v

theorem threadWrites_condSet (p : Nat) (r : Bool × Option Bool) (th : Thread) : ThreadWrites th (condSet p r th) ds [p, p + 1] := by
  obtain ⟨lo, _ | hi⟩ := r
  · exact threadWrites_setP (by simp) th lo
  · refine threadWrites_pred _ fun q hq => ?_
    obtain ⟨hq0, hq1⟩ : q ≠ p ∧ q ≠ p + 1 := by simpa using hq
    exact (getP_setP_other _ hq1 hi).trans (getP_setP_other th hq0 lo)

/-- The result latch and sticky bits (02 R41, 05 R136). -/
theorem threadWrites_latch (th : Thread) (w : Word) (fp : Nat) :
    ThreadWrites th { th with x := some w, fpstat := th.fpstat ||| w32 fp } ds ps := by
  refine threadWrites_of_rest rfl rfl rfl ?_ rfl rfl
  apply BitVec.eq_of_getLsbD_eq
  intro i hi
  simpa [hi] using Or.inl

theorem threadKeeps_advance (th : Thread) (words : Nat) : ThreadKeeps th (th.advance words) ds ps := by
  unfold Thread.advance
  dsimp only
  split
  · exact ⟨fun _ _ => rfl, fun _ _ h => absurd rfl h, fun _ _ => rfl, BitVec.and_self, rfl⟩
  · exact ⟨fun _ _ => rfl, fun _ _ _ => rfl, fun _ _ => rfl, BitVec.and_self, rfl⟩

/-! States. -/

variable {s s' s1 s2 : State} {b t : Nat}

/-- A frame of a step that leaves the thread where it is in its clause. -/
structure WriteFrame (s s' : State) (b t : Nat) (ds : List LReg) (ps : List Nat) : Prop extends LaneFrame s s' b t ds ps where
  latches : ∀ n, .o n ∉ ds → Cells.get? n.val (s'.thread b t).o = Cells.get? n.val (s.thread b t).o
  index : (s'.thread b t).clauseIdx = (s.thread b t).clauseIdx

/-- Frames compose, once it is known what becomes of the o registers. -/
theorem laneFrame_trans (h : LaneFrame s s1 b t ds ps) (g : LaneFrame s1 s2 b t ds ps)
    (ho : ∀ n, .o n ∉ ds → (s2.thread b t).clauseIdx ≠ 0 →
      Cells.get? n.val (s2.thread b t).o = Cells.get? n.val (s.thread b t).o) :
    LaneFrame s s2 b t ds ps where
  others b' t' n := (g.others b' t' n).trans (h.others b' t' n)
  vregs n hn := (g.vregs n hn).trans (h.vregs n hn)
  oregs := ho
  preds p hp := (g.preds p hp).trans (h.preds p hp)
  status := by rw [← h.status, ← BitVec.and_assoc, g.status]
  rest := g.rest.trans h.rest
  blocks b' := (g.blocks b').trans (h.blocks b')
  flight := g.flight.trans h.flight
  cores c := (g.cores c).trans (h.cores c)
  package := g.package.trans h.package
  memory pa := (g.memory pa).trans (h.memory pa)

theorem WriteFrame.then (h : WriteFrame s s1 b t ds ps) (g : LaneFrame s1 s2 b t ds ps) : LaneFrame s s2 b t ds ps :=
  laneFrame_trans h.toLaneFrame g fun n hn hi => (g.oregs n hn hi).trans (h.latches n hn)

theorem laneFrame_write (h : LaneFrame s s1 b t ds ps) (g : WriteFrame s1 s2 b t ds ps) : LaneFrame s s2 b t ds ps :=
  laneFrame_trans h g.toLaneFrame fun n hn hi => (g.latches n hn).trans (h.oregs n hn (g.index ▸ hi))

theorem WriteFrame.trans (h : WriteFrame s s1 b t ds ps) (g : WriteFrame s1 s2 b t ds ps) : WriteFrame s s2 b t ds ps :=
  ⟨h.then g.toLaneFrame, fun n hn => (g.latches n hn).trans (h.latches n hn), g.index.trans h.index⟩

theorem getThread_of_blocks (h : s'.blocks = s.blocks) (c u : Nat) : s'.getThread c u = s.getThread c u := by
  rw [State.getThread, State.getBlock, h, State.getThread, State.getBlock]

theorem thread_of_blocks (h : s'.blocks = s.blocks) (c u : Nat) : s'.thread c u = s.thread c u := by
  rw [State.thread, getThread_of_blocks h, State.thread]

theorem block_of_blocks (h : s'.blocks = s.blocks) (c : Nat) : s'.block c = s.block c := by
  rw [State.block, State.getBlock, h, State.block, State.getBlock]

theorem mem_of_stateRest (h : stateRest s' = stateRest s) : s'.mem = s.mem := by
  have e := congrArg State.mem h
  exact e

/-- A step that touches no block: the bundles, what overwritten destinations are marked with, and nothing else. -/
theorem writeFrame_of_blocks (hb : s'.blocks = s.blocks)
    (hf : s'.ops.map (fun o => { o with clob := false, dst := .none }) = s.ops.map fun o => { o with clob := false, dst := .none })
    (hc : ∀ c, { s'.getCore c with recon := [] } = { s.getCore c with recon := [] }) (hr : stateRest s' = stateRest s) :
    WriteFrame s s' b t ds ps := by
  have hth := ThreadWrites.refl (ds := ds) (ps := ps) (s.thread b t)
  have he := thread_of_blocks hb b t
  refine ⟨⟨fun b' t' _ => getThread_of_blocks hb b' t', ?_, ?_, ?_, ?_, ?_, fun b' => by rw [block_of_blocks hb], hf, hc, hr,
    sameMemory_of_mem_eq (mem_of_stateRest hr)⟩, ?_, ?_⟩ <;> rw [he]
  exacts [hth.vregs, hth.oregs, hth.preds, hth.status, hth.latches]

theorem thread_modThread_cases (s : State) (b t : Nat) (f : Thread → Thread) :
    (s.modThread b t f).thread b t = f (s.thread b t) ∨ (s.modThread b t f).thread b t = s.thread b t := by
  cases h : s.getThread b t with
  | some th => 
    rw [State.thread_modThread_self h, State.thread_of_get h]
    exact .inl rfl
  | none =>
    refine .inr ?_
    have hnone : (s.modThread b t f).getThread b t = none := by
      unfold State.getThread State.modThread at *
      cases hx : s.getBlock b with
      | none => rw [State.modBlock_none hx, hx]; rfl
      | some x =>
        have ht : x.getThread t = none := by simpa [hx] using h
        rw [State.getBlock_modBlock_self hx]
        simp [ht]
    rw [State.thread, hnone, State.thread, h]

theorem laneFrame_modThread {f : Thread → Thread} (hf : ∀ th, ThreadKeeps th (f th) ds ps) (s : State) (b t : Nat) :
    LaneFrame s (s.modThread b t f) b t ds ps := by
  have hth : ThreadKeeps (s.thread b t) ((s.modThread b t f).thread b t) ds ps := by
    obtain h | h := thread_modThread_cases s b t f <;> rw [h]
    exacts [hf _, (ThreadWrites.refl _).toThreadKeeps]
  have hrest : stateRest (s.modThread b t f) = stateRest s := by
    unfold State.modThread State.modBlock
    split <;> rfl
  exact ⟨fun b' t' n => State.getThread_modThread_other s n f, hth.vregs, hth.oregs, hth.preds, hth.status, hth.rest,
    block_modThread s b t f, by rw [State.modThread_ops], fun c => by rw [State.getCore, State.modThread_cores, State.getCore], hrest,
    sameMemory_of_mem_eq (State.modThread_mem s b t f)⟩

theorem writeFrame_modThread {f : Thread → Thread} (hf : ∀ th, ThreadWrites th (f th) ds ps) (s : State) (b t : Nat) :
    WriteFrame s (s.modThread b t f) b t ds ps := by
  refine ⟨laneFrame_modThread (fun th => (hf th).toThreadKeeps) s b t, ?_, ?_⟩ <;>
    obtain h | h := thread_modThread_cases s b t f <;> rw [h]
  exacts [(hf _).latches, fun _ _ => rfl, (hf _).index]

/-! Writing registers (06 R160). -/

/-- The operations in flight to a register, marked (06 R160). -/
def State.marked (s : State) (b t : Nat) (r : LReg) : State :=
  { s with ops := s.ops.map fun o => if o.writesLane b t r then { o with clob := true } else o }

/-- Overwriting a register marks operations in flight, and drains of the thread's core. -/
theorem clobber_cases (s : State) (b t : Nat) (r : LReg) :
    s.clobber b t r = s.marked b t r ∨
      ∃ c f, s.clobber b t r = (s.marked b t r).modCore c f ∧ ∀ k : CoreState, { f k with recon := [] } = { k with recon := [] } := by
  unfold State.clobber
  dsimp only
  split
  · split
    · exact .inr ⟨_, _, rfl, fun _ => rfl⟩
    · exact .inl rfl
  · exact .inl rfl

theorem writeFrame_marked (s : State) (b t : Nat) (r : LReg) : WriteFrame s (s.marked b t r) b t ds ps := by
  refine writeFrame_of_blocks rfl ?_ (fun _ => rfl) rfl
  simp only [State.marked, List.map_map]
  refine List.map_congr_left fun o _ => ?_
  dsimp only [Function.comp]
  split <;> rfl

theorem writeFrame_modCore {f : CoreState → CoreState} (hf : ∀ k : CoreState, { f k with recon := [] } = { k with recon := [] })
    (s : State) (c b t : Nat) : WriteFrame s (s.modCore c f) b t ds ps := by
  refine writeFrame_of_blocks rfl rfl (fun c' => ?_) rfl
  by_cases h : c' = c
  · rw [h, State.getCore_modCore_self, hf]
  · rw [State.getCore_modCore_other s h]

theorem writeFrame_clobber (s : State) (b t : Nat) (r : LReg) : WriteFrame s (s.clobber b t r) b t ds ps := by
  obtain h | ⟨c, f, h, hf⟩ := clobber_cases s b t r <;> rw [h]
  · exact writeFrame_marked s b t r
  · exact (writeFrame_marked s b t r).trans (writeFrame_modCore hf _ c b t)

theorem WriteFrame.refl (s : State) (b t : Nat) : WriteFrame s s b t ds ps := writeFrame_of_blocks rfl rfl (fun _ => rfl) rfl

theorem writeFrame_putRegs (d : LReg) (ws : List Word) (s : State) :
    WriteFrame s (putRegs b t d ws s) b t (groupOf d ws.length) ps := by
  have hstep (e : Word × Nat) (he : e ∈ ws.zipIdx) (s : State) :
      WriteFrame s ((s.clobber b t (d.plus e.2)).modThread b t (·.writeReg (d.plus e.2) e.1)) b t (groupOf d ws.length) ps := by
    have hin : d.plus e.2 ∈ groupOf d ws.length := by
      have hlt := List.snd_lt_of_mem_zipIdx he
      exact List.mem_map.2 ⟨e.2, by simpa using hlt, rfl⟩
    exact (writeFrame_clobber s b t _).trans (writeFrame_modThread (fun th => threadWrites_writeReg hin th e.1) _ b t)
  exact List.foldlRecOn ws.zipIdx _ (motive := fun s' => WriteFrame s s' b t (groupOf d ws.length) ps) (.refl s b t)
    fun s' h e he => h.trans (hstep e he s')

/-- A result touches its registers, the x latch and the sticky bits. -/
theorem writeFrame_latched (d : LReg) (ws : List Word) (fp : Nat) (s : State) :
    WriteFrame s (latched b t d ws fp s) b t (groupOf d ws.length) ps :=
  (writeFrame_putRegs d ws s).trans (writeFrame_modThread (fun th => threadWrites_latch th _ fp) _ b t)

/-! Going on (02 R41, R45; 03 R90). -/

theorem writeFrame_dropLatches (s : State) (b t : Nat) : WriteFrame s (s.dropLatches b t) b t ds ps := by
  unfold State.dropLatches
  dsimp only
  split
  · refine writeFrame_of_blocks rfl ?_ (fun _ => rfl) rfl
    simp only [List.map_map]
    refine List.map_congr_left fun o _ => ?_
    dsimp only [Function.comp]
    split
    · split <;> rfl
    · rfl
  · exact .refl s b t

theorem writeFrame_bundles (s : State) (c : List (Nat × Nat)) (u : List Bundle) (b t : Nat) :
    WriteFrame s { s with cur := c, bundles := u } b t ds ps := writeFrame_of_blocks rfl rfl (fun _ => rfl) rfl

theorem writeFrame_stopPast (s : State) (b t : Nat) : WriteFrame s (s.stopPast b t) b t ds ps := by
  unfold State.stopPast
  dsimp only
  split
  · have hstop := writeFrame_modThread (ds := ds) (ps := ps) (f := fun th => { th with run := .stopped none false })
      (fun _ => threadWrites_of_rest rfl rfl rfl BitVec.and_self rfl rfl) s b t
    have hsince (now : Nat) (s : State) := writeFrame_modThread (ds := ds) (ps := ps) (f := fun th => { th with since := now })
      (fun _ => threadWrites_of_rest rfl rfl rfl BitVec.and_self rfl rfl) s b t
    exact (hstop.trans (writeFrame_bundles _ _ _ b t)).trans (hsince _ _)
  · exact .refl s b t

theorem laneFrame_retire (s : State) (b t words : Nat) : LaneFrame s (s.retire b t words .fall) b t ds ps :=
  laneFrame_write (laneFrame_write (laneFrame_modThread (fun th => threadKeeps_advance th words) s b t) (writeFrame_dropLatches _ b t))
    (writeFrame_stopPast _ b t)

theorem laneFrame_laneDone (i : Instr) (d : LReg) (ws : List Word) (fp : Nat) (s : State) :
    LaneFrame s (laneDone i b t d ws fp s) b t (groupOf d ws.length) ps :=
  (writeFrame_latched d ws fp s).then (laneFrame_retire _ b t (wordsOf i))

theorem laneFrame_threadDone (i : Instr) {f : Thread → Thread} (hf : ∀ th, ThreadWrites th (f th) ds ps) (s : State) :
    LaneFrame s (threadDone i b t f s) b t ds ps :=
  (writeFrame_modThread hf s b t).then (laneFrame_retire _ b t (wordsOf i))

/-! The instructions. -/

/-- Every row of the tables of O1 to O3 is computed. -/
theorem laneTable_computes : Computes laneTable := by
  intro i o h
  simp only [laneTable, Option.orElse_eq_some] at h
  obtain h | ⟨-, h | ⟨-, h | ⟨-, h | ⟨-, h⟩⟩⟩⟩ := h
  · exact integerInstructionsComputeTheirFormulas i o h
  · exact packedInstructionsWorkByHalfword i o h
  · exact floatOp_computes i o h
  · exact convertOp_computes i o h
  · exact residueOp_computes i o h

theorem groupOf_one (d : LReg) : groupOf d 1 = [d] := by simp [groupOf]

/-- ADDC and SUBB: a result, and then p7. -/
theorem laneFrame_carry (i : Instr) (d : LReg) (w : Word) (v : Bool) (s : State) (b t : Nat) :
    LaneFrame s (threadDone i b t (·.setP 7 v) (latched b t d [w] 0 s)) b t [d] [7] := by
  have hresult : WriteFrame s (latched b t d [w] 0 s) b t [d] [7] := groupOf_one d ▸ writeFrame_latched d [w] 0 s
  exact hresult.then (laneFrame_threadDone i (fun th => threadWrites_setP (by simp) th v) _)

/-- The four predicate instructions, each by its own effect. -/
theorem predicateInstructionsLeaveTheRestAlone (i : Instr) (rs : List (LReg × Nat)) (ds : List LReg) (ps : List Nat) (s s1 s2 : State)
    (b t : Nat) (vs : List (List Word)) (htable : predTable i = some (rs, ds, ps)) (hi : Issues i s b t) (hr : Reads b t rs vs s s1)
    (hexec : exec i s = .next s2) : LaneFrame s1 s2 b t ds ps := by
  cases i with
  | addc d a c =>
    obtain ⟨rfl, rfl, rfl⟩ : [(a, 1), (c, 1)] = rs ∧ [d] = ds ∧ [7] = ps := by simpa [predTable] using htable
    obtain rfl : _ = s2 := Host.Outcome.next.inj ((addcComputes d a c s s1 b t vs hi hr).symm.trans hexec)
    exact laneFrame_carry _ d _ _ s1 b t
  | subb d a c =>
    obtain ⟨rfl, rfl, rfl⟩ : [(a, 1), (c, 1)] = rs ∧ [d] = ds ∧ [7] = ps := by simpa [predTable] using htable
    obtain rfl : _ = s2 := Host.Outcome.next.inj ((subbComputes d a c s s1 b t vs hi hr).symm.trans hexec)
    exact laneFrame_carry _ d _ _ s1 b t
  | setp p c u w =>
    obtain ⟨rfl, rfl, rfl⟩ : [(u, 1), (w, 1)] = rs ∧ [] = ds ∧ [p.val, p.val + 1] = ps := by simpa [predTable] using htable
    obtain rfl : _ = s2 := Host.Outcome.next.inj ((setpComputes p c u w s s1 b t vs hi hr).symm.trans hexec)
    exact laneFrame_threadDone _ (threadWrites_condSet p.val _) s1
  | setv d p =>
    obtain ⟨rfl, rfl, rfl⟩ : [] = rs ∧ [d] = ds ∧ [] = ps := by simpa [predTable] using htable
    obtain ⟨-, rfl⟩ := reads_nil hr
    obtain rfl : _ = s2 := Host.Outcome.next.inj ((setvComputes d p s1 b t hi).symm.trans hexec)
    exact groupOf_one d ▸ laneFrame_laneDone (.setv d p) d [_] 0 s1
  | _ => nomatch htable

theorem computingInstructionsLeaveTheRest (i : Instr) (o : LaneOp) (s s1 s2 : State) (b t : Nat) (vs : List (List Word))
    (htable : laneTable i = some o) (hi : Issues i s b t) (hr : Reads b t o.reads vs s s1) (hexec : exec i s = .next s2) :
    LaneFrame s1 s2 b t (groupOf o.dest (o.value vs).1.length) [] := by
  obtain rfl : _ = s2 := Host.Outcome.next.inj ((laneTable_computes i o htable s s1 b t vs hi hr).symm.trans hexec)
  exact laneFrame_laneDone i o.dest _ _ s1

/-! Operands (08 R213, 12 R288 aside). -/

theorem src_fresh {r : LReg} (hq : isQueue r = false) {w : Word} (h : src b t r s = .ok (w, s1)) : ∃ n, s1 = { s with fresh := n } :=
  readReg_fresh (src_of_not_queue hq ▸ h)

theorem srcN_fresh {r : LReg} {n : Nat} {ws : List Word} (h : srcN b t r n s = .ok (ws, s1)) : ∃ m, s1 = { s with fresh := m } := by
  induction n generalizing ws s1 with
  | zero => exact ⟨s.fresh, (Prod.mk.inj (Except.ok.inj h)).2.symm⟩
  | succ n ih =>
    obtain ⟨us, w, s2, hus, hw, -⟩ := srcN_succ_inv h
    obtain ⟨m, rfl⟩ := ih hus
    obtain ⟨k, rfl⟩ := readReg_fresh hw
    exact ⟨k, rfl⟩

/-- Reading operands, none of them a queue, uses up undefined values at most. -/
theorem reads_fresh {os : List (LReg × Nat)} {vs : List (List Word)} (hq : ∀ e ∈ os, isQueue e.1 = false) (h : Reads b t os vs s s1) :
    ∃ n, s1 = { s with fresh := n } := by
  induction os generalizing vs s with
  | nil => exact ⟨s.fresh, h.2⟩
  | cons o os ih =>
    obtain ⟨r, n⟩ := o
    obtain ⟨ws, s2, rest, hread, hrest, -⟩ := h
    obtain ⟨m, rfl⟩ : ∃ m, s2 = { s with fresh := m } := by
      split_ifs at hread
      · exact src_fresh (hq (r, n) (by simp)) hread.1
      · exact srcN_fresh hread
    obtain ⟨k, rfl⟩ := ih (fun e he => hq e (List.mem_cons_of_mem _ he)) hrest
    exact ⟨k, rfl⟩

/-- Settles O5: a computed row's frame is that of its result and of going on; operands use up undefined values alone. -/
theorem computingInstructionsLeaveTheRestAlone : Obligations.ComputingInstructionsLeaveTheRestAlone :=
  ⟨computingInstructionsLeaveTheRest, predicateInstructionsLeaveTheRestAlone, fun _ _ _ _ _ _ _ _ hq hr => reads_fresh hq hr⟩

end Sys2Proof.Machine
end

section
/-! PROOF. The floating-point instructions, functions and conversions: O2. -/

namespace Sys2Proof.Machine

/-- Settles O2: the arithmetic rows and the rows of functions and conversions, each by the shape of its operands and the number function
of its elements. -/
theorem floatInstructionsWriteResultAndFlags : Obligations.FloatInstructionsWriteResultAndFlags :=
  ⟨floatOp_computes, convertOp_computes⟩

end Sys2Proof.Machine
end

section
/-! PROOF. How a load or store issues (06_memory.md R160, R161; 07_ordering.md R178): what issuing leaves of the state, and the operation
that stands last in flight. -/

namespace Sys2Proof.Machine

open Claims

/-- What preparing an operation for its issue leaves: the number of operations in flight, the serial numbers, memory, and the flags of a
thread. -/
structure IssueKeeps (b t : Nat) (s s' : State) : Prop where
  ops : s'.ops.length = s.ops.length
  seq : s'.seq = s.seq
  mem : s'.mem = s.mem
  flags : ∀ th, s.getThread b t = some th → ∃ th', s'.getThread b t = some th' ∧ th'.flags = th.flags

namespace IssueKeeps

variable {b t : Nat} {s s1 s2 : State}

theorem refl : IssueKeeps b t s s := ⟨rfl, rfl, rfl, fun th h => ⟨th, h, rfl⟩⟩

theorem trans (h : IssueKeeps b t s s1) (g : IssueKeeps b t s1 s2) : IssueKeeps b t s s2 := by
  refine ⟨g.ops.trans h.ops, g.seq.trans h.seq, g.mem.trans h.mem, fun th hth => ?_⟩
  obtain ⟨th1, hth1, hf1⟩ := h.flags th hth
  obtain ⟨th2, hth2, hf2⟩ := g.flags th1 hth1
  exact ⟨th2, hth2, hf2.trans hf1⟩

theorem of_threads (ho : s1.ops.length = s.ops.length) (hs : s1.seq = s.seq) (hm : s1.mem = s.mem)
    (ht : s1.getThread b t = s.getThread b t) : IssueKeeps b t s s1 :=
  ⟨ho, hs, hm, fun th h => ⟨th, ht.trans h, rfl⟩⟩

theorem modThread {f : Thread → Thread} (hf : ∀ th, (f th).flags = th.flags) (c u : Nat) : IssueKeeps b t s (s.modThread c u f) := by
  refine ⟨by simp, by simp, by simp, fun th h => ?_⟩
  by_cases hc : b = c ∧ t = u
  · obtain ⟨rfl, rfl⟩ := hc
    exact ⟨_, State.getThread_modThread_self h f, hf th⟩
  · exact ⟨th, (State.getThread_modThread_other s hc f).trans h, rfl⟩

theorem modBlock {f : Block → Block} (hf : ∀ x, (f x).threads = x.threads) (c : Nat) : IssueKeeps b t s (s.modBlock c f) :=
  of_threads (by simp) (by simp) (by simp) (getThread_modBlock_of_threads s c hf b t)

theorem foldl {α : Type} {f : State → α → State} (hf : ∀ s a, IssueKeeps b t s (f s a)) (l : List α) (s : State) :
    IssueKeeps b t s (l.foldl f s) :=
  List.foldlRecOn (motive := IssueKeeps b t s) l f .refl fun s' h a _ => h.trans (hf s' a)

end IssueKeeps

section Preparing

variable {b t : Nat} (s : State)

theorem issueKeeps_clobber (c u : Nat) (r : LReg) : IssueKeeps b t s (s.clobber c u r) := by
  have hops : (s.marked c u r).ops.length = s.ops.length := List.length_map _
  obtain h | ⟨k, f, h, -⟩ := clobber_cases s c u r <;> rw [h]
  · exact .of_threads hops rfl rfl rfl
  · exact .of_threads hops rfl rfl rfl

theorem issueKeeps_oxAbandon (c : Nat) : IssueKeeps b t s (s.oxAbandon c) := by
  unfold State.oxAbandon
  split
  · refine .modBlock (fun _ => ?_) c
    rfl
  · exact .refl

theorem issueKeeps_poisonPad (core off : Nat) : IssueKeeps b t s (s.poisonPad core off) := by
  unfold State.poisonPad
  dsimp only
  split
  · exact .of_threads rfl rfl rfl rfl
  · exact .refl

theorem issueKeeps_poisonTgts (ts : List Tgt) : IssueKeeps b t s (s.poisonTgts ts) := by
  refine .foldl (fun s u => ?_) ts s
  split
  · exact issueKeeps_poisonPad s _ _
  · exact .refl

theorem issueKeeps_issueStore (o : MemOp) : IssueKeeps b t s (s.issueStore o).1 := by
  unfold State.issueStore
  dsimp only
  refine .trans (s1 := if _ then _ else s) ?_ (.foldl (fun s u => .modThread (fun _ => ?_) o.blk u) o.tids _)
  · split
    · refine .modBlock (fun _ => ?_) o.blk
      rfl
    · exact .refl
  · rfl

theorem issueStore_snd {o : MemOp} (h : (s.block o.blk).oxbow = none) : (s.issueStore o).2 = o := by
  simp [State.issueStore, Block.isCopy, h]

end Preparing

/-! Oxbow runs (18_errors.md R430): which block is in one. -/

/-- Every block is in the Oxbow run it was in, if any. -/
def SameRuns (s s' : State) : Prop := ∀ c, (s'.block c).oxbow = (s.block c).oxbow

namespace SameRuns

variable {s s1 s2 : State}

theorem refl : SameRuns s s := fun _ => rfl

theorem trans (h : SameRuns s s1) (g : SameRuns s1 s2) : SameRuns s s2 := fun c => (g c).trans (h c)

theorem of_blocks (h : s1.blocks = s.blocks) : SameRuns s s1 := fun c => by rw [block_of_blocks h]

theorem modBlock {f : Block → Block} (hf : ∀ x, (f x).oxbow = x.oxbow) (b : Nat) : SameRuns s (s.modBlock b f) := by
  intro c
  by_cases hc : c = b
  · subst hc
    cases hx : s.getBlock c with
    | none => rw [State.modBlock_none hx]
    | some x => rw [State.block_modBlock_self hx, hf, State.block_of_get hx]
  · rw [State.block_modBlock_other s hc]

theorem modThread (b t : Nat) (f : Thread → Thread) : SameRuns s (s.modThread b t f) :=
  fun c => block_modThread_field (·.oxbow) (fun _ => rfl) s b t f c

theorem foldl {α : Type} {f : State → α → State} (hf : ∀ s a, SameRuns s (f s a)) (l : List α) (s : State) : SameRuns s (l.foldl f s) :=
  List.foldlRecOn (motive := SameRuns s) l f .refl fun s' h a _ => h.trans (hf s' a)

end SameRuns

section Runs

variable (s : State)

theorem sameRuns_clobber (b t : Nat) (r : LReg) : SameRuns s (s.clobber b t r) := by
  obtain h | ⟨k, f, h, -⟩ := clobber_cases s b t r <;> rw [h] <;> exact .of_blocks rfl

theorem sameRuns_oxAbandon (b : Nat) : SameRuns s (s.oxAbandon b) := by
  unfold State.oxAbandon
  split
  · exact .modBlock (by intro; rfl) b
  · exact .refl

theorem oxAbandon_of_none {b : Nat} (h : (s.block b).oxbow = none) : s.oxAbandon b = s := by simp [State.oxAbandon, h]

theorem sameRuns_poisonTgts (ts : List Tgt) : SameRuns s (s.poisonTgts ts) := by
  refine .foldl (fun s u => ?_) ts s
  split
  · refine .of_blocks ?_
    unfold State.poisonPad
    dsimp only
    split <;> rfl
  · exact .refl

theorem sameRuns_issueStore (o : MemOp) : SameRuns s (s.issueStore o).1 := by
  unfold State.issueStore
  dsimp only
  refine .trans (s1 := if _ then _ else s) ?_ (.foldl (fun s u => .modThread o.blk u _) o.tids _)
  split
  · exact .modBlock (by intro; rfl) o.blk
  · exact .refl

end Runs

/-- Is an operation performed as it issues: a byte of it lies in the on-chip map, and none on another device (01_machine.md R30)? -/
def State.issuesOnChip (s : State) (o : MemOp) : Bool :=
  o.tgts.any (s.onChip o.blk) && !o.tgts.any fun t => match t with | .ford _ _ _ => true | _ => false

/-- What every operation does as it issues: it counts its flag, overwrites its destination, and ends a comparison that its target ends. -/
def State.claimed (s : State) (o : MemOp) : State :=
  let s1 := s.countFlag o.blk o.tids o.uniform o.flag
  let s2 : State := match o.dst with
    | .lane r n => o.tids.foldl (fun (s : State) t => (List.range n).foldl (fun (s : State) i => s.clobber o.blk t (r.plus i)) s) s1
    | _ => s1
  if o.tgts.any (fun t => match t with | .ford _ _ _ => true | _ => false) then s2.oxAbandon o.blk else s2

/-- The state in which an operation takes its serial number, and the operation as it then stands. -/
def State.readied (s : State) (o : MemOp) : State × MemOp :=
  let s1 := match o.kind with | .load _ | .fe => s.claimed o | _ => (s.claimed o).poisonTgts o.tgts
  match o.kind with
  | .store | .fill => s1.issueStore o
  | .load _ | .fe => (s1, o)
  | _ => (s1.markWrites o.blk o.tids s1.seq (s1.seq + 1), o)

section Kinds

variable {s : State} {o : MemOp}

theorem readied_load (h : o.isLoad = true) : s.readied o = (s.claimed o, o) := by
  unfold MemOp.isLoad at h
  split at h
  · rename_i hk
    simp only [State.readied, hk]
  · cases h

theorem readied_fe (h : o.kind = .fe) : s.readied o = (s.claimed o, o) := by simp only [State.readied, h]

theorem readied_store (h : o.kind = .store ∨ o.kind = .fill) : s.readied o = ((s.claimed o).poisonTgts o.tgts).issueStore o := by
  obtain h | h := h <;> simp only [State.readied, h]

end Kinds

/-- The operation as it goes into flight. -/
def State.numbered (s : State) (o : MemOp) : MemOp := { (s.readied o).2 with id := (s.readied o).1.seq }

/-- The state with the operation in flight. -/
def State.issued (s : State) (o : MemOp) : State :=
  let s1 := (s.readied o).1
  { s1 with ops := s1.ops ++ [s.numbered o], seq := s1.seq + 1 }

/-- What the issue of an operation can do. -/
theorem issue_eq (o : MemOp) (s : State) : issue o s =
    if !o.isLoad && o.kind != .fe && o.tids.any (fun t => (s.thread o.blk t).twinBad) then .error (.trap .pairMis o.ea 0)
    else match (if s.issuesOnChip o then s.chipWait { o with id := s.seq } else none) with
      | some w => .error (.stall w)
      | none => .ok ((), if s.issuesOnChip o then (s.issued o).performOp (s.numbered o) [] else s.issued o) := rfl

section Issue

variable {s : State} {o : MemOp} {t : Nat}
  (htids : o.tids = [t]) (htwin : o.isLoad = true ∨ o.kind = .fe ∨ (s.thread o.blk t).twinBad = false)
include htids htwin

theorem twinsAgree : (!o.isLoad && o.kind != .fe && o.tids.any fun t => (s.thread o.blk t).twinBad) = false := by
  obtain h | h | h := htwin <;> simp [h, htids]

theorem issue_inFlight (hc : s.issuesOnChip o = false) : issue o s = .ok ((), s.issued o) := by
  simp [issue_eq, twinsAgree htids htwin, hc]

theorem issue_onChip (hc : s.issuesOnChip o = true) (hw : s.chipWait { o with id := s.seq } = none) :
    issue o s = .ok ((), (s.issued o).performOp (s.numbered o) []) := by
  simp [issue_eq, twinsAgree htids htwin, hc, hw]

theorem issue_waits {w : Wait} (hc : s.issuesOnChip o = true) (hw : s.chipWait { o with id := s.seq } = some w) :
    issue o s = .error (.stall w) := by
  simp [issue_eq, twinsAgree htids htwin, hc, hw]

end Issue

/-- Plain loads and stores, and the data of an LD.FE: what the instructions of 06_memory.md issue for one thread. The operation of a store
is not changed as it issues, outside an Oxbow run (18_errors.md R430). -/
structure PlainIssue (s : State) (o : MemOp) (b t : Nat) : Prop where
  blk : o.blk = b
  tids : o.tids = [t]
  lane : o.uniform = false
  kind : o.isLoad = true ∨ o.kind = .fe ∨ ((o.kind = .store ∨ o.kind = .fill) ∧ (s.block b).oxbow = none)

section Plain

variable {s : State} {o : MemOp} {b t : Nat} (h : PlainIssue s o b t)
include h

theorem claimed_keeps : IssueKeeps b t (s.countFlag b [t] false o.flag) (s.claimed o) := by
  obtain ⟨rfl, htids, hlane, -⟩ := h
  have hdst (s1 : State) : IssueKeeps o.blk t s1 (match o.dst with
      | .lane r n => o.tids.foldl (fun (s : State) t => (List.range n).foldl (fun (s : State) i => s.clobber o.blk t (r.plus i)) s) s1
      | _ => s1) := by
    split
    · exact .foldl (fun s u => .foldl (fun s i => issueKeeps_clobber s o.blk u _) _ s) _ s1
    · exact .refl
  rw [State.claimed, ← htids, ← hlane]
  split
  · exact (hdst _).trans (issueKeeps_oxAbandon _ o.blk)
  · exact hdst _

omit h in
theorem sameRuns_claimed (s : State) (htids : o.tids = [t]) (hlane : o.uniform = false) : SameRuns s (s.claimed o) := by
  have hcount : SameRuns s (s.countFlag o.blk o.tids o.uniform o.flag) := by
    rw [htids, hlane]
    unfold State.countFlag
    split
    · exact .refl
    · exact .modThread o.blk t _
  have hdst (s1 : State) : SameRuns s1 (match o.dst with
      | .lane r n => o.tids.foldl (fun (s : State) t => (List.range n).foldl (fun (s : State) i => s.clobber o.blk t (r.plus i)) s) s1
      | _ => s1) := by
    split
    · exact .foldl (fun s u => .foldl (fun s i => sameRuns_clobber s o.blk u _) _ s) _ s1
    · exact .refl
  unfold State.claimed
  dsimp only
  split
  · exact (hcount.trans (hdst _)).trans (sameRuns_oxAbandon _ o.blk)
  · exact hcount.trans (hdst _)

/-- Preparing an operation counts its flag and keeps the rest; the operation stays as it is. -/
theorem readied_keeps : IssueKeeps b t (s.countFlag b [t] false o.flag) (s.readied o).1 ∧ (s.readied o).2 = o := by
  have hclaim := claimed_keeps h
  obtain hl | hf | ⟨hk, hox⟩ := h.kind
  · rw [readied_load hl]
    exact ⟨hclaim, rfl⟩
  · rw [readied_fe hf]
    exact ⟨hclaim, rfl⟩
  · have hruns := (sameRuns_claimed s h.tids h.lane).trans (sameRuns_poisonTgts (s.claimed o) o.tgts)
    rw [readied_store hk]
    refine ⟨(hclaim.trans (issueKeeps_poisonTgts _ _)).trans (issueKeeps_issueStore _ o), issueStore_snd _ ?_⟩
    rw [hruns o.blk, h.blk, hox]

/-- Issuing leaves every block in its Oxbow run. -/
theorem sameRuns_issued : SameRuns s (s.issued o) := by
  have hclaim := sameRuns_claimed s h.tids h.lane
  have hpoison := hclaim.trans (sameRuns_poisonTgts (s.claimed o) o.tgts)
  suffices hready : SameRuns s (s.readied o).1 from hready.trans (.of_blocks rfl)
  obtain hl | hf | ⟨hk, -⟩ := h.kind
  · rw [readied_load hl]
    exact hclaim
  · rw [readied_fe hf]
    exact hclaim
  · rw [readied_store hk]
    exact hpoison.trans (sameRuns_issueStore _ o)

theorem numbered_eq : s.numbered o = { o with id := s.seq } := by
  obtain ⟨hkeeps, hsame⟩ := readied_keeps h
  have hseq : (s.countFlag b [t] false o.flag).seq = s.seq := by
    unfold State.countFlag
    split <;> simp
  rw [State.numbered, hsame, hkeeps.seq, hseq]

/-- An operation that has been issued stands last in flight, its flag counted. -/
theorem issued_last {th : Thread} (hth : s.getThread b t = some th) : IssuedLast o b t s (s.issued o) := by
  obtain ⟨hkeeps, -⟩ := readied_keeps h
  have hcount : (s.countFlag b [t] false o.flag).ops = s.ops ∧ (s.countFlag b [t] false o.flag).seq = s.seq ∧
      (s.countFlag b [t] false o.flag).mem = s.mem := by
    unfold State.countFlag
    split <;> simp
  obtain ⟨hops, hseq, hmem⟩ := hcount
  refine ⟨?_, ?_, congrArg (· + 1) (hkeeps.seq.trans hseq), sameMemory_of_mem_eq (hkeeps.mem.trans hmem), fun f hf => ?_⟩
  · rw [State.issued, List.getLast?_append]
    simp [numbered_eq h]
  · simp [State.issued, hkeeps.ops, hops]
  · rw [hf] at hkeeps
    obtain ⟨th', hth', hflags⟩ := hkeeps.flags _ (State.getThread_modThread_self hth fun th => th.setFlag f (th.flag f + 1))
    have hlast : (s.issued o).thread b t = th' := State.thread_of_get hth'
    rw [hlast, State.thread_of_get hth, Thread.flag, hflags]
    exact Thread.flag_setFlag_self th f _

end Plain

/-! How an instruction ends that issues one operation (02_encoding.md R45; 01_machine.md R24, R30). -/

/-- An instruction that reads its operands and issues one operation ends as `IssueEnds` says, where what it does besides, `f`, changes
nothing. -/
theorem issueEnds_of {i : Instr} {o : MemOp} {s s1 : State} {b t : Nat} {th : Thread} {f : State → State} (h : PlainIssue s1 o b t)
    (hth : s1.getThread b t = some th) (htwin : o.isLoad = true ∨ th.twinBad = false)
    (hok : ∀ s', issue o s1 = .ok ((), s') → exec i s = .next ((f s').retire b t (wordsOf i) .fall))
    (hstop : ∀ st, issue o s1 = .error st → exec i s = .next (s.stopAt b t st))
    (hf : f (s1.issued o) = s1.issued o)
    (hperf : (∀ u ∈ o.tgts, ∀ g m k, u ≠ .ford g m k) → f ((s1.issued o).performOp { o with id := s1.seq } []) =
      (s1.issued o).performOp { o with id := s1.seq } []) : IssueEnds i o b t s s1 := by
  have htwins : o.isLoad = true ∨ o.kind = .fe ∨ (s1.thread o.blk t).twinBad = false := by
    rw [h.blk, State.thread_of_get hth]
    tauto
  have hlast := issued_last h hth
  refine ⟨fun hout => ?_, fun hon hford => ?_⟩
  · have hc : s1.issuesOnChip o = false := by
      rw [State.issuesOnChip, h.blk, List.any_eq_false.2 fun u hu => by simp [hout u hu]]
      rfl
    exact ⟨_, hf ▸ hok _ (issue_inFlight h.tids htwins hc), hlast⟩
  · have hc : s1.issuesOnChip o = true := by
      have hno : (o.tgts.any fun t => match t with | .ford _ _ _ => true | _ => false) = false := by
        refine List.any_eq_false.2 fun u hu => ?_
        cases u with
        | ford g m k => exact absurd rfl (hford _ hu g m k)
        | _ => exact Bool.false_ne_true
      rw [State.issuesOnChip, h.blk, hno, List.any_eq_true.2 hon]
      rfl
    refine ⟨fun hw => ?_, fun w hw => hstop _ (issue_waits h.tids htwins hc hw)⟩
    have hrun := hok _ (issue_onChip h.tids htwins hc hw)
    rw [numbered_eq h, hperf hford] at hrun
    exact ⟨_, hrun, hlast⟩

end Sys2Proof.Machine
end

section
/-! PROOF. The bodies of loads and stores (06_memory.md R157 to R165): what they read, check and issue. -/

namespace Sys2Proof.Machine

open Claims

section Bodies

variable {i : Instr} {d a : LReg} {off : BitVec 5} {unit n align : Nat} {s s1 s2 s3 : State} {b t : Nat} {base : DWord}

theorem laneAddr_run (h : src2 b t a s = .ok (base, s1)) :
    laneAddr b t a off unit s = .ok (base + BitVec.ofInt 64 (off.toInt * unit), s1) := by
  rw [laneAddr, bind_ok h]
  rfl

section Load

variable {signed nol1 : Bool} {ts : List Tgt} (h : src2 b t a s = .ok (base, s1))
include h

theorem loadBody_run (hc : checkAccess b [t] (accessOf .read false align (base + BitVec.ofInt 64 (off.toInt * unit)) n) s1 = .ok (ts, s2)) :
    loadBody i d a off unit n align signed nol1 b t s =
      issue { laneOp s2 b t (.load signed) (base + BitVec.ofInt 64 (off.toInt * unit)) ts (flagOf i s2 b t) with
        dst := .lane d ((n + 3) / 4), nol1 } s2 := by
  rw [loadBody, bind_ok (laneAddr_run h)]
  exact bind_ok hc

theorem loadBody_stops {st : Stop}
    (hc : checkAccess b [t] (accessOf .read false align (base + BitVec.ofInt 64 (off.toInt * unit)) n) s1 = .error st) :
    loadBody i d a off unit n align signed nol1 b t s = .error st := by
  rw [loadBody, bind_ok (laneAddr_run h)]
  exact bind_error hc

end Load

theorem storeData_run {bs : List Byte} (h : ReadsData b t d n bs s s1) : storeData b t d n s = .ok (bs, s1) := by
  unfold ReadsData at h
  unfold storeData
  split_ifs at h ⊢
  · obtain ⟨w, hw, rfl⟩ := h
    exact bind_ok hw
  · obtain ⟨ws, hws, rfl⟩ := h
    exact bind_ok hws

section Store

variable {kind : OpKind} {nol1 : Bool} {bs : List Byte} {ts : List Tgt} (h : src2 b t a s = .ok (base, s1)) (hd : ReadsData b t d n bs s1 s2)
include h hd

theorem storeBody_run (hc : checkAccess b [t] (accessOf .write (kind == .fill) n (base + BitVec.ofInt 64 (off.toInt * n)) n) s2 = .ok (ts, s3)) :
    storeBody i d a off n kind nol1 b t s =
      issue { laneOp s3 b t kind (base + BitVec.ofInt 64 (off.toInt * n)) ts (flagOf i s3 b t) with data := bs, nol1 } s3 := by
  rw [storeBody, bind_ok (laneAddr_run h), bind_ok (storeData_run hd)]
  exact bind_ok hc

theorem storeBody_stops {st : Stop}
    (hc : checkAccess b [t] (accessOf .write (kind == .fill) n (base + BitVec.ofInt 64 (off.toInt * n)) n) s2 = .error st) :
    storeBody i d a off n kind nol1 b t s = .error st := by
  rw [storeBody, bind_ok (laneAddr_run h), bind_ok (storeData_run hd)]
  exact bind_error hc

end Store

end Bodies

/-- How a load of a form runs. -/
structure LoadRuns (i : Instr) (F : LoadForm) : Prop where
  runs : ∃ (off : BitVec 5) (unit : Nat), F.off = off.toInt * unit ∧
    ∀ s, exec i s = laneExec i (laneFall (loadBody i F.dest F.addr off unit F.bytes F.align F.signed F.nol1)) s
  inside : outbound i = false
  bytes : 0 < F.bytes

theorem loadRuns_of_form {i : Instr} {F : LoadForm} (h : loadForm i = some F) : LoadRuns i F := by
  cases i with
  | ldW8 d a off f k | ldI8 d a off f k | ldW16 d a off f k | ldI16 d a off f k | ldW32 d a off f k | ldW64 d a off f k
  | ldW128 d a off f k | ldxW32 d a off f | ldxW64 d a off f =>
    obtain rfl : _ = F := Option.some.inj h
    exact ⟨⟨off, _, by simp [Int.mul_comm], fun _ => rfl⟩, rfl, Nat.succ_pos _⟩
  | _ => nomatch h

theorem laneExec_halts {i : Instr} {body : Nat → Nat → M Unit} {s : State} {b t : Nat} {st : Stop} (h : Issues i s b t)
    (hb : body b t s = .error st) : laneExec i (laneFall body) s = .next (s.stopAt b t st) := by
  obtain ⟨hcur, hcheck, -⟩ := h
  exact laneExec_stop hcur hcheck (laneFall_error hb)

/-- The kind of a store's operation, and what the instruction does once it has issued: ST.FILL ends a comparison of an Oxbow run
(18_errors.md R430). -/
def storeKind (fill : Bool) : OpKind := if fill then .fill else .store
def storeAfter (fill : Bool) (b : Nat) (s : State) : State := if fill then s.oxAbandon b else s

theorem storeKind_fill (fill : Bool) : (storeKind fill == .fill) = fill := by cases fill <;> rfl

/-- How a store of a form runs, with its offset in words of its size. -/
structure StoreRuns (i : Instr) (F : StoreForm) (off : BitVec 5) : Prop where
  off_eq : F.off = off.toInt * F.bytes
  bytes : 0 < F.bytes
  retires : ∀ s s' b t, Issues i s b t → storeBody i F.source F.addr off F.bytes (storeKind F.fill) F.nol1 b t s = .ok ((), s') →
    exec i s = .next ((storeAfter F.fill b s').retire b t (wordsOf i) .fall)
  stops : ∀ s b t st, Issues i s b t → storeBody i F.source F.addr off F.bytes (storeKind F.fill) F.nol1 b t s = .error st →
    exec i s = .next (s.stopAt b t st)

theorem storeRuns_of_form {i : Instr} {F : StoreForm} (h : storeForm i = some F) : ∃ off, StoreRuns i F off := by
  cases i with
  | stW8 d a off f k | stW16 d a off f k | stW32 d a off f k | stW64 d a off f k | stW128 d a off f k =>
    obtain rfl : _ = F := Option.some.inj h
    exact ⟨off, by simp [Int.mul_comm], Nat.succ_pos _, fun s s' b t hi hb => laneExec_fall hi rfl hb,
      fun s b t st hi hb => laneExec_halts hi hb⟩
  | stFill d a off f k =>
    obtain rfl : _ = F := Option.some.inj h
    exact ⟨off, by simp [Int.mul_comm], Nat.succ_pos _, fun s s' b t hi hb => laneExec_fall hi rfl (bind_ok hb),
      fun s b t st hi hb => laneExec_halts hi (bind_error hb)⟩
  | _ => nomatch h

end Sys2Proof.Machine
end

section
/-! PROOF. Performing an ST.FILL (06_memory.md R165) leaves every block in its Oxbow run (18_errors.md R430). -/

namespace Sys2Proof.Machine

variable (s : State)

theorem wr8_blocks (pa : Nat) (v : Byte) : (s.wr8 pa v).blocks = s.blocks := by
  unfold State.wr8
  split <;> rfl

theorem setHomeByte_blocks (pa : Nat) (key : Option Nat) (v : Byte) : (s.setHomeByte pa key v).blocks = s.blocks := by
  unfold State.setHomeByte
  split
  · exact wr8_blocks s pa v
  · exact wrRaw_blocks s _ _

theorem wrNat_blocks (pa n v : Nat) : (s.wrNat pa n v).blocks = s.blocks := wrRaw_blocks s pa (leBytes n v)

theorem sameRuns_setTgt (u : Tgt) (v : Byte) : SameRuns s (s.setTgt u v) := by
  unfold State.setTgt
  split
  · exact .of_blocks (setHomeByte_blocks s _ _ v)
  · exact .of_blocks rfl
  · dsimp only
    split
    · unfold State.setLineWordIn
      split
      · exact .modThread _ _ _
      · exact .modBlock (by intro; rfl) _
    · exact .of_blocks (wrRaw_blocks s _ _)
  · exact .refl

theorem sameRuns_setPadByte (core off : Nat) (v : Byte) : SameRuns s (s.setPadByte core off v) := by
  have hset := sameRuns_setTgt s (.sp core off) v
  unfold State.setPadByte
  split
  · exact hset
  · split
    · exact hset.trans (.modBlock (by intro; rfl) _)
    · exact hset

theorem sameRuns_performByte (core : Nat) (nol1 seen : Bool) (u : Tgt) (v : Byte) : SameRuns s (s.performByte core nol1 seen u v) := by
  unfold State.performByte
  split
  · rename_i pa key
    split
    · exact .of_blocks rfl
    · have hset := setHomeByte_blocks s pa key v
      dsimp only
      split
      · exact .of_blocks hset
      · split
        · exact .of_blocks hset
        · split
          · refine .of_blocks ?_
            unfold State.l1Room
            split <;> exact hset
          · exact .of_blocks hset
  · exact sameRuns_setPadByte s _ _ v
  · exact sameRuns_setTgt s _ v

theorem sameRuns_setFull (u : Tgt) (f : Bool) : SameRuns s (s.setFull u f) := by
  cases u with
  | sp core off =>
    simp only [State.setFull, Tgt.granKey]
    split
    · exact .trans (.of_blocks rfl) (.modBlock (by intro; rfl) _)
    · exact .of_blocks rfl
  | win blk row line byte => exact .trans (.of_blocks rfl) (.modBlock (by intro; rfl) _)
  | _ => exact .refl

theorem sameRuns_observe (b : Nat) (tids obs : List Nat) : SameRuns s (s.observe b tids obs) := by
  unfold State.observe
  split
  · exact .refl
  · exact .foldl (fun s t => .modThread b t _) tids s

theorem sameRuns_cumulate (o : MemOp) (obs : List Nat) : SameRuns s (s.cumulate o obs) := by
  unfold State.cumulate
  dsimp only
  split <;> exact .of_blocks rfl

theorem sameRuns_finishFlag (b : Nat) (tids : List Nat) (uniform : Bool) (f : Option Nat) : SameRuns s (s.finishFlag b tids uniform f) := by
  unfold State.finishFlag
  split
  · exact .refl
  · dsimp only
    generalize hs1 : (if uniform then s.completeAll b _ else _) = s1
    have h1 : SameRuns s s1 := by
      rw [← hs1]
      split
      · exact .modBlock (by intro; rfl) b
      · exact .foldl (fun s t => .modThread b t _) tids s
    split
    · refine h1.trans (.foldl (fun s t => ?_) _ s1)
      unfold State.syncFlags
      dsimp only
      split
      · exact .of_blocks (wrNat_blocks s _ _ _)
      · exact .refl
    · exact h1

section OnDevice

variable {o : MemOp} (hf : ∀ u ∈ o.tgts, ∀ g m k, u ≠ .ford g m k)
include hf

theorem sendRemote_onDevice : s.sendRemote o = s := by
  unfold State.sendRemote
  dsimp only
  rw [List.filterMap_eq_nil_iff.2]
  · rfl
  · intro e he
    split
    · exact absurd ‹_› (hf _ (List.fst_mem_of_mem_zipIdx he) _ _ _)
    · rfl

theorem hearReply_onDevice : s.hearReply o = s := by
  unfold State.hearReply
  dsimp only
  rw [List.findSome?_eq_none_iff.2]
  · rfl
  · intro u hu
    split
    · exact absurd rfl (hf _ hu _ _ _)
    · rfl

/-- The operation of an ST.FILL. -/
theorem sameRuns_performOp_fill (hk : o.kind = .fill) (hr : o.rel = false) (reply : List Byte) : SameRuns s (s.performOp o reply) := by
  have hpin : s.pinFor o = s := by
    unfold State.pinFor
    split
    · simp [MemOp.wantsPin, hk]
    · rfl
  have hbytes : SameRuns s (s.performBytes o o.data) :=
    .trans (s1 := s.oweTgts o.id o.tgts) (.of_blocks rfl) (.foldl (fun s e => sameRuns_performByte s _ _ _ _ _) _ _)
  have hfull (s : State) : SameRuns s (match o.tgts with | t :: _ => s.setFull t true | [] => s) := by
    split
    · exact sameRuns_setFull s _ true
    · exact .refl
  have hstore : s.performOp o reply = s.performStore o := by
    simp only [State.performOp, hearReply_onDevice s hf, hk]
  simp only [hstore, State.performStore, State.endForRelease, hr, Bool.false_and, Bool.false_eq_true, if_false, sendRemote_onDevice s hf, hpin, hk]
  exact (((hbytes.trans (hfull _)).trans ((sameRuns_observe _ _ _ _).trans (sameRuns_cumulate _ o _))).trans
    (sameRuns_finishFlag _ _ _ _ _)).trans (.of_blocks rfl)

end OnDevice

end Sys2Proof.Machine
end

section
/-! PROOF. Loads and stores issue one operation: O13. -/

namespace Sys2Proof.Machine

open Claims

/-- Of the parts of O13: a load. -/
theorem loadsIssueOneOperation : LoadsIssueOneOperation := by
  intro i F s s1 s2 b t base ts th hF hi ha hc hth
  obtain ⟨⟨off, unit, hoff, hrun⟩, hin, -⟩ := loadRuns_of_form hF
  rw [hoff] at hc ⊢
  have hbody := loadBody_run (i := i) (d := F.dest) (signed := F.signed) (nol1 := F.nol1) ha hc
  refine issueEnds_of (f := id) ⟨rfl, rfl, rfl, .inl rfl⟩ hth (.inl rfl) (fun s' hs' => ?_) (fun st hst => ?_) rfl fun _ => rfl
  · exact (hrun s).trans (laneExec_fall hi hin (hbody.trans hs'))
  · exact (hrun s).trans (laneExec_halts hi (hbody.trans hst))

theorem storeKind_cases (fill : Bool) : storeKind fill = .store ∨ storeKind fill = .fill := by cases fill <;> simp [storeKind]

/-- ST.FILL ends no comparison where there is none (18_errors.md R430). -/
theorem storeAfter_of_none {s : State} {b : Nat} (h : (s.block b).oxbow = none) (fill : Bool) : storeAfter fill b s = s := by
  cases fill
  exacts [rfl, oxAbandon_of_none s h]

theorem storeAfter_performOp {s : State} {o : MemOp} {b : Nat} {fill : Bool} (hk : o.kind = storeKind fill) (hr : o.rel = false)
    (hf : ∀ u ∈ o.tgts, ∀ g m k, u ≠ .ford g m k) (h : (s.block b).oxbow = none) (reply : List Byte) :
    storeAfter fill b (s.performOp o reply) = s.performOp o reply := by
  cases fill
  · rfl
  · exact storeAfter_of_none ((sameRuns_performOp_fill s hf hk hr reply b).trans h) true

theorem storeOp_plain {s : State} {b t : Nat} (h : (s.block b).oxbow = none) (fill nol1 : Bool) (ea : DWord) (ts : List Tgt)
    (flag : Option Nat) (data : List Byte) : PlainIssue s { laneOp s b t (storeKind fill) ea ts flag with data, nol1 } b t :=
  ⟨rfl, rfl, rfl, .inr (.inr ⟨storeKind_cases fill, h⟩)⟩

/-- Of the parts of O13: a store. -/
theorem storeIssuesOneOperation {i : Instr} {F : StoreForm} {s s1 s2 s3 : State} {b t : Nat} {base : DWord} {bs : List Byte} {ts : List Tgt}
    {th : Thread} (hF : storeForm i = some F) (hi : Issues i s b t) (ha : src2 b t F.addr s = .ok (base, s1))
    (hd : ReadsData b t F.source F.bytes bs s1 s2)
    (hc : checkAccess b [t] (accessOf .write F.fill F.bytes (base + BitVec.ofInt 64 F.off) F.bytes) s2 = .ok (ts, s3))
    (hth : s3.getThread b t = some th) (htwin : th.twinBad = false) (hox : (s3.block b).oxbow = none) :
    IssueEnds i { laneOp s3 b t (storeKind F.fill) (base + BitVec.ofInt 64 F.off) ts (flagOf i s3 b t) with data := bs, nol1 := F.nol1 }
      b t s s3 := by
  obtain ⟨off, hoff, -, hretires, hstops⟩ := storeRuns_of_form hF
  rw [hoff] at hc ⊢
  have hbody := storeBody_run (i := i) (kind := storeKind F.fill) (nol1 := F.nol1) ha hd (by rw [storeKind_fill]; exact hc)
  have hplain := storeOp_plain (t := t) hox F.fill F.nol1 (base + BitVec.ofInt 64 (off.toInt * F.bytes)) ts (flagOf i s3 b t) bs
  have hrun := (sameRuns_issued hplain b).trans hox
  refine issueEnds_of (f := storeAfter F.fill b) hplain hth (.inr htwin) (fun s' hs' => hretires s s' b t hi (hbody.trans hs'))
    (fun st hst => hstops s b t st hi (hbody.trans hst)) (storeAfter_of_none hrun F.fill) fun hford => ?_
  refine storeAfter_performOp ?_ ?_ ?_ hrun []
  · rfl
  · rfl
  · exact hford

/-- Bytes a mask selects (06_memory.md R163). -/
def selected (mk : Word) : List Nat := (List.range 16).filter fun k => mk.getLsbD k

theorem selected_eq_nil {mk : Word} : selected mk = [] ↔ mk.toNat % 65536 = 0 := by
  have hbits : mk.toNat % 2 ^ 16 = 0 ↔ ∀ k, k < 16 → mk.getLsbD k = false := by
    refine ⟨fun h k hk => ?_, fun h => Nat.eq_of_testBit_eq fun k => ?_⟩
    · have hbit := Nat.testBit_mod_two_pow mk.toNat 16 k
      rw [h] at hbit
      simpa [hk, ← BitVec.testBit_toNat] using hbit.symm
    · rw [Nat.testBit_mod_two_pow, Nat.zero_testBit]
      by_cases hk : k < 16
      · simpa [hk, ← BitVec.testBit_toNat] using h k hk
      · simp [hk]
  rw [show (65536 : Nat) = 2 ^ 16 from rfl, hbits]
  simp [selected, List.filter_eq_nil_iff]

/-- The body of STM. -/
def stmBody (d a m : LReg) (b t : Nat) : M Unit := do
  let ea ← src2 b t a
  let mk ← src b t m
  let data ← storeData b t d 16
  if !(selected mk).isEmpty then
    let tgts ← checkAccess b [t] { kind := .write, fe := false, align := 1, eas := (selected mk).map fun k => ea + w64 k }
    let s ← getS
    issue { MemOp.mk' b (s.block b).padCore [t] .store ea tgts with
      flag := flagOf (.stm d a m) s b t, data := (selected mk).map fun k => data.getD k 0 }

theorem exec_stm (d a m : LReg) (s : State) : exec (.stm d a m) s = laneExec (.stm d a m) (laneFall (stmBody d a m)) s := rfl

section Masked

variable {d a m : LReg} {s s1 s2 s3 s4 : State} {b t : Nat} {base : DWord} {mk : Word} {bs : List Byte} {ts : List Tgt} {th : Thread}
  (ha : src2 b t a s = .ok (base, s1)) (hm : src b t m s1 = .ok (mk, s2)) (hd : ReadsData b t d 16 bs s2 s3)
include ha hm hd

theorem stmBody_empty (h : selected mk = []) : stmBody d a m b t s = .ok ((), s3) := by
  rw [stmBody, bind_ok ha, bind_ok hm, bind_ok (storeData_run hd), h]
  rfl

theorem stmBody_run (h : selected mk ≠ [])
    (hc : checkAccess b [t] { kind := .write, fe := false, align := 1, eas := (selected mk).map fun k => base + BitVec.ofNat 64 k } s3 =
      .ok (ts, s4)) :
    stmBody d a m b t s = issue { laneOp s4 b t .store base ts (flagOf (.stm d a m) s4 b t) with
      data := (selected mk).map fun k => bs.getD k 0 } s4 := by
  have hne : (!(selected mk).isEmpty) = true := by simpa using h
  rw [stmBody, bind_ok ha, bind_ok hm, bind_ok (storeData_run hd), if_pos hne]
  exact bind_ok hc

/-- Of the parts of O13: a store under a mask. -/
theorem maskedStoreIssuesOneOperation (hi : Issues (.stm d a m) s b t) :
    (mk.toNat % 65536 = 0 → exec (.stm d a m) s = .next (s3.retire b t 1 .fall)) ∧
    (mk.toNat % 65536 ≠ 0 →
      checkAccess b [t] { kind := .write, fe := false, align := 1, eas := (selected mk).map fun k => base + BitVec.ofNat 64 k } s3 =
        .ok (ts, s4) →
      s4.getThread b t = some th → th.twinBad = false → (s4.block b).oxbow = none →
      IssueEnds (.stm d a m) { laneOp s4 b t .store base ts (flagOf (.stm d a m) s4 b t) with
        data := (selected mk).map fun k => bs.getD k 0 } b t s s4) := by
  refine ⟨fun h => ?_, fun h hc hth htwin hox => ?_⟩
  · exact (exec_stm d a m s).trans (laneExec_fall hi rfl (stmBody_empty ha hm hd (selected_eq_nil.2 h)))
  · have hbody := stmBody_run ha hm hd (mt selected_eq_nil.1 h) hc
    refine issueEnds_of (f := id) (storeOp_plain hox false false base ts _ _) hth (.inr htwin) (fun s' hs' => ?_) (fun st hst => ?_) rfl
      fun _ => rfl
    · exact (exec_stm d a m s).trans (laneExec_fall hi rfl (hbody.trans hs'))
    · exact (exec_stm d a m s).trans (laneExec_halts hi (hbody.trans hst))

end Masked

/-- Of the parts of O13: stores. -/
theorem storesIssueOneOperation : StoresIssueOneOperation := by
  refine ⟨fun i F s s1 s2 s3 b t base bs ts th hF hi ha hd hc hth htwin hox => storeIssuesOneOperation hF hi ha hd hc hth htwin hox,
    fun d a m s s1 s2 s3 s4 b t base mk bs ts th hi ha hm hd => maskedStoreIssuesOneOperation ha hm hd hi⟩

/-! LD.FE (06_memory.md R164). -/

/-- A list of bytes that are all defined, as the bytes of an access are read. -/
theorem define_all_some (bs : List Byte) (s : State) : s.define (bs.map some) = (bs, s) := by
  induction bs generalizing s with
  | nil => rfl
  | cons v bs ih => simp [State.define, ih]

theorem map_eq_map_some {f : Tgt → Option Byte} {ts : List Tgt} (h : ∀ u ∈ ts, (f u).isSome = true) :
    ts.map f = (ts.map fun u => (f u).getD 0).map some := by
  rw [List.map_map]
  refine List.map_congr_left fun u hu => ?_
  obtain ⟨v, hv⟩ := Option.isSome_iff_exists.1 (h u hu)
  simp [hv]

/-- A granule's bit is no part of a thread, nor of what an operation takes from its block. -/
theorem setFull_getThread (s : State) (u : Tgt) (f : Bool) (b t : Nat) : (s.setFull u f).getThread b t = s.getThread b t := by
  cases u with
  | sp core off =>
    simp only [State.setFull, Tgt.granKey]
    split
    · exact getThread_modBlock_of_threads _ _ (by intro; rfl) b t
    · rfl
  | win blk row line byte => exact getThread_modBlock_of_threads _ _ (by intro; rfl) b t
  | _ => rfl

theorem block_modBlock_field {α : Type} (p : Block → α) {f : Block → Block} (hf : ∀ x, p (f x) = p x) (s : State) (b c : Nat) :
    p ((s.modBlock b f).block c) = p (s.block c) := by
  by_cases hc : c = b
  · subst hc
    cases hx : s.getBlock c with
    | none => rw [State.modBlock_none hx]
    | some x => rw [State.block_modBlock_self hx, hf, State.block_of_get hx]
  · rw [State.block_modBlock_other s hc]

theorem setFull_padCore (s : State) (u : Tgt) (f : Bool) (b : Nat) : ((s.setFull u f).block b).padCore = (s.block b).padCore := by
  cases u with
  | sp core off =>
    simp only [State.setFull, Tgt.granKey]
    split
    · exact block_modBlock_field Block.padCore (by intro; rfl) _ _ b
    · rfl
  | win blk row line byte => exact block_modBlock_field Block.padCore (by intro; rfl) _ _ b
  | _ => rfl

theorem flagOf_of_getThread {s s' : State} {b t : Nat} (h : s'.getThread b t = s.getThread b t) (i : Instr) :
    flagOf i s' b t = flagOf i s b t := by
  simp only [flagOf, State.thread, h]

/-- A comparison of an Oxbow run that ends leaves what an issue has left. -/
theorem issuedLast_oxAbandon {o : MemOp} {b t : Nat} {s s' : State} (h : IssuedLast o b t s s') (c : Nat) :
    IssuedLast o b t s (s'.oxAbandon c) := by
  have hkeeps : (s'.oxAbandon c).ops = s'.ops ∧ (s'.oxAbandon c).seq = s'.seq ∧ (s'.oxAbandon c).mem = s'.mem ∧
      (s'.oxAbandon c).getThread b t = s'.getThread b t := by
    unfold State.oxAbandon
    split
    · exact ⟨by simp, by simp, by simp, getThread_modBlock_of_threads _ _ (by intro; rfl) b t⟩
    · exact ⟨rfl, rfl, rfl, rfl⟩
  obtain ⟨hops, hseq, hmem, hth⟩ := hkeeps
  obtain ⟨hlast, hlen, hnext, hsame, hflag⟩ := h
  exact ⟨hops ▸ hlast, hops ▸ hlen, hseq ▸ hnext, fun pa => by rw [State.rd8, hmem]; exact hsame pa,
    fun f hf => by rw [State.thread, hth]; exact hflag f hf⟩

/-- The operation that carries the data of an LD.FE. -/
def feOp (i : Instr) (s : State) (b t : Nat) (d : LReg) (ea : DWord) (data : List Byte) : MemOp :=
  { laneOp s b t .fe ea [] (flagOf i s b t) with dst := .lane d 4, data }

theorem feOp_congr {s s' : State} {b t : Nat} (hth : s'.getThread b t = s.getThread b t)
    (hcore : (s'.block b).padCore = (s.block b).padCore) (i : Instr) (d : LReg) (ea : DWord) (data : List Byte) :
    feOp i s' b t d ea data = feOp i s b t d ea data := by
  simp only [feOp, laneOp, flagOf_of_getThread hth, hcore]

/-- The end of an LD.FE: its operation issues. -/
theorem feOp_issues {i : Instr} {s : State} {b t : Nat} {th : Thread} (hth : s.getThread b t = some th) (d : LReg) (ea : DWord)
    (data : List Byte) : issue (feOp i s b t d ea data) s = .ok ((), s.issued (feOp i s b t d ea data)) ∧
      IssuedLast (feOp i s b t d ea data) b t s ((s.issued (feOp i s b t d ea data)).oxAbandon b) :=
  ⟨issue_inFlight rfl (.inr (.inl rfl)) rfl, issuedLast_oxAbandon (issued_last ⟨rfl, rfl, rfl, .inr (.inl rfl)⟩ hth) b⟩

section Granule

variable {take : Bool} {d a : LReg} {off : BitVec 5} {s s1 s2 : State} {b t : Nat} {base : DWord} {tg : Tgt} {ts : List Tgt} {i : Instr}
  (ha : src2 b t a s = .ok (base, s1))
  (hc : checkAccess b [t] (accessOf .read true 16 (base + BitVec.ofInt 64 (16 * off.toInt)) 16) s1 = .ok (tg :: ts, s2))
include ha hc

theorem ldFeBody_empty (h : s2.isFull tg = false) : ldFeBody i take d a off b t s = .error (.stall (.granule tg)) := by
  have hwait : (!s2.isFull tg || s2.ownPending b t tg) = true := by simp [h]
  have hea : laneAddr b t a off 16 s = .ok (base + BitVec.ofInt 64 (16 * off.toInt), s1) := by
    rw [laneAddr_run ha, Int.mul_comm]
    rfl
  have htgts : checkAccess b [t] { kind := .read, fe := true, align := 16, eas := spanFrom (base + BitVec.ofInt 64 (16 * off.toInt)) 16 } s1 =
      .ok (tg :: ts, s2) := hc
  rw [ldFeBody, bind_ok hea, bind_ok htgts, bind_ok (getS_run s2)]
  exact (congrFun (if_pos hwait) s2).trans (bind_error rfl)

/-- The data and the bit of a full granule, once nothing holds the LD.FE. -/
theorem ldFeBody_full (hfull : s2.isFull tg = true) (hown : s2.ownPending b t tg = false) (hacq : s2.acquireHolds b [t] s2.seq = false)
    (hmark : s2.granMark tg = none) (hdone : (tg.granKey.bind fun k => Cells.get? k s2.doneGrans) = none)
    (hdef : ∀ u ∈ tg :: ts, (s2.tgtByte u).isSome = true) (hth : (s2.getThread b t).isSome = true) :
    ∃ s3, ldFeBody i take d a off b t s = .ok ((), s3) ∧
      IssuedLast { laneOp s2 b t .fe (base + BitVec.ofInt 64 (16 * off.toInt)) [] (flagOf i s2 b t) with
        dst := .lane d 4, data := (tg :: ts).map fun u => (s2.tgtByte u).getD 0 } b t (if take then s2.setFull tg false else s2) s3 := by
  have hea : laneAddr b t a off 16 s = .ok (base + BitVec.ofInt 64 (16 * off.toInt), s1) := by
    rw [laneAddr_run ha, Int.mul_comm]
    rfl
  have htgts : checkAccess b [t] { kind := .read, fe := true, align := 16, eas := spanFrom (base + BitVec.ofInt 64 (16 * off.toInt)) 16 } s1 =
      .ok (tg :: ts, s2) := hc
  have hgo : (!s2.isFull tg || s2.ownPending b t tg) = false := by simp [hfull, hown]
  have hdata : (fun s : State => (Except.ok ((s.define ((tg :: ts).map s.tgtByte)).1, (s.define ((tg :: ts).map s.tgtByte)).2) :
      Except Stop (List Byte × State))) s2 = .ok ((tg :: ts).map fun u => (s2.tgtByte u).getD 0, s2) := by
    simp only [map_eq_map_some hdef, define_all_some]
  obtain ⟨th, hth⟩ := Option.isSome_iff_exists.1 hth
  rw [ldFeBody, bind_ok hea, bind_ok htgts, bind_ok (getS_run s2), List.headD_cons, hgo, hacq, hdone, hmark]
  simp only [Bool.false_eq_true, if_false, Option.isSome_none, Bool.false_and]
  cases take with
  | false =>
    obtain ⟨hissue, hlast⟩ := feOp_issues (i := i) hth d (base + BitVec.ofInt 64 (16 * off.toInt)) ((tg :: ts).map fun u => (s2.tgtByte u).getD 0)
    exact ⟨_, (bind_ok hdata).trans ((bind_ok (getS_run s2)).trans (bind_ok hissue)), hlast⟩
  | true =>
    have hth' := setFull_getThread s2 tg false b t
    obtain ⟨hissue, hlast⟩ := feOp_issues (i := i) (hth'.trans hth) d (base + BitVec.ofInt 64 (16 * off.toInt))
      ((tg :: ts).map fun u => (s2.tgtByte u).getD 0)
    refine ⟨_, (bind_ok hdata).trans ((bind_ok (updS_run (·.setFull tg false) s2)).trans
      ((bind_ok (getS_run _)).trans (bind_ok hissue))), ?_⟩
    show IssuedLast (feOp i s2 b t d _ _) b t (s2.setFull tg false) _
    rw [← feOp_congr hth' (setFull_padCore s2 tg false b)]
    exact hlast

end Granule

/-- Of the parts of O13: LD.FE, which takes or peeks. -/
theorem granuleLoadsTakeFullGranules : GranuleLoadsTakeFullGranules := by
  intro take d a off f s s1 s2 b t base tg ts x th i hr ha hc
  have hexec : exec i s = laneExec i (laneFall (ldFeBody i take d a off)) s := by cases take <;> rfl
  have hin : outbound i = false ∧ wordsOf i = 1 := by cases take <;> exact ⟨rfl, rfl⟩
  obtain ⟨hin, hwords⟩ := hin
  refine ⟨fun hfull hown hacq hmark hdone _ hdef hth => ?_, fun hempty => ?_⟩
  · obtain ⟨s3, hbody, hlast⟩ := ldFeBody_full (i := i) (take := take) (d := d) ha hc hfull hown hacq hmark hdone hdef hth
    refine ⟨s3, ?_, hlast⟩
    rw [← hwords]
    exact hexec.trans (laneExec_fall hr.issues hin hbody)
  · exact ⟨_, hexec.trans (laneExec_halts hr.issues (ldFeBody_empty ha hc hempty)),
      onlyThread_stalled hr.block hr.thread hr.resident (.granule tg)⟩

/-- Settles O13: a load, a store, a store under a mask and an LD.FE each read and check, and then issue one operation. -/
theorem loadsAndStoresIssueOneOperation : Obligations.LoadsAndStoresIssueOneOperation :=
  ⟨loadsIssueOneOperation, storesIssueOneOperation, granuleLoadsTakeFullGranules⟩

end Sys2Proof.Machine
end

section
/-! PROOF. The checks of an access come in order (06_memory.md R148, R159; 17_system.md R405): O14. -/

namespace Sys2Proof.Machine

open Claims

/-! One access. -/

section Access

variable {s : State} {b : Nat} {tids : List Nat} {kind : AccKind} {fe : Bool} {align n : Nat} {ea : DWord} (hn : 0 < n)

include hn in
theorem accessOf_eas (kind : AccKind) (fe : Bool) (align : Nat) (ea : DWord) :
    ∃ rest, (accessOf kind fe align ea n).eas = ea :: rest := by
  obtain ⟨m, rfl⟩ : ∃ m, n = m + 1 := ⟨n - 1, by omega⟩
  refine ⟨(List.range m).map fun k => ea + BitVec.ofNat 64 (k + 1), ?_⟩
  simp [accessOf, List.range_succ_eq_map, List.map_map, Function.comp_def]

include hn in
theorem checkAccess_nonCanon (hc : canonical ea = false) :
    checkAccess b tids (accessOf kind fe align ea n) s = .error (.trap .nonCanon ea (faultInfo kind)) := by
  obtain ⟨rest, heas⟩ := accessOf_eas hn kind fe align ea
  simp only [checkAccess, heas, hc]
  rfl

include hn in
theorem checkAccess_align (hc : canonical ea = true) (ha : ea.toNat % align ≠ 0) :
    checkAccess b tids (accessOf kind fe align ea n) s = .error (.trap .align ea (faultInfo kind)) := by
  obtain ⟨rest, heas⟩ := accessOf_eas hn kind fe align ea
  have halign : (accessOf kind fe align ea n).align = align := rfl
  simp only [checkAccess, heas, hc, halign, ha, Bool.not_true, Bool.false_eq_true, if_false, ne_eq, not_false_eq_true, if_true]
  rfl

/-- A stop that is none of the checks of a page's target, nor of the Ford window (06_memory.md R159; 16_gangs.md R373). -/
def Stop.decides (st : Stop) : Prop :=
  match st with
  | .trap c _ _ => targetRank c = none ∧ ¬(c = .fordClosed ∨ c = .fordRange ∨ c = .fordDeparted ∨ c = .noFe)
  | .stall _ => True

theorem pageStop_decides {st : Stop} (h : st.decides) (eas : List DWord) : s.pageStop b kind fe ea st eas = st := by
  cases st with
  | trap c a w =>
    obtain ⟨hrank, -⟩ := h
    simp only [State.pageStop, hrank]
  | stall w => rfl

include hn in
theorem checkAccess_byte {st : Stop} (hc : canonical ea = true) (ha : ea.toNat % align = 0) (hb : s.byteTgt b kind fe ea = .error st)
    (h : st.decides) : checkAccess b tids (accessOf kind fe align ea n) s = .error st := by
  obtain ⟨rest, heas⟩ := accessOf_eas hn kind fe align ea
  have hbytes : s.byteTgts b kind fe (ea :: rest) = .error st := by
    simp only [State.byteTgts, hb, pageStop_decides h]
  have hform : (accessOf kind fe align ea n).align = align ∧ (accessOf kind fe align ea n).kind = kind ∧
      (accessOf kind fe align ea n).fe = fe := ⟨rfl, rfl, rfl⟩
  obtain ⟨halign, hkind, hfe⟩ := hform
  simp only [checkAccess, heas, halign, hkind, hfe, hc, ha, hbytes, Bool.not_true, Bool.false_eq_true, if_false, ne_eq, not_true_eq_false]
  cases st with
  | trap c a w =>
    obtain ⟨-, hford⟩ := h
    exact if_neg hford
  | stall w => rfl

/-- Where a lane block's thread goes through a translation (06_memory.md R148; 16_gangs.md R372). -/
theorem byteTgt_translated {x : Block} (hx : s.getBlock b = some x) (hk : x.kind = .lane) (hg : x.gang = none) (hp : x.pairOf = none)
    (hc : canonical ea = true) (hw : inPadWindow ea = false) : s.byteTgt b kind fe ea =
      match s.translate (clusterOf x.core) x.ctx ea.toNat kind with
      | .miss => .error (.stall (.xlate x.ctx ea kind))
      | .prot => .error (.trap .xlateProt ea (faultInfo kind))
      | .hit pa onchip =>
        match s.physTgt x.ctx (s.ctxKey x.ctx) onchip pa (kind == .write || kind == .atomic) fe with
        | .ok t => .ok t
        | .error c => .error (.trap c ea (faultInfo kind)) := by
  have hgang : s.gangOf x = none := by simp [State.gangOf, hp, hg]
  simp only [State.byteTgt, State.block_of_get hx, hgang, hk, hc, hw]
  rfl

end Access

/-! The instructions. -/

/-- A load, or a store whose data have been read, as O14 lists them. -/
def AccessForm (i : Instr) (s s1 : State) (b t : Nat) (addr : LReg) (off : Int) (align n : Nat) (kind : AccKind) : Prop :=
  (∃ F, loadForm i = some F ∧ addr = F.addr ∧ off = F.off ∧ align = F.align ∧ n = F.bytes ∧ kind = .read ∧ s1 = s) ∨
    (∃ F bs, storeForm i = some F ∧ addr = F.addr ∧ off = F.off ∧ align = F.bytes ∧ n = F.bytes ∧ kind = .write ∧
      ReadsData b t F.source F.bytes bs s s1)

section Stopped

variable {i : Instr} {s s1 : State} {b t : Nat} {addr : LReg} {off : Int} {align n : Nat} {kind : AccKind} {base : DWord}
  (h : AccessForm i s s1 b t addr off align n kind)
include h

theorem accessForm_bytes : 0 < n := by
  obtain ⟨F, hF, -, -, -, rfl, -⟩ | ⟨F, bs, hF, -, -, -, rfl, -⟩ := h
  · exact (loadRuns_of_form hF).bytes
  · obtain ⟨off, hruns⟩ := storeRuns_of_form hF
    exact hruns.bytes

theorem accessForm_info : faultInfo kind = if kind = .read then 0 else 1 := by
  obtain ⟨F, -, -, -, -, -, rfl, -⟩ | ⟨F, bs, -, -, -, -, -, rfl, -⟩ := h <;> rfl

/-- What stops the access stops the instruction. -/
theorem access_stops {st : Stop} (hi : Issues i s b t) (ha : src2 b t addr s = .ok (base, s))
    (hc : ∀ fe, checkAccess b [t] (accessOf kind fe align (base + BitVec.ofInt 64 off) n) s1 = .error st) :
    exec i s = .next (s.stopAt b t st) := by
  obtain ⟨F, hF, rfl, rfl, rfl, rfl, rfl, rfl⟩ | ⟨F, bs, hF, rfl, rfl, rfl, rfl, rfl, hd⟩ := h
  · obtain ⟨⟨off, unit, hoff, hrun⟩, -, -⟩ := loadRuns_of_form hF
    rw [hoff] at hc
    exact (hrun s1).trans (laneExec_halts hi (loadBody_stops ha (hc false)))
  · obtain ⟨off, hoff, -, -, hstops⟩ := storeRuns_of_form hF
    rw [hoff] at hc
    exact hstops s b t st hi (storeBody_stops ha hd (hc _))

end Stopped

/-! A wait for a translation (17_system.md R406). -/

/-- A miss's walk request is there: its own, or one it has joined. -/
theorem raiseWalk_requests (s : State) (cluster ctx page : Nat) (kind : AccKind) :
    ∃ r ∈ ((s.raiseWalk cluster ctx page kind false false).getCluster cluster).reqs, r.ctx = ctx ∧ r.page = page ∧ r.spec = false := by
  unfold State.raiseWalk
  dsimp only
  split
  · rename_i h
    obtain ⟨r, hr, hjoins⟩ := List.any_eq_true.1 h
    exact ⟨r, hr, by simpa [and_assoc] using hjoins⟩
  · rw [State.getCluster_modCluster_self]
    exact ⟨_, List.mem_append_right _ (List.mem_singleton_self _), rfl, rfl, rfl⟩

theorem raiseWalk_keeps (s : State) (cluster ctx page : Nat) (kind : AccKind) (spec engine : Bool) :
    ∃ clusters, s.raiseWalk cluster ctx page kind spec engine = { s with clusters } := by
  unfold State.raiseWalk
  dsimp only
  split
  · split
    · exact ⟨_, rfl⟩
    · exact ⟨s.clusters, rfl⟩
  · exact ⟨_, rfl⟩

/-- A thread of a running block that meets a page without a translation waits for it, and the walk is asked for. -/
theorem stopAt_xlate {s : State} {b t : Nat} {x : Block} {th : Thread} (hx : s.getBlock b = some x) (ht : x.getThread t = some th)
    (hr : x.life = .resident ∧ x.mark = none) (ctx : Nat) (ea : DWord) (kind : AccKind) :
    let s' := s.stopAt b t (.stall (.xlate ctx ea kind))
    s'.getThread b t = some { th with run := .stalled (.xlate ctx ea kind), since := s.now } ∧ s.sameMemory s' ∧
      ∃ r ∈ (s'.getCluster (clusterOf x.core)).reqs, r.ctx = ctx ∧ r.page = ea.toNat / 4096 ∧ r.spec = false := by
  have hleave := onlyThread_leaveBundle (State.getThread_eq_some.2 ⟨x, hx, ht⟩)
  have hstop : s.stopAt b t (.stall (.xlate ctx ea kind)) =
      ((s.leaveBundle b t).raiseWalk (clusterOf x.core) ctx (ea.toNat / 4096) kind false false).modThread b t
        fun th => { th with run := .stalled (.xlate ctx ea kind) } := by
    simp only [State.stopAt, State.stopThread, State.beginWait, State.block_of_get hx, atWaits_resident hr, Bool.false_and,
      Bool.false_eq_true, if_false]
  obtain ⟨r, hr, hreq⟩ := raiseWalk_requests (s.leaveBundle b t) (clusterOf x.core) ctx (ea.toNat / 4096) kind
  obtain ⟨ks, hwalk⟩ := raiseWalk_keeps (s.leaveBundle b t) (clusterOf x.core) ctx (ea.toNat / 4096) kind false false
  dsimp only
  rw [hstop]
  refine ⟨?_, fun pa => ?_, r, ?_, hreq⟩
  · rw [hwalk]
    exact State.getThread_modThread_self (s := { s.leaveBundle b t with clusters := ks }) hleave.thread _
  · rw [State.rd8, State.modThread_mem, hwalk]
    exact hleave.memory pa
  · rwa [State.getCluster, State.modThread_clusters, ← State.getCluster]

/-- Settles O14: the checks of the first byte, in order, and what each does to the thread. -/
theorem accessChecksComeInOrder : Obligations.AccessChecksComeInOrder := by
  intro i s s1 b t x th base addr off align n kind hform hr hc ha hblocks hclusters ea info
  have hn := accessForm_bytes hform
  have hinfo : faultInfo kind = info := accessForm_info hform
  have stops {st : Stop} (hs : ∀ fe, checkAccess b [t] (accessOf kind fe align ea n) s1 = .error st) : exec i s = .next (s.stopAt b t st) :=
    access_stops hform hr.issues ha hs
  have hx1 : s1.getBlock b = some x := by rw [State.getBlock, hblocks]; exact hr.block
  have hxl : s1.translate (clusterOf x.core) x.ctx ea.toNat kind = s.translate (clusterOf x.core) x.ctx ea.toNat kind := by
    simp only [State.translate, State.tlbFind, State.getCluster, hclusters]
  rw [← hinfo]
  refine ⟨fun hcan => ?_, fun hcan hal => ?_, fun hcan hal hwin hgang hpair hprot => ?_, fun hcan hal hwin hgang hpair hmiss => ?_⟩
  · exact ⟨_, stops fun fe => checkAccess_nonCanon hn hcan, stopAt_trap hc ..⟩
  · exact ⟨_, stops fun fe => checkAccess_align hn hcan hal, stopAt_trap hc ..⟩
  · have hbyte (fe : Bool) : s1.byteTgt b kind fe ea = .error (.trap .xlateProt ea (faultInfo kind)) := by
      rw [byteTgt_translated hx1 hc.kind hgang hpair hcan hwin, hxl, hprot]
    exact ⟨_, stops fun fe => checkAccess_byte hn hcan hal (hbyte fe) ⟨rfl, by decide⟩, stopAt_trap hc ..⟩
  · have hbyte (fe : Bool) : s1.byteTgt b kind fe ea = .error (.stall (.xlate x.ctx ea kind)) := by
      rw [byteTgt_translated hx1 hc.kind hgang hpair hcan hwin, hxl, hmiss]
    exact ⟨_, stops fun fe => checkAccess_byte hn hcan hal (hbyte fe) trivial, stopAt_xlate hr.block hr.thread hr.resident ..⟩

end Sys2Proof.Machine
end

section
/-! PROOF. Words that arrive in the registers of a thread (06_memory.md R160; 17_system.md R395). -/

namespace Sys2Proof.Machine

open Claims

/-! One word (02_encoding.md R41; 17 R395). -/

/-- A thread with a word arrived in a register: in its handler the latches are those of the interrupted clause. -/
def Thread.arrive (r : LReg) (w : Word) (th : Thread) : Thread :=
  match r with
  | .x => if th.inTrap then { th with bankX := some w } else { th with x := some w }
  | .o n => if th.inTrap then { th with bankO := Cells.set n.val w th.bankO } else { th with o := Cells.set n.val w th.o }
  | r => th.writeReg r w

/-- A latch of the thread itself, or of the interrupted clause. -/
theorem arrive_x (w : Word) (th : Thread) :
    th.arrive .x w = if th.inTrap then { th with bankX := some w } else { th with x := some w } := rfl
theorem arrive_o (n : Fin 8) (w : Word) (th : Thread) : th.arrive (.o n) w =
    if th.inTrap then { th with bankO := Cells.set n.val w th.bankO } else { th with o := Cells.set n.val w th.o } := rfl

theorem arrive_inTrap (r : LReg) (w : Word) (th : Thread) : (th.arrive r w).inTrap = th.inTrap := by
  cases r with
  | x => rw [arrive_x]; split <;> rfl
  | o n => rw [arrive_o]; split <;> rfl
  | _ => rfl

theorem arrive_flags (r : LReg) (w : Word) (th : Thread) : (th.arrive r w).flags = th.flags := by
  cases r with
  | x => rw [arrive_x]; split <;> rfl
  | o n => rw [arrive_o]; split <;> rfl
  | _ => rfl

theorem holds_x (th : Thread) : holds th .x = if th.inTrap then th.bankX else th.x := rfl
theorem holds_o (th : Thread) (n : Fin 8) : holds th (.o n) = if th.inTrap then Cells.get? n.val th.bankO else Cells.get? n.val th.o := rfl

theorem holds_arrive_self {r : LReg} (hr : canHold r) (w : Word) (th : Thread) : holds (th.arrive r w) r = some w := by
  cases r with
  | v n => exact congrArg some (Thread.getV_setV_self th n.val w)
  | x =>
    rw [holds_x, arrive_inTrap, arrive_x]
    split <;> rfl
  | o n =>
    rw [holds_o, arrive_inTrap, arrive_o]
    split <;> exact Cells.get?_set_self ..
  | _ => exact hr.elim

/-- A word that arrives in one register leaves the others: of the same kind by their numbers, of another kind altogether. -/
theorem holds_arrive_other {r q : LReg} (h : q ≠ r) (w : Word) (th : Thread) : holds (th.arrive r w) q = holds th q := by
  cases q with
  | v m =>
    cases r with
    | v n => exact congrArg some (Thread.getV_setV_other th (fun e => h (congrArg _ (Fin.ext e))) w)
    | x => rw [arrive_x]; split <;> rfl
    | o n => rw [arrive_o]; split <;> rfl
    | _ => rfl
  | x =>
    rw [holds_x, holds_x, arrive_inTrap]
    cases r with
    | x => exact absurd rfl h
    | o n => rw [arrive_o]; split <;> rfl
    | _ => rfl
  | o m =>
    rw [holds_o, holds_o, arrive_inTrap]
    cases r with
    | x => rw [arrive_x]; split <;> rfl
    | o n =>
      have hne : m.val ≠ n.val := fun e => h (congrArg _ (Fin.ext e))
      rw [arrive_o]
      split
      · exact Cells.get?_set_other hne ..
      · exact Cells.get?_set_other hne ..
    | _ => rfl
  | _ => rfl

/-! A group of words (02_encoding.md R39). -/

/-- The words of a result, in the registers from d on. -/
def Thread.arriveAll (d : LReg) (ws : List Word) (th : Thread) : Thread :=
  ws.zipIdx.foldl (fun th e => th.arrive (d.plus e.2) e.1) th

theorem arriveAll_append (d : LReg) (ws : List Word) (w : Word) (th : Thread) :
    th.arriveAll d (ws ++ [w]) = (th.arriveAll d ws).arrive (d.plus ws.length) w := by
  simp [Thread.arriveAll, List.zipIdx_append]

theorem arriveAll_flags (d : LReg) (ws : List Word) (th : Thread) : (th.arriveAll d ws).flags = th.flags := by
  induction ws using List.reverseRecOn with
  | nil => rfl
  | append_singleton ws w ih => rw [arriveAll_append, arrive_flags, ih]

theorem canHold_plus {d : LReg} (h : canHold d) (k : Nat) : canHold (d.plus k) := by
  cases d with
  | v | x | o => trivial
  | _ => exact h.elim

/-- The first four registers of a group are different ones. -/
theorem plus_ne {d : LReg} (hd : canHold d) (hx : d ≠ .x) {j k : Nat} (hj : j < 4) (hk : k < 4) (h : j ≠ k) : d.plus j ≠ d.plus k := by
  cases d with
  | v n =>
    intro e
    have hval : (n.val + j) % 224 = (n.val + k) % 224 := congrArg Fin.val (LReg.v.inj e)
    omega
  | o n =>
    intro e
    have hval : (n.val + j) % 8 = (n.val + k) % 8 := congrArg Fin.val (LReg.o.inj e)
    omega
  | x => exact absurd rfl hx
  | _ => exact hd.elim

/-- Each register of the group holds its word; x takes a group of one. -/
theorem holds_arriveAll {d : LReg} (hd : canHold d) {ws : List Word} (hlen : ws.length ≤ 4) (hx : d = .x → ws.length ≤ 1) (th : Thread)
    {k : Nat} {w : Word} (hk : ws[k]? = some w) : holds (th.arriveAll d ws) (d.plus k) = some w := by
  induction ws using List.reverseRecOn with
  | nil => cases hk
  | append_singleton ws v ih =>
    rw [List.length_append, List.length_singleton] at hlen hx
    rw [arriveAll_append]
    by_cases hlast : k = ws.length
    · subst hlast
      obtain rfl : v = w := by simpa using hk
      exact holds_arrive_self (canHold_plus hd _) v _
    · have hlt : k < ws.length := by
        have := (List.getElem?_eq_some_iff.1 hk).1
        rw [List.length_append, List.length_singleton] at this
        omega
      have hdx : d ≠ .x := fun e => by have := hx e; omega
      rw [holds_arrive_other (plus_ne hd hdx (by omega) (by omega) hlast)]
      exact ih (by omega) (fun e => absurd e hdx) (by rwa [List.getElem?_append_left hlt] at hk)

/-! The words of a load (06_memory.md R160). -/

theorem toNat_append_byte {n : Nat} (q : BitVec n) (p : Byte) : (q ++ p).toNat = p.toNat + 256 * q.toNat := by
  rw [BitVec.toNat_append, ← Nat.shiftLeft_add_eq_or_of_lt p.isLt, Nat.shiftLeft_eq, Nat.add_comm, Nat.mul_comm]

theorem leNat_one (p : Byte) : leNat [p] = p.toNat := rfl

theorem leNat_two (p q : Byte) : leNat [p, q] = (q ++ p : BitVec 16).toNat := by rw [toNat_append_byte]; rfl

theorem w32_leNat_four (p q r u : Byte) : w32 (leNat [p, q, r, u]) = (u ++ r ++ q ++ p : BitVec 32) := by
  have h : leNat [p, q, r, u] = (u ++ r ++ q ++ p : BitVec 32).toNat := by simp only [toNat_append_byte]; rfl
  rw [h, w32, BitVec.ofNat_toNat, BitVec.setWidth_eq]

/-- A short value is extended (06 R160). -/
theorem extended_eq {n : Nat} (v : BitVec n) (sg : Bool) :
    (if sg then BitVec.ofInt 32 (sextNat n v.toNat) else w32 v.toNat) = if sg then v.signExtend 32 else v.zeroExtend 32 := by
  rw [sextNat_toNat, w32, BitVec.ofNat_toNat]
  rfl

/-- Four bytes of a list in a row. -/
theorem take_four_drop {bs : List Byte} {m : Nat} (h : m + 4 ≤ bs.length) :
    (bs.drop m).take 4 = [bs.getD m 0, bs.getD (m + 1) 0, bs.getD (m + 2) 0, bs.getD (m + 3) 0] := by
  have hget (k : Nat) (hk : k < 4) : bs.getD (m + k) 0 = bs[m + k] := List.getD_eq_getElem bs 0 (by omega)
  refine List.ext_getElem (by simp; omega) fun k _ hk => ?_
  have hlt : k < 4 := hk
  rw [List.getElem_take, List.getElem_drop, ← hget k hlt]
  interval_cases k <;> rfl

theorem destWords_long {bs : List Byte} (h4 : 4 ≤ bs.length) (sg : Bool) :
    destWords sg bs = (List.range (bs.length / 4)).map fun i =>
      (bs.getD (4 * i + 3) 0 ++ bs.getD (4 * i + 2) 0 ++ bs.getD (4 * i + 1) 0 ++ bs.getD (4 * i) 0 : BitVec 32) := by
  unfold destWords
  rw [if_neg (by omega)]
  refine List.map_congr_left fun i hi => ?_
  have hlt := List.mem_range.1 hi
  rw [take_four_drop (by omega), w32_leNat_four]

theorem destWords_eq {bs : List Byte} (hne : bs ≠ []) (hlen : bs.length < 3 ∨ 4 ∣ bs.length) (sg : Bool) :
    destWords sg bs = loadedWords sg bs := by
  match bs with
  | [] => exact absurd rfl hne
  | [p] => exact congrArg (fun w => [w]) (extended_eq p sg)
  | [p, q] =>
    have h := extended_eq (q ++ p : BitVec 16) sg
    rw [← leNat_two] at h
    exact congrArg (fun w => [w]) h
  | p :: q :: r :: bs =>
    have h4 : 4 ≤ (p :: q :: r :: bs).length := by
      simp only [List.length_cons] at hlen ⊢
      omega
    exact destWords_long h4 sg

theorem destWords_length {bs : List Byte} (hne : bs ≠ []) (hlen : bs.length < 3 ∨ 4 ∣ bs.length) (sg : Bool) :
    (destWords sg bs).length = (bs.length + 3) / 4 := by
  have hpos := List.length_pos_iff.2 hne
  unfold destWords
  split
  · simp only [List.length_singleton]
    omega
  · simp only [List.length_map, List.length_range]
    omega

end Sys2Proof.Machine
end

section
/-! PROOF. Delivering to a thread (06_memory.md R160; 02_encoding.md R48, R49): nothing but the thread changes. -/

namespace Sys2Proof.Machine

open Claims

/-- The words of a completing operation may go to their registers without the image: the block is not in its image alone, and the lines are
in the register cache (03_control.md R82, R90). -/
structure InRegisters (x : Block) (t : Nat) (d : LReg) (n : Nat) : Prop where
  resident : x.inImage = false
  lines : ∀ k m, k < n → d.plus k = .v m → x.lineIn (t / 16) m.val = true

section Deliver

variable {s : State} {b t : Nat} {x : Block} {th : Thread}

theorem onlyThread_field {s' : State} {α : Type} (h : OnlyThread s s' b t th) (p : Block → α)
    (hp : ∀ y : Block, p { y with threads := [] } = p y) (c : Nat) : p (s'.block c) = p (s.block c) := by
  rw [← hp, h.blocks, hp]

theorem arriveLane_eq {r : LReg} (w : Word) (hi : (s.block b).inImage = false) (hl : ∀ m, r = .v m → (s.block b).lineIn (t / 16) m.val = true) :
    s.arriveLane b t r w = s.modThread b t (·.arrive r w) := by
  unfold State.arriveLane
  dsimp only
  rw [if_neg]
  · rfl
  · rw [hi]
    cases r with
    | v n => simp [hl n rfl]
    | _ => exact Bool.false_ne_true

/-- Words that arrive in the registers from d on, one after the other. -/
theorem onlyThread_arriveAll {d : LReg} {ws : List Word} (hx : s.getBlock b = some x) (ht : x.getThread t = some th)
    (h : InRegisters x t d ws.length) (hd : d ≠ .zero) :
    OnlyThread s (ws.zipIdx.foldl (fun s e => if d = .zero then s else s.arriveLane b t (d.plus e.2) e.1) s) b t (th.arriveAll d ws) := by
  induction ws using List.reverseRecOn with
  | nil => exact .refl (State.getThread_eq_some.2 ⟨x, hx, ht⟩)
  | append_singleton ws w ih =>
    have hprev := ih ⟨h.resident, fun k m hk => h.lines k m (by rw [List.length_append]; omega)⟩
    rw [List.zipIdx_append, List.foldl_append, arriveAll_append]
    rw [Nat.zero_add, List.zipIdx_singleton, List.foldl_cons, List.foldl_nil, if_neg hd, arriveLane_eq]
    · exact hprev.trans (onlyThread_mod hprev.thread _)
    · rw [onlyThread_field hprev Block.inImage (fun _ => rfl), State.block_of_get hx]
      exact h.resident
    · intro m hm
      rw [onlyThread_field hprev (·.lineIn (t / 16) m.val) (fun _ => rfl), State.block_of_get hx]
      exact h.lines ws.length m (by simp) hm

/-- Late registers of one thread (04_integer.md R120). -/
theorem noteLate_eq (s : State) (b t : Nat) (f : Option Nat) (keys : List Nat) :
    s.noteLate b [t] false f keys = if keys.isEmpty then s else s.modThread b t (·.noteLate f keys) := by
  unfold State.noteLate State.modThread
  dsimp only
  split
  · rfl
  · refine congrArg (s.modBlock b) (funext fun y => ?_)
    have hlist : (y.threads.zipIdx.map fun e => if ([t].contains e.2 || (false && e.1.run != .exited)) = true then e.1.noteLate f keys else e.1) =
        match y.getThread t with | some th => y.threads.set t (th.noteLate f keys) | none => y.threads := by
      cases hy : y.getThread t with
      | none =>
        refine List.ext_getElem (by simp) fun k _ hk => ?_
        have hin : k < y.threads.length := hk
        have hne : k ≠ t := fun e => by simp [Block.getThread, ← e, hin] at hy
        simp [hne]
      | some th =>
        refine List.ext_getElem (by simp) fun k hk _ => ?_
        by_cases hkt : k = t
        · subst hkt
          obtain ⟨_, rfl⟩ := List.getElem?_eq_some_iff.1 hy
          simp
        · simp [hkt, Ne.symm hkt]
    rw [hlist]
    cases y.getThread t <;> rfl

theorem onlyThread_noteLate (hth : s.getThread b t = some th) (f : Option Nat) (keys : List Nat) :
    ∃ th', OnlyThread s (s.noteLate b [t] false f keys) b t th' ∧ th'.flags = th.flags ∧ ∀ r, holds th' r = holds th r := by
  have hlate : (th.noteLate f keys).flags = th.flags ∧ ∀ r, holds (th.noteLate f keys) r = holds th r := by
    unfold Thread.noteLate
    split
    · split
      · exact ⟨rfl, fun _ => rfl⟩
      · exact ⟨rfl, fun r => by cases r <;> rfl⟩
    · exact ⟨rfl, fun _ => rfl⟩
  rw [noteLate_eq]
  split
  · exact ⟨th, .refl hth, rfl, fun _ => rfl⟩
  · exact ⟨_, onlyThread_mod hth _, hlate⟩

/-- An operation's flag is counted down in its thread. -/
theorem onlyThread_finishFlag (hx : s.getBlock b = some x) (ht : x.getThread t = some th) (hi : x.inImage = false) (f : Option Nat) :
    ∃ th', OnlyThread s (s.finishFlag b [t] false f) b t th' ∧ (∀ g, f = some g → th'.flag g = th.flag g - 1) ∧
      ∀ r, holds th' r = holds th r := by
  have hth := State.getThread_eq_some.2 ⟨x, hx, ht⟩
  cases f with
  | none => exact ⟨th, .refl hth, fun _ h => (by cases h), fun _ => rfl⟩
  | some g =>
    have hmod := onlyThread_mod hth (·.complete (some g))
    refine ⟨th.complete (some g), ?_, fun g' hg => ?_, fun r => ?_⟩
    · have hres : ((s.modThread b t (·.complete (some g))).block b).inImage = false := by
        rw [onlyThread_field hmod Block.inImage (fun _ => rfl), State.block_of_get hx, hi]
      unfold State.finishFlag
      simp only [Bool.false_eq_true, if_false, List.foldl_cons, List.foldl_nil, hres]
      exact hmod
    · obtain rfl : g = g' := Option.some.inj hg
      exact Thread.flag_setFlag_self th g _
    · cases r <;> rfl

end Deliver

end Sys2Proof.Machine
end

section
/-! PROOF. Loads and the data of an LD.FE deliver their words: O15. -/

namespace Sys2Proof.Machine

open Claims

/-! Delivering to one thread. -/

theorem OnlyThread.pads_eq {s s' : State} {b t : Nat} {th : Thread} (h : OnlyThread s s' b t th) : s'.pads = s.pads := by
  have e := congrArg State.pads h.rest
  exact e

theorem OnlyThread.getBlock {s s' : State} {b t : Nat} {th : Thread} (h : OnlyThread s s' b t th) :
    ∃ y, s'.getBlock b = some y ∧ y.getThread t = some th := State.getThread_eq_some.1 h.thread

/-- An operation in flight whose words go to one thread's registers. -/
structure GoesTo (s : State) (o : MemOp) (b t : Nat) (d : LReg) (n : Nat) (x : Block) (th : Thread) : Prop where
  blk : o.blk = b
  tids : o.tids = [t]
  lane : o.uniform = false
  dst : o.dst = .lane d n
  kept : o.clob = false
  block : s.getBlock b = some x
  thread : x.getThread t = some th
  resident : x.inImage = false
  lines : LinesIn o x t
  holds : canHold d

/-- The thread that words have been delivered to, with its flag counted down. -/
structure Delivered (o : MemOp) (d : LReg) (ws : List Word) (th th' : Thread) : Prop where
  words : ∀ k w, ws[k]? = some w → Claims.holds th' (d.plus k) = some w
  flag : ∀ f, o.flag = some f → th'.flag f = th.flag f - 1

theorem canHold_ne_zero {d : LReg} (h : canHold d) : d ≠ .zero := by
  rintro rfl
  exact h

section Deliver

variable {s : State} {o : MemOp} {b t n : Nat} {d : LReg} {x : Block} {th : Thread} (h : GoesTo s o b t d n x th)
include h

theorem onlyThread_deliver {ws : List Word} (hlen : ws.length ≤ 4) (hx : d = .x → ws.length ≤ 1) :
    ∃ th', OnlyThread s (s.deliver o ws) b t th' ∧ th'.flags = th.flags ∧ ∀ k w, ws[k]? = some w → holds th' (d.plus k) = some w := by
  have hin : InRegisters x t d ws.length := ⟨h.resident, fun k m hk => h.lines d n k m h.dst (by omega)⟩
  have harrive := onlyThread_arriveAll h.block h.thread hin (canHold_ne_zero h.holds)
  obtain ⟨th', hlate, hflags, hholds⟩ := onlyThread_noteLate harrive.thread o.flag o.dst.lateKeys
  refine ⟨th', ?_, hflags.trans (arriveAll_flags d ws th), fun k w hk => ?_⟩
  · have hdeliver := harrive.trans hlate
    simp only [State.deliver, h.kept, h.dst, h.blk, h.tids, h.lane, Bool.false_eq_true, if_false, List.foldl_cons, List.foldl_nil]
    rwa [h.dst] at hdeliver
  · rw [hholds, holds_arriveAll h.holds hlen hx th hk]

/-- The words, and then the flag. -/
theorem onlyThread_completes {ws : List Word} (hlen : ws.length ≤ 4) (hx : d = .x → ws.length ≤ 1) :
    ∃ th', OnlyThread s ((s.deliver o ws).finishFlag o.blk o.tids o.uniform o.flag) b t th' ∧ Delivered o d ws th th' := by
  obtain ⟨th1, hdeliver, hflags, hwords⟩ := onlyThread_deliver h hlen hx
  obtain ⟨y, hy, hyt⟩ := hdeliver.getBlock
  have hi : y.inImage = false := by
    rw [← State.block_of_get hy, onlyThread_field hdeliver Block.inImage (fun _ => rfl), State.block_of_get h.block, h.resident]
  obtain ⟨th2, hfinish, hflag, hholds⟩ := onlyThread_finishFlag hy hyt hi o.flag
  rw [h.blk, h.tids, h.lane]
  refine ⟨th2, hdeliver.trans hfinish, fun k w hk => ?_, fun f hf => ?_⟩
  · rw [hholds, hwords k w hk]
  · rw [hflag f hf, Thread.flag, hflags, Thread.flag]

end Deliver

/-! Around it: messages, copies, and what becomes of the operation. -/

theorem hearReply_eq (s : State) (o : MemOp) : ∃ heard, s.hearReply o = { s with links := { s.links with heard } } := by
  unfold State.hearReply
  dsimp only
  generalize (o.tgts.findSome? _) = from'
  cases from' with
  | none => exact ⟨s.links.heard, rfl⟩
  | some dev =>
    show ∃ heard, s.hearOther dev = _
    unfold State.hearOther
    split
    · exact ⟨s.links.heard, rfl⟩
    · exact ⟨_, rfl⟩

theorem sendRemote_eq (s : State) (o : MemOp) : ∃ outbox roofwalk, s.sendRemote o = { s with outbox, roofwalk } := by
  unfold State.sendRemote
  dsimp only
  refine List.foldlRecOn (motive := fun s' : State => ∃ outbox roofwalk, s' = { s with outbox, roofwalk }) _ _ ⟨s.outbox, s.roofwalk, rfl⟩ ?_
  rintro s' ⟨ob, rw', rfl⟩ part -
  split
  · exact ⟨ob, rw', rfl⟩
  · exact ⟨_, _, rfl⟩

theorem loadByte_messages (s : State) (o : MemOp) (heard outbox roofwalk) (r : Option Byte) (u : Tgt) :
    ({ s with links := { s.links with heard }, outbox, roofwalk } : State).loadByte o r u = s.loadByte o r u := rfl

theorem fillView_eq (s : State) (core pa : Nat) (key : Option Nat) : ∃ views, s.fillView core pa key = { s with views } := by
  have hroom : ∃ views, s.l1Room core 8 = { s with views } := by
    unfold State.l1Room
    split
    · exact ⟨s.views, rfl⟩
    · exact ⟨_, rfl⟩
  unfold State.fillView
  split
  · exact ⟨s.views, rfl⟩
  · refine List.foldlRecOn (motive := fun s' : State => ∃ views, s' = { s with views }) _ _ hroom ?_
    rintro s' ⟨views, rfl⟩ k -
    dsimp only
    split
    · exact ⟨views, rfl⟩
    · exact ⟨_, rfl⟩

theorem fillCopies_eq (s : State) (o : MemOp) : ∃ views, s.fillCopies o = { s with views } := by
  unfold State.fillCopies
  split
  · exact ⟨s.views, rfl⟩
  · refine List.foldlRecOn (motive := fun s' : State => ∃ views, s' = { s with views }) _ _ ⟨s.views, rfl⟩ ?_
    rintro s' ⟨views, rfl⟩ u -
    split
    · split
      · exact ⟨views, rfl⟩
      · obtain ⟨views', h⟩ := fillView_eq { s with views } o.core _ _
        exact ⟨views', h⟩
    · exact ⟨views, rfl⟩

theorem cumulate_keeps (s : State) (o : MemOp) (obs : List Nat) :
    (s.cumulate o obs).blocks = s.blocks ∧ (s.cumulate o obs).mem = s.mem ∧ (s.cumulate o obs).pads = s.pads := by
  unfold State.cumulate
  dsimp only
  split <;> exact ⟨rfl, rfl, rfl⟩

theorem retireOp_eq {o : MemOp} (h : o.acq = false) (s : State) (obs : List Nat) :
    s.retireOp o obs = { s with ops := s.ops.filter (·.id != o.id) } := by
  simp [State.retireOp, h]

/-- The operation has left the list of those in flight; what it observed changes marks alone. -/
theorem leavesFlight {o : MemOp} (hacq : o.acq = false) (s : State) (obs : List Nat) :
    let s' := ((s.cumulate o obs).retireOp o obs).pruneBarriers
    s'.blocks = s.blocks ∧ s'.mem = s.mem ∧ s'.pads = s.pads ∧ ∀ p ∈ s'.ops, p.id ≠ o.id := by
  obtain ⟨hblocks, hmem, hpads⟩ := cumulate_keeps s o obs
  rw [retireOp_eq hacq]
  refine ⟨hblocks, hmem, hpads, fun p hp => ?_⟩
  have hin := (List.mem_filter.1 (List.mem_of_mem_filter hp)).2
  simpa using hin

theorem onlyThread_observe {s : State} {b t : Nat} {th : Thread} (h : s.getThread b t = some th) (obs : List Nat) :
    ∃ th', OnlyThread s (s.observe b [t] obs) b t th' ∧ th'.flags = th.flags ∧ ∀ r, holds th' r = holds th r := by
  unfold State.observe
  split
  · exact ⟨th, .refl h, rfl, fun _ => rfl⟩
  · exact ⟨_, onlyThread_mod h _, rfl, fun r => by cases r <;> rfl⟩

theorem Delivered.of_same {o : MemOp} {d : LReg} {ws : List Word} {th th1 th2 : Thread} (h : Delivered o d ws th th1)
    (hf : th2.flags = th1.flags) (hr : ∀ r, holds th2 r = holds th1 r) : Delivered o d ws th th2 :=
  ⟨fun k w hk => (hr _).trans (h.words k w hk), fun f hfl => by rw [Thread.flag, hf]; exact h.flag f hfl⟩

/-! The events (06_memory.md R160, R164). -/

section Load

variable {s : State} {o : MemOp} {b t n : Nat} {d : LReg} {x : Block} {th : Thread}

/-- A plain load whose bytes are defined: copies, words, flag, marks, and the end of the operation. -/
theorem performLoad_eq (hacq : o.acq = false) {sg : Bool} {reply bs : List Byte}
    (hbytes : (o.tgts.zipIdx.map fun e => ((s.sendRemote o).loadByte o reply[e.2]? e.1).1) = bs.map some) :
    ∃ obs, s.performLoad o sg reply =
      ((((((s.sendRemote o).fillCopies o).deliver o (destWords sg bs)).finishFlag o.blk o.tids o.uniform o.flag).observe o.blk o.tids
        obs).cumulate o obs).retireOp o obs := by
  refine ⟨((o.tgts.zipIdx.map fun e => (s.sendRemote o).loadByte o reply[e.2]? e.1).flatMap (·.2)).dedup, ?_⟩
  unfold State.performLoad
  simp only [List.map_map, Function.comp_def, hbytes, define_all_some, hacq, Bool.false_eq_true, if_false]

/-- What sending messages and filling copies leaves for a thread. -/
theorem GoesTo.of_blocks {s' : State} (h : GoesTo s o b t d n x th) (hb : s'.blocks = s.blocks) : GoesTo s' o b t d n x th :=
  { h with block := by rw [State.getBlock, hb]; exact h.block }

/-- A plain load that is performed delivers the words of its bytes, and is gone. -/
theorem performOp_load (h : GoesTo s o b t d n x th) (hacq : o.acq = false) {sg : Bool} (hk : o.kind = .load sg) {reply bs : List Byte}
    (hbytes : (o.tgts.zipIdx.map fun e => (s.loadByte o reply[e.2]? e.1).1) = bs.map some) (hlen : (destWords sg bs).length ≤ 4)
    (hx : d = .x → (destWords sg bs).length ≤ 1) :
    let s' := (s.performOp o reply).pruneBarriers
    (∃ th', s'.getThread b t = some th' ∧ Delivered o d (destWords sg bs) th th') ∧ (∀ p ∈ s'.ops, p.id ≠ o.id) ∧ s.sameMemory s' ∧
      s'.pads = s.pads := by
  obtain ⟨heard, hhear⟩ := hearReply_eq s o
  obtain ⟨outbox, roofwalk, hsend⟩ := sendRemote_eq { s with links := { s.links with heard } } o
  have hperform : s.performOp o reply = (s.hearReply o).performLoad o sg reply := by simp only [State.performOp, hk]
  obtain ⟨obs, hload⟩ := performLoad_eq (s := s.hearReply o) (reply := reply) (sg := sg) hacq (by rw [hhear, hsend]; exact hbytes)
  rw [hhear, hsend] at hload
  obtain ⟨views, hcopies⟩ := fillCopies_eq { s with links := { s.links with heard }, outbox, roofwalk } o
  rw [hcopies] at hload
  have hgoes := h.of_blocks (s' := { s with links := { s.links with heard }, outbox, roofwalk, views }) rfl
  obtain ⟨th1, hdone, hdel⟩ := onlyThread_completes hgoes hlen hx
  obtain ⟨th2, hseen, hflags, hholds⟩ := onlyThread_observe hdone.thread obs
  have hall := hdone.trans hseen
  rw [← h.blk, ← h.tids] at hall
  obtain ⟨hblocks, hmem, hpads, hgone⟩ := leavesFlight hacq
    ((((({ s with links := { s.links with heard }, outbox, roofwalk, views } : State).deliver o (destWords sg bs)).finishFlag o.blk o.tids o.uniform
      o.flag).observe o.blk o.tids obs)) obs
  dsimp only
  rw [hperform, hhear, hload]
  refine ⟨⟨th2, ?_, hdel.of_same hflags hholds⟩, hgone, fun pa => ?_, hpads.trans hall.pads_eq⟩
  · rw [getThread_of_blocks hblocks]
    exact h.blk ▸ hall.thread
  · rw [State.rd8, hmem]
    exact hall.memory pa

end Load

/-- Of the parts of O15: a plain load. -/
theorem loadsDeliverTheirWords : LoadsDeliverTheirWords := by
  intro s o sg reply t n d x th bs hop hlane hk htgts hready hreach htids hdst hclob hacq hx ht himage hd hlines hbytes hn hlen h16 hdx
  have hne : bs ≠ [] := by
    rintro rfl
    exact htgts (by simpa using hbytes)
  have hwords := destWords_length hne hlen sg
  have hgoes : GoesTo s o o.blk t d n x th := ⟨rfl, htids, hlane, hdst, hclob, hx, ht, himage, hlines, hd⟩
  have hexec : exec (.loadCompletion o.id reply) s = .next (s.performOp o reply).pruneBarriers := by
    have he : exec (.loadCompletion o.id reply) s = execLoadCompletion o.id reply s := rfl
    have hempty : o.tgts.isEmpty = false := by simpa using htgts
    simp only [he, execLoadCompletion, hop, hlane, hready, hk, hempty, hreach, Bool.not_true, Bool.or_false, Bool.false_eq_true, if_false]
  obtain ⟨⟨th', hth', hdel⟩, hgone, hsame, hpads⟩ := performOp_load hgoes hacq hk hbytes (by omega) fun e => by
    have := hdx e
    omega
  rw [destWords_eq hne hlen] at hdel
  refine ⟨_, hexec, ?_, ?_, hgone, hsame, hpads⟩
  · rw [State.thread_of_get hth']
    exact hdel.words
  · rw [State.thread_of_get hth']
    exact hdel.flag

/-- An LD.FE's data arrive, and its operation is gone. -/
def State.feArrives (s : State) (o : MemOp) (ws : List Word) : State :=
  let s1 := (s.deliver o ws).finishFlag o.blk o.tids o.uniform o.flag
  { s1 with ops := s1.ops.filter (·.id != o.id) }

/-- Of the parts of O15: the data of an LD.FE, and the wait of a thread for a granule. -/
theorem granuleDataArrive : GranuleDataArrive := by
  refine ⟨?_, ?_⟩
  · intro s o reply t n d x th hop hlane hk hready htids hdst hclob hx ht himage hd hlines hdx h16
    have hne : o.data ≠ [] := fun h => by simp [h] at h16
    have hlen : o.data.length < 3 ∨ 4 ∣ o.data.length := by omega
    have hwords := destWords_length hne hlen false
    have hgoes : GoesTo s o o.blk t d n x th := ⟨rfl, htids, hlane, hdst, hclob, hx, ht, himage, hlines, hd⟩
    obtain ⟨th', hdone, hdel⟩ := onlyThread_completes hgoes (ws := destWords false o.data) (by omega) fun e => absurd e hdx
    have hexec : exec (.loadCompletion o.id reply) s = .next (s.feArrives o (destWords false o.data)) := by
      have he : exec (.loadCompletion o.id reply) s = execLoadCompletion o.id reply s := rfl
      simp only [he, execLoadCompletion, hop, hlane, hready, hk, Bool.not_true, Bool.or_false, Bool.false_eq_true, if_false, State.feArrives]
    have hth : (s.feArrives o (destWords false o.data)).thread o.blk t = th' := State.thread_of_get hdone.thread
    rw [← destWords_eq hne hlen]
    refine ⟨_, hexec, ?_, ?_, fun p hp => ?_, hdone.memory⟩
    · rw [hth]
      exact hdel.words
    · rw [hth]
      exact hdel.flag
    · simpa using (List.mem_filter.1 hp).2
  · intro s b t th tg hth hrun hfull hown
    have he : exec (.ldFeWake b t) s = execLdFeWake b t s := rfl
    refine ⟨_, ?_, onlyThread_mod hth fun th => { th with run := .ready, since := s.now }⟩
    simp [he, execLdFeWake, hth, hrun, State.granuleOver, hfull, hown]

/-- Settles O15: the words arrive one register after the other, and the flag is counted down; a full granule ends the wait for it. -/
theorem loadsAndGranuleLoadsDeliverTheirWords : Obligations.LoadsAndGranuleLoadsDeliverTheirWords :=
  ⟨loadsDeliverTheirWords, granuleDataArrive⟩

end Sys2Proof.Machine
end

section
/-! PROOF. Shadow regions are mapped (06_memory.md R168). -/

namespace Sys2Proof.Machine

open Claims

/-! What a mapping changes: the regions of one block, and one thread of it. -/

/-- A step that sets the regions of a block, and leaves threads, memory and views. -/
structure SetsRegions (s s' : State) (b : Nat) (rs : List Region) : Prop where
  threads : ∀ c u, s'.getThread c u = s.getThread c u
  regions : (s'.block b).regions = rs
  blocks : ∀ c, { s'.block c with threads := [], regions := [] } = { s.block c with threads := [], regions := [] }
  mem : s'.mem = s.mem
  views : s'.views = s.views

/-- Two states with the same blocks, memory and views. -/
structure SameCells (s s' : State) : Prop where
  blocks : s'.blocks = s.blocks
  mem : s'.mem = s.mem
  views : s'.views = s.views

theorem sameCells_of_fresh {s s' : State} {n : Nat} (h : s' = { s with fresh := n }) : SameCells s s' := by
  subst h
  exact ⟨rfl, rfl, rfl⟩

theorem sameCells_pads (s : State) (pads : List (Nat × Byte)) : SameCells { s with pads } s := ⟨rfl, rfl, rfl⟩

section Regions

variable {s s' s1 s2 : State} {b t : Nat} {x : Block} {th : Thread} {rs : List Region}

theorem setsRegions_refl (hx : s.getBlock b = some x) : SetsRegions s s b x.regions :=
  ⟨fun _ _ => rfl, by rw [State.block_of_get hx], fun _ => rfl, rfl, rfl⟩

theorem setsRegions_modBlock (hx : s.getBlock b = some x) (f : List Region → List Region) :
    SetsRegions s (s.modBlock b fun y => { y with regions := f y.regions }) b (f x.regions) where
  threads := getThread_modBlock_of_threads s b (f := fun y => { y with regions := f y.regions }) fun _ => rfl
  regions := congrArg Block.regions (State.block_modBlock_self hx _)
  blocks := block_modBlock_field (fun y : Block => { y with threads := [], regions := [] }) (f := fun y => { y with regions := f y.regions })
    (fun _ => rfl) s b
  mem := State.modBlock_mem s b _
  views := State.modBlock_views s b _

/-- What a state holds outside its blocks, its memory and its views is no matter, before the step or after it. -/
theorem SetsRegions.congr {r r' : State} (h : SetsRegions s s' b rs) (hr : SameCells s r) (hr' : SameCells s' r') : SetsRegions r r' b rs where
  threads c u := by rw [getThread_of_blocks hr'.blocks, getThread_of_blocks hr.blocks, h.threads]
  regions := by rw [block_of_blocks hr'.blocks, h.regions]
  blocks c := by rw [block_of_blocks hr'.blocks, block_of_blocks hr.blocks, h.blocks]
  mem := by rw [hr'.mem, hr.mem, h.mem]
  views := by rw [hr'.views, hr.views, h.views]

theorem SetsRegions.then (h : SetsRegions s s1 b rs) (g : OnlyThread s1 s2 b t th) : RegionsOnly s s2 b t th rs where
  thread := g.thread
  regions := by rw [onlyThread_field g Block.regions (fun _ => rfl), h.regions]
  others c u hne := (g.others c u hne).trans (h.threads c u)
  blocks c := by
    have e := congrArg (fun y : Block => { y with regions := [] }) (g.blocks c)
    exact Eq.trans e (h.blocks c)
  memory pa := (g.memory pa).trans (sameMemory_of_mem_eq h.mem pa)
  views := by
    have e := congrArg State.views g.rest
    exact Eq.trans e h.views

theorem SetsRegions.retires (h : SetsRegions s s1 b rs) (hr : Resides s b t x th) :
    OnlyThread s1 (s1.retire b t 1 .fall) b t (gone th 1) := by
  have hth : s1.getThread b t = some th := (h.threads b t).trans (State.getThread_eq_some.2 ⟨x, hr.block, hr.thread⟩)
  obtain ⟨y, hy, -⟩ := State.getThread_eq_some.1 hth
  have e := h.blocks b
  rw [State.block_of_get hy, State.block_of_get hr.block] at e
  have hlife : y.life = .resident ∧ y.mark = none := ⟨(congrArg Block.life e).trans hr.resident.1, (congrArg Block.mark e).trans hr.resident.2⟩
  exact retire_fall hy hth hlife

/-- The step's instruction retires in a running block. -/
theorem SetsRegions.retire (h : SetsRegions s s1 b rs) (hr : Resides s b t x th) : RegionsOnly s (s1.retire b t 1 .fall) b t (gone th 1) rs :=
  h.then (h.retires hr)

end Regions

/-! SMAP. -/

/-- Regions are kept by their offsets; the set is what counts. -/
theorem mem_placeRegion {r q : Region} {rs : List Region} : q ∈ placeRegion r rs ↔ q ∈ rs ∨ q = r := by
  induction rs with
  | nil => simp [placeRegion]
  | cons p rs ih =>
    unfold placeRegion
    split
    · simp only [List.mem_cons]
      tauto
    · simp only [List.mem_cons, ih]
      tauto

theorem rangesMeet_eq_false {a n b m : Nat} : rangesMeet a n b m = false ↔ a + n ≤ b ∨ b + m ≤ a := by
  simp only [rangesMeet, Bool.and_eq_false_iff, decide_eq_false_iff_not]
  omega

/-- The condition under which SMAP traps, as the model tests it. -/
def badRegion (x : Block) (off len : Nat) (g : DWord) : Bool :=
  len = 0 || len % 256 != 0 || off % 256 != 0 || g.toNat % 256 != 0 || off + len > 16 * x.spLen || !canonical g ||
    x.regions.any (fun r => rangesMeet off len r.off r.len) || x.regions.length ≥ 8

theorem badRegion_eq_false {x : Block} {off len : Nat} {g : DWord} : badRegion x off len g = false ↔ regionOk x off len g := by
  have hany : (x.regions.any fun r => rangesMeet off len r.off r.len) = false ↔ ∀ r ∈ x.regions, off + len ≤ r.off ∨ r.off + r.len ≤ off := by
    simp only [List.any_eq_false, Bool.not_eq_true, rangesMeet_eq_false]
  simp only [badRegion, Bool.or_eq_false_iff, decide_eq_false_iff_not, bne_eq_false_iff_eq, Bool.not_eq_false', hany, regionOk]
  constructor
  · rintro ⟨⟨⟨⟨⟨⟨⟨h1, h2⟩, h3⟩, h4⟩, h5⟩, h6⟩, h7⟩, h8⟩
    exact ⟨h1, h2, h3, h4, by omega, h6, h7, by omega⟩
  · rintro ⟨h1, h2, h3, h4, h5, h6, h7, h8⟩
    exact ⟨⟨⟨⟨⟨⟨⟨h1, h2⟩, h3⟩, h4⟩, by omega⟩, h6⟩, h7⟩, by omega⟩

/-- The body of SMAP. -/
def smapBody (d a c : LReg) (k t : Nat) : M Unit := do
  let g ← src2 k t a
  let off := (← src k t c).toNat
  let len := (← src k t d).toNat
  let x ← getB k
  if !(x.regions.any fun r => r.off == off && r.len == len && r.global == g) then
    if badRegion x off len g then trap .smapArg
    updB k fun x => { x with regions := placeRegion { off, len, global := g, present := [], dirty := [] } x.regions }

theorem exec_smap (d a c : LReg) (s : State) : exec (.smap d a c) s = laneExec (.smap d a c) (laneFall (smapBody d a c)) s := rfl

section Smap

variable {d a c : LReg} {s s1 s2 s3 : State} {b t : Nat} {y : Block} {g : DWord} {off len : Word}
  (ha : src2 b t a s = .ok (g, s1)) (hc : src b t c s1 = .ok (off, s2)) (hd : src b t d s2 = .ok (len, s3)) (hy : s3.getBlock b = some y)
include ha hc hd hy

theorem smapBody_stands (h : ∃ r ∈ y.regions, r.off = off.toNat ∧ r.len = len.toNat ∧ r.global = g) :
    smapBody d a c b t s = .ok ((), s3) := by
  have hany : (y.regions.any fun r => r.off == off.toNat && r.len == len.toNat && r.global == g) = true := by
    obtain ⟨r, hr, ho, hl, hg⟩ := h
    exact List.any_eq_true.2 ⟨r, hr, by simp [ho, hl, hg]⟩
  rw [smapBody, bind_ok ha, bind_ok hc, bind_ok hd, bind_ok (getB_run hy), hany]
  rfl

section New

variable (h : ∀ r ∈ y.regions, ¬(r.off = off.toNat ∧ r.len = len.toNat ∧ r.global = g))
include h

theorem smapBody_new (hok : regionOk y off.toNat len.toNat g) :
    smapBody d a c b t s = .ok ((), s3.modBlock b fun x =>
      { x with regions := placeRegion { off := off.toNat, len := len.toNat, global := g, present := [], dirty := [] } x.regions }) := by
  have hany : (y.regions.any fun r => r.off == off.toNat && r.len == len.toNat && r.global == g) = false := by
    simpa [and_assoc] using h
  rw [smapBody, bind_ok ha, bind_ok hc, bind_ok hd, bind_ok (getB_run hy), hany, badRegion_eq_false.2 hok]
  rfl

theorem smapBody_bad (hbad : ¬regionOk y off.toNat len.toNat g) : smapBody d a c b t s = .error (.trap .smapArg 0 0) := by
  have hany : (y.regions.any fun r => r.off == off.toNat && r.len == len.toNat && r.global == g) = false := by
    simpa [and_assoc] using h
  have htest : badRegion y off.toNat len.toNat g = true := by
    rw [← Bool.not_eq_false]
    exact mt badRegion_eq_false.1 hbad
  rw [smapBody, bind_ok ha, bind_ok hc, bind_ok hd, bind_ok (getB_run hy), hany, htest]
  rfl

end New

end Smap

/-- Of the parts of O22: SMAP. -/
theorem smapAddsARegion : SmapAddsARegion := by
  intro d a c s s1 s2 s3 b t x y th u g off len hr ha hc hd hu same
  have retires {s' : State} (hbody : smapBody d a c b t s = .ok ((), s')) : exec (.smap d a c) s = .next (s'.retire b t 1 .fall) :=
    (exec_smap d a c s).trans (laneExec_fall hr.issues rfl hbody)
  have stands (h : ∃ r ∈ y.regions, same r) :
      ∃ s', exec (.smap d a c) s = .next s' ∧ RegionsOnly s3 s' b t (gone u 1) y.regions :=
    ⟨_, retires (smapBody_stands ha hc hd hu.block h), (setsRegions_refl hu.block).retire hu⟩
  have adds (h : ∀ r ∈ y.regions, ¬same r) (hok : regionOk y off.toNat len.toNat g) :
      ∃ s', exec (.smap d a c) s = .next s' ∧ RegionsOnly s3 s' b t (gone u 1)
        (placeRegion { off := off.toNat, len := len.toNat, global := g, present := [], dirty := [] } y.regions) :=
    ⟨_, retires (smapBody_new ha hc hd hu.block h hok), (setsRegions_modBlock hu.block (placeRegion _)).retire hu⟩
  refine ⟨fun h => ?_, stands, fun h hok => ?_, fun h hbad htrap => ?_⟩
  · by_cases hsame : ∃ r ∈ y.regions, same r
    · obtain ⟨s', he, hs'⟩ := stands hsame
      exact ⟨s', he, hs'.thread⟩
    · obtain ⟨s', he, hs'⟩ := adds (by simpa using hsame) (h.resolve_left hsame)
      exact ⟨s', he, hs'.thread⟩
  · obtain ⟨s', he, hs'⟩ := adds h hok
    exact ⟨s', _, he, hs', fun r => mem_placeRegion⟩
  · exact ⟨_, (exec_smap d a c s).trans (laneExec_halts hr.issues (smapBody_bad ha hc hd hu.block h hbad)), stopAt_trap htrap .smapArg 0 0⟩

end Sys2Proof.Machine
end

section
/-! PROOF. Shadow regions are written back and unmapped (06_memory.md R154, R169). -/

namespace Sys2Proof.Machine

open Claims

/-! What an instruction leaves that commits its reads at the end. -/

/-- The state once operands have been read that may not be readable. -/
def afterReads {α : Type} (reads : M α) (s : State) : State := match reads s with | .ok q => q.2 | .error _ => s

section Commits

variable {α : Type} {reads : M α} {work : α → State → State × Option Stop} {s s1 s2 : State} {a : α} (hr : reads s = .ok (a, s1))
include hr

theorem commitReads_stops {st : Stop} (hw : work a s = (s2, some st)) : commitReads reads work s = .ok (.stops st, s2) := by
  unfold commitReads
  rw [hr]
  dsimp only
  rw [hw]

theorem commitReads_fall (hw : work a s = (s2, none)) :
    commitReads reads work s = .ok (.fall, afterReads reads s2) := by
  unfold commitReads afterReads
  rw [hr]
  dsimp only
  rw [hw]
  dsimp only
  split <;> rename_i heq <;> rw [heq]

end Commits

/-- A second read of a register that is no queue takes nothing but undefined values. -/
theorem reread_fresh {α : Type} {reads : M α} (h : ∀ {s s' a}, reads s = .ok (a, s') → ∃ n, s' = { s with fresh := n }) (s : State) :
    ∃ n, afterReads reads s = { s with fresh := n } := by
  unfold afterReads
  split
  next q hq => exact h hq
  · exact ⟨s.fresh, rfl⟩

/-- The operands of an SWB: the offset and the length. -/
def swbReads (d c : LReg) (k t : Nat) : M (Nat × Nat) := do return ((← src k t c).toNat, (← src k t d).toNat)

theorem exec_sunmap (c : LReg) (s : State) :
    exec (.sunmap c) s = laneExec (.sunmap c) (fun k t => commitReads (src k t c) fun off s => s.unmapRegion k t off.toNat) s := rfl

theorem exec_swb (d c : LReg) (s : State) : exec (.swb d c) s =
    laneExec (.swb d c) (fun k t => commitReads (swbReads d c k t) fun q s => s.writeBackRange k t q.1 q.2) s := rfl

section Reads

variable {d c : LReg} {s s1 s2 : State} {b t : Nat} {off len : Word}

theorem swbReads_run (hc : src b t c s = .ok (off, s1)) (hd : src b t d s1 = .ok (len, s2)) :
    swbReads d c b t s = .ok ((off.toNat, len.toNat), s2) := by
  rw [swbReads, bind_ok hc, bind_ok hd]
  rfl

theorem swbReads_fresh (hqc : isQueue c = false) (hqd : isQueue d = false) {q : Nat × Nat} (h : swbReads d c b t s = .ok (q, s1)) :
    ∃ n, s1 = { s with fresh := n } := by
  obtain ⟨w, s2, hc, h⟩ := bind_ok_inv h
  obtain ⟨v, s3, hd, h⟩ := bind_ok_inv h
  obtain ⟨n, rfl⟩ := src_fresh hqc hc
  obtain ⟨m, rfl⟩ := src_fresh hqd hd
  cases h
  exact ⟨m, rfl⟩

end Reads

/-- Of the parts of O22: SUNMAP ends as its write-back does. -/
theorem sunmapEnds {c : LReg} {s s1 s2 : State} {b t : Nat} {x : Block} {th : Thread} {off : Word} (hr : Runs (.sunmap c) s b t x th)
    (hc : src b t c s = .ok (off, s1)) :
    (s.unmapRegion b t off.toNat = (s2, none) →
      exec (.sunmap c) s = .next ((match src b t c s2 with | .ok q => q.2 | .error _ => s2).retire b t 1 .fall)) ∧
    ∀ st, s.unmapRegion b t off.toNat = (s2, some st) → exec (.sunmap c) s = .next (s2.retire b t 1 (.stops st)) := by
  refine ⟨fun hw => ?_, fun _ hw => (exec_sunmap c s).trans (laneExec_retires hr (commitReads_stops hc hw))⟩
  have he : exec (.sunmap c) s = .next ((afterReads (src b t c) s2).retire b t 1 .fall) :=
    (exec_sunmap c s).trans (laneExec_retires hr (commitReads_fall hc hw))
  rw [he, afterReads]
  cases src b t c s2 <;> rfl

/-- Of the parts of O22: SWB ends as its write-back does. -/
theorem swbEndsAs {d c : LReg} {s s1 s2 s3 : State} {b t : Nat} {x : Block} {th : Thread} {off len : Word} (hr : Runs (.swb d c) s b t x th)
    (hc : src b t c s = .ok (off, s1)) (hd : src b t d s1 = .ok (len, s2)) :
    (s.writeBackRange b t off.toNat len.toNat = (s3, none) → isQueue c = false → isQueue d = false →
      ∃ n, exec (.swb d c) s = .next (State.retire { s3 with fresh := n } b t 1 .fall)) ∧
    ∀ st, s.writeBackRange b t off.toNat len.toNat = (s3, some st) → exec (.swb d c) s = .next (s3.retire b t 1 (.stops st)) := by
  have hreads := swbReads_run hc hd
  refine ⟨fun hw hqc hqd => ?_, fun st hw => (exec_swb d c s).trans (laneExec_retires hr (commitReads_stops hreads hw))⟩
  obtain ⟨n, hn⟩ := reread_fresh (fun h => swbReads_fresh (b := b) (t := t) hqc hqd h) s3
  exact ⟨n, by rw [← hn]; exact (exec_swb d c s).trans (laneExec_retires hr (commitReads_fall hreads hw))⟩

/-! Scratchpad bytes that are dropped. -/

theorem Cells.get?_dropRange {α : Type} (k lo hi : Nat) (m : List (Nat × α)) :
    Cells.get? k (Cells.dropRange lo hi m) = if lo ≤ k ∧ k < hi then none else Cells.get? k m := by
  induction m with
  | nil => simp [Cells.dropRange]
  | cons e m ih =>
    obtain ⟨j, a⟩ := e
    rw [Cells.dropRange, List.filter_cons]
    rw [Cells.dropRange] at ih
    by_cases hj : j = k
    · subst hj
      by_cases hin : lo ≤ j ∧ j < hi
      · simpa [hin, Cells.get?] using ih
      · rw [if_pos (by simpa [imp_iff_not_or] using hin), if_neg hin, Cells.get?, Cells.get?, if_pos rfl, if_pos rfl]
    · split
      · rw [Cells.get?, if_neg hj, ih, Cells.get?, if_neg hj]
      · rw [ih, Cells.get?, if_neg hj]

theorem Cells.getD_dropRange {α : Type} (k : Nat) (d : α) (lo hi : Nat) (m : List (Nat × α)) :
    Cells.getD k d (Cells.dropRange lo hi m) = if lo ≤ k ∧ k < hi then d else Cells.getD k d m := by
  rw [Cells.getD, Cells.get?_dropRange]
  split <;> rfl

/-- Dropped units read as zero, and other bytes as before. -/
theorem getD_dropUnits (start k : Nat) (us : List Nat) (m : List (Nat × Byte)) :
    Cells.getD k 0 (us.foldl (fun m u => Cells.dropRange (start + 256 * u) (start + 256 * u + 256) m) m) =
      if ∃ u ∈ us, start + 256 * u ≤ k ∧ k < start + 256 * u + 256 then 0 else Cells.getD k 0 m := by
  induction us generalizing m with
  | nil => simp
  | cons u us ih =>
    rw [List.foldl_cons, ih, Cells.getD_dropRange]
    simp only [List.exists_mem_cons_iff]
    split <;> split <;> simp_all

/-! Nothing dirty: nothing is written. -/

section Clean

variable {s : State} {b t : Nat} {x : Block}

theorem threadWritesBack_nil : s.threadWritesBack b t [] = (s, none) := by
  simp [State.threadWritesBack, State.writeBackUnits, State.markWrites]

theorem unmapRegion_none (hx : s.getBlock b = some x) {off : Nat} (h : ∀ r ∈ x.regions, r.off ≠ off) :
    s.unmapRegion b t off = (s, none) := by
  have hfind : x.regions.find? (·.off == off) = none := by simpa using h
  unfold State.unmapRegion
  rw [State.block_of_get hx]
  dsimp only
  rw [hfind]

/-- The bytes of the scratchpad once a region is removed: those of its units never filled are zero. -/
def zeroAbsent (x : Block) (r : Region) (pads : List (Nat × Byte)) : List (Nat × Byte) :=
  ((List.range (r.len / 256)).filter fun u => !r.present.contains u).foldl (fun m u =>
    Cells.dropRange (padKey x.padCore (16 * x.spBase + r.off) + 256 * u) (padKey x.padCore (16 * x.spBase + r.off) + 256 * u + 256) m) pads

theorem unmapRegion_clean (hx : s.getBlock b = some x) {off : Nat} {r : Region} (hfind : x.regions.find? (·.off == off) = some r)
    (hclean : r.dirty = []) (hwait : s.regionWait b t r.off (r.off + r.len) = none) :
    s.unmapRegion b t off = (State.modBlock { s with pads := zeroAbsent x r s.pads } b fun y =>
      { y with regions := y.regions.filter (·.off != off) }, none) := by
  unfold State.unmapRegion
  rw [State.block_of_get hx]
  dsimp only
  rw [hfind]
  dsimp only
  rw [hwait, hclean, List.map_nil, threadWritesBack_nil]
  rfl

theorem getD_zeroAbsent (x : Block) (r : Region) (pads : List (Nat × Byte)) (k : Nat) :
    Cells.getD k 0 (zeroAbsent x r pads) =
      if ∃ u, u < r.len / 256 ∧ u ∉ r.present ∧ padKey x.padCore (16 * x.spBase + r.off) + 256 * u ≤ k ∧
          k < padKey x.padCore (16 * x.spBase + r.off) + 256 * u + 256
      then 0 else Cells.getD k 0 pads := by
  rw [zeroAbsent, getD_dropUnits]
  simp [and_assoc]

theorem regionWait_part {lo hi l h : Nat} (hw : s.regionWait b t lo hi = none) (hl : lo ≤ l) (hh : h ≤ hi) : s.regionWait b t l h = none := by
  simp only [State.regionWait, Option.map_eq_none_iff, List.find?_eq_none] at hw ⊢
  refine fun p hp hmeets => hw p hp ?_
  simp only [Bool.and_eq_true, List.any_eq_true] at hmeets ⊢
  obtain ⟨hown, u, hu, hin⟩ := hmeets
  refine ⟨hown, u, hu, ?_⟩
  cases u with
  | sp c o =>
    simp only [Bool.and_eq_true, decide_eq_true_eq] at hin ⊢
    obtain ⟨⟨hcore, hlo⟩, hhi⟩ := hin
    exact ⟨⟨hcore, by omega⟩, by omega⟩
  | _ => exact hin

theorem writeBackRange_clean (hx : s.getBlock b = some x)
    (h : ∀ r ∈ x.regions, r.dirty = [] ∧ s.regionWait b t r.off (r.off + r.len) = none) (off len : Nat) :
    s.writeBackRange b t off len = (s, none) := by
  unfold State.writeBackRange
  rw [State.block_of_get hx]
  split
  · rfl
  · have hwaits (p : Region → Nat → Bool) : (x.regions.findSome? fun r => ((List.range (r.len / 256)).filter (p r)).findSome? fun u =>
        s.regionWait b t (r.off + 256 * u) (r.off + 256 * u + 256)) = none := by
      simp only [List.findSome?_eq_none_iff]
      intro r hr u hu
      have hlt : u < r.len / 256 := List.mem_range.1 (List.mem_of_mem_filter hu)
      exact regionWait_part (h r hr).2 (by omega) (by omega)
    have hnone (p : Region → Nat → Bool) : (x.regions.flatMap fun r => (r.dirty.filter (p r)).map fun u => (r.off, u)) = [] := by
      simp only [List.flatMap_eq_nil_iff]
      intro r hr
      rw [(h r hr).1]
      rfl
    dsimp only
    rw [hwaits, hnone]
    exact threadWritesBack_nil

end Clean

/-- Of the parts of O22: SUNMAP of no region, and of a clean one. -/
theorem sunmapRemovesARegion {c : LReg} {s s1 : State} {b t : Nat} {x y : Block} {th w : Thread} {off : Word} (hr : Runs (.sunmap c) s b t x th)
    (hc : src b t c s = .ok (off, s1)) (hq : isQueue c = false) (hu : Resides s1 b t y w) :
    ((∀ r ∈ y.regions, r.off ≠ off.toNat) → ∃ s', exec (.sunmap c) s = .next s' ∧ RegionsOnly s1 s' b t (gone w 1) y.regions) ∧
    ∀ r, y.regions.find? (·.off == off.toNat) = some r → r.dirty = [] → s.regionWait b t r.off (r.off + r.len) = none →
      ∃ s', exec (.sunmap c) s = .next s' ∧ RegionsOnly s1 s' b t (gone w 1) (y.regions.filter fun q => q.off != off.toNat) ∧
        ∀ k, Cells.getD k 0 s'.pads =
          if ∃ u, u < r.len / 256 ∧ u ∉ r.present ∧ padKey y.padCore (16 * y.spBase + r.off) + 256 * u ≤ k ∧
              k < padKey y.padCore (16 * y.spBase + r.off) + 256 * u + 256
          then 0 else Cells.getD k 0 s1.pads := by
  obtain ⟨m, hm⟩ := src_fresh hq hc
  have hx : s.getBlock b = some y := by
    have h := hu.block
    rw [hm] at h
    exact h
  have ends {s2 : State} (hw : s.unmapRegion b t off.toNat = (s2, none)) :
      exec (.sunmap c) s = .next ((afterReads (src b t c) s2).retire b t 1 .fall) :=
    (exec_sunmap c s).trans (laneExec_retires hr (commitReads_fall hc hw))
  have after (s2 : State) := reread_fresh (reads := src b t c) (src_fresh hq) s2
  refine ⟨fun h => ?_, fun r hfind hclean hwait => ?_⟩
  · obtain ⟨n, hn⟩ := after s
    have hset := (setsRegions_refl hx).congr (sameCells_of_fresh hm) (sameCells_of_fresh hn)
    exact ⟨_, ends (unmapRegion_none hx h), hset.retire hu⟩
  · obtain ⟨n, hn⟩ := after (State.modBlock { s with pads := zeroAbsent y r s.pads } b fun y =>
      { y with regions := y.regions.filter (·.off != off.toNat) })
    have hset := setsRegions_modBlock (s := { s with pads := zeroAbsent y r s.pads }) hx (·.filter (·.off != off.toNat))
    have hsteps := (hset.congr (sameCells_pads s _) ⟨rfl, rfl, rfl⟩).congr (sameCells_of_fresh hm) (sameCells_of_fresh hn)
    have hpads : (afterReads (src b t c) _).pads = zeroAbsent y r s.pads := (congrArg State.pads hn).trans (State.modBlock_pads _ b _)
    refine ⟨_, ends (unmapRegion_clean hx hfind hclean hwait), hsteps.retire hu, fun k => ?_⟩
    rw [(hsteps.retires hu).pads_eq, hpads, getD_zeroAbsent, hm]

/-- Of the parts of O22: SWB with nothing dirty. -/
theorem swbCleanGoesOn {d c : LReg} {s s1 s2 : State} {b t : Nat} {x y : Block} {th w : Thread} {off len : Word} (hr : Runs (.swb d c) s b t x th)
    (hc : src b t c s = .ok (off, s1)) (hd : src b t d s1 = .ok (len, s2)) (hqc : isQueue c = false) (hqd : isQueue d = false)
    (hu : Resides s2 b t y w) (h : ∀ r ∈ y.regions, r.dirty = [] ∧ s.regionWait b t r.off (r.off + r.len) = none) :
    ∃ s', exec (.swb d c) s = .next s' ∧ RegionsOnly s2 s' b t (gone w 1) y.regions := by
  have hreads := swbReads_run hc hd
  obtain ⟨m, hm⟩ := swbReads_fresh hqc hqd hreads
  obtain ⟨n, hn⟩ := reread_fresh (fun h => swbReads_fresh (b := b) (t := t) hqc hqd h) s
  have hx : s.getBlock b = some y := by
    have h := hu.block
    rw [hm] at h
    exact h
  have he : exec (.swb d c) s = .next ((afterReads (swbReads d c b t) s).retire b t 1 .fall) :=
    (exec_swb d c s).trans (laneExec_retires hr (commitReads_fall hreads (writeBackRange_clean hx h _ _)))
  have hset := (setsRegions_refl hx).congr (sameCells_of_fresh hm) (sameCells_of_fresh hn)
  exact ⟨_, he, hset.retire hu⟩

end Sys2Proof.Machine
end

section
/-! PROOF. One unit of a shadow region is written back (06_memory.md R154, 18_errors.md R430). -/

namespace Sys2Proof.Machine

open Claims

/-- One byte of a unit goes home, and into the view where the view holds it. -/
def State.sendPadByte (core pa padCore start : Nat) (key : Option Nat) (s : State) (i : Nat) : State :=
  let v := Cells.getD (padKey padCore (start + i)) 0 s.pads
  let s := match s.pinAt (pa + i) with
    | some p => s.writePin p.line (pa + i) v
    | none => s.setHomeByte (pa + i) key v
  match Cells.get? (viewKey core key (pa + i)) s.views with
  | some _ => { s with views := Cells.set (viewKey core key (pa + i)) v s.views }
  | none => s

/-- A unit of a block's region is clean. -/
def Block.cleanUnit (r : Region) (u : Nat) (x : Block) : Block := x.modRegion r.off fun q => { q with dirty := Cells.remove u q.dirty }

theorem not_dirty_cleanUnit (r : Region) (u : Nat) (x : Block) {q : Region} (hq : q ∈ (x.cleanUnit r u).regions) (ho : q.off = r.off) :
    u ∉ q.dirty := by
  obtain ⟨p, -, rfl⟩ := List.mem_map.1 hq
  by_cases hp : p.off = r.off
  · rw [if_pos hp]
    exact Cells.not_mem_remove u p.dirty
  · rw [if_neg hp] at ho
    exact absurd ho hp

section Sends

variable {core pa padCore start : Nat} {key : Option Nat} {s : State}

theorem sendPadByte_blocks (i : Nat) : (s.sendPadByte core pa padCore start key i).blocks = s.blocks := by
  unfold State.sendPadByte
  dsimp only
  split <;> split
  · rfl
  · exact setHomeByte_blocks _ _ _ _
  · rfl
  · exact setHomeByte_blocks _ _ _ _

theorem sendUnit_blocks (is : List Nat) : (is.foldl (State.sendPadByte core pa padCore start key) s).blocks = s.blocks := by
  induction is generalizing s with
  | nil => rfl
  | cons i is ih => exact ih.trans (sendPadByte_blocks i)

/-- The state once the first bytes of a unit are home. -/
structure SentHome (s s' : State) (pa padCore start n : Nat) : Prop where
  pads : s'.pads = s.pads
  pins : s'.pins = s.pins
  bytes : ∀ i, i < n → s'.rd8 (pa + i) = Cells.getD (padKey padCore (start + i)) 0 s.pads

theorem wr8_pads (pa : Nat) (v : Byte) : (s.wr8 pa v).pads = s.pads := by
  unfold State.wr8
  split <;> rfl

theorem wr8_pins (pa : Nat) (v : Byte) : (s.wr8 pa v).pins = s.pins := by
  unfold State.wr8
  split <;> rfl

/-- Without a pin or a key a byte goes plainly home. -/
theorem sendPadByte_plain {i : Nat} (hpin : s.pinAt (pa + i) = none) :
    let s1 := s.wr8 (pa + i) (Cells.getD (padKey padCore (start + i)) 0 s.pads)
    let s' := s.sendPadByte core pa padCore start none i
    s'.pads = s1.pads ∧ s'.pins = s1.pins ∧ s'.mem = s1.mem := by
  unfold State.sendPadByte
  rw [hpin]
  dsimp only [State.setHomeByte]
  split <;> exact ⟨rfl, rfl, rfl⟩

theorem SentHome.next {s1 : State} {n : Nat} (h : SentHome s s1 pa padCore start n) (hpin : s.pinAt (pa + n) = none) (hdev : pa + n < devSize) :
    SentHome s (s1.sendPadByte core pa padCore start none n) pa padCore start (n + 1) := by
  have hpin1 : s1.pinAt (pa + n) = none := by
    rw [State.pinAt, h.pins]
    exact hpin
  obtain ⟨hpads, hpins, hmem⟩ := sendPadByte_plain (core := core) (padCore := padCore) (start := start) hpin1
  refine ⟨hpads.trans ((wr8_pads _ _).trans h.pads), hpins.trans ((wr8_pins _ _).trans h.pins), fun i hi => ?_⟩
  rw [State.rd8, hmem, ← State.rd8, rd8_wr8 s1 hdev, h.pads]
  by_cases hin : i = n
  · rw [hin, if_pos rfl]
  · rw [if_neg (by omega)]
    exact h.bytes i (by omega)

theorem sendUnit_sentHome {n : Nat} (hdev : pa + n ≤ devSize) (hpins : ∀ i, i < n → s.pinAt (pa + i) = none) :
    SentHome s ((List.range n).foldl (State.sendPadByte core pa padCore start none) s) pa padCore start n := by
  induction n with
  | zero => exact ⟨rfl, rfl, fun i hi => absurd hi (by omega)⟩
  | succ n ih =>
    rw [List.range_succ, List.foldl_append]
    exact (ih (by omega) fun i hi => hpins i (by omega)).next (hpins n (by omega)) (by omega)

end Sends

/-- A thread's record of the writes it has seen is no part of memory or of a block's regions. -/
theorem observe_keeps (s : State) (b : Nat) (tids obs : List Nat) :
    (s.observe b tids obs).mem = s.mem ∧ ∀ c, ((s.observe b tids obs).block c).regions = (s.block c).regions := by
  unfold State.observe
  split
  · exact ⟨rfl, fun _ => rfl⟩
  · induction tids generalizing s with
    | nil => exact ⟨rfl, fun _ => rfl⟩
    | cons t tids ih =>
      obtain ⟨hmem, hregions⟩ := ih (s.modThread b t fun th => { th with observed := (th.observed ++ obs).dedup })
      exact ⟨hmem.trans (by simp), fun c => (hregions c).trans (block_modThread_field Block.regions (fun _ => rfl) _ _ _ _ _)⟩

/-- The unit's writes take a number, and the parity they change is owed. -/
def State.owesUnit (pa : Nat) (s : State) : State := { s with thatch := s.thatch.owe s.seq pa 256, seq := s.seq + 1 }

theorem rd8_owesUnit (pa q : Nat) (s : State) : (s.owesUnit pa).rd8 q = s.rd8 q := rfl

/-- The state once the bytes of a unit are home. -/
def State.sendUnit (core pa : Nat) (x : Block) (r : Region) (u : Nat) (s : State) : State :=
  ((List.range 256).foldl (State.sendPadByte core pa x.padCore (16 * x.spBase + r.off + 256 * u) (s.ctxKey x.ctx)) s).owesUnit pa

theorem getBlock_sendUnit (s : State) (core pa : Nat) (x : Block) (r : Region) (u b : Nat) :
    (s.sendUnit core pa x r u).getBlock b = s.getBlock b := by
  rw [State.getBlock, State.sendUnit, State.owesUnit, sendUnit_blocks, State.getBlock]

theorem rd8_sendUnit {s : State} {core pa : Nat} {x : Block} {r : Region} {u : Nat} (hkey : s.ctxKey x.ctx = none) (hdev : pa + 256 ≤ devSize)
    (hpins : ∀ i, i < 256 → s.pinAt (pa + i) = none) {i : Nat} (hi : i < 256) :
    (s.sendUnit core pa x r u).rd8 (pa + i) = Cells.getD (padKey x.padCore (16 * x.spBase + r.off + 256 * u + i)) 0 s.pads := by
  have hsent := sendUnit_sentHome (core := core) (padCore := x.padCore) (start := 16 * x.spBase + r.off + 256 * u) hdev hpins
  rw [State.sendUnit, rd8_owesUnit, hkey, hsent.bytes i hi]

section Unit

variable {s : State} {owner u cluster core pa : Nat} {tids : List Nat} {r : Region} {x : Block} (hx : s.getBlock owner = some x)
  (hphys : s.unitPhys cluster x.ctx (r.global + BitVec.ofNat 64 (256 * u)) .write = .ok pa)
  (hreach : ∀ i, i < 4 → s.reach core (pa + 64 * i) = true)
  (honce : s.atOnce owner tids core true (unitTgts pa (s.ctxKey x.ctx) ++ x.unitPad r u) = none)
include hx hphys hreach honce

/-- The state a unit's write-back leaves: that of a copy only cleans it. -/
theorem writeBackUnit_run : s.writeBackUnit owner r u tids cluster core = .ok (
    if x.isCopy then s.modBlock owner (Block.cleanUnit r u) else
    ((s.sendUnit core pa x r u).modBlock owner (Block.cleanUnit r u)).observe owner tids
      ((s.sendUnit core pa x r u).pinMarks core (unitTgts pa (s.ctxKey x.ctx)))) := by
  have hfind : (List.range 4).find? (fun i => !s.reach core (pa + 64 * i)) = none := by
    simpa using hreach
  have hphys' : s.unitPhys cluster (s.block owner).ctx (r.global + w64 (256 * u)) .write = .ok pa := by
    rw [State.block_of_get hx]
    exact hphys
  unfold State.writeBackUnit
  dsimp only
  rw [hphys']
  dsimp only
  rw [hfind, State.block_of_get hx, honce]
  dsimp only
  split
  · rfl
  · rfl

/-- Of the parts of O22: a unit is written back and clean, and a copy's writes nothing. -/
theorem writeBackUnit_writes : ∃ s', s.writeBackUnit owner r u tids cluster core = .ok s' ∧
    (∀ q ∈ (s'.block owner).regions, q.off = r.off → u ∉ q.dirty) ∧ (x.isCopy = true → s.sameMemory s') ∧
    (x.isCopy = false → s.ctxKey x.ctx = none → pa + 256 ≤ 704 * 2 ^ 30 → (∀ i, i < 256 → s.pinAt (pa + i) = none) →
      ∀ i, i < 256 → s'.rd8 (pa + i) = Cells.getD (padKey x.padCore (16 * x.spBase + r.off + 256 * u + i)) 0 s.pads) := by
  have hrun := writeBackUnit_run hx hphys hreach honce
  cases hcopy : x.isCopy with
  | true =>
    rw [hcopy, if_pos rfl] at hrun
    refine ⟨_, hrun, fun q hq => ?_, fun _ => sameMemory_of_mem_eq (State.modBlock_mem _ _ _), by simp⟩
    rw [State.block_modBlock_self hx] at hq
    exact not_dirty_cleanUnit r u x hq
  | false =>
    rw [hcopy, if_neg Bool.false_ne_true] at hrun
    obtain ⟨hmem, hregions⟩ := observe_keeps ((s.sendUnit core pa x r u).modBlock owner (Block.cleanUnit r u)) owner tids
      ((s.sendUnit core pa x r u).pinMarks core (unitTgts pa (s.ctxKey x.ctx)))
    refine ⟨_, hrun, fun q hq => ?_, by simp, fun _ hkey hdev hpins i hi => ?_⟩
    · rw [hregions, State.block_modBlock_self ((getBlock_sendUnit s core pa x r u owner).trans hx)] at hq
      exact not_dirty_cleanUnit r u x hq
    · rw [State.rd8, hmem, State.modBlock_mem]
      exact rd8_sendUnit hkey hdev hpins hi

end Unit

/-- Settles O22: by the write-back of a list of units, that of none and that of one. -/
theorem regionsAreMappedAndWrittenBack : Obligations.RegionsAreMappedAndWrittenBack :=
  ⟨smapAddsARegion, fun _ _ _ _ _ _ _ _ _ hr hc => sunmapEnds hr hc, fun _ _ _ _ _ _ _ _ _ _ _ _ hr hc hd => swbEndsAs hr hc hd,
    fun _ _ _ _ _ _ _ _ _ _ hr hc hq hu => sunmapRemovesARegion hr hc hq hu,
    fun _ _ _ _ _ _ _ _ _ _ _ _ _ hr hc hd hqc hqd hu h => swbCleanGoesOn hr hc hd hqc hqd hu h,
    fun _ _ _ _ _ _ _ _ _ hx hphys hreach honce => writeBackUnit_writes hx hphys hreach honce⟩

end Sys2Proof.Machine
end

section
/-! PROOF. An SINV whose length is a marked queue entry of the window it discards: O23 fails. -/

namespace Sys2Proof.Machine

open Claims

/-! A compute block whose queue 0 is its headwater slice's, in the block after it. The entry at the head is marked: a pop reads it from
the first bytes of the window (12_headwater.md R288), where a region without a translation has its one unit present. -/

def discardedWindow : DWord := 0xFFFFFFFFFFFC0000

def discardedMark : MarkRec :=
  { addr := discardedWindow, granule := false, gran := 0, queue := 0, slot := 0, tstride := 0, size := 4 }

/-- The slice has put one entry in queue 0, and marked it. -/
def discardedSlice : Slice :=
  { queues := [(0, { tail := 1, bhead := 0, block := false, mark := [0], bval := [] })], marks := [(0, discardedMark)], counts := []
    streams := [], nest := none, flight := [], ended := false }

/-- The thread holds the window's address in v2:v3. -/
def discardingThread : Thread := { Thread.init 0x1004 0 with clauseIdx := 1, v := [(2, 0xFFFC0000), (3, 0xFFFFFFFF)] }

def discardingBlock : Block :=
  { Block.absent with
    ctx := 1, life := .resident, placed := true, allot := 8, full := 8, spLen := 16, partners := [1], cached := List.range 8
    regions := [{ off := 0, len := 256, global := 0x20000, present := [0], dirty := [] }], threads := [discardingThread] }

/-- The machine with these two blocks; the entry's value is 4. -/
def discardingState : State :=
  { State.reset with
    cur := [(0, 0)], pads := [(padKey 0 0, 4)]
    blocks := [(0, discardingBlock),
      (1, { Block.absent with life := .resident, kind := .headwater, pairOf := some 0, slice := some discardedSlice })] }

/-- The state once the operands are read: the entry is popped. -/
def discardingRead : State := afterReads (src 0 0 (.q 0)) discardingState

theorem discarding_pops : src 0 0 (.q 0) discardingState = .ok (4, discardingRead) := rfl

theorem discarding_runs : Runs (.sinv (.q 0) (.v 2)) discardingState 0 0 discardingBlock discardingThread where
  issues := ⟨rfl, by decide, rfl⟩
  block := rfl
  thread := rfl
  resident := ⟨rfl, rfl⟩
  twin := rfl

theorem discarding_resides : Resides discardingRead 0 0 (discardingRead.block 0) (discardingRead.thread 0 0) := ⟨rfl, rfl, rfl, rfl⟩

theorem discardingRead_qhead : (discardingRead.thread 0 0).qhead = [(0, 1)] := rfl

/-- The SINV retires, and its pop is lost: the entry's bytes cannot be read again. -/
theorem sinv_loses_pop {s' : State} (h : exec (.sinv (.q 0) (.v 2)) discardingState = .next s') : (s'.thread 0 0).qhead = [] := by
  cases h
  rfl

/-- Refutes O23, in SINV's second clause: the pops of an instruction that ends are made on the state its work leaves (12 R282), and an entry
marked on the unit that it discards is not popped there, its unit being without a translation; so the thread does not stand as its reads
left it. -/
theorem not_copiesAreDroppedAndFilled : ¬ Obligations.CopiesAreDroppedAndFilled := by
  rintro ⟨hsinv, -⟩
  obtain ⟨-, -, hclauses⟩ := hsinv (.q 0) (.v 2) discardingState discardingState discardingRead 0 0 discardingBlock (discardingRead.block 0)
    discardingThread (discardingRead.thread 0 0) discardedWindow 4 discarding_runs rfl discarding_pops discarding_resides rfl rfl
  obtain ⟨hwindow, -⟩ := hclauses (by decide) (by decide) (by decide)
  obtain ⟨s', hexec, hthread, -⟩ := hwindow (by decide) (by decide) (by rfl)
  have hpopped : (s'.thread 0 0).qhead = [(0, 1)] := by
    rw [State.thread_of_get hthread]
    exact discardingRead_qhead
  rw [sinv_loses_pop hexec] at hpopped
  cases hpopped

end Sys2Proof.Machine
end

section
/-! PROOF. Reading operands and beginning a release leave every thread in its teams (08_teams.md R209, R215), with its split arrivals. -/

namespace Sys2Proof.Machine

/-- What a thread holds about its teams: its memberships and its split arrivals. -/
def Thread.standing (th : Thread) : BitVec 8 × BitVec 16 := (th.teams, th.split)

/-- No thread joins, leaves or arrives from one state to another, no record of a team changes, and no cycle passes. -/
structure SameStanding (s s' : State) : Prop where
  now : s'.now = s.now
  teams : ∀ c, (s'.block c).teams = (s.block c).teams
  threads : ∀ c u, (s'.getThread c u).map Thread.standing = (s.getThread c u).map Thread.standing

theorem Cells.get?_map {α : Type} {g : Nat × α → Nat × α} (hg : ∀ e, (g e).1 = e.1) (k : Nat) (m : List (Nat × α)) :
    Cells.get? k (m.map g) = (Cells.get? k m).map fun a => (g (k, a)).2 := by
  induction m with
  | nil => rfl
  | cons e m ih =>
    rw [List.map_cons, Cells.get?, Cells.get?, hg, ih]
    split
    next h => subst h; rfl
    · rfl

/-- A change of a thread that is not there does not make it. -/
theorem getThread_modThread_none {s : State} {b t : Nat} (h : s.getThread b t = none) (f : Thread → Thread) :
    (s.modThread b t f).getThread b t = none := by
  cases hx : s.getBlock b with
  | none => rw [State.modThread, State.modBlock_none hx, h]
  | some x =>
    have ht : x.getThread t = none := by simpa [State.getThread, hx] using h
    rw [State.modThread, State.getThread, State.getBlock_modBlock_self hx, Option.bind_some, ht, ht]

namespace SameStanding

variable {s s1 s2 : State}

theorem refl : SameStanding s s := ⟨rfl, fun _ => rfl, fun _ _ => rfl⟩

theorem trans (h : SameStanding s s1) (g : SameStanding s1 s2) : SameStanding s s2 :=
  ⟨g.now.trans h.now, fun c => (g.teams c).trans (h.teams c), fun c u => (g.threads c u).trans (h.threads c u)⟩

theorem of_blocks (hn : s1.now = s.now) (hb : s1.blocks = s.blocks) : SameStanding s s1 :=
  ⟨hn, fun c => by rw [block_of_blocks hb], fun c u => by rw [getThread_of_blocks hb]⟩

theorem modBlock {f : Block → Block} (b : Nat) (hth : ∀ x, (f x).threads = x.threads := by intro; rfl)
    (htm : ∀ x, (f x).teams = x.teams := by intro; rfl) : SameStanding s (s.modBlock b f) := by
  refine ⟨State.modBlock_now s b f, fun c => ?_, fun c u => by rw [getThread_modBlock_of_threads s b hth]⟩
  by_cases hc : c = b
  · subst hc
    cases hx : s.getBlock c with
    | none => rw [State.modBlock_none hx]
    | some x => rw [State.block_modBlock_self hx, htm, State.block_of_get hx]
  · rw [State.block_modBlock_other s hc]

theorem modThread {f : Thread → Thread} (b t : Nat) (hf : ∀ th, (f th).standing = th.standing := by intro; rfl) :
    SameStanding s (s.modThread b t f) := by
  refine ⟨State.modThread_now s b t f, fun c => block_modThread_field Block.teams (fun _ => rfl) s b t f c, fun c u => ?_⟩
  by_cases h : c = b ∧ u = t
  · obtain ⟨rfl, rfl⟩ := h
    cases hth : s.getThread c u with
    | some th => rw [State.getThread_modThread_self hth, Option.map_some, Option.map_some, hf]
    | none => rw [getThread_modThread_none hth]
  · rw [State.getThread_modThread_other s h]

/-- A change of every block that leaves the records of teams and what the threads hold about them. -/
theorem mapBlocks {g : Nat × Block → Nat × Block} (hn : s1.now = s.now) (hb : s1.blocks = s.blocks.map g) (hkey : ∀ e, (g e).1 = e.1)
    (htm : ∀ e, (g e).2.teams = e.2.teams)
    (hth : ∀ e u, ((g e).2.getThread u).map Thread.standing = (e.2.getThread u).map Thread.standing) : SameStanding s s1 := by
  have hget (c : Nat) : s1.getBlock c = (s.getBlock c).map fun x => (g (c, x)).2 := by
    rw [State.getBlock, hb, Cells.get?_map hkey, State.getBlock]
  refine ⟨hn, fun c => ?_, fun c u => ?_⟩
  · rw [State.block, State.block, hget]
    cases s.getBlock c with
    | none => rfl
    | some x => exact htm (c, x)
  · rw [State.getThread, State.getThread, hget]
    cases s.getBlock c with
    | none => rfl
    | some x => exact hth (c, x) u

theorem foldl {α : Type} {f : State → α → State} (hf : ∀ s a, SameStanding s (f s a)) (l : List α) (s : State) :
    SameStanding s (l.foldl f s) :=
  List.foldlRecOn (motive := SameStanding s) l f .refl fun s' h a _ => h.trans (hf s' a)

theorem teams_thread (h : SameStanding s s1) (c u : Nat) : (s1.thread c u).teams = (s.thread c u).teams := by
  have e := congrArg (fun o => (o.map Prod.fst).getD 0) (h.threads c u)
  have hread (s : State) : ((s.getThread c u).map Thread.standing |>.map Prod.fst).getD 0 = (s.thread c u).teams := by
    rw [State.thread]
    cases s.getThread c u <;> rfl
  rwa [hread, hread] at e

/-- A thread is in the team it was in, and the team exists as before. -/
theorem inTeam_eq (h : SameStanding s s1) (b t n : Nat) : s1.inTeam b t n = s.inTeam b t n := by
  rw [State.inTeam, State.inTeam, Thread.member, Thread.member, h.teams_thread, Block.team, Block.team, h.teams]

end SameStanding

/-! A release begins (07_ordering.md R177, R183). -/

section Pins

variable (s : State)

theorem sameStanding_wr8 (pa : Nat) (v : Byte) : SameStanding s (s.wr8 pa v) := by
  unfold State.wr8
  split
  · exact .of_blocks rfl rfl
  · exact .refl

theorem sameStanding_wrRaw (pa : Nat) (bs : List Byte) : SameStanding s (s.wrRaw pa bs) := by
  unfold State.wrRaw
  exact .foldl (fun s e => sameStanding_wr8 s _ _) _ s

theorem sameStanding_setHomeByte (pa : Nat) (key : Option Nat) (v : Byte) : SameStanding s (s.setHomeByte pa key v) := by
  unfold State.setHomeByte
  split
  · exact sameStanding_wr8 s pa v
  · exact sameStanding_wrRaw s _ _

theorem sameStanding_endPin (p : Pin) : SameStanding s (s.endPin p) := by
  unfold State.endPin
  extract_lets s1 s2 s3 s4
  have h1 : SameStanding s s1 := .foldl (fun s e => sameStanding_setHomeByte s _ _ _) _ s
  have h2 : SameStanding s1 s2 := .foldl (fun s e => sameStanding_wr8 s _ _) _ s1
  have h3 : SameStanding s2 s3 := by
    refine .mapBlocks rfl rfl (fun e => ?_) (fun e => ?_) (fun e u => ?_)
    · split <;> rfl
    · split <;> rfl
    · split
      · rw [Block.getThread, Block.getThread, List.getElem?_map, Option.map_map]
        rfl
      · rfl
  have h4 : SameStanding s3 s4 := by
    refine .foldl (fun s e => ?_) _ s3
    exact .of_blocks rfl rfl
  exact (((h1.trans h2).trans h3).trans h4).trans (.of_blocks rfl rfl)

theorem sameStanding_beginRelease (b : Nat) (tids : List Nat) (sc : Scope) : SameStanding s (s.beginRelease b tids sc) := by
  unfold State.beginRelease
  split
  · exact .of_blocks rfl rfl
  · exact .foldl sameStanding_endPin _ s

end Pins

/-! Operands are read (02_encoding.md R38 to R40; 12_headwater.md R288; 06_memory.md R154). -/

section Reads

variable {s0 s : State} (hs : SameStanding s0 s)
include hs

theorem sameStanding_observe (b : Nat) (tids obs : List Nat) : SameStanding s0 (s.observe b tids obs) := by
  unfold State.observe
  split
  · exact hs
  · exact hs.trans (.foldl (fun s t => .modThread b t) tids s)

theorem sameStanding_define (l : List (Option Byte)) : SameStanding s0 (s.define l).2 := by
  induction l generalizing s with
  | nil => exact hs
  | cons a l ih =>
    cases a with
    | some v => exact ih hs
    | none => exact ih (hs.trans (.of_blocks rfl rfl))

theorem sameStanding_freeMark (c p q slot : Nat) : SameStanding s0 (s.freeMark c p q slot) := by
  unfold State.freeMark
  dsimp only
  split
  · exact hs
  · split
    · exact hs
    · exact hs.trans (.modBlock p)

theorem fillUnit_sameStanding (b : Nat) (tids : List Nat) (owner : Nat) (r : Region) (u core : Nat) :
    OnOk (SameStanding s0) (s.fillUnit b tids owner r u core) := by
  unfold State.fillUnit
  dsimp only
  split
  · exact .error
  · split
    · exact .error
    · exact .error
    · refine .ok (sameStanding_observe (.trans (hs.trans ?_) (.modBlock owner)) b tids _)
      exact .of_blocks rfl rfl

theorem fillUnits_sameStanding (b : Nat) (tids : List Nat) (core : Nat) (ts : List Tgt) :
    OnOk (SameStanding s0) (s.fillUnits b tids core ts) := by
  induction ts generalizing s with
  | nil => exact .ok hs
  | cons t ts ih =>
    unfold State.fillUnits
    split
    · split
      · refine .ite (ih hs) ?_
        split
        · exact .error
        · exact ih ((fillUnit_sameStanding hs b tids _ _ _ core).get ‹_›)
      · exact ih hs
    · exact ih hs

end Reads

section Operands

variable {s0 : State} {b t : Nat}

theorem checkAccess_sameStanding {tids : List Nat} {a : Access} : Keeps (SameStanding s0) (checkAccess b tids a) := by
  unfold checkAccess
  refine ⟨fun _ hs => ?_⟩
  split
  · exact .ok hs
  · refine .ite .error (.ite .error ?_)
    split
    · split
      exacts [.ite .error .error, .error]
    · split
      exacts [.error, .ok ((fillUnits_sameStanding hs _ _ _ _).get ‹_›)]

theorem plainRead_sameStanding {ea : DWord} {n align : Nat} : Keeps (SameStanding s0) (plainRead b t ea n align) := by
  unfold plainRead
  refine .bind checkAccess_sameStanding fun _ => ⟨fun _ hs => ?_⟩
  split
  · exact .ite (.ok (hs.trans (.modThread b t))) .error
  · exact .error
  · dsimp only
    split
    exacts [.error, .error, .ok (sameStanding_observe (sameStanding_define hs _) _ _ _)]

theorem popEntry_sameStanding {i : Nat} : Keeps (SameStanding s0) (popEntry b t i) := by
  unfold popEntry
  refine ⟨fun s hs => ?_⟩
  dsimp only
  split
  · exact .error
  · refine .ite .error (.ite (.ite .error .error) (.ite .error ?_))
    split
    · split
      · exact .error
      · have hread := plainRead_sameStanding.ok hs ‹_›
        exact .ok (sameStanding_freeMark (hread.trans (.modThread b t)) _ _ _ _)
    · exact .ok (sameStanding_freeMark (hs.trans (.modThread b t)) _ _ _ _)

theorem popQueue_sameStanding {i : Nat} : Keeps (SameStanding s0) (popQueue b t i) := by
  unfold popQueue
  refine ⟨fun s hs => ?_⟩
  split
  · exact .ite (.ok (hs.trans (.modThread b t))) (popEntry_sameStanding.out s hs)
  · exact popEntry_sameStanding.out s hs

theorem src_sameStanding {r : LReg} {s s1 : State} {w : Word} (h : src b t r s = .ok (w, s1)) : SameStanding s s1 := by
  by_cases hq : isQueue r = true
  · cases r with
    | q n => exact popQueue_sameStanding.ok (.refl) h
    | _ => cases hq
  · obtain ⟨n, rfl⟩ := src_fresh (Bool.eq_false_iff.2 hq) h
    exact .of_blocks rfl rfl

end Operands

end Sys2Proof.Machine
end

section
/-! PROOF. The checks of the team instructions (08_teams.md R209, R217, R223): NOTEAM and BARSEQ. -/

namespace Sys2Proof.Machine

open Claims

section Checks

variable {s : State} {b t n : Nat}

theorem checkTeam_member (h : s.inTeam b t n = true) : checkTeam b t n s = .ok ((), s) := by
  rw [checkTeam, bind_ok (getS_run s), h]
  rfl

theorem checkTeam_stranger (h : s.inTeam b t n = false) : checkTeam b t n s = .error (.trap .noTeam 0 0) := by
  rw [checkTeam, bind_ok (getS_run s), h]
  rfl

end Checks

/-! What the barrier instructions do in one thread (R222, R223). -/

def tbarBody (n : Fin 8) (scope : Scope) (b t : Nat) : M Flow := do
  checkTeam b t n.val
  if (← getT b t).splitOf n.val ≠ 0 then trap .barSeq
  arriveRelease b t scope
  return .stops (.stall (.barrier n.val scope))

def tarriveBody (n : Fin 8) (scope : Scope) (b t : Nat) : M Unit := do
  checkTeam b t n.val
  if (← getT b t).splitOf n.val ≠ 0 then trap .barSeq
  arriveRelease b t scope
  updT b t (·.setSplit n.val 1)
  updB b fun x => { x with teams := x.teams.set n.val { x.team n.val with arrived := (x.team n.val).arrived + 1 } }
  updS fun s => if (s.block b).barrierFull n.val then s.releaseBarrier b n.val else s

def twaitBody (n : Fin 8) (scope : Scope) (b t : Nat) : M Unit := do
  checkTeam b t n.val
  let th ← getT b t
  if th.splitOf n.val = 0 then trap .barSeq
  if th.splitOf n.val ≠ 2 then stall (.twait n.val scope)
  let s ← getS
  if s.specPending b [t] s.seq then stall .acquirePart
  updT b t (·.setSplit n.val 0)
  updS fun s => s.acquireFor b [t] (s.block b).padCore scope

def tleaveBody (n : Fin 8) (b t : Nat) : M Unit := do
  checkTeam b t n.val
  if (← getT b t).splitOf n.val ≠ 0 then trap .barSeq
  updB b (·.leaveTeam t n.val)
  updS fun s => if (s.block b).barrierFull n.val then s.releaseBarrier b n.val else s

theorem exec_tbar (n : Fin 8) (sc : Scope) (s : State) : exec (.tbar n sc) s = laneExec (.tbar n sc) (tbarBody n sc) s := rfl
theorem exec_tarrive (n : Fin 8) (sc : Scope) (s : State) :
    exec (.tarrive n sc) s = laneExec (.tarrive n sc) (laneFall (tarriveBody n sc)) s := rfl
theorem exec_twait (n : Fin 8) (sc : Scope) (s : State) : exec (.twait n sc) s = laneExec (.twait n sc) (laneFall (twaitBody n sc)) s := rfl
theorem exec_tleave (n : Fin 8) (s : State) : exec (.tleave n) s = laneExec (.tleave n) (laneFall (tleaveBody n)) s := rfl

/-- How an instruction of a team runs: in one thread after another, and its first check is that of its team. -/
structure ChecksTeam (i : Instr) (n : Nat) (body : Nat → Nat → M Flow) : Prop where
  runs : ∀ s, exec i s = laneExec i body s
  checks : ∀ s b t, s.inTeam b t n = false → body b t s = .error (.trap .noTeam 0 0)

theorem arriveExchange_stranger {s : State} {b t n : Nat} (h : s.inTeam b t n = false) (i : Instr) (form : Nat) (v c : Word) (p : Bool) :
    arriveExchange i n form v c p b t s = .error (.trap .noTeam 0 0) := bind_error (checkTeam_stranger h)

theorem reconvBody_stranger {s : State} {b t : Nat} {n : Fin 8} (h : s.inTeam b t n.val = false) :
    reconvBody n b t s = .error (.trap .noTeam 0 0) := by
  simp only [reconvBody]
  rw [bind_ok (getS_run s), h]
  rfl

theorem checksTeam_of_teamOf {i : Instr} {n : Nat} (h : teamOf i = some n) : ∃ body, ChecksTeam i n body := by
  cases i with
  | tbar m sc =>
    obtain rfl : m.val = n := Option.some.inj h
    exact ⟨_, fun _ => rfl, fun s b t hn => bind_error (checkTeam_stranger hn)⟩
  | reconv m =>
    obtain rfl : m.val = n := Option.some.inj h
    exact ⟨_, exec_reconv m, fun s b t hn => reconvBody_stranger hn⟩
  | tarrive m sc | twait m sc | tleave m =>
    obtain rfl : m.val = n := Option.some.inj h
    exact ⟨_, fun _ => rfl, fun s b t hn => laneFall_error (bind_error (checkTeam_stranger hn))⟩
  | tjoin a k m | tred d a m op | tscan d a m e op | matchT d a m =>
    obtain rfl : m.val = n := Option.some.inj h
    exact ⟨_, fun _ => rfl, fun s b t hn => bind_error (bind_error (checkTeam_stranger hn))⟩
  | elect d m k =>
    obtain rfl : m.val = n := Option.some.inj h
    exact ⟨_, fun _ => rfl, fun s b t hn => bind_error (arriveExchange_stranger hn _ _ _ _ _)⟩
  | ballot d k m | vote j k m mode =>
    obtain rfl : m.val = n := Option.some.inj h
    exact ⟨_, fun _ => rfl, fun s b t hn => bind_error ((bind_ok rfl).trans (arriveExchange_stranger hn _ _ _ _ _))⟩
  | _ => cases h

section Traps

variable {i : Instr} {s : State} {b t : Nat} {x : Block} {th : Thread} (h : Runs i s b t x th) (hc : CanTrap s b t x th)
include h hc

/-- An instruction whose body traps puts its thread in the handler. -/
theorem laneExec_traps {body : Nat → Nat → M Flow} {c : Cause} (hb : body b t s = .error (.trap c 0 0)) :
    ∃ s', laneExec i body s = .next s' ∧ OnlyThread s s' b t (handled s x th c 0 0 th.pc th.clauseIdx) :=
  ⟨_, laneExec_stops h hb, stopAt_trap hc c 0 0⟩

theorem strangerTraps {n : Nat} (hi : teamOf i = some n) (hn : s.inTeam b t n = false) :
    ∃ s', exec i s = .next s' ∧ OnlyThread s s' b t (handled s x th .noTeam 0 0 th.pc th.clauseIdx) := by
  obtain ⟨body, hruns, hchecks⟩ := checksTeam_of_teamOf hi
  rw [hruns]
  exact laneExec_traps h hc (hchecks s b t hn)

end Traps

section Sequence

variable {n : Fin 8} {sc : Scope} {s : State} {b t : Nat} {th : Thread} (hth : s.getThread b t = some th) (hin : s.inTeam b t n.val = true)
include hth hin

theorem tbarBody_barSeq (hs : th.splitOf n.val ≠ 0) : tbarBody n sc b t s = .error (.trap .barSeq 0 0) := by
  rw [tbarBody, bind_ok (checkTeam_member hin), bind_ok (getT_run hth), if_pos hs]
  rfl

theorem tarriveBody_barSeq (hs : th.splitOf n.val ≠ 0) : tarriveBody n sc b t s = .error (.trap .barSeq 0 0) := by
  rw [tarriveBody, bind_ok (checkTeam_member hin), bind_ok (getT_run hth), if_pos hs]
  rfl

theorem tleaveBody_barSeq (hs : th.splitOf n.val ≠ 0) : tleaveBody n b t s = .error (.trap .barSeq 0 0) := by
  rw [tleaveBody, bind_ok (checkTeam_member hin), bind_ok (getT_run hth), if_pos hs]
  rfl

theorem twaitBody_barSeq (hs : th.splitOf n.val = 0) : twaitBody n sc b t s = .error (.trap .barSeq 0 0) := by
  rw [twaitBody, bind_ok (checkTeam_member hin), bind_ok (getT_run hth), if_pos hs]
  rfl

end Sequence

/-- Of the parts of O24: the checks that trap. -/
theorem teamInstructionsTrap : TeamInstructionsTrap := by
  refine ⟨fun i n s b t x th hi h hc hn => strangerTraps h hc hi hn, fun i n s b t x th hi h hc hin hs => ?_,
    fun n sc s b t x th h hc hin hs => laneExec_traps h hc (laneFall_error (twaitBody_barSeq (runs_getThread h) hin hs))⟩
  obtain ⟨sc, rfl | rfl⟩ | rfl := hi
  · exact laneExec_traps h hc (tbarBody_barSeq (runs_getThread h) hin hs)
  · exact laneExec_traps h hc (laneFall_error (tarriveBody_barSeq (runs_getThread h) hin hs))
  · exact laneExec_traps h hc (laneFall_error (tleaveBody_barSeq (runs_getThread h) hin hs))

end Sys2Proof.Machine
end

section
/-! PROOF. What becomes of one thread, and of one after another, when accesses may leave the core's view besides. -/

namespace Sys2Proof.Machine

/-- One thread becomes another; no other thread, nothing else of a block and no byte of memory changes. -/
structure ThreadBecomes (s s' : State) (b t : Nat) (th : Thread) : Prop where
  thread : s'.getThread b t = some th
  others : ∀ c u, ¬(c = b ∧ u = t) → s'.getThread c u = s.getThread c u
  blocks : ∀ c, { s'.block c with threads := [] } = { s.block c with threads := [] }
  memory : s.sameMemory s'

namespace ThreadBecomes

variable {s s1 s2 : State} {b t : Nat} {th th1 : Thread}

theorem of_only (h : OnlyThread s s1 b t th) : ThreadBecomes s s1 b t th := ⟨h.thread, h.others, h.blocks, h.memory⟩

theorem trans (h : ThreadBecomes s s1 b t th) (g : ThreadBecomes s1 s2 b t th1) : ThreadBecomes s s2 b t th1 :=
  ⟨g.thread, fun c u n => (g.others c u n).trans (h.others c u n), fun c => (g.blocks c).trans (h.blocks c),
    fun pa => (g.memory pa).trans (h.memory pa)⟩

/-- What a block holds besides its threads stays. -/
theorem field {α : Type} (h : ThreadBecomes s s1 b t th) (p : Block → α) (hp : ∀ y : Block, p { y with threads := [] } = p y)
    (c : Nat) : p (s1.block c) = p (s.block c) := by
  rw [← hp, h.blocks, hp]

end ThreadBecomes

/-- A thread that has passed its waiting instruction (08_teams.md R212, R217). -/
def Thread.passed (now : Nat) (th : Thread) : Thread := { th.advance 1 with run := .ready, since := now }

theorem advance_one_pc (th : Thread) : (th.advance 1).pc = th.pc + 4 := advance_pc th 1

theorem passed_pc (now : Nat) (th : Thread) : (th.passed now).pc = th.pc + 4 := advance_one_pc th

theorem onlyThread_passWait {s : State} {b t : Nat} {th : Thread} (h : s.getThread b t = some th) :
    OnlyThread s (s.passWait b t) b t (th.passed s.now) := by
  have h1 := onlyThread_mod h (·.passed s.now)
  exact h1.trans (onlyThread_dropLatches h1.thread)

/-- The acquire part of one thread (07_ordering.md R179, R192). -/
theorem acquireFor_becomes {s : State} {b t : Nat} {th : Thread} (h : s.getThread b t = some th) (core : Nat) (sc : Scope) :
    ThreadBecomes s (s.acquireFor b [t] core sc) b t (th.validate sc) := by
  have hview : ThreadBecomes s (s.acquireAt core sc) b t th := by
    refine ⟨(acquireAt_getThread s core sc b t).trans h, fun c u _ => acquireAt_getThread s core sc c u, fun c => ?_, fun pa => ?_⟩
    · unfold State.acquireAt
      split <;> rfl
    · unfold State.acquireAt
      split <;> rfl
  exact hview.trans (.of_only (onlyThread_mod hview.thread (·.validate sc)))

/-- Each thread of a list becomes one that stands in a relation to it; no other thread, nothing else of a block and no byte of memory
changes. -/
structure EachBecomes (s s' : State) (b : Nat) (l : List Nat) (R : Thread → Thread → Prop) : Prop where
  threads : ∀ u ∈ l, ∀ th, s.getThread b u = some th → ∃ th', s'.getThread b u = some th' ∧ R th th'
  others : ∀ c u, ¬(c = b ∧ u ∈ l) → s'.getThread c u = s.getThread c u
  blocks : ∀ c, { s'.block c with threads := [] } = { s.block c with threads := [] }
  memory : s.sameMemory s'

/-- Rounds over different threads, each of which changes its own. -/
theorem eachBecomes_foldl {f : State → Nat → State} {R : Thread → Thread → Prop} {b : Nat} {l : List Nat} (hl : l.Nodup) {s : State}
    (hf : ∀ u ∈ l, ∃ th, s.getThread b u = some th ∧
      ∀ s1, s1.getThread b u = some th → ∃ th', ThreadBecomes s1 (f s1 u) b u th' ∧ R th th') :
    EachBecomes s (l.foldl f s) b l R := by
  induction l generalizing s with
  | nil => exact ⟨fun u hu => absurd hu (List.not_mem_nil), fun _ _ _ => rfl, fun _ => rfl, fun _ => rfl⟩
  | cons u l ih =>
    obtain ⟨hu, hl⟩ := List.nodup_cons.1 hl
    obtain ⟨th, hth, hround⟩ := hf u List.mem_cons_self
    obtain ⟨th', hbec, hR⟩ := hround s hth
    have hkeep (v : Nat) (hv : v ∈ l) : (f s u).getThread b v = s.getThread b v :=
      hbec.others b v fun e => ne_of_mem_of_not_mem hv hu e.2
    have hrest := ih hl (s := f s u) fun v hv => by
      rw [hkeep v hv]
      exact hf v (List.mem_cons_of_mem _ hv)
    refine ⟨fun v hv q hq => ?_, fun c v hn => ?_, fun c => (hrest.blocks c).trans (hbec.blocks c),
      fun pa => (hrest.memory pa).trans (hbec.memory pa)⟩
    · obtain rfl | hv := List.mem_cons.1 hv
      · obtain rfl := Option.some.inj (hth.symm.trans hq)
        exact ⟨th', (hrest.others b v fun e => hu e.2).trans hbec.thread, hR⟩
      · exact hrest.threads v hv q ((hkeep v hv).trans hq)
    · rw [List.foldl_cons, hrest.others c v fun e => hn ⟨e.1, List.mem_cons_of_mem _ e.2⟩,
        hbec.others c v fun e => hn ⟨e.1, e.2 ▸ List.mem_cons_self⟩]

end Sys2Proof.Machine
end

section
/-! PROOF. The release of a barrier's phase (08_teams.md R217, R218). -/

namespace Sys2Proof.Machine

open Claims

/-! Members, waits and split arrivals (R210, R211, R215). -/

section Members

variable {x : Block} {n u : Nat}

theorem mem_members : u ∈ x.members n ↔ ∃ th, x.getThread u = some th ∧ th.run ≠ .exited ∧ th.member n = true := by
  rw [Block.members, List.mem_filter, List.mem_range]
  constructor
  · rintro ⟨-, h⟩
    simpa [Option.any_eq_true] using h
  · rintro ⟨th, hth, hrun, hmem⟩
    exact ⟨thread_lt hth, by simp [hth, hrun, hmem]⟩

theorem members_nodup (x : Block) (n : Nat) : (x.members n).Nodup := List.nodup_range.filter _

theorem waitOf_eq_some {w : Wait} : x.waitOf u = some w ↔ ∃ th, x.getThread u = some th ∧ th.run = .stalled w := by
  unfold Block.waitOf
  cases x.getThread u with
  | none => simp
  | some th => cases hr : th.run <;> simp [hr]

/-- A thread that is there is in the wait that its run names. -/
theorem waitOf_iff {th : Thread} (h : x.getThread u = some th) {w : Wait} : x.waitOf u = some w ↔ th.run = .stalled w := by
  rw [waitOf_eq_some, h]
  simp

/-- Every member has arrived (R217). -/
theorem barrierFull_iff : x.barrierFull n = true ↔ x.members n ≠ [] ∧ ∀ u ∈ x.members n, AtBarrier x n u := by
  simp only [Block.barrierFull, Bool.and_eq_true, Bool.not_eq_true', List.isEmpty_eq_false_iff, List.all_eq_true, Bool.or_eq_true,
    Option.any_eq_true, beq_iff_eq, AtBarrier]
  refine and_congr Iff.rfl (forall₂_congr fun u _ => or_congr Iff.rfl ?_)
  split
  next m sc hw => simp [hw]
  next hw => exact ⟨fun h => absurd h Bool.false_ne_true, fun ⟨sc, h⟩ => absurd h (hw n sc)⟩

end Members

theorem splitOf_setSplit (th : Thread) {n v : Nat} (hn : n < 8) (hv : v < 4) : (th.setSplit n v).splitOf n = v := by
  have hlt := th.split.isLt
  simp only [Thread.setSplit, Thread.splitOf, field, BitVec.toNat_ofNat]
  interval_cases n <;> omega

/-- A thread whose split arrival is over, where it had one. -/
def Thread.arrivalOver (n : Nat) (th : Thread) : Thread := if th.splitOf n = 1 then th.setSplit n 2 else th

/-- What a member is once its phase has been released. -/
structure Released (n : Nat) (th th' : Thread) : Prop where
  split : th.splitOf n = 1 → th'.splitOf n = 2
  passed : ∀ sc, th.run = .stalled (.barrier n sc) → th'.run = .ready ∧ th'.pc = th.pc + 4
  stays : (∀ sc, th.run ≠ .stalled (.barrier n sc)) → th'.run = th.run ∧ th'.pc = th.pc

theorem arrivalOver_run_pc (n : Nat) (th : Thread) : (th.arrivalOver n).run = th.run ∧ (th.arrivalOver n).pc = th.pc := by
  unfold Thread.arrivalOver
  split <;> exact ⟨rfl, rfl⟩

theorem arrivalOver_split {n : Nat} (hn : n < 8) {th : Thread} (h : th.splitOf n = 1) : (th.arrivalOver n).splitOf n = 2 := by
  rw [Thread.arrivalOver, if_pos h, splitOf_setSplit th hn (by decide)]

theorem advance_split (th : Thread) (words : Nat) : (th.advance words).split = th.split := by
  unfold Thread.advance
  dsimp only
  split <;> rfl

theorem validate_split_run (th : Thread) (sc : Scope) : (th.validate sc).split = th.split ∧ (th.validate sc).run = th.run := by
  unfold Thread.validate
  dsimp only
  split <;> exact ⟨rfl, rfl⟩

/-! One member's part of a release. -/

/-- A member's part of the release of a phase of the team of a block. -/
def Block.releaseArrival (x : Block) (b n : Nat) (s : State) (t : Nat) : State :=
  let s := s.modThread b t (·.arrivalOver n)
  match x.waitOf t with
  | some (.barrier m sc) => if m = n then (s.passWait b t).acquireFor b [t] x.padCore sc else s
  | _ => s

/-- The record of a team counts a phase (R217). -/
def Block.nextPhase (x : Block) (n : Nat) : Block :=
  { x with teams := x.teams.set n { x.team n with arrived := 0, phase := (x.team n).phase + 1 } }

theorem releaseBarrier_eq (s : State) (b n : Nat) :
    s.releaseBarrier b n = (((s.block b).members n).foldl ((s.block b).releaseArrival b n) s).modBlock b (·.nextPhase n) := rfl

section Arrival

variable {x : Block} {b n t : Nat} {s : State} {th : Thread} (hn : n < 8) (hx : x.getThread t = some th) (hs : s.getThread b t = some th)
include hn hx hs

theorem releaseArrival_becomes : ∃ th', ThreadBecomes s (x.releaseArrival b n s t) b t th' ∧ Released n th th' := by
  have hover := onlyThread_mod hs (·.arrivalOver n)
  obtain ⟨hrun, hpc⟩ := arrivalOver_run_pc n th
  by_cases hw : ∃ sc, th.run = .stalled (.barrier n sc)
  · obtain ⟨sc, hw⟩ := hw
    have hpass := onlyThread_passWait hover.thread
    have hacq := acquireFor_becomes hpass.thread x.padCore sc
    rw [State.modThread_now] at hpass hacq
    obtain ⟨vsplit, vrun⟩ := validate_split_run ((th.arrivalOver n).passed s.now) sc
    obtain ⟨vpc, -⟩ := validate_pc_cmds ((th.arrivalOver n).passed s.now) sc
    refine ⟨_, ?_, fun h1 => ?_, fun _ _ => ⟨vrun, ?_⟩, fun hne => absurd hw (hne sc)⟩
    · rw [Block.releaseArrival, (waitOf_iff hx).2 hw]
      dsimp only
      rw [if_pos rfl]
      exact ((ThreadBecomes.of_only hover).trans (.of_only hpass)).trans hacq
    · rw [Thread.splitOf, vsplit, Thread.passed, advance_split]
      exact arrivalOver_split hn h1
    · rw [vpc, passed_pc, hpc]
  · have hne (sc : Scope) : th.run ≠ .stalled (.barrier n sc) := fun e => hw ⟨sc, e⟩
    have hstay : x.releaseArrival b n s t = s.modThread b t (·.arrivalOver n) := by
      unfold Block.releaseArrival
      dsimp only
      split
      next m sc hwait =>
        rw [if_neg]
        rintro rfl
        exact hne sc ((waitOf_iff hx).1 hwait)
      · rfl
    rw [hstay]
    exact ⟨_, .of_only hover, arrivalOver_split hn, fun sc e => absurd e (hne sc), fun _ => ⟨hrun, hpc⟩⟩

end Arrival

/-! The release. -/

/-- The phase of a block's team has been released. -/
structure PhaseReleased (s s' : State) (b n : Nat) (x : Block) : Prop where
  threads : ∀ u ∈ x.members n, ∀ th, x.getThread u = some th → ∃ th', s'.getThread b u = some th' ∧ Released n th th'
  others : ∀ c u, ¬(c = b ∧ u ∈ x.members n) → s'.getThread c u = s.getThread c u
  block : { s'.block b with threads := [] } = { x.nextPhase n with threads := [] }
  memory : s.sameMemory s'

theorem releaseBarrier_released {s : State} {b n : Nat} {x : Block} (hn : n < 8) (hx : s.getBlock b = some x)
    (hne : x.members n ≠ []) : PhaseReleased s (s.releaseBarrier b n) b n x := by
  have hget (u : Nat) : s.getThread b u = x.getThread u := by rw [State.getThread, hx, Option.bind_some]
  have hfold : EachBecomes s ((x.members n).foldl (x.releaseArrival b n) s) b (x.members n) (Released n) := by
    refine eachBecomes_foldl (members_nodup x n) fun u hu => ?_
    obtain ⟨th, hth, -⟩ := mem_members.1 hu
    exact ⟨th, (hget u).trans hth, fun s1 hs1 => releaseArrival_becomes hn hth hs1⟩
  have hthreads := getThread_modBlock_of_threads ((x.members n).foldl (x.releaseArrival b n) s) b (f := (·.nextPhase n)) fun _ => rfl
  rw [releaseBarrier_eq, State.block_of_get hx]
  refine ⟨fun u hu th hth => ?_, fun c u hn => (hthreads c u).trans (hfold.others c u hn), ?_, fun pa => ?_⟩
  · rw [hthreads]
    exact hfold.threads u hu th ((hget u).trans hth)
  · obtain ⟨u, hu⟩ := List.exists_mem_of_ne_nil _ hne
    obtain ⟨th, hth, -⟩ := mem_members.1 hu
    obtain ⟨th', hth', -⟩ := hfold.threads u hu th ((hget u).trans hth)
    obtain ⟨y, hy, -⟩ := State.getThread_eq_some.1 hth'
    have hb := hfold.blocks b
    rw [State.block_of_get hx, State.block_of_get hy] at hb
    rw [State.block_modBlock_self hy]
    exact congrArg (·.nextPhase n) hb
  · exact (sameMemory_of_mem_eq (State.modBlock_mem _ b _) pa).trans (hfold.memory pa)

end Sys2Proof.Machine
end

section
/-! PROOF. Barriers: O24. -/

namespace Sys2Proof.Machine

open Claims

/-! A thread that arrives at a rendezvous (R211, R218). -/

/-- An instruction that ends in a wait of its thread: what beginning the wait does is all it does. -/
theorem retire_stalls {s : State} {b t words : Nat} {x : Block} {th : Thread} {w : Wait} (hx : s.getBlock b = some x)
    (hr : x.life = .resident ∧ x.mark = none) (hw : OnlyThread s (s.stopThread b t (.stall w)) b t th) :
    OnlyThread s (s.retire b t words (.stops (.stall w))) b t th := by
  obtain ⟨hlife, hmark, -⟩ := hw.keeps hx
  have he : s.retire b t words (.stops (.stall w)) = (s.stopThread b t (.stall w)).stopPast b t := rfl
  rwa [he, stopPast_calm hlife hmark hr]

theorem arriveRelease_run {s : State} {b t : Nat} {sc : Scope} (h : (s.beginRelease b [t] sc).fenceWaits b t sc false = false) :
    arriveRelease b t sc s = .ok ((), s.beginRelease b [t] sc) := by
  rw [arriveRelease, bind_ok (updS_run _ s), bind_ok (getS_run _), h]
  rfl

/-- An instruction of one word that falls through, in a thread that issues alone. -/
theorem laneExec_falls {i : Instr} {s s1 : State} {b t : Nat} {x : Block} {th : Thread} (h : Runs i s b t x th) (hi : wordsOf i = 1)
    {body : Nat → Nat → M Unit} (hb : body b t s = .ok ((), s1)) : laneExec i (laneFall body) s = .next (s1.retire b t 1 .fall) := by
  rw [laneExec_retires h (laneFall_ok hb), hi]

section Arrives

variable {n : Fin 8} {sc : Scope} {s : State} {b t : Nat} {x y : Block} {th u : Thread}

theorem tbarBody_run (hth : s.getThread b t = some th) (hin : s.inTeam b t n.val = true) (hs : th.splitOf n.val = 0)
    (hw : (s.beginRelease b [t] sc).fenceWaits b t sc false = false) :
    tbarBody n sc b t s = .ok (.stops (.stall (.barrier n.val sc)), s.beginRelease b [t] sc) := by
  rw [tbarBody, bind_ok (checkTeam_member hin), bind_ok (getT_run hth), if_neg (not_not.2 hs)]
  exact bind_ok (arriveRelease_run hw)

theorem tbarWaits (h : Runs (.tbar n sc) s b t x th) (hy : Resides (s.beginRelease b [t] sc) b t y u) (hin : s.inTeam b t n.val = true)
    (hs : th.splitOf n.val = 0) (hw : (s.beginRelease b [t] sc).fenceWaits b t sc false = false) :
    ∃ s', exec (.tbar n sc) s = .next s' ∧
      OnlyThread (s.beginRelease b [t] sc) s' b t { u with run := .stalled (.barrier n.val sc), since := s.now } := by
  obtain ⟨hblock, hthread, hres⟩ := hy
  rw [exec_tbar]
  refine ⟨_, laneExec_retires h (tbarBody_run (runs_getThread h) hin hs hw), ?_⟩
  rw [← (sameStanding_beginRelease s b [t] sc).now]
  exact retire_stalls hblock hres (onlyThread_stalled hblock hthread hres (.barrier n.val sc))

end Arrives

/-! A split arrival (R215, R223). -/

/-- The record of a team counts a split arrival. -/
def Block.countArrival (x : Block) (n : Nat) : Block :=
  { x with teams := x.teams.set n { x.team n with arrived := (x.team n).arrived + 1 } }

/-- A thread of a block has arrived at a team's barrier and goes on. -/
def Block.withArrival (x : Block) (t n : Nat) (th : Thread) : Block := (x.setThread t (th.setSplit n 1)).countArrival n

def State.withArrival (s : State) (b t n : Nat) : State := (s.modThread b t (·.setSplit n 1)).modBlock b (·.countArrival n)

/-- A phase that is full is released (R217, R222). -/
def State.releaseFull (s : State) (b n : Nat) : State := if (s.block b).barrierFull n then s.releaseBarrier b n else s

section Arrival

variable {x : Block} {t n : Nat} {th : Thread} (ht : x.getThread t = some th)

theorem withArrival_getThread_other {u : Nat} (h : u ≠ t) : (x.withArrival t n th).getThread u = x.getThread u :=
  x.getThread_setThread_other h _

include ht

theorem withArrival_getThread_self : (x.withArrival t n th).getThread t = some (th.setSplit n 1) :=
  Block.getThread_setThread_self ht _

theorem withArrival_members : (x.withArrival t n th).members n = x.members n := by
  have hlen : (x.withArrival t n th).threads.length = x.threads.length := by simp [Block.withArrival, Block.countArrival, Block.setThread]
  rw [Block.members, Block.members, hlen]
  refine List.filter_congr fun u _ => ?_
  by_cases hu : u = t
  · subst hu
    rw [withArrival_getThread_self ht, ht]
    rfl
  · rw [withArrival_getThread_other hu]

omit ht in
theorem withArrival_atBarrier_other {u : Nat} (h : u ≠ t) : AtBarrier (x.withArrival t n th) n u ↔ AtBarrier x n u := by
  simp only [AtBarrier, waitOf_eq_some, withArrival_getThread_other h]

theorem withArrival_atBarrier_self (hn : n < 8) : AtBarrier (x.withArrival t n th) n t :=
  .inl ⟨_, withArrival_getThread_self ht, splitOf_setSplit th hn (by decide)⟩

/-- The arrival is the last one if every other member has arrived. -/
theorem withArrival_full (hn : n < 8) (hm : t ∈ x.members n) :
    (x.withArrival t n th).barrierFull n = true ↔ ∀ v ∈ x.members n, v ≠ t → AtBarrier x n v := by
  rw [barrierFull_iff, withArrival_members ht]
  constructor
  · exact fun h v hv hvt => (withArrival_atBarrier_other hvt).1 (h.2 v hv)
  · refine fun h => ⟨List.ne_nil_of_mem hm, fun v hv => ?_⟩
    by_cases hvt : v = t
    · subst hvt
      exact withArrival_atBarrier_self ht hn
    · exact (withArrival_atBarrier_other hvt).2 (h v hv hvt)

end Arrival

/-- A record of a table of eight that is put in its place. -/
theorem teams_set_self {l : List Team} {n : Nat} (h : n < l.length) (tm : Team) : (l.set n tm).getD n ⟨0, 0, 0⟩ = tm := by
  simp [h]

theorem teams_set_other {l : List Team} {n k : Nat} (h : k ≠ n) (tm : Team) :
    (l.set n tm).getD k ⟨0, 0, 0⟩ = l.getD k ⟨0, 0, 0⟩ := by
  simp [List.getD_eq_getElem?_getD, List.getElem?_set_ne h.symm]

theorem nextPhase_team {x : Block} {n : Nat} (h : n < x.teams.length) :
    (x.nextPhase n).team n = { x.team n with arrived := 0, phase := (x.team n).phase + 1 } := teams_set_self h _

theorem withArrival_team {x : Block} {t n : Nat} {th : Thread} (h : n < x.teams.length) :
    (x.withArrival t n th).team n = { x.team n with arrived := (x.team n).arrived + 1 } := teams_set_self h _

section Release

variable {s : State} {b n : Nat} {x : Block} (hx : s.getBlock b = some x)
include hx

theorem releaseFull_released (hn : n < 8) (hfull : x.barrierFull n = true) : PhaseReleased s (s.releaseFull b n) b n x := by
  rw [State.releaseFull, State.block_of_get hx, if_pos hfull]
  exact releaseBarrier_released hn hx (barrierFull_iff.1 hfull).1

theorem releaseFull_none (hfull : x.barrierFull n = false) : s.releaseFull b n = s := by
  rw [State.releaseFull, State.block_of_get hx, hfull]
  rfl

end Release

/-- What a block holds besides its threads and its teams is not touched by a release. -/
theorem PhaseReleased.field {α : Type} {s s' : State} {b n : Nat} {x : Block} (h : PhaseReleased s s' b n x) (p : Block → α)
    (hp : ∀ y : Block, p { y with threads := [] } = p y) : p (s'.block b) = p (x.nextPhase n) := by
  rw [← hp, h.block, hp]

/-- The instruction retires in a block that runs. -/
theorem retire_run {s : State} {b t : Nat} {th : Thread} (hth : s.getThread b t = some th)
    (hr : (s.block b).life = .resident ∧ (s.block b).mark = none) : OnlyThread s (s.retire b t 1 .fall) b t (th.advance 1) :=
  (OnlyThread.refl hth).retire_fall hr

section Tarrive

variable {n : Fin 8} {sc : Scope} {s : State} {b t : Nat} {x y : Block} {th u : Thread}

theorem withArrival_getBlock {n : Nat} (hy : s.getBlock b = some y) (ht : y.getThread t = some u) :
    (s.withArrival b t n).getBlock b = some (y.withArrival t n u) := by
  rw [State.withArrival, State.modThread, State.modBlock_modBlock, State.getBlock_modBlock_self hy, ht]
  rfl

theorem withArrival_others (s : State) {n c v : Nat} (h : ¬(c = b ∧ v = t)) : (s.withArrival b t n).getThread c v = s.getThread c v := by
  rw [State.withArrival, getThread_modBlock_of_threads _ b (f := (·.countArrival n)) fun _ => rfl, State.getThread_modThread_other _ h]

variable (h : Runs (.tarrive n sc) s b t x th) (hy : Resides (s.beginRelease b [t] sc) b t y u) (hin : s.inTeam b t n.val = true)
  (hs : th.splitOf n.val = 0) (hlen : y.teams.length = 8) (hw : (s.beginRelease b [t] sc).fenceWaits b t sc false = false)

include h hin hs hw in
theorem exec_tarrive_run : exec (.tarrive n sc) s =
    .next ((((s.beginRelease b [t] sc).withArrival b t n.val).releaseFull b n.val).retire b t 1 .fall) := by
  have hbody : tarriveBody n sc b t s = .ok ((), ((s.beginRelease b [t] sc).withArrival b t n.val).releaseFull b n.val) := by
    rw [tarriveBody, bind_ok (checkTeam_member hin), bind_ok (getT_run (runs_getThread h)), if_neg (not_not.2 hs)]
    exact bind_ok (arriveRelease_run hw)
  rw [exec_tarrive]
  exact laneExec_falls h rfl hbody

include h hy hin hs hlen hw

/-- The last member to arrive releases the phase. -/
theorem tarriveReleases (hrun : u.run = .ready) (hmem : u.member n.val = true)
    (hall : ∀ v ∈ y.members n.val, v ≠ t → AtBarrier y n.val v) : ∃ s', exec (.tarrive n sc) s = .next s' ∧
      (s'.thread b t).splitOf n.val = 2 ∧ (s'.thread b t).pc = u.pc + 4 ∧ ((s'.block b).team n.val).arrived = 0 ∧
      ((s'.block b).team n.val).phase = (y.team n.val).phase + 1 ∧
      ∀ v tv sc', v ∈ y.members n.val → v ≠ t → y.getThread v = some tv → tv.run = .stalled (.barrier n.val sc') →
        (s'.thread b v).run = .ready ∧ (s'.thread b v).pc = tv.pc + 4 := by
  obtain ⟨hblock, hthread, hres⟩ := hy
  have hm : t ∈ y.members n.val := mem_members.2 ⟨u, hthread, by rw [hrun]; decide, hmem⟩
  have hrel := releaseFull_released (withArrival_getBlock (n := n.val) hblock hthread) n.isLt ((withArrival_full hthread n.isLt hm).2 hall)
  rw [exec_tarrive_run h hin hs hw]
  generalize ((s.beginRelease b [t] sc).withArrival b t n.val).releaseFull b n.val = s2 at hrel ⊢
  have hmembers := withArrival_members hthread (n := n.val)
  obtain ⟨q, hq, hqrel⟩ := hrel.threads t (hmembers ▸ hm) _ (withArrival_getThread_self hthread)
  have hlife : (s2.block b).life = .resident ∧ (s2.block b).mark = none :=
    ⟨(hrel.field Block.life fun _ => rfl).trans hres.1, (hrel.field Block.mark fun _ => rfl).trans hres.2⟩
  have hret := retire_run hq hlife
  have hteam : ((s2.retire b t 1 .fall).block b).team n.val =
      { y.team n.val with arrived := 0, phase := (y.team n.val).phase + 1 } := by
    have hlen' : n.val < (y.withArrival t n.val u).teams.length := by simp [Block.withArrival, Block.countArrival, Block.setThread, hlen]
    rw [onlyThread_field hret (Block.team · n.val) (fun _ => rfl), hrel.field (Block.team · n.val) fun _ => rfl, nextPhase_team hlen',
      withArrival_team (by omega)]
  refine ⟨_, rfl, ?_, ?_, congrArg Team.arrived hteam, congrArg Team.phase hteam, fun v tv sc' hv hvt htv hwait => ?_⟩
  · rw [State.thread_of_get hret.thread, Thread.splitOf, advance_split]
    exact hqrel.split (splitOf_setSplit u n.isLt (by decide))
  · obtain ⟨-, hpc⟩ := hqrel.stays fun sc' e => by
      rw [show (u.setSplit n.val 1).run = .ready from hrun] at e
      cases e
    rw [State.thread_of_get hret.thread, advance_one_pc, hpc]
    rfl
  · obtain ⟨r, hr, hrrel⟩ := hrel.threads v (hmembers ▸ hv) tv ((withArrival_getThread_other hvt).trans htv)
    rw [State.thread_of_get ((hret.others b v fun e => hvt e.2).trans hr)]
    exact hrrel.passed sc' hwait

/-- An arrival that leaves the phase open. -/
theorem tarriveCounts (hrun : u.run = .ready) (hmem : u.member n.val = true)
    (hopen : ∃ v ∈ y.members n.val, v ≠ t ∧ ¬AtBarrier y n.val v) : ∃ s', exec (.tarrive n sc) s = .next s' ∧
      (s'.thread b t).splitOf n.val = 1 ∧ (s'.thread b t).pc = u.pc + 4 ∧
      (s'.block b).team n.val = { y.team n.val with arrived := (y.team n.val).arrived + 1 } ∧
      ∀ b' v, ¬(b' = b ∧ v = t) → s'.getThread b' v = (s.beginRelease b [t] sc).getThread b' v := by
  obtain ⟨hblock, hthread, hres⟩ := hy
  have hm : t ∈ y.members n.val := mem_members.2 ⟨u, hthread, by rw [hrun]; decide, hmem⟩
  have hget := withArrival_getBlock (n := n.val) hblock hthread
  have hstill : (y.withArrival t n.val u).barrierFull n.val = false := by
    obtain ⟨v, hv, hvt, hnot⟩ := hopen
    exact Bool.eq_false_iff.2 fun e => hnot ((withArrival_full hthread n.isLt hm).1 e v hv hvt)
  rw [exec_tarrive_run h hin hs hw, releaseFull_none hget hstill]
  have hret := retire_run (State.getThread_eq_some.2 ⟨_, hget, withArrival_getThread_self hthread⟩)
    (by rw [State.block_of_get hget]; exact hres)
  refine ⟨_, rfl, ?_, ?_, ?_, fun c v hn => (hret.others c v hn).trans (withArrival_others _ hn)⟩
  · rw [State.thread_of_get hret.thread, Thread.splitOf, advance_split]
    exact splitOf_setSplit u n.isLt (by decide)
  · rw [State.thread_of_get hret.thread, advance_one_pc]
    rfl
  · rw [onlyThread_field hret (Block.team · n.val) (fun _ => rfl), State.block_of_get hget, withArrival_team (by omega)]

end Tarrive

/-! The wait for a phase (R223). -/

/-- An acquire at a scope wider than the core leaves no copy in its view (07_ordering.md R179). -/
theorem acquireFor_views {sc : Scope} (hsc : sc ≠ .core) (s : State) (b t core : Nat) (key : Option Nat) {pa : Nat} (hpa : pa < 2 ^ 52) :
    Cells.get? (viewKey core key pa) (s.acquireFor b [t] core sc).views = none := by
  have hkey : core * 129 * 2 ^ 52 ≤ viewKey core key pa ∧ viewKey core key pa < (core + 1) * 129 * 2 ^ 52 := by
    unfold viewKey
    cases key with
    | none => dsimp only; omega
    | some k => dsimp only; omega
  have hviews : (s.acquireFor b [t] core sc).views = (s.acquireAt core sc).views := State.modThread_views _ b t (·.validate sc)
  rw [hviews, State.acquireAt, if_neg hsc, State.dropView, Cells.get?_dropRange, if_pos hkey]

theorem advance_run (th : Thread) (words : Nat) : (th.advance words).run = th.run := by
  unfold Thread.advance
  dsimp only
  split <;> rfl

section Twait

variable {n : Fin 8} {sc : Scope} {s : State} {b t : Nat} {x : Block} {th : Thread} (h : Runs (.twait n sc) s b t x th)
  (hin : s.inTeam b t n.val = true)
include h hin

theorem twaitWaits (hs : th.splitOf n.val = 1) : ∃ s', exec (.twait n sc) s = .next s' ∧
    OnlyThread s s' b t { th with run := .stalled (.twait n.val sc), since := s.now } := by
  have hbody : twaitBody n sc b t s = .error (.stall (.twait n.val sc)) := by
    rw [twaitBody, bind_ok (checkTeam_member hin), bind_ok (getT_run (runs_getThread h)), hs]
    rfl
  rw [exec_twait]
  exact ⟨_, laneExec_stops h (laneFall_error hbody), onlyThread_stalled h.block h.thread h.resident (.twait n.val sc)⟩

theorem twaitPasses (hs : th.splitOf n.val = 2) (hspec : s.specPending b [t] s.seq = false) : ∃ s', exec (.twait n sc) s = .next s' ∧
    (s'.thread b t).splitOf n.val = 0 ∧ (s'.thread b t).pc = th.pc + 4 ∧ (s'.thread b t).run = th.run ∧ s.sameMemory s' ∧
    (sc ≠ .core → ∀ key pa, pa < 2 ^ 52 → Cells.get? (viewKey x.padCore key pa) s'.views = none) ∧
    ∀ b' v, ¬(b' = b ∧ v = t) → s'.getThread b' v = s.getThread b' v := by
  have hth := runs_getThread h
  have hpad : ((s.modThread b t (·.setSplit n.val 0)).block b).padCore = x.padCore := by
    rw [block_modThread_field Block.padCore fun _ => rfl, State.block_of_get h.block]
  have hbody : twaitBody n sc b t s = .ok ((), (s.modThread b t (·.setSplit n.val 0)).acquireFor b [t] x.padCore sc) := by
    rw [twaitBody, bind_ok (checkTeam_member hin), bind_ok (getT_run hth), if_neg (by omega), if_neg (by omega)]
    show (getS >>= _) s = _
    rw [bind_ok (getS_run s), hspec, ← hpad]
    rfl
  have hsplit := onlyThread_mod hth (·.setSplit n.val 0)
  have hpass := (ThreadBecomes.of_only hsplit).trans (acquireFor_becomes hsplit.thread x.padCore sc)
  have hviews (hsc : sc ≠ .core) (key : Option Nat) (pa : Nat) (hpa : pa < 2 ^ 52) :=
    acquireFor_views hsc (s.modThread b t (·.setSplit n.val 0)) b t x.padCore key hpa
  generalize (s.modThread b t (·.setSplit n.val 0)).acquireFor b [t] x.padCore sc = s1 at hbody hpass hviews
  have hlife : (s1.block b).life = .resident ∧ (s1.block b).mark = none := by
    rw [hpass.field Block.life fun _ => rfl, hpass.field Block.mark fun _ => rfl]
    exact runs_resident h
  have hret := retire_run hpass.thread hlife
  obtain ⟨vsplit, vrun⟩ := validate_split_run (th.setSplit n.val 0) sc
  obtain ⟨vpc, -⟩ := validate_pc_cmds (th.setSplit n.val 0) sc
  rw [exec_twait]
  refine ⟨_, laneExec_falls h rfl hbody, ?_, ?_, ?_, (hpass.trans (.of_only hret)).memory, fun hsc key pa hpa => ?_,
    (hpass.trans (.of_only hret)).others⟩
  · rw [State.thread_of_get hret.thread, Thread.splitOf, advance_split, vsplit]
    exact splitOf_setSplit th n.isLt (by decide)
  · rw [State.thread_of_get hret.thread, advance_one_pc, vpc]
    rfl
  · rw [State.thread_of_get hret.thread, advance_run, vrun]
    rfl
  · have e := congrArg State.views hret.rest
    rw [show (s1.retire b t 1 .fall).views = s1.views from e]
    exact hviews hsc key pa hpa

end Twait

/-! A thread leaves a team (R222). -/

/-- The memberships of a thread that has left a team. -/
def Thread.leftTeam (th : Thread) (n : Nat) : Thread := { th.setSplit n 0 with teams := th.teams &&& ~~~((1 : BitVec 8) <<< n) }

theorem leftTeam_member (th : Thread) (n k : Nat) : (th.leftTeam n).teams.getLsbD k = (th.teams.getLsbD k && k != n) := by
  have hbit : (th.leftTeam n).teams.getLsbD k = (th.teams.getLsbD k && (~~~((1 : BitVec 8) <<< n)).getLsbD k) := BitVec.getLsbD_and ..
  rw [hbit]
  by_cases hk : k < 8
  · by_cases hkn : k = n
    · simp [hkn]
    · have hone : ((1 : BitVec 8) <<< n).getLsbD k = false := by
        simp
        omega
      rw [BitVec.getLsbD_not, hone]
      simp [hk, hkn]
  · rw [BitVec.getLsbD_of_ge th.teams k (by omega), Bool.false_and, Bool.false_and]

/-- The record of a team that a member leaves who has not arrived; a team without members is no more (R209). -/
def Team.less (tm : Team) : Team := if tm.members ≤ 1 then ⟨0, 0, 0⟩ else { tm with members := tm.members - 1 }

theorem less_members (tm : Team) : tm.less.members = tm.members - 1 := by
  unfold Team.less
  split
  · dsimp only
    omega
  · rfl

/-- A block of which a thread has left a team. -/
def Block.withoutMember (x : Block) (t n : Nat) (th : Thread) : Block :=
  { x.setThread t (th.leftTeam n) with teams := x.teams.set n (x.team n).less }

theorem leaveTeam_of_member {x : Block} {t n : Nat} {th : Thread} (ht : x.getThread t = some th) (hmem : th.member n = true)
    (hs : th.splitOf n = 0) : x.leaveTeam t n = x.withoutMember t n th := by
  unfold Block.leaveTeam
  rw [ht]
  simp only [hmem, hs]
  rfl

/-- A block's thread has left a team, and the block runs on. -/
structure TeamLeft (s s' : State) (b t n : Nat) (x : Block) (th : Thread) : Prop where
  thread : s'.getThread b t = some (th.leftTeam n)
  members : ((s'.block b).team n).members = (x.team n).members - 1
  teams : ∀ k, k ≠ n → (s'.block b).team k = x.team k
  resident : (s'.block b).life = .resident ∧ (s'.block b).mark = none
  memory : s.sameMemory s'

section Tleave

variable {n : Nat} {s : State} {b t : Nat} {x : Block} {th : Thread}

/-- The thread is no member of its team any more, so the release that its leaving may bring leaves it alone. -/
theorem teamLeft_releaseFull (hn : n < 8) (hx : s.getBlock b = some x) (ht : x.getThread t = some th)
    (hr : x.life = .resident ∧ x.mark = none) (hmem : th.member n = true) (hs : th.splitOf n = 0) (hlen : x.teams.length = 8) :
    TeamLeft s ((s.modBlock b (·.leaveTeam t n)).releaseFull b n) b t n x th := by
  have hget : (s.modBlock b (·.leaveTeam t n)).getBlock b = some (x.withoutMember t n th) := by
    rw [State.getBlock_modBlock_self hx, leaveTeam_of_member ht hmem hs]
  have hself : (x.withoutMember t n th).getThread t = some (th.leftTeam n) := Block.getThread_setThread_self ht _
  have hthread : (s.modBlock b (·.leaveTeam t n)).getThread b t = some (th.leftTeam n) := State.getThread_eq_some.2 ⟨_, hget, hself⟩
  have hmemory : s.sameMemory (s.modBlock b (·.leaveTeam t n)) := sameMemory_of_mem_eq (State.modBlock_mem s b _)
  have hteam : (x.withoutMember t n th).team n = (x.team n).less := teams_set_self (by omega) _
  have hothers (k : Nat) (hk : k ≠ n) : (x.withoutMember t n th).team k = x.team k := teams_set_other hk _
  by_cases hfull : (x.withoutMember t n th).barrierFull n = true
  · have hrel := releaseFull_released hget hn hfull
    have hlen' : n < (x.withoutMember t n th).teams.length := by simp [Block.withoutMember, hlen, hn]
    have hout : t ∉ (x.withoutMember t n th).members n := by
      rw [mem_members, hself]
      rintro ⟨q, hq, -, hin⟩
      obtain rfl := Option.some.inj hq
      exact absurd hin (by rw [Thread.member, leftTeam_member]; simp)
    refine ⟨(hrel.others b t fun e => hout e.2).trans hthread, ?_, fun k hk => ?_, ⟨?_, ?_⟩,
      fun pa => (hrel.memory pa).trans (hmemory pa)⟩
    · rw [hrel.field (Block.team · n) fun _ => rfl, nextPhase_team hlen', hteam]
      exact less_members _
    · rw [hrel.field (Block.team · k) fun _ => rfl]
      exact (teams_set_other hk _).trans (hothers k hk)
    · exact (hrel.field Block.life fun _ => rfl).trans hr.1
    · exact (hrel.field Block.mark fun _ => rfl).trans hr.2
  · have hblock := State.block_of_get hget
    rw [releaseFull_none hget (Bool.eq_false_iff.2 hfull)]
    refine ⟨hthread, ?_, fun k hk => ?_, ?_, hmemory⟩
    · rw [hblock, hteam, less_members]
    · rw [hblock, hothers k hk]
    · rw [hblock]
      exact hr

theorem inTeam_member (hth : s.getThread b t = some th) (h : s.inTeam b t n = true) : th.member n = true := by
  rw [State.inTeam, State.thread_of_get hth] at h
  exact (Bool.and_eq_true_iff.1 h).1

theorem advance_teams (th : Thread) (words : Nat) : (th.advance words).teams = th.teams := by
  unfold Thread.advance
  dsimp only
  split <;> rfl

theorem tleaveLeaves {n : Fin 8} (h : Runs (.tleave n) s b t x th) (hin : s.inTeam b t n.val = true) (hs : th.splitOf n.val = 0)
    (hlen : x.teams.length = 8) : ∃ s', exec (.tleave n) s = .next s' ∧ (s'.thread b t).teams.getLsbD n.val = false ∧
      (s'.thread b t).pc = th.pc + 4 ∧ ((s'.block b).team n.val).members = (x.team n.val).members - 1 ∧ s.sameMemory s' ∧
      ∀ k, k ≠ n.val → (s'.block b).team k = x.team k ∧ (s'.thread b t).teams.getLsbD k = th.teams.getLsbD k := by
  have hth := runs_getThread h
  have hleft := teamLeft_releaseFull n.isLt h.block h.thread h.resident (inTeam_member hth hin) hs hlen
  have hbody : tleaveBody n b t s = .ok ((), (s.modBlock b (·.leaveTeam t n.val)).releaseFull b n.val) := by
    rw [tleaveBody, bind_ok (checkTeam_member hin), bind_ok (getT_run hth), if_neg (not_not.2 hs)]
    rfl
  generalize (s.modBlock b (·.leaveTeam t n.val)).releaseFull b n.val = s1 at hleft hbody
  have hret := retire_run hleft.thread hleft.resident
  rw [exec_tleave]
  refine ⟨_, laneExec_falls h rfl hbody, ?_, ?_, ?_, fun pa => (hret.memory pa).trans (hleft.memory pa), fun k hk => ⟨?_, ?_⟩⟩
  · rw [State.thread_of_get hret.thread, advance_teams, leftTeam_member]
    simp
  · rw [State.thread_of_get hret.thread, advance_one_pc]
    rfl
  · rw [onlyThread_field hret (Block.team · n.val) (fun _ => rfl), hleft.members]
  · rw [onlyThread_field hret (Block.team · k) (fun _ => rfl), hleft.teams k hk]
  · rw [State.thread_of_get hret.thread, advance_teams, leftTeam_member]
    simp [hk]

end Tleave

/-! The event (R217). -/

theorem exec_barrierRelease (blk team : Nat) (s : State) : exec (.barrierRelease blk team) s =
    .next (if (s.block blk).inSlot && (s.block blk).barrierFull team then s.releaseBarrier blk team else s) := rfl

theorem barrierReleases {s : State} {b n : Nat} {x : Block} (hx : s.getBlock b = some x) (hslot : x.inSlot = true) (hn : n < 8)
    (hlen : x.teams.length = 8) (hne : x.members n ≠ []) (hall : ∀ u ∈ x.members n, AtBarrier x n u) :
    ∃ s', exec (.barrierRelease b n) s = .next s' ∧ PhaseOver s s' b n x := by
  have hrel := releaseBarrier_released hn hx hne
  rw [exec_barrierRelease, State.block_of_get hx, hslot, barrierFull_iff.2 ⟨hne, hall⟩]
  refine ⟨_, rfl, ?_, fun u th hu hth h1 => ?_, fun u th sc hu hth hw => ?_, hrel.others, hrel.memory⟩
  · exact (hrel.field (Block.team · n) fun _ => rfl).trans (nextPhase_team (by omega))
  · obtain ⟨q, hq, hqrel⟩ := hrel.threads u hu th hth
    exact State.thread_of_get hq ▸ hqrel.split h1
  · obtain ⟨q, hq, hqrel⟩ := hrel.threads u hu th hth
    exact State.thread_of_get hq ▸ hqrel.passed sc hw

/-- Of the parts of O24: arrivals, waits, leaves and releases. -/
theorem barriersArriveAndRelease : BarriersArriveAndRelease := by
  refine ⟨fun n sc s b t x y th u h hy hin hs hw => tbarWaits h hy hin hs hw,
    fun n sc s b t x y th u h hy hin hs hlen hrun hmem hw =>
      ⟨tarriveReleases h hy hin hs hlen hw hrun hmem, tarriveCounts h hy hin hs hlen hw hrun hmem⟩,
    fun n sc s b t x th h hin => ⟨twaitPasses h hin, twaitWaits h hin⟩,
    fun n s b t x th h hin hs hlen => tleaveLeaves h hin hs hlen,
    fun b n s x hx hslot hn hlen hne hall => barrierReleases hx hslot hn hlen hne hall⟩

/-- Settles O24: an arrival is one thread's change, and a release is its members' changes, one after another; the first check of each is
that of its team. -/
theorem barriersArriveReleaseAndTrap : Obligations.BarriersArriveReleaseAndTrap := ⟨barriersArriveAndRelease, teamInstructionsTrap⟩

end Sys2Proof.Machine
end

section
/-! PROOF. Arrivals at an exchange (08_teams.md R212, R220). -/

namespace Sys2Proof.Machine

open Claims

/-! What an exchange instruction reads, and with what it arrives. -/

/-- How an exchange instruction runs in one thread: it reads its operands and arrives with them at the exchange of a team. -/
structure Arrives (i : Instr) (n form : Nat) (v c : Word) (p : Bool) (s s1 : State) (b t : Nat) : Prop where
  standing : SameStanding s s1
  runs : s.inTeam b t n = true → ∃ body, (∀ s, exec i s = arrival i body s) ∧ body b t s = arriveExchange i n form v c p b t s1

section Forms

variable {i : Instr} {s s1 : State} {b t : Nat} {th : Thread} {vs : List (List Word)} {n form : Nat} {v c : Word} {p : Bool}

/-- The arrival of an instruction that names its team and reads one register. -/
theorem arrives_of_one {a : LReg} (hr : Reads b t [(a, 1)] vs s s1)
    (hx : ∀ s, exec i s = arrival i (fun b t => do
      checkTeam b t n
      let v ← src b t a
      arriveExchange i n form v 0 false b t) s) : Arrives i n form (arg vs 0) 0 false s s1 b t := by
  obtain ⟨w, s2, rest, hw, hrest, rfl⟩ := reads_one hr
  obtain ⟨rfl, rfl⟩ := reads_nil hrest
  refine ⟨src_sameStanding hw, fun hin => ⟨_, hx, ?_⟩⟩
  rw [bind_ok (checkTeam_member hin), bind_ok hw]
  rfl

theorem arrives_of_brings (hb : brings i th vs = some (n, form, v, c, p)) (hr : Reads b t (exchangeReads i) vs s s1)
    (hth : s.getThread b t = some th) : Arrives i n form v c p s s1 b t := by
  cases i with
  | tjoin a k m | tred d a m op | tscan d a m e op | matchT d a m =>
    obtain ⟨rfl, rfl, rfl, rfl, rfl⟩ : _ ∧ _ ∧ _ ∧ _ ∧ _ := by simpa only [brings, Option.some.injEq, Prod.mk.injEq] using hb
    exact arrives_of_one hr fun _ => rfl
  | elect d m k =>
    obtain ⟨-, rfl⟩ := reads_nil hr
    obtain ⟨rfl, rfl, rfl, rfl, rfl⟩ : _ ∧ _ ∧ _ ∧ _ ∧ _ := by simpa only [brings, Option.some.injEq, Prod.mk.injEq] using hb
    exact ⟨.refl, fun _ => ⟨_, fun _ => rfl, rfl⟩⟩
  | ballot d k m | vote j k m mode =>
    obtain ⟨-, rfl⟩ := reads_nil hr
    obtain ⟨rfl, rfl, rfl, rfl, rfl⟩ : _ ∧ _ ∧ _ ∧ _ ∧ _ := by simpa only [brings, Option.some.injEq, Prod.mk.injEq] using hb
    exact ⟨.refl, fun _ => ⟨_, fun _ => rfl, bind_ok (getPred_run hth k.val)⟩⟩
  | shfl d a e =>
    obtain ⟨w, s2, rest1, hw, hr1, rfl⟩ := reads_one hr
    obtain ⟨u, s3, rest2, hu, hr2, rfl⟩ := reads_one hr1
    obtain ⟨rfl, rfl⟩ := reads_nil hr2
    obtain ⟨rfl, rfl, rfl, rfl, rfl⟩ : _ ∧ _ ∧ _ ∧ _ ∧ _ := by simpa only [brings, Option.some.injEq, Prod.mk.injEq] using hb
    refine ⟨(src_sameStanding hw).trans (src_sameStanding hu), fun _ => ⟨_, fun _ => rfl, ?_⟩⟩
    rw [bind_ok hw, bind_ok hu]
    rfl
  | _ => cases hb

end Forms

/-! The arrival: a form that differs traps, else the thread waits with its contribution. -/

section Exchange

variable {i : Instr} {n form : Nat} {v c : Word} {p : Bool} {s : State} {b t : Nat}

/-- What an exchange looks for at an arrival: a member that waits with a different form. -/
def Block.formsDiffer (x : Block) (n form : Nat) : Bool :=
  (x.members n).any fun u => match x.waitOf u with | some (.exchange m f _ _ _ _) => m == n && f != form | _ => false

theorem formsDiffer_iff {x : Block} : x.formsDiffer n form = true ↔ MixedForm x n form := by
  simp only [Block.formsDiffer, List.any_eq_true, MixedForm]
  refine exists_congr fun u => ?_
  constructor
  · rintro ⟨hu, h⟩
    split at h
    next m f v c p j hw =>
      obtain ⟨rfl, hf⟩ : m = n ∧ f ≠ form := by simpa using h
      exact ⟨f, v, c, p, j, hu, hw, hf⟩
    · exact absurd h Bool.false_ne_true
  · rintro ⟨f, v, c, p, j, hu, hw, hf⟩
    exact ⟨hu, by simp [hw, hf]⟩

theorem arriveExchange_eq (h : s.inTeam b t n = true) : arriveExchange i n form v c p b t s =
    if (s.block b).formsDiffer n form then .error (.trap .teamMix 0 0) else .ok (.exchange n form v c p i, s) := by
  have hget : getB b s = .ok (s.block b, s) := rfl
  rw [arriveExchange, bind_ok (checkTeam_member h), bind_ok hget]
  by_cases hd : (s.block b).formsDiffer n form = true
  · rw [if_pos hd]
    exact (congrFun (if_pos hd) s).trans rfl
  · rw [if_neg hd]
    exact (congrFun (if_neg hd) s).trans rfl

end Exchange

section Arrival

variable {i : Instr} {n form : Nat} {v c : Word} {p : Bool} {s s1 : State} {b t : Nat} {x : Block} {th : Thread} (h : Runs i s b t x th)
  (ha : Arrives i n form v c p s s1 b t) (hin : s.inTeam b t n = true)
include h ha hin

theorem exchangeWaits {y : Block} {u : Thread} (hy : Resides s1 b t y u) (hm : ¬MixedForm y n form) :
    ∃ s', exec i s = .next s' ∧ OnlyThread s1 s' b t { u with run := .stalled (.exchange n form v c p i), since := s.now } := by
  obtain ⟨hblock, hthread, hres⟩ := hy
  obtain ⟨body, hrun, hbody⟩ := ha.runs hin
  rw [arriveExchange_eq ((ha.standing.inTeam_eq b t n).trans hin), State.block_of_get hblock,
    if_neg (mt formsDiffer_iff.1 hm)] at hbody
  rw [hrun]
  refine ⟨_, laneExec_retires h (bind_ok hbody), ?_⟩
  rw [← ha.standing.now]
  exact retire_stalls hblock hres (onlyThread_stalled hblock hthread hres (.exchange n form v c p i))

theorem mixedFormTraps (hc : CanTrap s b t x th) (hm : MixedForm (s1.block b) n form) :
    ∃ s', exec i s = .next s' ∧ OnlyThread s s' b t (handled s x th .teamMix 0 0 th.pc th.clauseIdx) := by
  obtain ⟨body, hrun, hbody⟩ := ha.runs hin
  rw [arriveExchange_eq ((ha.standing.inTeam_eq b t n).trans hin), if_pos (formsDiffer_iff.2 hm)] at hbody
  rw [hrun]
  exact laneExec_traps h hc (bind_error hbody)

end Arrival

end Sys2Proof.Machine
end

section
/-! PROOF. The last arrival at an exchange completes by its release (08_teams.md R212, R221): O25. -/

namespace Sys2Proof.Machine

open Claims

/-! A participant gets its result (R212). -/

/-- One thread stays where it is in its program, whatever else of it changes, and no other thread changes. -/
structure StaysInPlace (s s' : State) (b t : Nat) : Prop where
  place : ∀ th, s.getThread b t = some th → ∃ th', s'.getThread b t = some th' ∧ th'.pc = th.pc
  others : ∀ c u, ¬(c = b ∧ u = t) → s'.getThread c u = s.getThread c u

namespace StaysInPlace

variable {s s1 s2 : State} {b t : Nat}

theorem of_blocks (h : s1.blocks = s.blocks) : StaysInPlace s s1 b t :=
  ⟨fun th hth => ⟨th, (getThread_of_blocks h b t).trans hth, rfl⟩, fun c u _ => getThread_of_blocks h c u⟩

theorem refl : StaysInPlace s s b t := of_blocks rfl

theorem trans (h : StaysInPlace s s1 b t) (g : StaysInPlace s1 s2 b t) : StaysInPlace s s2 b t := by
  refine ⟨fun th hth => ?_, fun c u n => (g.others c u n).trans (h.others c u n)⟩
  obtain ⟨th1, hth1, hpc1⟩ := h.place th hth
  obtain ⟨th2, hth2, hpc2⟩ := g.place th1 hth1
  exact ⟨th2, hth2, hpc2.trans hpc1⟩

theorem modThread {f : Thread → Thread} (hf : ∀ th, (f th).pc = th.pc) : StaysInPlace s (s.modThread b t f) b t :=
  ⟨fun th hth => ⟨_, State.getThread_modThread_self hth f, hf th⟩, fun _ _ n => State.getThread_modThread_other s n f⟩

end StaysInPlace

theorem clobber_blocks (s : State) (b t : Nat) (r : LReg) : (s.clobber b t r).blocks = s.blocks := by
  obtain h | ⟨c, f, h, -⟩ := clobber_cases s b t r <;> rw [h] <;> rfl

theorem writeReg_pc (th : Thread) (r : LReg) (w : Word) : (th.writeReg r w).pc = th.pc := by cases r <;> rfl

/-- A thread of a block joins a team (R221). -/
def Block.withMember (x : Block) (t n : Nat) (th : Thread) : Block :=
  { x.setThread t { th with teams := th.teams ||| ((1 : BitVec 8) <<< n) } with
      teams := x.teams.set n { x.team n with members := (x.team n).members + 1 } }

/-- The register, the predicate with the flags, and the team of a result, given in turn. -/
def State.giveReg (s : State) (b t : Nat) (q : Result) : State :=
  match q.reg with
  | some (d, w) => (s.clobber b t d).modThread b t (·.writeReg d w)
  | none => s

def State.givePred (s : State) (b t : Nat) (q : Result) : State :=
  s.modThread b t fun th =>
    let th := match q.pred with | some (p, v) => th.setP p v | none => th
    { th with fpstat := th.fpstat ||| w32 q.flags }

def State.giveTeam (s : State) (b t : Nat) (q : Result) : State :=
  match q.join with
  | some n =>
    if (s.thread b t).member n then s
    else s.modBlock b fun x =>
      match x.getThread t with
      | none => x
      | some th => x.withMember t n th
  | none => s

theorem giveResult_eq (s : State) (b t : Nat) (q : Result) :
    s.giveResult b t q = (((s.giveReg b t q).givePred b t q).giveTeam b t q).passWait b t := rfl

section Gives

variable (s : State) (b t : Nat) (q : Result)

theorem giveReg_place : StaysInPlace s (s.giveReg b t q) b t := by
  unfold State.giveReg
  split
  · exact .trans (.of_blocks (clobber_blocks s b t _)) (.modThread fun th => writeReg_pc th _ _)
  · exact .refl

theorem givePred_place : StaysInPlace s (s.givePred b t q) b t := by
  refine .modThread fun th => ?_
  dsimp only
  split <;> rfl

theorem giveTeam_place : StaysInPlace s (s.giveTeam b t q) b t := by
  unfold State.giveTeam
  split
  next n _ =>
    split
    · exact .refl
    · cases hx : s.getBlock b with
      | none =>
        rw [State.modBlock_none hx]
        exact .refl
      | some x =>
        have hget (u : Nat) : s.getThread b u = x.getThread u := by rw [State.getThread, hx, Option.bind_some]
        refine ⟨fun th hth => ?_, fun c u hn => ?_⟩
        · have ht : x.getThread t = some th := (hget t).symm.trans hth
          refine ⟨{ th with teams := th.teams ||| ((1 : BitVec 8) <<< n) }, ?_, rfl⟩
          refine State.getThread_eq_some.2 ⟨_, State.getBlock_modBlock_self hx _, ?_⟩
          rw [ht]
          exact Block.getThread_setThread_self ht _
        · by_cases hc : c = b
          · subst hc
            rw [State.getThread, State.getBlock_modBlock_self hx, hget]
            dsimp only [Option.bind_some]
            split
            · rfl
            · exact x.getThread_setThread_other (fun e => hn ⟨rfl, e⟩) _
          · rw [State.getThread, State.getBlock_modBlock_other s hc, State.getThread]
  · exact .refl

theorem givesResult_place : StaysInPlace s (((s.giveReg b t q).givePred b t q).giveTeam b t q) b t :=
  ((giveReg_place s b t q).trans (givePred_place _ b t q)).trans (giveTeam_place _ b t q)

/-- A participant that gets its result is past its instruction. -/
theorem giveResult_passes {th : Thread} (hth : s.getThread b t = some th) :
    ∃ th', (s.giveResult b t q).getThread b t = some th' ∧ th'.run = .ready ∧ th'.pc = th.pc + 4 := by
  obtain ⟨th1, hth1, hpc⟩ := (givesResult_place s b t q).place th hth
  exact ⟨_, (onlyThread_passWait hth1).thread, rfl, (passed_pc _ th1).trans (congrArg (· + 4) hpc)⟩

theorem passWait_others {c u : Nat} (h : ¬(c = b ∧ u = t)) : (s.passWait b t).getThread c u = s.getThread c u := by
  unfold State.passWait State.dropLatches
  dsimp only
  split <;> exact State.getThread_modThread_other s h _

theorem giveResult_others {c u : Nat} (h : ¬(c = b ∧ u = t)) : (s.giveResult b t q).getThread c u = s.getThread c u := by
  rw [giveResult_eq, passWait_others _ b t h, (givesResult_place s b t q).others c u h]

end Gives

theorem giveResults_others {b t : Nat} {l : List (Nat × Result)} (h : ∀ e ∈ l, e.1 ≠ t) (s : State) :
    (l.foldl (fun (s : State) q => s.giveResult b q.1 q.2) s).getThread b t = s.getThread b t :=
  List.foldlRecOn (motive := fun s' : State => s'.getThread b t = s.getThread b t) l _ rfl fun s' hs' e he =>
    (giveResult_others s' b e.1 e.2 fun hbt => h e he hbt.2.symm).trans hs'

/-- A participant passes its instruction once, in a release that gives each its own result. -/
theorem giveResults_passes {b t : Nat} {l : List (Nat × Result)} (hl : (l.map Prod.fst).Nodup) (ht : t ∈ l.map Prod.fst) {s : State}
    {th : Thread} (hth : s.getThread b t = some th) :
    ∃ th', (l.foldl (fun (s : State) q => s.giveResult b q.1 q.2) s).getThread b t = some th' ∧
      th'.run = .ready ∧ th'.pc = th.pc + 4 := by
  obtain ⟨⟨k, q⟩, hmem, hk⟩ := List.mem_map.1 ht
  obtain rfl : t = k := hk.symm
  obtain ⟨l1, l2, rfl⟩ := List.append_of_mem hmem
  rw [List.map_append, List.map_cons, List.nodup_append] at hl
  obtain ⟨-, hl2, hl12⟩ := hl
  have h1 (e : Nat × Result) (he : e ∈ l1) : e.1 ≠ t := hl12 _ (List.mem_map_of_mem he) _ List.mem_cons_self
  have h2 (e : Nat × Result) (he : e ∈ l2) : e.1 ≠ t := ne_of_mem_of_not_mem (List.mem_map_of_mem he) (List.nodup_cons.1 hl2).1
  rw [List.foldl_append, List.foldl_cons, giveResults_others h2]
  exact giveResult_passes _ b t q ((giveResults_others h1 s).trans hth)

/-! Contributions (R212), and the condition of a TJOIN (R221). -/

/-- What a thread that waits in a team's exchange brought. -/
def Block.contribution (x : Block) (n t : Nat) : Option Contribution :=
  match x.waitOf t with
  | some (.exchange m _ value ctl pred instr) => if m = n then some { tid := t, value, ctl, pred, instr } else none
  | _ => none

/-- What the members of a team brought to its exchange, by rank. -/
def Block.contributions (x : Block) (n : Nat) : List Contribution := (x.members n).filterMap (x.contribution n)

/-- Does no thread stand in an arrival of a team? -/
def Block.teamFree (x : Block) (n : Nat) : Bool :=
  (x.team n).arrived == 0 && (List.range x.threads.length).all fun t => match x.waitOf t with | some w => !waitsIn n w | none => true

/-- May a contribution be part of a release: a TJOIN's team has to be free? -/
def Block.mayJoin (x : Block) (c : Contribution) : Bool :=
  match c.instr with
  | .tjoin _ m _ => x.teamFree m.val
  | _ => true

/-- The results of a release, each with the thread that gets it. -/
def exchangeResults (cs : List Contribution) : List (Nat × Result) := cs.zipIdx.map fun q => (q.1.tid, resultOf cs q.2 q.1)

theorem exec_exchangeRelease (b n : Nat) (s : State) : exec (.exchangeRelease b n) s =
    .next (if (s.block b).inSlot && !((s.block b).members n).isEmpty &&
          ((s.block b).contributions n).length == ((s.block b).members n).length && ((s.block b).contributions n).all (s.block b).mayJoin
      then (exchangeResults ((s.block b).contributions n)).foldl (fun (s : State) q => s.giveResult b q.1 q.2) s else s) := rfl

theorem exchangeResults_fst (cs : List Contribution) : (exchangeResults cs).map Prod.fst = cs.map (·.tid) := by
  rw [exchangeResults, List.map_map]
  exact (List.map_map (f := Prod.fst) (g := Contribution.tid)).symm.trans (by rw [List.zipIdx_map_fst])

section Contributions

variable {x : Block} {n : Nat}

theorem contribution_eq_some {t : Nat} {q : Contribution} :
    x.contribution n t = some q ↔ q.tid = t ∧ ∃ f, x.waitOf t = some (.exchange n f q.value q.ctl q.pred q.instr) := by
  unfold Block.contribution
  constructor
  · intro h
    split at h
    next m f v c p j hw =>
      split_ifs at h with hm
      subst hm
      obtain rfl := Option.some.inj h
      exact ⟨rfl, f, hw⟩
    · cases h
  · rintro ⟨rfl, f, hw⟩
    simp [hw]

theorem teamFree_iff : x.teamFree n = true ↔ TeamFree x n := by
  simp only [Block.teamFree, Bool.and_eq_true, beq_iff_eq, List.all_eq_true, List.mem_range, TeamFree]
  refine and_congr Iff.rfl (forall₂_congr fun u _ => ?_)
  split
  next w hw => simp [hw]
  next hw => simp [hw]

/-- Every member brings something: the contributions are the members', in their order. -/
theorem contributions_tids (hall : ∀ k ∈ x.members n, ∃ f v c p j, x.waitOf k = some (.exchange n f v c p j)) :
    (x.contributions n).map (·.tid) = x.members n := by
  have hlist (l : List Nat) (hl : ∀ k ∈ l, ∃ q, x.contribution n k = some q) : (l.filterMap (x.contribution n)).map (·.tid) = l := by
    induction l with
    | nil => rfl
    | cons k l ih =>
      obtain ⟨q, hq⟩ := hl k List.mem_cons_self
      rw [List.filterMap_cons_some hq, List.map_cons, ih fun j hj => hl j (List.mem_cons_of_mem _ hj), (contribution_eq_some.1 hq).1]
  refine hlist _ fun k hk => ?_
  obtain ⟨f, v, c, p, j, hw⟩ := hall k hk
  exact ⟨⟨k, v, c, p, j⟩, contribution_eq_some.2 ⟨rfl, f, hw⟩⟩

end Contributions

/-- Every member waits in the exchange of a team and every team joined is free: the exchange is released, and a member passes its
instruction. -/
theorem exchangeReleases {s : State} {b n t : Nat} {x : Block} {th : Thread} (hx : s.getBlock b = some x) (hslot : x.inSlot = true)
    (hall : ∀ k ∈ x.members n, ∃ f v c p j, x.waitOf k = some (.exchange n f v c p j))
    (hfree : ∀ k ∈ x.members n, ∀ f v c p a m q, x.waitOf k = some (.exchange n f v c p (.tjoin a m q)) → TeamFree x m.val)
    (hm : t ∈ x.members n) (hth : x.getThread t = some th) :
    ∃ s', exec (.exchangeRelease b n) s = .next s' ∧ (s'.thread b t).run = .ready ∧ (s'.thread b t).pc = th.pc + 4 := by
  have htids := contributions_tids hall
  have hlen : (x.contributions n).length = (x.members n).length := by rw [← htids, List.length_map]
  have hok : (x.contributions n).all x.mayJoin = true := by
    refine List.all_eq_true.2 fun c hc => ?_
    obtain ⟨k, hk, hck⟩ := List.mem_filterMap.1 hc
    obtain ⟨-, f, hw⟩ := contribution_eq_some.1 hck
    unfold Block.mayJoin
    split
    next a m q hj =>
      rw [hj] at hw
      exact teamFree_iff.2 (hfree k hk f _ _ _ a m q hw)
    · rfl
  have hfst := (exchangeResults_fst (x.contributions n)).trans htids
  obtain ⟨th', hth', hrun, hpc⟩ := giveResults_passes (b := b) (s := s) (hfst ▸ members_nodup x n) (hfst ▸ hm)
    (State.getThread_eq_some.2 ⟨x, hx, hth⟩)
  have hnonempty : (x.members n).isEmpty = false := List.isEmpty_eq_false_iff.2 (List.ne_nil_of_mem hm)
  rw [exec_exchangeRelease, State.block_of_get hx, if_pos]
  · exact ⟨_, rfl, by rw [State.thread_of_get hth', hrun], by rw [State.thread_of_get hth', hpc]⟩
  · rw [hslot, hnonempty, hlen, hok, beq_self_eq_true]
    rfl

section LastArrival

variable {i : Instr} {n form : Nat} {v c : Word} {p : Bool} {s s' : State} {b t now : Nat} {y : Block} {u : Thread}

/-- The last member of a team to arrive at its exchange (R212). -/
theorem lastArrivalReleases (hy : Resides s b t y u) (hin : s.inTeam b t n = true)
    (ha : OnlyThread s s' b t { u with run := .stalled (.exchange n form v c p i), since := now })
    (hall : ∀ k ∈ y.members n, k ≠ t → ∃ v' c' p' j, y.waitOf k = some (.exchange n form v' c' p' j))
    (hfree : ∀ a m q, (i = .tjoin a m q ∨ ∃ k v' c' p', y.waitOf k = some (.exchange n form v' c' p' (.tjoin a m q))) →
      TeamFree y m.val ∧ m.val ≠ n) :
    ∃ s'', exec (.exchangeRelease b n) s' = .next s'' ∧ (s''.thread b t).run = .ready ∧ (s''.thread b t).pc = u.pc + 4 := by
  obtain ⟨hblock, hthread, hres⟩ := hy
  obtain ⟨x, hx, hxt⟩ := State.getThread_eq_some.1 ha.thread
  have hfield {α : Type} (f : Block → α) (hf : ∀ z : Block, f { z with threads := [] } = f z) : f x = f y := by
    rw [← State.block_of_get hx, onlyThread_field ha f hf, State.block_of_get hblock]
  have hother (k : Nat) (hk : k ≠ t) : x.getThread k = y.getThread k := by
    have e := ha.others b k fun e => hk e.2
    rwa [State.getThread, hx, State.getThread, hblock] at e
  have hwaits (k : Nat) (hk : k ≠ t) : x.waitOf k = y.waitOf k := by rw [Block.waitOf, hother k hk, Block.waitOf]
  have hself : x.waitOf t = some (.exchange n form v c p i) := (waitOf_iff hxt).2 rfl
  have hmem (k : Nat) (hk : k ≠ t) (hkm : k ∈ x.members n) : k ∈ y.members n := by
    rwa [mem_members, hother k hk, ← mem_members] at hkm
  have hin' : u.member n = true := inTeam_member (State.getThread_eq_some.2 ⟨y, hblock, hthread⟩) hin
  have hm : t ∈ x.members n := mem_members.2 ⟨_, hxt, by simp, hin'⟩
  refine exchangeReleases (th := { u with run := .stalled (.exchange n form v c p i), since := now }) hx ?_ (fun k hk => ?_)
    (fun k hk f v' c' p' a m q hw => ?_) hm hxt
  · rw [hfield Block.inSlot fun _ => rfl, Block.inSlot, hres.1]
    rfl
  · by_cases hkt : k = t
    · exact ⟨form, v, c, p, i, hkt ▸ hself⟩
    · rw [hwaits k hkt]
      exact ⟨form, hall k (hmem k hkt hk) hkt⟩
  · have hjoin : TeamFree y m.val ∧ m.val ≠ n := by
      by_cases hkt : k = t
      · subst hkt
        obtain ⟨-, -, -, -, -, hi⟩ := Wait.exchange.inj (Option.some.inj (hself.symm.trans hw))
        exact hfree a m q (.inl hi)
      · obtain ⟨v1, c1, p1, j1, hw1⟩ := hall k (hmem k hkt hk) hkt
        rw [hwaits k hkt] at hw
        obtain ⟨-, hf, -⟩ := Wait.exchange.inj (Option.some.inj (hw1.symm.trans hw))
        subst hf
        exact hfree a m q (.inr ⟨k, v', c', p', hw⟩)
    obtain ⟨⟨hnone, hno⟩, hmn⟩ := hjoin
    refine ⟨(hfield (fun z => (z.team m.val).arrived) fun _ => rfl).trans hnone, fun k _ w hw => ?_⟩
    by_cases hkt : k = t
    · subst hkt
      obtain rfl := Option.some.inj (hself.symm.trans hw)
      simpa [waitsIn] using Ne.symm hmn
    · rw [hwaits k hkt] at hw
      obtain ⟨q, hq, -⟩ := waitOf_eq_some.1 hw
      exact hno k (thread_lt hq) w hw

end LastArrival

/-- Settles O25: an exchange instruction reads and arrives; the member that waits last finds every other one waiting, and the release gives
each its result once. -/
theorem exchangesArriveWithTheirContribution : Obligations.ExchangesArriveWithTheirContribution := by
  intro i s s1 b t x th vs n form v c p h hr hb hin
  have ha := arrives_of_brings hb hr (runs_getThread h)
  refine ⟨fun y u hy hm => ?_, fun hm hc => mixedFormTraps h ha hin hc hm⟩
  obtain ⟨s', hexec, hwait⟩ := exchangeWaits h ha hin hy hm
  exact ⟨s', hexec, hwait, lastArrivalReleases hy ((ha.standing.inTeam_eq b t n).trans hin) hwait⟩

end Sys2Proof.Machine
end
